-- ==== Sys2Proof/Word.lean ====
section
/-!
DEFINITION. The word types of the LK1620 model and their plainest arithmetic: bytes, 32-bit words, 64-bit words and
the little-endian byte order of R6.
-/
namespace Sys2Proof

/-- One byte. -/
abbrev Byte := BitVec 8
/-- One 32-bit word: a register, an accumulator element, a vector lane (R59, R73). -/
abbrev Word := BitVec 32
/-- One 64-bit word: an instruction, a generator state, an address field (R76, R85, R121). -/
abbrev DWord := BitVec 64

end Sys2Proof
end

