-- ==== Sys2Proof/Syntax.lean ====
section
/-!
DEFINITION. The commands of the block: one constructor of Instr per row of spec/opcode_table.json, with the row's
operands. An operand is what comes from outside the die with the step: an address, a value, a measurement, a fault that
a detector meets, a frame or flit on a wire, the host's own memory writes.
-/
namespace Sys2Proof

/-- The two ways into the management register file (R12, R324): the Icpiven register port and the BAR0 mirror. -/
inductive Path where
  | port
  | bar0
deriving DecidableEq, Repr

/-- The fields of a vector instruction (Table VEC-3), OP apart. -/
structure VInst where
  vd : Nat
  va : Nat
  vb : Nat
  vc : Nat
  mask : Nat
  rm : Nat
  sub : Nat
  imm : Nat
deriving DecidableEq, Repr

/-- What a SECDED detector finds in a store line that the step reads (R270, R271). -/
inductive EccKind where
  | ce      -- corrected; the re-read is clean
  | hardCe  -- corrected; the re-read corrects the same word again
  | ue      -- uncorrectable
deriving DecidableEq, Repr

/-- One store error met by a read: the line's address after translation, the word 0–7, and its kind. -/
structure Ecc where
  addr : Nat
  word : Nat
  kind : EccKind
deriving DecidableEq, Repr

/-- What has come from outside the die since the host last spoke: bytes that it wrote into its own memory, lines of it
that it poisoned (R157, R167), and store words whose cells the next read by a command finds disturbed (R270). -/
structure HostUpd where
  cells : List (Nat × Byte)
  poison : List Nat
  flaws : List Ecc := []
deriving DecidableEq, Repr

/-- What the crest's own detectors find during a row's pass (R61, R69). -/
inductive PassEvent where
  | clean
  | residue (mismatches : Nat)   -- 1: a match on the first replay; 2: on the second; 3: both replays mismatch
  | parity
deriving DecidableEq, Repr

/-- A Trelkai flit as received (Tables PEER-3, R191). -/
structure Flit where
  typ : Nat
  seq : Nat
  ack : Nat
  nak : Bool
  fwd : Bool
  src : Nat
  dst : Nat
  lines : Nat
  crData : Nat
  crFlag : Bool
  crMgmt : Bool
  crRelay : Nat
  sid : Nat
  place : Nat
  body : List Byte
  crc : Word
deriving DecidableEq, Repr

/-- A register that REGISTER_WRITE reaches (R8): a word of the management file by path, a queue page register, the
mailbox, the bias control block, or a word of the MSI-X table. -/
inductive RegTarget where
  | mgmt (p : Path) (addr : Nat)
  | queue (q off : Nat)
  | mailbox (off : Nat)
  | bias (off : Nat)
  | msix (vec word : Nat)
deriving DecidableEq, Repr

/-- One regulator's sample (R233): mA in, mV out, mA of each phase. -/
structure RegMeas where
  r : Nat
  iin : Nat
  vout : Nat
  ph : List Nat
deriving DecidableEq, Repr

/-- One crest's 2 µs window (R257): counters a0–a7 with 16 fraction bits. -/
structure WinMeas where
  p : Nat
  a : List Nat
  busy : List ((Nat × Nat) × Nat)   -- busy CCLK of each command (queue, tag) the crest held in the window
deriving DecidableEq, Repr

/-- A unit that power control gates (R228). -/
inductive GateUnit where
  | crestNap (p : Nat)
  | crestOff (p : Nat)
  | sliceRetain (s : Nat)
  | sliceOff (s : Nat)
deriving DecidableEq, Repr

/-- Where a transfer through the cols delivers its line (R278). -/
inductive Delivery where
  | crest (q t : Nat)   -- to a crest, for its command (queue, tag)
  | slice
  | host
deriving DecidableEq, Repr

/-- A transfer into a col: the line's address, where it is delivered, and how long its replay took in µs (R278). -/
structure Transfer where
  addr : Nat
  dest : Delivery
  waited : Nat
deriving DecidableEq, Repr

/-- What reads accumulator elements, with what their parity check says (R61). -/
structure Checked (α : Type) where
  it : α
  parityBad : Bool
deriving DecidableEq, Repr

/-- What ends a hold, with how long it held, in µs. -/
structure Ended (α : Type) where
  it : α
  waited : Nat
deriving DecidableEq, Repr

/-- What the host returns for a page that goes to device bias: bytes of lines that it held modified, which of those lines
(addresses / 64) come poisoned, and how long the change took, in µs (R181, R186). -/
structure Returned where
  it : List (Nat × Byte)
  poison : List Nat
  waited : Nat
deriving DecidableEq, Repr

/-- A module whose link event starts a retrain, with the CRC retries of its adapter since it last trained (R170, R171). -/
structure ModEvent where
  m : Nat
  retries : Nat
deriving DecidableEq, Repr

/-- The ADDR and the CRC of a SYNC frame (Table SB-6). -/
structure SyncFrame where
  addr : Nat
  crc : Nat
deriving DecidableEq, Repr

/-- The commands, in the table's order. `q` is a queue, `t` a tag, `p` a physical crest, `k` a peer port, `r` a
regulator, `s` a slice, `h` the host's own memory writes. -/
inductive Instr where
  -- queue commands: the dispatcher takes queue q's next entry, of this opcode, and carries it out
  | gemm (q : Nat) (h : HostUpd)
  | chain (q : Nat) (h : HostUpd)
  | move (q : Nat) (h : HostUpd)
  | convert (q : Nat) (h : HostUpd)
  | send (q : Nat) (h : HostUpd)
  | fence (q : Nat) (h : HostUpd)
  | signal (q : Nat) (h : HostUpd)
  | wait (q : Nat) (h : HostUpd)
  | loadprog (q : Nat) (h : HostUpd)
  | loadprogUnload (q : Nat) (h : HostUpd)
  | marker (q : Nat) (h : HostUpd)
  | reduceRecv (q : Nat) (h : HostUpd)
  -- the dispatcher
  | entryFetch (q : Nat) (h : HostUpd) (waited : Nat)
  | completionRecord (q t : Nat) (waited : Nat)
  | overflowRecordPost (q : Nat)
  | irqTimer (q : Nat)
  | preempt (p : Nat)
  | scoreboardRelease (p : Nat) (waited : Nat)
  | lentCrestRecall (p : Nat) (waited : Nat)
  -- the crest
  | rowPass (p : Nat) (ev : PassEvent) (ecc : List Ecc)
  | weightBankFill (p : Nat) (waited : Nat) (ecc : List Ecc)
  | tileEpilogue (p : Nat) (ecc : List Ecc) (parityBad : Bool)
  | invocationStart (p : Nat)
  -- the vector engine
  | vNop (p : Nat) (i : VInst)
  | vEnd (p : Nat) (e : Checked VInst)
  | vBr (p : Nat) (i : VInst)
  | vLoop (p : Nat) (i : VInst)
  | vSalu (p : Nat) (i : VInst)
  | vVget (p : Nat) (i : VInst)
  | vBcast (p : Nat) (i : VInst)
  | vLaneid (p : Nat) (i : VInst)
  | vFadd (p : Nat) (i : VInst)
  | vFsub (p : Nat) (i : VInst)
  | vFmul (p : Nat) (i : VInst)
  | vFma (p : Nat) (i : VInst)
  | vFmax (p : Nat) (i : VInst)
  | vFmin (p : Nat) (i : VInst)
  | vFun (p : Nat) (i : VInst)
  | vFcmp (p : Nat) (i : VInst)
  | vIalu (p : Nat) (i : VInst)
  | vIcmp (p : Nat) (i : VInst)
  | vSel (p : Nat) (i : VInst)
  | vCvt (p : Nat) (i : VInst)
  | vCvtf (p : Nat) (i : VInst)
  | vLda (p : Nat) (i : VInst) (parityBad : Bool)
  | vSta (p : Nat) (i : VInst)
  | vLds (p : Nat) (i : VInst) (ecc : List Ecc)
  | vStc (p : Nat) (i : VInst)
  | vStp (p : Nat) (i : VInst)
  | vRed (p : Nat) (i : VInst)
  | vFn (p : Nat) (i : VInst)
  -- programs
  | progLoadDone (p handle : Nat)
  | progReload (p : Nat) (waited : Nat)
  -- peers, waits and atomics
  | sendFlag (q t stage : Nat)
  | channelTileRetry (q t sid tile : Nat)
  | sendTmo (q t : Nat)
  | recvTileAdd (q : Nat) (e : Checked Nat)
  | recvTmo (q t : Nat)
  | waitPoll (q t : Nat) (h : HostUpd)
  | waitTmo (q t : Nat) (h : HostUpd)
  | atomicWriteback (addr : Nat)
  -- queue pages and registers
  | qDoorbell (q tail : Nat) (h : HostUpd)
  | queueEnable (q : Nat)
  | queueDisable (q : Nat)
  | resume (q : Nat)
  | qCqHead (q v : Nat)
  | registerWrite (r : RegTarget) (v : Nat)
  -- the firmware mailbox
  | identify
  | fwTransfer
  | fwActivate
  | logRead
  -- bias control
  | toHost
  | toDevice
  | biasPageDone (returned : Returned)
  -- management commands
  | ptCreate (path : Path) (part : Nat)
  | ptReshape (path : Path) (part : Nat)
  | ptDestroy (path : Path) (part : Nat)
  | ptReset (path : Path) (part : Nat)
  | quiesceDone
  | quiesceTmo
  | drainDone
  | sliceZeroiseDone
  | rpRetire (path : Path) (kind unit : Nat)
  | fwSbOpen (path : Path)
  | fwSbActivate (path : Path)
  | resetCold (path : Path)
  | resetWarm (path : Path)
  | resetCrest (path : Path) (l : Nat)
  | resetLink (path : Path) (target : Nat)
  | hostLinkReset
  -- indirect and debug access; `w` is the word written, none for a read
  | mgIndData (path : Path) (w : Option Word) (reachable : Bool)
  | mgIndDataInc (path : Path) (w : Option Word) (reachable : Bool)
  | dbgData (path : Path) (w : Option Word)
  | dbgDataInc (path : Path) (w : Option Word)
  | dbgHaltReq (path : Path) (v : Nat)
  | crestHalt (p : Nat)
  | seDebugReq (path : Path) (level : Nat)
  | ptSel (path : Path) (v : Nat)
  | learnClear (path : Path)
  | pwEnergyLoRead (path : Path)
  -- the register port
  | sbRead (addr crc : Nat) (reachable : Bool)
  | sbWrite (addr data crc : Nat) (reachable : Bool)
  | sbReadInc (addr crc : Nat) (reachable : Bool)
  | syncArm (crc : Nat)
  | syncDisarm (frame : SyncFrame)
  | portIdle
  | alignPulse (lowEdges : Nat)
  | syncTmo
  -- IAL, supply and reset inputs
  | ialFrame (slots : Nat)
  | supplyAlarmRelease
  | capDropRelease
  | alwaysOnReset
  | refclkInvalid
  | alwaysOnRelease
  | strapDecode (ickUp ickDown idaUp idaDown : Nat)
  | vinLow
  | vinLowClear
  | vinHigh
  -- boot
  | storeBistDone (failedRows : List (Nat × Nat))
  | crestBistGroupDone (group : Nat) (failed : List Nat)
  | fwWait
  | fwVerifyDone
  | fwHandover
  | fwRunReady
  | watchdog
  -- the sequencer and power control
  | seqRestart
  | seqTimeout
  | capLoop
  | levelSwitch (p : Nat)
  | estimatorWindow (ws : List WinMeas) (moved : List ((Nat × Nat) × Nat))
  | quietSlot (p : Nat)
  | quietSlotEnd (p watts16 : Nat)
  | calibStale
  | sensorRead (i : Nat) (v : Int)
  | thermalStep
  | tripRecover (waited : Nat)
  | droop (p : Nat)
  | droopRelease (p : Nat)
  | slackReport (slack : Int)
  | groupCapRedistribute
  -- regulators
  | regSample (ms : List RegMeas) (vin : Nat)
  | phaseWindow (r : Nat) (onTime : List Nat) (current : List Nat)
  | senseFail (r suspect : Nat)
  | diagCycle
  | softstart (r : Nat)
  | softstartEnd (r vout : Nat)
  | softstartLimitFail (r : Nat)
  | retryWaitEnd (r : Nat)
  | regStop (r : Nat) (overVoltage : Bool)
  | crestWakeDone (p waited : Nat)
  | sliceWakeDone (s waited : Nat)
  -- faults and repair
  | spareBind
  | rowSpare (s : Nat)
  | rowTestDone (s : Nat) (pass : Bool)
  | scrubRead (s line : Nat) (ecc : Option EccKind) (word : Nat)
  | colReplay (c : Nat) (clean : Bool) (x : Transfer)
  -- the host port
  | hostMemRead (addr : Nat) (ecc : Option EccKind) (word : Nat)
  | hostMemWrite (addr : Nat) (bytes : List (Option Byte)) (poison : Bool)
  | snpdata (line : Nat)
  | snpinv (line : Nat)
  | snpcur (line : Nat)
  | evictionGrant (line : Ended Nat)
  | hostRetrain (e : ModEvent)
  | hostRetrainDone (m : Nat) (ok : Bool) (reach : Nat) (repaired : Ended Bool)
  -- Trelkai
  | flitSend (k : Nat)
  | dataStore (k : Nat) (f : Flit)
  | dataChannel (k : Nat) (f : Flit)
  | flag (k : Nat) (f : Flit)
  | flagAck (k : Nat) (f : Flit)
  | hello (k : Nat) (f : Flit)
  | noHello (k : Nat)
  | linkmap (k : Nat) (f : Flit)
  | resyncReq (k : Nat) (f : Flit)
  | resyncRsp (k : Nat) (f : Flit)
  | chClosed (k : Nat) (f : Flit)
  | slack (k : Nat) (f : Flit)
  | groupCap (k : Nat) (f : Flit)
  | credit (k : Nat) (f : Flit)
  | idle (k : Nat) (f : Flit)
  | badFlit (k : Nat) (f : Flit)
  | relayForward (k : Nat)
  | replayTimeout (k : Nat)
  | peerRetrain (k : Nat)
  | peerRetrainDone (k : Nat) (ok : Bool) (mode : Nat) (repairs : Nat)
  | peerLinkLost (k : Nat)
  -- the rest of the table
  | powerGating (u : GateUnit)
  | rowCopyEnd (s : Ended Nat)
  | sequencerAdoptsState
  | unlistedMsg (k : Nat) (f : Flit)
deriving DecidableEq, Repr

end Sys2Proof
end

