-- ==== Sys2Proof/Decode.lean ====
section
/-!
DEFINITION. The commands that a word of spec/opcode_table.json spells. The table gives no row any bits: commands arrive
as register accesses, queue entries and events, so no word spells one.
-/
namespace Sys2Proof

/-- No row of the table has bits, so a word spells no command. -/
def decodeTableWord (_nbits _w : Nat) : Option Instr := none

end Sys2Proof
end

