-- ==== Sys2Proof/Machine/Tbl.lean ====
section
/-!
DEFINITION. Sparse tables: plain data for every array of the spec (queues, slices, memories, register files). A table
lists the entries that differ from a default, by strictly rising key, so that equal contents are equal data.
-/
namespace Sys2Proof.Machine

/-- A sparse table: the entries that differ from the default, keys strictly rising. -/
abbrev Tbl (α : Type) := List (Nat × α)

/-- The entry at key `k`, or the default `d`. -/
def tget {α : Type} (d : α) : Tbl α → Nat → α
  | [], _ => d
  | (j, v) :: t, k => if j = k then v else tget d t k

/-- `t` without key `k`. -/
def terase {α : Type} (t : Tbl α) (k : Nat) : Tbl α := t.filter (fun e => e.1 != k)

/-- `t` with `(k, v)` put before the first greater key. -/
def tinsert {α : Type} (k : Nat) (v : α) : Tbl α → Tbl α
  | [] => [(k, v)]
  | (j, w) :: t => if k < j then (k, v) :: (j, w) :: t else (j, w) :: tinsert k v t

/-- `t` with `v` at key `k`; writing the default removes the entry, which keeps the canonical form. -/
def tset {α : Type} [DecidableEq α] (d : α) (t : Tbl α) (k : Nat) (v : α) : Tbl α :=
  if v = d then terase t k else tinsert k v (terase t k)

/-- The entry at `k` changed by `f`. -/
def tmod {α : Type} [DecidableEq α] (d : α) (t : Tbl α) (k : Nat) (f : α → α) : Tbl α :=
  tset d t k (f (tget d t k))

/-- The canonical form: keys strictly rising, no entry equal to the default. -/
def twf {α : Type} [DecidableEq α] (d : α) : Tbl α → Bool
  | [] => true
  | [(_, v)] => decide (v ≠ d)
  | (j, v) :: (k, w) :: t => decide (v ≠ d) && decide (j < k) && twf d ((k, w) :: t)

/-- The keys listed. -/
def tkeys {α : Type} (t : Tbl α) : List Nat := t.map (·.1)

/-- A list of values written from key `k` on. -/
def tsetFrom {α : Type} [DecidableEq α] (d : α) (t : Tbl α) (k : Nat) : List α → Tbl α
  | [] => t
  | v :: vs => tsetFrom d (tset d t k v) (k + 1) vs

/-- `n` values read from key `k` on. -/
def tgetFrom {α : Type} (d : α) (t : Tbl α) (k n : Nat) : List α :=
  (List.range n).map (fun i => tget d t (k + i))

/-- Every entry whose key lies in `[lo, hi)` dropped: that range reads as the default. -/
def tclear {α : Type} (t : Tbl α) (lo hi : Nat) : Tbl α :=
  t.filter (fun e => decide (e.1 < lo) || decide (hi ≤ e.1))

/-- `n` bytes of `v`, least significant first (R6). -/
def toBytes (v : Nat) : Nat → List (BitVec 8)
  | 0 => []
  | n + 1 => BitVec.ofNat 8 v :: toBytes (v / 256) n

/-- The number that little-endian bytes spell (R6). -/
def ofBytes : List (BitVec 8) → Nat
  | [] => 0
  | b :: bs => b.toNat + 256 * ofBytes bs

/-- Bits `[hi:lo]` of `v` as a number (R6). -/
def bits (v hi lo : Nat) : Nat := (v / 2 ^ lo) % 2 ^ (hi + 1 - lo)

/-- Bit `i` of `v`. -/
def bit (v i : Nat) : Bool := v.testBit i

/-- `v` with bits `[hi:lo]` replaced by `x`. -/
def setBits (v hi lo x : Nat) : Nat :=
  v % 2 ^ lo + 2 ^ lo * (x % 2 ^ (hi + 1 - lo)) + 2 ^ (hi + 1) * (v / 2 ^ (hi + 1))

/-- The `n` low bits of `v` read as two's complement. -/
def sext (n v : Nat) : Int :=
  let w := v % 2 ^ n
  if w < 2 ^ (n - 1) then (w : Int) else (w : Int) - (2 ^ n : Nat)

/-- An integer modulo 2^n. -/
def wrap (n : Nat) (i : Int) : Nat := (i % ((2 ^ n : Nat) : Int)).toNat

/-- The set bits of `v` below `n`, in increasing order. -/
def maskList (v n : Nat) : List Nat := (List.range n).filter (fun i => v.testBit i)

/-- ceil(a / b). -/
def ceilDiv (a b : Nat) : Nat := (a + b - 1) / b

end Sys2Proof.Machine
end

