-- ==== Sys2Proof/Machine/Float.lean ====
section
/-!
DEFINITION. Exact values and their rounding: binary32 arithmetic (R46, R79), its rounding modes (Table VEC-4) and the
stochastic rounding step (R84). Every operation is exact on integers and rounds once.
-/
namespace Sys2Proof.Machine

/-- A rounding method: Table VEC-4, stochastic rounding with `b` random bits worth `rnd` (R84), and rounding away from
zero, which stands for stochastic rounding in the scale check of R42. -/
inductive RM where
  | rne | rtz | rup | rdn
  | sr (b rnd : Nat)
  | raz
deriving DecidableEq, Repr

/-- A number as the formats hold it: a signed zero, a finite value (−1)^neg × m × 2^x with m > 0, an infinity, NaN. -/
inductive Fp where
  | zero (neg : Bool)
  | fin (neg : Bool) (m : Nat) (x : Int)
  | inf (neg : Bool)
  | nan
deriving DecidableEq, Repr

/-- The sign of a number; NaN counts as positive (R40). -/
def Fp.neg : Fp → Bool
  | .zero n => n
  | .fin n _ _ => n
  | .inf n => n
  | .nan => false

/-- floor(log2 m) as an integer, for m > 0. -/
def ilog2 (m : Nat) : Int := (Nat.log2 m : Int)

/-- m × 2^x counted in quanta of 2^q, rounded by `rm`; `neg` is the sign, which the directed modes need (R79, R84). -/
def roundQ (rm : RM) (neg : Bool) (m : Nat) (x q : Int) : Nat :=
  if q ≤ x then m * 2 ^ (x - q).toNat
  else
    let d := (q - x).toNat
    let n := m / 2 ^ d
    let r := m % 2 ^ d
    match rm with
    | .rne => if 2 * r > 2 ^ d ∨ (2 * r = 2 ^ d ∧ n % 2 = 1) then n + 1 else n
    | .rtz => n
    | .rup => if r ≠ 0 ∧ neg = false then n + 1 else n
    | .rdn => if r ≠ 0 ∧ neg = true then n + 1 else n
    | .raz => if r ≠ 0 then n + 1 else n
    | .sr b rnd => (m * 2 ^ b / 2 ^ d + rnd) / 2 ^ b

/-- The quantum exponent of m × 2^x in a format of `M` fraction bits whose smallest normal is 2^emin (R84). -/
def quantum (M : Nat) (emin : Int) (m : Nat) (x : Int) : Int :=
  max (ilog2 m + x) emin - (M : Int)

/-- Is k × 2^q greater than km × 2^qm? Exact. -/
def magGt (k : Nat) (q : Int) (km : Nat) (qm : Int) : Bool :=
  let lo := min q qm
  decide (k * 2 ^ (q - lo).toNat > km * 2 ^ (qm - lo).toNat)

/-- The quotient (ma × 2^xa) / (mb × 2^xb), with enough bits for every format of the die and a sticky bit below them,
so that rounding it once gives the rounding of the exact quotient. -/
def divEx (ma : Nat) (xa : Int) (mb : Nat) (xb : Int) : Nat × Int :=
  let s := 200 + Nat.log2 mb
  let n := ma * 2 ^ s
  (2 * (n / mb) + (if n % mb = 0 then 0 else 1), xa - xb - (s : Int) - 1)

/-- The value of FP32 bits (Table NUM-2). -/
def fp32 (w : Word) : Fp :=
  let v := w.toNat
  let neg := v.testBit 31
  let e := bits v 30 23
  let f := bits v 22 0
  if e = 255 then (if f = 0 then .inf neg else .nan)
  else if e = 0 then (if f = 0 then .zero neg else .fin neg f (-149))
  else .fin neg (2 ^ 23 + f) ((e : Int) - 150)

/-- The canonical FP32 NaN (R40). -/
def nan32 : Word := 0x7FC00000#32

/-- FP32 infinity of a sign. -/
def inf32 (neg : Bool) : Word := if neg then 0xFF800000#32 else 0x7F800000#32

/-- FP32 zero of a sign. -/
def zero32 (neg : Bool) : Word := if neg then 0x80000000#32 else 0#32

/-- The largest finite FP32 of a sign. -/
def max32 (neg : Bool) : Word := if neg then 0xFF7FFFFF#32 else 0x7F7FFFFF#32

/-- FP32 bits of k × 2^q, with k at most 2^24 and in range. -/
def pack32 (neg : Bool) (k : Nat) (q : Int) : Word :=
  let s := if neg then 2 ^ 31 else 0
  let k' := if k = 2 ^ 24 then 2 ^ 23 else k
  let q' := if k = 2 ^ 24 then q + 1 else q
  if k' < 2 ^ 23 then BitVec.ofNat 32 (s + k')
  else BitVec.ofNat 32 (s + (q' + 150).toNat * 2 ^ 23 + (k' - 2 ^ 23))

/-- The overflow result of an IEEE 754 operation under a rounding method (R79). -/
def ovf32 (rm : RM) (neg : Bool) : Word :=
  match rm with
  | .rtz => max32 neg
  | .rup => if neg then max32 true else inf32 false
  | .rdn => if neg then inf32 true else max32 false
  | _ => inf32 neg

/-- The exact value (−1)^neg × m × 2^x rounded once to FP32 (R56, R79). An exact zero takes sign `zneg`. -/
def round32 (rm : RM) (zneg neg : Bool) (m : Nat) (x : Int) : Word :=
  if m = 0 then zero32 zneg
  else
    let q := quantum 23 (-126) m x
    let k := roundQ rm neg m x q
    if magGt k q (2 ^ 24 - 1) 104 then ovf32 rm neg else pack32 neg k q

/-- A signed integer times 2^x rounded once to FP32; zero is +0 (R56). -/
def roundInt32 (rm : RM) (i : Int) (x : Int) : Word := round32 rm false (decide (i < 0)) i.natAbs x

/-- The sign of an exactly zero sum: +0 in fast mode (R46, R79); IEEE 754 under `strict`. -/
def zeroSumNeg (strict : Bool) (rm : RM) (na nb : Bool) : Bool :=
  if strict then (if na = nb then na else decide (rm = RM.rdn)) else false

/-- The signed significand of a finite part at exponent `lo`. -/
def align (neg : Bool) (m : Nat) (x lo : Int) : Int :=
  let v : Int := ((m * 2 ^ (x - lo).toNat : Nat) : Int)
  if neg then -v else v

/-- The sum of two numbers, rounded once to FP32 (R46, R79). -/
def addFp (strict : Bool) (rm : RM) (a b : Fp) : Word :=
  match a, b with
  | .nan, _ => nan32
  | _, .nan => nan32
  | .inf n, .inf n' => if n = n' then inf32 n else nan32
  | .inf n, _ => inf32 n
  | _, .inf n => inf32 n
  | .zero n, .zero n' => zero32 (zeroSumNeg strict rm n n')
  | .zero _, .fin n m x => round32 rm false n m x
  | .fin n m x, .zero _ => round32 rm false n m x
  | .fin n m x, .fin n' m' x' =>
    let lo := min x x'
    let s := align n m x lo + align n' m' x' lo
    round32 rm (zeroSumNeg strict rm n n') (decide (s < 0)) s.natAbs lo

/-- The exact product of two numbers: a zero keeps its sign, ∞ × 0 is NaN (R46). -/
def mulEx (a b : Fp) : Fp :=
  match a, b with
  | .nan, _ => .nan
  | _, .nan => .nan
  | .inf _, .zero _ => .nan
  | .zero _, .inf _ => .nan
  | .inf n, .inf n' => .inf (n != n')
  | .inf n, .fin n' _ _ => .inf (n != n')
  | .fin n' _ _, .inf n => .inf (n != n')
  | .zero n, .zero n' => .zero (n != n')
  | .zero n, .fin n' _ _ => .zero (n != n')
  | .fin n' _ _, .zero n => .zero (n != n')
  | .fin n m x, .fin n' m' x' => .fin (n != n') (m * m') (x + x')

/-- A number rounded once to FP32. -/
def toFp32 (rm : RM) (a : Fp) : Word :=
  match a with
  | .nan => nan32
  | .inf n => inf32 n
  | .zero n => zero32 n
  | .fin n m x => round32 rm n n m x

/-- FADD (R79). -/
def fadd (strict : Bool) (rm : RM) (a b : Word) : Word := addFp strict rm (fp32 a) (fp32 b)

/-- The sign bit turned over; NaN stays (R77 FUN NEG, and the second operand of FSUB). -/
def fneg (a : Word) : Word := a ^^^ 0x80000000#32

/-- FSUB (R79). -/
def fsub (strict : Bool) (rm : RM) (a b : Word) : Word := addFp strict rm (fp32 a) (fp32 (fneg b))

/-- FMUL (R79). -/
def fmul (rm : RM) (a b : Word) : Word := toFp32 rm (mulEx (fp32 a) (fp32 b))

/-- FMA: a × b + c with one rounding (R79). -/
def ffma (strict : Bool) (rm : RM) (a b c : Word) : Word :=
  addFp strict rm (mulEx (fp32 a) (fp32 b)) (fp32 c)

/-- FP32 division, RNE (R45). -/
def fdiv (a b : Word) : Word :=
  match fp32 a, fp32 b with
  | .nan, _ => nan32
  | _, .nan => nan32
  | .inf _, .inf _ => nan32
  | .inf n, y => inf32 (n != y.neg)
  | x, .inf n => zero32 (x.neg != n)
  | .zero _, .zero _ => nan32
  | .zero n, y => zero32 (n != y.neg)
  | x, .zero n => inf32 (x.neg != n)
  | .fin n m x, .fin n' m' x' =>
    let q := divEx m x m' x'
    round32 .rne (n != n') (n != n') q.1 q.2

/-- Is the number NaN? -/
def isNan (a : Word) : Bool := decide (fp32 a = Fp.nan)

/-- Is the word an infinity? -/
def isInf (a : Word) : Bool := decide (a = inf32 false ∨ a = inf32 true)

/-- Is the word finite? -/
def isFinite (a : Word) : Bool := !isNan a && !isInf a

/-- Order key of FP32 bits that are no NaN: −0 just below +0 (R46, maximum and minimum). -/
def ordKey (a : Word) : Int :=
  let v := a.toNat
  if v.testBit 31 then -((v % 2 ^ 31 : Nat) : Int) - 1 else (v : Int)

/-- IEEE 754-2019 maximumNumber (R46). -/
def fmax (a b : Word) : Word :=
  if isNan a then (if isNan b then nan32 else b)
  else if isNan b then a
  else if ordKey a < ordKey b then b else a

/-- IEEE 754-2019 minimumNumber (R46). -/
def fmin (a b : Word) : Word :=
  if isNan a then (if isNan b then nan32 else b)
  else if isNan b then a
  else if ordKey b < ordKey a then b else a

/-- Comparison key with both zeros equal (R46, FCMP). -/
def cmpKey (a : Word) : Int :=
  let v := a.toNat
  if v.testBit 31 then -((v % 2 ^ 31 : Nat) : Int) else (v : Int)

/-- FCMP EQ (Table VEC-5). -/
def feq (a b : Word) : Bool := !isNan a && !isNan b && decide (cmpKey a = cmpKey b)
/-- FCMP LT (Table VEC-5). -/
def flt (a b : Word) : Bool := !isNan a && !isNan b && decide (cmpKey a < cmpKey b)
/-- FCMP LE (Table VEC-5). -/
def fle (a b : Word) : Bool := !isNan a && !isNan b && decide (cmpKey a ≤ cmpKey b)
/-- FCMP UNORD (Table VEC-5). -/
def funord (a b : Word) : Bool := isNan a || isNan b

/-- FUN ABS (Table VEC-5): the sign bit cleared, NaN unchanged. -/
def fabs (a : Word) : Word := if isNan a then a else a &&& 0x7FFFFFFF#32
/-- FUN NEG (Table VEC-5): the sign bit turned over, NaN unchanged. -/
def fnegN (a : Word) : Word := if isNan a then a else fneg a

/-- scale(y, q) of R87: y × 2^q, exact and then rounded once by RNE. -/
def fscale (y : Word) (q : Int) : Word :=
  match fp32 y with
  | .fin n m x => round32 .rne n n m (x + q)
  | _ => y

/-- An INT32 lane converted to FP32 (CVTF, R77). -/
def cvtf (rm : RM) (a : Word) : Word := roundInt32 rm a.toInt 0

/-- One round to nearest integer, ties to even, of a finite value; 0 for the rest. -/
def nearestInt (a : Fp) : Int :=
  match a with
  | .fin n m x => let k : Int := (roundQ .rne n m x 0 : Nat); if n then -k else k
  | _ => 0

/-- A finite value as an integer at exponent `lo`; 0 for the rest. -/
def alignFp (lo : Int) (a : Fp) : Int :=
  match a with
  | .fin n m x => align n m x lo
  | _ => 0

/-- The exponent of a finite value's last bit, or `d`. -/
def lsbOr (d : Int) (a : Fp) : Int :=
  match a with
  | .fin _ _ x => min d x
  | _ => d

/-- The exact residual (a + b) − s of two_sum and fast_two_sum, which FP32 holds exactly (R62). -/
def residual (a b s : Word) : Word :=
  let lo := lsbOr (lsbOr (lsbOr 0 (fp32 a)) (fp32 b)) (fp32 s)
  roundInt32 .rne (alignFp lo (fp32 a) + alignFp lo (fp32 b) - alignFp lo (fp32 s)) lo

end Sys2Proof.Machine
end

