-- ==== Sys2Proof/Machine/Func.lean ====
section
/-!
DEFINITION. The approximate functions of FN (R87) with their constants and tables, and the activation functions of
Table FUSE-3 (R103). Every operation is binary32 with RNE. The constants are RNE_FP32 of the real values that R87
states, worked out with exact and 80-digit arithmetic.
-/
namespace Sys2Proof.Machine

/-- RNE_FP32 of ln 2 (R87). -/
def kC1 : Word := 0x3F317218#32

/-- RNE_FP32 of (ln 2)²/2 (R87). -/
def kC2 : Word := 0x3E75FDF0#32

/-- RNE_FP32 of (ln 2)³/6 (R87). -/
def kC3 : Word := 0x3D635847#32

/-- RNE_FP32 of (−1)^2 / (1 × ln 2) (R87). -/
def kA1 : Word := 0x3FB8AA3B#32

/-- RNE_FP32 of (−1)^3 / (2 × ln 2) (R87). -/
def kA2 : Word := 0xBF38AA3B#32

/-- RNE_FP32 of (−1)^4 / (3 × ln 2) (R87). -/
def kA3 : Word := 0x3EF6384F#32

/-- RNE_FP32 of (−1)^5 / (4 × ln 2) (R87). -/
def kA4 : Word := 0xBEB8AA3B#32

/-- RNE_FP32 of (−1)^6 / (5 × ln 2) (R87). -/
def kA5 : Word := 0x3E93BB63#32

/-- RNE_FP32 of B_1 (R87). -/
def kB1 : Word := 0xBEAAAAAB#32

/-- RNE_FP32 of B_2 (R87). -/
def kB2 : Word := 0x3E088889#32

/-- RNE_FP32 of B_3 (R87). -/
def kB3 : Word := 0xBD5D0DD1#32

/-- RNE_FP32 of B_4 (R87). -/
def kB4 : Word := 0x3CB327A4#32

/-- RNE_FP32 of B_5 (R87). -/
def kB5 : Word := 0xBC11371B#32

/-- RNE_FP32 of B_6 (R87). -/
def kB6 : Word := 0x3B6B69E8#32

/-- RNE_FP32 of B_7 (R87). -/
def kB7 : Word := 0xBABED1B2#32

/-- RNE_FP32 of log2 e (R87). -/
def kL2E : Word := 0x3FB8AA3B#32

/-- RNE_FP32 of 0.044715 (R103) (R87). -/
def kG1 : Word := 0x3D372713#32

/-- RNE_FP32 of sqrt(2/π) (R103) (R87). -/
def kG2 : Word := 0x3F4C422A#32

/-- T[i] = RNE_FP32 of 2^(i/64), i = 0..63 (R87). -/
def tabT : List Word :=

  [0x3F800000#32, 0x3F8164D2#32, 0x3F82CD87#32, 0x3F843A29#32, 0x3F85AAC3#32, 0x3F871F62#32, 0x3F88980F#32, 0x3F8A14D5#32, 0x3F8B95C2#32, 0x3F8D1ADF#32, 0x3F8EA43A#32, 0x3F9031DC#32, 0x3F91C3D3#32, 0x3F935A2B#32, 0x3F94F4F0#32, 0x3F96942D#32] ++
  [0x3F9837F0#32, 0x3F99E046#32, 0x3F9B8D3A#32, 0x3F9D3EDA#32, 0x3F9EF532#32, 0x3FA0B051#32, 0x3FA27043#32, 0x3FA43516#32, 0x3FA5FED7#32, 0x3FA7CD94#32, 0x3FA9A15B#32, 0x3FAB7A3A#32, 0x3FAD583F#32, 0x3FAF3B79#32, 0x3FB123F6#32, 0x3FB311C4#32] ++
  [0x3FB504F3#32, 0x3FB6FD92#32, 0x3FB8FBAF#32, 0x3FBAFF5B#32, 0x3FBD08A4#32, 0x3FBF179A#32, 0x3FC12C4D#32, 0x3FC346CD#32, 0x3FC5672A#32, 0x3FC78D75#32, 0x3FC9B9BE#32, 0x3FCBEC15#32, 0x3FCE248C#32, 0x3FD06334#32, 0x3FD2A81E#32, 0x3FD4F35B#32] ++
  [0x3FD744FD#32, 0x3FD99D16#32, 0x3FDBFBB8#32, 0x3FDE60F5#32, 0x3FE0CCDF#32, 0x3FE33F89#32, 0x3FE5B907#32, 0x3FE8396A#32, 0x3FEAC0C7#32, 0x3FED4F30#32, 0x3FEFE4BA#32, 0x3FF28177#32, 0x3FF5257D#32, 0x3FF7D0DF#32, 0x3FFA83B3#32, 0x3FFD3E0C#32]

/-- IV[j] = RNE_FP32 of 64/j, j = 48..96 (R87). -/
def tabIV : List Word :=

  [0x3FAAAAAB#32, 0x3FA72F05#32, 0x3FA3D70A#32, 0x3FA0A0A1#32, 0x3F9D89D9#32, 0x3F9A90E8#32, 0x3F97B426#32, 0x3F94F209#32, 0x3F924925#32, 0x3F8FB824#32, 0x3F8D3DCB#32, 0x3F8AD8F3#32, 0x3F888889#32, 0x3F864B8A#32, 0x3F842108#32, 0x3F820821#32] ++
  [0x3F800000#32, 0x3F7C0FC1#32, 0x3F783E10#32, 0x3F74898D#32, 0x3F70F0F1#32, 0x3F6D7304#32, 0x3F6A0EA1#32, 0x3F66C2B4#32, 0x3F638E39#32, 0x3F607038#32, 0x3F5D67C9#32, 0x3F5A740E#32, 0x3F579436#32, 0x3F54C77B#32, 0x3F520D21#32, 0x3F4F6475#32] ++
  [0x3F4CCCCD#32, 0x3F4A4588#32, 0x3F47CE0C#32, 0x3F4565C8#32, 0x3F430C31#32, 0x3F40C0C1#32, 0x3F3E82FA#32, 0x3F3C5264#32, 0x3F3A2E8C#32, 0x3F381703#32, 0x3F360B61#32, 0x3F340B41#32, 0x3F321643#32, 0x3F302C0B#32, 0x3F2E4C41#32, 0x3F2C7692#32] ++
  [0x3F2AAAAB#32]

/-- LT[j] = RNE_FP32 of −log2 of the FP32 value IV[j], j = 48..96; LT[64] = 0 (R87). -/
def tabLT : List Word :=

  [0xBED47FCD#32, 0xBEC544BF#32, 0xBEB6587A#32, 0xBEA7B7DF#32, 0xBE995FF9#32, 0xBE8B4E03#32, 0xBE7AFEC6#32, 0xBE5FE33A#32, 0xBE4544C5#32, 0xBE2B1EE2#32, 0xBE116D6E#32, 0xBDF058D8#32, 0xBDBEB02F#32, 0xBD8DD98A#32, 0xBD3B9C9B#32, 0xBCBA1FA1#32] ++
  [0x00000000#32, 0x3CB73CB3#32, 0x3D35D690#32, 0x3D8759C9#32, 0x3DB31FB7#32, 0x3DDE420E#32, 0x3E0462C4#32, 0x3E195751#32, 0x3E2E00D1#32, 0x3E42615F#32, 0x3E567AEF#32, 0x3E6A4F70#32, 0x3E7DE0B5#32, 0x3E88983F#32, 0x3E92203D#32, 0x3E9B8925#32] ++
  [0x3EA4D3C2#32, 0x3EAE00D1#32, 0x3EB71110#32, 0x3EC0052D#32, 0x3EC8DDD3#32, 0x3ED19BAF#32, 0x3EDA3F60#32, 0x3EE2C97E#32, 0x3EEB3A9E#32, 0x3EF39355#32, 0x3EFBD42A#32, 0x3F01FED4#32, 0x3F060828#32, 0x3F0A0650#32, 0x3F0DF98A#32, 0x3F11E20E#32] ++
  [0x3F15C01A#32]

/-- Y[j] = RNE_FP32 of 1/(1 + (2j + 1)/256), j = 0..127 (R87). -/
def tabY : List Word :=

  [0x3F7F00FF#32, 0x3F7D08E5#32, 0x3F7B1885#32, 0x3F792FB2#32, 0x3F774E40#32, 0x3F757404#32, 0x3F73A0D5#32, 0x3F71D48C#32, 0x3F700F01#32, 0x3F6E500F#32, 0x3F6C9791#32, 0x3F6AE564#32, 0x3F693965#32, 0x3F679373#32, 0x3F65F36D#32, 0x3F645933#32] ++
  [0x3F62C4A7#32, 0x3F6135AA#32, 0x3F5FAC1F#32, 0x3F5E27EB#32, 0x3F5CA8F1#32, 0x3F5B2F17#32, 0x3F59BA42#32, 0x3F584A5A#32, 0x3F56DF44#32, 0x3F5578E9#32, 0x3F541733#32, 0x3F52BA08#32, 0x3F516154#32, 0x3F500D01#32, 0x3F4EBCF9#32, 0x3F4D7127#32] ++
  [0x3F4C2978#32, 0x3F4AE5D8#32, 0x3F49A634#32, 0x3F486A79#32, 0x3F473294#32, 0x3F45FE74#32, 0x3F44CE08#32, 0x3F43A13E#32, 0x3F427806#32, 0x3F415250#32, 0x3F40300C#32, 0x3F3F112B#32, 0x3F3DF59D#32, 0x3F3CDD53#32, 0x3F3BC841#32, 0x3F3AB656#32] ++
  [0x3F39A786#32, 0x3F389BC3#32, 0x3F379301#32, 0x3F368D31#32, 0x3F358A48#32, 0x3F348A3A#32, 0x3F338CFA#32, 0x3F32927C#32, 0x3F319AB6#32, 0x3F30A59B#32, 0x3F2FB322#32, 0x3F2EC33E#32, 0x3F2DD5E6#32, 0x3F2CEB10#32, 0x3F2C02B0#32, 0x3F2B1CBE#32] ++
  [0x3F2A392F#32, 0x3F2957FB#32, 0x3F287917#32, 0x3F279C7B#32, 0x3F26C21E#32, 0x3F25E9F7#32, 0x3F2513FD#32, 0x3F244029#32, 0x3F236E72#32, 0x3F229ECF#32, 0x3F21D13A#32, 0x3F2105A9#32, 0x3F203C17#32, 0x3F1F747A#32, 0x3F1EAECD#32, 0x3F1DEB07#32] ++
  [0x3F1D2922#32, 0x3F1C6917#32, 0x3F1BAADF#32, 0x3F1AEE73#32, 0x3F1A33CD#32, 0x3F197AE7#32, 0x3F18C3BB#32, 0x3F180E41#32, 0x3F175A75#32, 0x3F16A850#32, 0x3F15F7CC#32, 0x3F1548E5#32, 0x3F149B93#32, 0x3F13EFD2#32, 0x3F13459C#32, 0x3F129CEC#32] ++
  [0x3F11F5BD#32, 0x3F115009#32, 0x3F10ABCC#32, 0x3F100901#32, 0x3F0F67A2#32, 0x3F0EC7AB#32, 0x3F0E2918#32, 0x3F0D8BE3#32, 0x3F0CF009#32, 0x3F0C5584#32, 0x3F0BBC51#32, 0x3F0B246B#32, 0x3F0A8DCD#32, 0x3F09F874#32, 0x3F09645C#32, 0x3F08D181#32] ++
  [0x3F083FDE#32, 0x3F07AF70#32, 0x3F072033#32, 0x3F069223#32, 0x3F06053C#32, 0x3F05797C#32, 0x3F04EEDD#32, 0x3F04655E#32, 0x3F03DCF9#32, 0x3F0355AD#32, 0x3F02CF75#32, 0x3F024A4E#32, 0x3F01C636#32, 0x3F014328#32, 0x3F00C122#32, 0x3F004020#32]

/-- Q[j] = RNE_FP32 of 1/sqrt(1 + (2j + 1)/64), j = 0..95 (R87). -/
def tabQ : List Word :=

  [0x3F7E05EC#32, 0x3F7A33F9#32, 0x3F768CDC#32, 0x3F730D8A#32, 0x3F6FB345#32, 0x3F6C7B90#32, 0x3F69642A#32, 0x3F666B02#32, 0x3F638E39#32, 0x3F60CC16#32, 0x3F5E2305#32, 0x3F5B9193#32, 0x3F59166B#32, 0x3F56B051#32, 0x3F545E22#32, 0x3F521ED0#32] ++
  [0x3F4FF162#32, 0x3F4DD4ED#32, 0x3F4BC89B#32, 0x3F49CBA2#32, 0x3F47DD45#32, 0x3F45FCD6#32, 0x3F4429AF#32, 0x3F426337#32, 0x3F40A8DE#32, 0x3F3EFA1C#32, 0x3F3D5671#32, 0x3F3BBD67#32, 0x3F3A2E8C#32, 0x3F38A975#32, 0x3F372DBF#32, 0x3F35BB09#32] ++
  [0x3F3450FC#32, 0x3F32EF41#32, 0x3F319589#32, 0x3F304387#32, 0x3F2EF8F2#32, 0x3F2DB587#32, 0x3F2C7904#32, 0x3F2B432A#32, 0x3F2A13C0#32, 0x3F28EA8C#32, 0x3F27C759#32, 0x3F26A9F4#32, 0x3F25922C#32, 0x3F247FD3#32, 0x3F2372BD#32, 0x3F226ABE#32] ++
  [0x3F2167AF#32, 0x3F206968#32, 0x3F1F6FC4#32, 0x3F1E7AA0#32, 0x3F1D89D9#32, 0x3F1C9D4E#32, 0x3F1BB4E1#32, 0x3F1AD073#32, 0x3F19EFE6#32, 0x3F191320#32, 0x3F183A05#32, 0x3F17647C#32, 0x3F16926C#32, 0x3F15C3BC#32, 0x3F14F857#32, 0x3F143026#32] ++
  [0x3F136B13#32, 0x3F12A90B#32, 0x3F11E9F9#32, 0x3F112DCA#32, 0x3F10746D#32, 0x3F0FBDCE#32, 0x3F0F09DD#32, 0x3F0E5889#32, 0x3F0DA9C2#32, 0x3F0CFD79#32, 0x3F0C539F#32, 0x3F0BAC25#32, 0x3F0B06FD#32, 0x3F0A641A#32, 0x3F09C36D#32, 0x3F0924EC#32] ++
  [0x3F088889#32, 0x3F07EE37#32, 0x3F0755ED#32, 0x3F06BF9E#32, 0x3F062B40#32, 0x3F0598C7#32, 0x3F05082A#32, 0x3F04795F#32, 0x3F03EC5C#32, 0x3F036117#32, 0x3F02D788#32, 0x3F024FA6#32, 0x3F01C967#32, 0x3F0144C4#32, 0x3F00C1B4#32, 0x3F004030#32]

/-- 1.0 -/
def one32 : Word := 0x3F800000#32

/-- An integer as FP32 (exact for the small integers used here). -/
def i32 (i : Int) : Word := roundInt32 .rne i 0

/-- fma of R87: one rounding, RNE. -/
def fm (a b c : Word) : Word := ffma false .rne a b c
/-- × of R87. -/
def fx (a b : Word) : Word := fmul .rne a b
/-- + of R87. -/
def fa (a b : Word) : Word := fadd false .rne a b

/-- The word at index `j` of a table. -/
def tabAt (t : List Word) (j : Int) : Word := t.getD j.toNat 0#32

/-- (m, e) of R87: |x| = m × 2^e with m in [1, 2), m as FP32. -/
def decompose (x : Fp) : Word × Int :=
  match x with
  | .fin _ m y =>
    let e := ilog2 m + y
    (round32 .rne false false m (y - e), e)
  | _ => (one32, 0)

/-- EXP2 (R87). -/
def fnExp2 (x : Word) : Word :=
  match fp32 x with
  | .nan => nan32
  | .inf n => if n then zero32 false else inf32 false
  | .zero _ => fscale (fm (tabAt tabT 0) (fx (fm (fm kC3 x kC2) x kC1) x) (tabAt tabT 0)) 0
  | .fin n m y =>
    if fle 0x43000000#32 x then inf32 false          -- x >= 128
    else if flt x 0xC3160000#32 then zero32 false    -- x < -150
    else
      let j := nearestInt (.fin n m (y + 6))
      let f := fsub false .rne x (fscale (i32 j) (-6))
      let q := j / 64
      let i := j - 64 * q
      let p := fx (fm (fm kC3 f kC2) f kC1) f
      fscale (fm (tabAt tabT i) p (tabAt tabT i)) q

/-- LOG2 (R87). -/
def fnLog2 (x : Word) : Word :=
  match fp32 x with
  | .nan => nan32
  | .zero _ => inf32 true
  | .inf n => if n then nan32 else inf32 false
  | .fin true _ _ => nan32
  | .fin false m y =>
    let (m0, e0) := decompose (.fin false m y)
    let big := fle 0x3FC00000#32 m0
    let mm := if big then fscale m0 (-1) else m0
    let e := if big then e0 + 1 else e0
    let j := nearestInt (fp32 (fscale mm 6))
    let u := fm mm (tabAt tabIV (j - 48)) 0xBF800000#32
    let p := fm (fm (fm (fm kA5 u kA4) u kA3) u kA2) u kA1
    let p := fx p u
    fa (i32 e) (fa (tabAt tabLT (j - 48)) p)

/-- One Newton step of RCP (R87). -/
def rcpStep (m y : Word) : Word := fm y (fm (fneg m) y one32) y

/-- RCP (R87). -/
def fnRcp (x : Word) : Word :=
  match fp32 x with
  | .nan => nan32
  | .zero n => inf32 n
  | .inf n => zero32 n
  | .fin n m y =>
    let (mm, e) := decompose (.fin n m y)
    let j := (bits mm.toNat 22 16 : Nat)
    let y0 := tabAt tabY (j : Int)
    let y2 := rcpStep mm (rcpStep mm y0)
    let r := fscale y2 (-e)
    if n then fneg r else r

/-- One Newton step of RSQRT (R87). -/
def rsqrtStep (m y : Word) : Word :=
  fm (fx 0x3F000000#32 y) (fm (fneg m) (fx y y) one32) y

/-- floor(32 × (m − 1)) for an FP32 m in [1, 4). -/
def rsqrtIndex (m : Word) : Int :=
  match fp32 m with
  | .fin _ k x => ((roundQ .rtz false k (x + 5) 0 : Nat) : Int) - 32
  | _ => 0

/-- RSQRT (R87). -/
def fnRsqrt (x : Word) : Word :=
  match fp32 x with
  | .zero n => inf32 n
  | .nan => nan32
  | .inf n => if n then nan32 else zero32 false
  | .fin true _ _ => nan32
  | .fin false m y =>
    let (m0, e0) := decompose (.fin false m y)
    let odd := decide (e0 % 2 ≠ 0)
    let mm := if odd then fscale m0 1 else m0
    let e := if odd then e0 - 1 else e0
    let y0 := tabAt tabQ (rsqrtIndex mm)
    let y2 := rsqrtStep mm (rsqrtStep mm y0)
    fscale y2 (-(e / 2))

/-- TANH (R87). -/
def fnTanh (x : Word) : Word :=
  match fp32 x with
  | .nan => nan32
  | .zero _ => x
  | .inf n => if n then 0xBF800000#32 else one32
  | .fin n _ _ =>
    let a := x &&& 0x7FFFFFFF#32
    if flt a 0x3F000000#32 then
      let z := fx x x
      let p := [kB6, kB5, kB4, kB3, kB2, kB1].foldl (fun p b => fm p z b) kB7
      fm (fx x z) p x
    else
      let E := fnExp2 (fx (fx 0x40000000#32 a) kL2E)
      let r := fm 0xC0000000#32 (fnRcp (fa one32 E)) one32
      if n then fneg r else r

/-- SIGM (R87). -/
def fnSigm (x : Word) : Word :=
  match fp32 x with
  | .nan => nan32
  | .inf n => if n then zero32 false else one32
  | _ => fnRcp (fa one32 (fnExp2 (fneg (fx x kL2E))))

/-- FN by its SUB code (Table VEC-5). -/
def fnEval (sub : Nat) (x : Word) : Word :=
  match sub with
  | 0 => fnExp2 x
  | 1 => fnLog2 x
  | 2 => fnRcp x
  | 3 => fnRsqrt x
  | 4 => fnTanh x
  | _ => fnSigm x

/-- The activation functions of Table FUSE-3 (R103). The operations around FN are lane operations, so the sign of an
exact zero follows STRICT (R79, R87). -/
def actEval (strict : Bool) (code : Nat) (x : Word) : Word :=
  let ad := fadd strict .rne
  let fma := ffma strict .rne
  match code with
  | 0 => x
  | 1 => if isNan x then nan32 else if flt 0#32 x then x else 0#32
  | 2 =>
    let t := fx x x
    let t := fx t x
    let t := fma kG1 t x
    let t := fx t kG2
    fx (fx 0x3F000000#32 x) (ad one32 (fnTanh t))
  | 3 => fx x (fnSigm x)
  | 4 => fnSigm x
  | 5 => fnTanh x
  | _ => fnExp2 x

/-- Issue CCLK per row of an activation (Table FUSE-3). -/
def actCost (code : Nat) : Nat :=
  match code with
  | 0 => 0 | 1 => 1 | 2 => 11 | 3 => 5 | 4 => 4 | 5 => 4 | _ => 4

end Sys2Proof.Machine
end

