-- ==== Sys2Proof/Machine/Formats.lean ====
section
/-!
DEFINITION. The number formats: their codes and roles (Table NUM-1), element encodings (Table NUM-2), block packing
(Table NUM-4) and the decode to the common internal form (R34, R35).
-/
namespace Sys2Proof.Machine

/-- How a floating-point element format spends its top codes (Table NUM-2). -/
inductive Special where
  | none    -- no infinity, no NaN: E3M2, E2M3, E2M1
  | nanOnly -- E4M3: S.1111.111 is NaN
  | ieee    -- E5M2, BF16, FP16, FP32
deriving DecidableEq, Repr

/-- A floating-point element format. -/
structure FFmt where
  E : Nat
  M : Nat
  bias : Nat
  special : Special
deriving DecidableEq, Repr

/-- E4M3 (Table NUM-2). -/
def fE4M3 : FFmt := ⟨4, 3, 7, .nanOnly⟩
/-- E5M2 (Table NUM-2). -/
def fE5M2 : FFmt := ⟨5, 2, 15, .ieee⟩
/-- E3M2 (Table NUM-2). -/
def fE3M2 : FFmt := ⟨3, 2, 3, .none⟩
/-- E2M3 (Table NUM-2). -/
def fE2M3 : FFmt := ⟨2, 3, 1, .none⟩
/-- E2M1 (Table NUM-2). -/
def fE2M1 : FFmt := ⟨2, 1, 1, .none⟩
/-- BF16 (Table NUM-2). -/
def fBF16 : FFmt := ⟨8, 7, 127, .ieee⟩
/-- FP16 (Table NUM-2). -/
def fFP16 : FFmt := ⟨5, 10, 15, .ieee⟩
/-- FP32 (Table NUM-2). -/
def fFP32 : FFmt := ⟨8, 23, 127, .ieee⟩

/-- Exponent of the smallest normal. -/
def FFmt.emin (f : FFmt) : Int := 1 - (f.bias : Int)

/-- The bits of the largest finite magnitude (Table NUM-2). -/
def FFmt.maxBits (f : FFmt) : Nat :=
  match f.special with
  | .none => 2 ^ (f.E + f.M) - 1
  | .nanOnly => 2 ^ (f.E + f.M) - 2
  | .ieee => (2 ^ f.E - 1) * 2 ^ f.M - 1

/-- decode_fp of R34: the value of element bits at scale exponent `t`. -/
def FFmt.decode (f : FFmt) (v : Nat) (t : Int) : Fp :=
  let s := v.testBit (f.E + f.M)
  let e := bits v (f.E + f.M - 1) f.M
  let fr := v % 2 ^ f.M
  let top := 2 ^ f.E - 1
  let isNaN := match f.special with
    | .none => false
    | .nanOnly => decide (e = top ∧ fr = 2 ^ f.M - 1)
    | .ieee => decide (e = top ∧ fr ≠ 0)
  let isInf := match f.special with
    | .ieee => decide (e = top ∧ fr = 0)
    | _ => false
  if isNaN then .nan
  else if isInf then .inf s
  else
    let m := if e = 0 then fr else 2 ^ f.M + fr
    let x : Int := (if e = 0 then f.emin else (e : Int) - f.bias) - f.M + t
    if m = 0 then .zero s else .fin s m x

/-- The magnitude of the largest finite value as m × 2^x. -/
def FFmt.maxMag (f : FFmt) : Nat × Int :=
  match f.decode f.maxBits 0 with
  | .fin _ m x => (m, x)
  | _ => (0, 0)

/-- Exponent of the largest power of two not above the largest finite value (R42). -/
def FFmt.emax (f : FFmt) : Int := ilog2 f.maxMag.1 + f.maxMag.2

/-- The bits of k × 2^q in range, of a sign. -/
def FFmt.pack (f : FFmt) (neg : Bool) (k : Nat) (q : Int) : Nat :=
  let s := if neg then 2 ^ (f.E + f.M) else 0
  if k = 0 then s
  else
    let k' := if k = 2 ^ (f.M + 1) then 2 ^ f.M else k
    let q' := if k = 2 ^ (f.M + 1) then q + 1 else q
    if k' < 2 ^ f.M then s + k'
    else s + (q' + f.M + f.bias).toNat * 2 ^ f.M + (k' - 2 ^ f.M)

/-- The bits of ±infinity, where the format has one; the canonical NaN where it has only NaN (R39). -/
def FFmt.infBits (f : FFmt) (neg : Bool) : Nat :=
  (if neg then 2 ^ (f.E + f.M) else 0) + (2 ^ f.E - 1) * 2 ^ f.M

/-- The canonical NaN (R40). -/
def FFmt.nanBits (f : FFmt) : Nat :=
  match f.special with
  | .nanOnly => 2 ^ (f.E + f.M) - 1
  | _ => (2 ^ f.E - 1) * 2 ^ f.M + 2 ^ (f.M - 1)

/-- ±largest finite. -/
def FFmt.maxOf (f : FFmt) (neg : Bool) : Nat := (if neg then 2 ^ (f.E + f.M) else 0) + f.maxBits

/-! The format codes of Table NUM-1. -/

/-- The float element format of a code, scaled or not. -/
def floatFmt (code : Nat) : Option FFmt :=
  if code = 0x01 ∨ code = 0x03 then some fE4M3
  else if code = 0x02 ∨ code = 0x04 then some fE5M2
  else if code = 0x05 then some fE3M2
  else if code = 0x06 then some fE2M3
  else if code = 0x07 ∨ code = 0x0B then some fE2M1
  else if code = 0x10 then some fBF16
  else if code = 0x11 then some fFP16
  else if code = 0x12 then some fFP32
  else none

/-- Is the code an MX block format? -/
def isMx (code : Nat) : Bool := decide (0x03 ≤ code ∧ code ≤ 0x08)
/-- Is the code a block format (MX or TL4)? -/
def isBlock (code : Nat) : Bool := isMx code || decide (code = 0x0B)
/-- Block size: 32, or 16 for TL4 (R30). -/
def blockSize (code : Nat) : Nat := if code = 0x0B then 16 else 32
/-- Is the code an unscaled integer operand? -/
def isInt (code : Nat) : Bool := decide (code = 0x09 ∨ code = 0x0A)
/-- Is the code PAIR2 or PAIR3? -/
def isPair (code : Nat) : Bool := decide (code = 0x20 ∨ code = 0x21)
/-- Parts of an operand (R47, R48). -/
def pairParts (code : Nat) : Nat := if code = 0x20 then 2 else if code = 0x21 then 3 else 1

/-- Bits of one element in memory (Table NUM-2, NUM-4). -/
def elemBits (code : Nat) : Nat :=
  if code = 0x05 ∨ code = 0x06 then 6
  else if code = 0x07 ∨ code = 0x0A ∨ code = 0x0B then 4
  else if code = 0x10 ∨ code = 0x11 ∨ code = 0x22 then 16
  else if code = 0x12 ∨ code = 0x13 then 32
  else 8

/-- Array-operand role of Table NUM-1. -/
def roleOperand (code : Nat) : Bool := decide (1 ≤ code ∧ code ≤ 0x0B) || isPair code
/-- Output role of Table NUM-1. -/
def roleOutput (code : Nat) : Bool :=
  decide (1 ≤ code ∧ code ≤ 0x0B) || decide (0x10 ≤ code ∧ code ≤ 0x13) || decide (code = 0x22)
/-- Source role of Table NUM-1. -/
def roleSource (code : Nat) : Bool := decide (0x10 ≤ code ∧ code ≤ 0x12)

/-- Bytes of the elements of a whole row of `n` elements: whole blocks for a block format (R32, Table NUM-4). -/
def rowBytes (code n : Nat) : Nat :=
  if isBlock code then ceilDiv n (blockSize code) * (blockSize code * elemBits code / 8)
  else ceilDiv (n * elemBits code) 8

/-- The decoded value of element bits `v` under scale byte `sc` (R34, R35). PAIR codes never reach here: they are split
first. INT4 is sign-extended; MXINT8 carries its factor 2^−6. -/
def decodeElem (code v sc : Nat) : Fp :=
  if isMx code then
    if sc = 0xFF then .nan
    else
      let t : Int := (sc : Int) - 127
      if code = 0x08 then
        let i := sext 8 v
        if i = 0 then .zero false else .fin (decide (i < 0)) i.natAbs (-6 + t)
      else match floatFmt code with
        | some f => f.decode v t
        | none => .nan
  else if code = 0x0B then
    if sc = 0x7F ∨ sc ≥ 0x80 then .nan
    else
      match fE2M1.decode v 0, fE4M3.decode sc 0 with
      | e, .zero _ => .zero e.neg
      | .fin s m x, .fin _ mf xf => .fin s (m * mf) (x + xf)
      | e, _ => e
  else if isInt code then
    let i := sext (elemBits code) v
    if i = 0 then .zero false else .fin (decide (i < 0)) i.natAbs 0
  else if code = 0x13 then
    let i := sext 32 v
    if i = 0 then .zero false else .fin (decide (i < 0)) i.natAbs 0
  else match floatFmt code with
    | some f => f.decode v 0
    | none => .nan

/-- The integer that an INT8 or INT4 element holds, out of its decoded form. -/
def Fp.toInt : Fp → Int
  | .fin n m x => let v : Int := ((m * 2 ^ x.toNat : Nat) : Int); if n then -v else v
  | _ => 0

end Sys2Proof.Machine
end

