-- ==== Sys2Proof/Machine/Convert.lean ====
section
/-!
DEFINITION. Conversions to narrower formats (R38–R45, R83), the shared-scale choice (R42), the BF16 result pair (R50)
and the split of PAIR operands (R47). Each conversion reports what it adds to SAT and VANISHED (R39, R41).
-/
namespace Sys2Proof.Machine

/-- One converted value: its bits, whether it saturated (R39) and whether it vanished (R41). -/
structure Conv where
  bits : Nat
  sat : Bool
  van : Bool
deriving DecidableEq, Repr

/-- A list of converted values with their counts and, for a block format, its scale byte. -/
structure ConvBlock where
  scale : Nat
  elems : List Nat
  sat : Nat
  van : Nat
deriving DecidableEq, Repr

/-- Does a finite overflow (or infinity) give ±largest finite in a floating-point target (R39, R83)? `inf` says the
input itself was infinite: the directed modes act on finite overflows only. -/
def ovfIsMax (rm : RM) (satMode inf neg : Bool) : Bool :=
  satMode || (!inf && match rm with
    | .rtz => true
    | .rup => neg
    | .rdn => !neg
    | _ => false)

/-- Conversion to a floating-point format that is no block format (R39, R83, R84). -/
def convFloat (f : FFmt) (rm : RM) (satMode : Bool) (a : Fp) : Conv :=
  match a with
  | .nan => ⟨f.nanBits, false, false⟩
  | .zero n => ⟨f.pack n 0 0, false, false⟩
  | .inf n =>
    if ovfIsMax rm satMode true n then ⟨f.maxOf n, true, false⟩
    else ⟨if f.special = .nanOnly then f.nanBits else f.infBits n, false, false⟩
  | .fin n m x =>
    let q := quantum f.M f.emin m x
    let k := roundQ rm n m x q
    if magGt k q f.maxMag.1 f.maxMag.2 then
      if ovfIsMax rm satMode false n then ⟨f.maxOf n, true, false⟩
      else ⟨if f.special = .nanOnly then f.nanBits else f.infBits n, false, false⟩
    else ⟨f.pack n k q, false, decide (k = 0)⟩

/-- Conversion to an integer of `w` bits (R38, R39): NaN gives 0 and saturates; a rounded magnitude above the largest
finite value 2^(w−1) − 1 of Table NUM-2 overflows and saturates at −2^(w−1) or 2^(w−1) − 1, so −2^(w−1) itself does. -/
def convInt (w : Nat) (rm : RM) (a : Fp) : Conv :=
  match a with
  | .nan => ⟨0, true, false⟩
  | .zero _ => ⟨0, false, false⟩
  | .inf n => ⟨if n then 2 ^ (w - 1) else 2 ^ (w - 1) - 1, true, false⟩
  | .fin n m x =>
    let k := roundQ rm n m x 0
    if n then
      if k ≥ 2 ^ (w - 1) then ⟨2 ^ (w - 1), true, false⟩
      else ⟨(2 ^ w - k) % 2 ^ w, false, decide (k = 0)⟩
    else if k ≥ 2 ^ (w - 1) then ⟨2 ^ (w - 1) - 1, true, false⟩
    else ⟨k, false, decide (k = 0)⟩

/-- Conversion to a format without blocks, by code (0x22 is `bf16Pair`). -/
def convScalar (code : Nat) (rm : RM) (satMode : Bool) (a : Fp) : Conv :=
  if code = 0x09 ∨ code = 0x0A ∨ code = 0x13 then convInt (elemBits code) rm a
  else match floatFmt code with
    | some f => convFloat f rm satMode a
    | none => ⟨0, false, false⟩

/-- Is |a| above |b| for finite values? Everything else counts as 0. -/
def fpMagGt (a b : Fp) : Bool :=
  match a, b with
  | .fin _ m x, .fin _ m' x' => magGt m x m' x'
  | .fin _ _ _, _ => true
  | _, _ => false

/-- The largest finite magnitude of a list, as a finite value, or a zero (M of R42). -/
def maxFinite (vs : List Fp) : Fp :=
  vs.foldl (fun acc v => match v with
    | .fin _ m x => if fpMagGt (.fin false m x) acc then .fin false m x else acc
    | _ => acc) (.zero false)

/-- An element of an MX format before its limits: the fraction width and smallest exponent of its quantum, its largest
magnitude, and emax (R42). MXINT8 counts in steps of 2^−6. -/
structure MxElem where
  fmt : Option FFmt      -- none: MXINT8
  maxM : Nat
  maxX : Int
  emax : Int
deriving DecidableEq, Repr

/-- The element of an MX format code. -/
def mxElem (code : Nat) : MxElem :=
  match if code = 0x08 then none else floatFmt code with
  | some f => ⟨some f, f.maxMag.1, f.maxMag.2, f.emax⟩
  | none => ⟨none, 127, -6, 0⟩

/-- The quantum of an element value. -/
def MxElem.quantum (e : MxElem) (m : Nat) (x : Int) : Int :=
  match e.fmt with
  | some f => Sys2Proof.Machine.quantum f.M f.emin m x
  | none => -6

/-- The rounding that the scale check uses: stochastic rounding counts as rounding away from zero (R42). -/
def checkRm : RM → RM
  | .sr _ _ => .raz
  | r => r

/-- Does ±m × 2^x round above the element's largest finite value? -/
def MxElem.over (e : MxElem) (rm : RM) (neg : Bool) (m : Nat) (x : Int) : Bool :=
  let q := e.quantum m x
  magGt (roundQ rm neg m x q) q e.maxM e.maxX

/-- choose_scale of R42, as the exponent k (code − 127). Every element that holds the block maximum is rounded with its
own sign in the check. -/
def chooseK (e : MxElem) (rm : RM) (vs : List Fp) : Int :=
  match maxFinite vs with
  | .fin _ m x =>
    let k := ilog2 m + x - e.emax
    let raise := vs.any (fun v => match v with
      | .fin n m' x' => !magGt m x m' x' && e.over (checkRm rm) n m' (x' - k)
      | _ => false)
    let k := if raise then k + 1 else k
    max (-127) (min 127 k)
  | _ => 0

/-- One MX element at scale 2^k (R42, R44): `none` where the whole block becomes NaN. -/
def mxOne (e : MxElem) (rm : RM) (satMode : Bool) (k : Int) (v : Fp) : Option Conv :=
  let maxBits (n : Bool) : Nat := match e.fmt with
    | some f => f.maxOf n
    | none => if n then 0x81 else 0x7F
  match v with
  | .nan => none
  | .inf n => some ⟨maxBits n, true, false⟩
  | .zero n => some ⟨match e.fmt with | some f => f.pack n 0 0 | none => 0, false, false⟩
  | .fin n m x =>
    let x' := x - k
    let q := e.quantum m x'
    let r := roundQ rm n m x' q
    if magGt r q e.maxM e.maxX then
      if ovfIsMax rm satMode false n then some ⟨maxBits n, true, false⟩
      else match e.fmt with
        | some f => if f.special = .ieee then some ⟨f.infBits n, false, false⟩ else none
        | none => none
    else
      match e.fmt with
      | some f => some ⟨f.pack n r q, false, decide (r = 0)⟩
      | none => some ⟨if n then (256 - r) % 256 else r, false, decide (r = 0)⟩

/-- Counts of a list of conversions. -/
def satCountOf (cs : List Conv) : Nat := (cs.filter (·.sat)).length
/-- Counts of a list of conversions. -/
def vanCountOf (cs : List Conv) : Nat := (cs.filter (·.van)).length

/-- A block that holds a NaN: scale `sc`, every element bit 0, no counts (R42, R43). -/
def nanBlock (sc n : Nat) : ConvBlock := ⟨sc, List.replicate n 0, 0, 0⟩

/-- Is any element of the list NaN? -/
def anyNan (vs : List Fp) : Bool := vs.any (fun v => decide (v = Fp.nan))
/-- Is any element of the list infinite? -/
def anyInf (vs : List Fp) : Bool := vs.any (fun v => decide (v = Fp.inf true ∨ v = Fp.inf false))
/-- Does the list hold only zeros? -/
def allZero (vs : List Fp) : Bool := vs.all (fun v => decide (v = Fp.zero true ∨ v = Fp.zero false))

/-- The rounding of lane `i`: under SR each lane has its own random bits (R84, R85). -/
def laneRm (rms : List RM) (i : Nat) : RM := rms.getD i .rne

/-- Conversion of one MX block, Table NUM-6 in its order (R42, R43). `rms` gives each lane's rounding. -/
def convMx (code : Nat) (rms : List RM) (satMode : Bool) (vs : List Fp) : ConvBlock :=
  let e := mxElem code
  if anyNan vs then nanBlock 0xFF vs.length
  else if anyInf vs && !satMode then nanBlock 0xFF vs.length
  else if allZero vs then ⟨0x7F, List.replicate vs.length 0, 0, 0⟩
  else
    let k := chooseK e (laneRm rms 0) vs
    let cs := (List.range vs.length).map (fun i => mxOne e (laneRm rms i) satMode k (vs.getD i (.zero false)))
    if cs.any (·.isNone) then nanBlock 0xFF vs.length
    else
      let ds := cs.filterMap id
      ⟨(k + 127).toNat, ds.map (·.bits), satCountOf ds, vanCountOf ds⟩

/-- The finite positive E4M3 codes 0x01–0x7E in order: the fine scales of TL4 (R33). -/
def fineCodes : List Nat := (List.range 0x7E).map (· + 1)

/-- Is 6 × f at least M_y, exactly (R45)? -/
def fineEnough (f : Nat) (my : Fp) : Bool :=
  match fE4M3.decode f 0 with
  | .fin _ m x => !fpMagGt my (.fin false (6 * m) x)
  | _ => false

/-- One TL4 element: the E2M1 rounding of y / f, clamped to ±6 when it overflows (R45). -/
def tl4One (rm : RM) (f : Nat) (v y : Fp) : Conv :=
  let vz := decide (v = Fp.zero true ∨ v = Fp.zero false)
  match y, fE4M3.decode f 0 with
  | .inf n, _ => ⟨fE2M1.maxOf n, true, false⟩
  | .zero n, _ => ⟨fE2M1.pack n 0 0, false, !vz⟩
  | .fin n m x, .fin _ mf xf =>
    let d := divEx m x mf xf
    let q := quantum 1 0 d.1 d.2
    let r := roundQ rm n d.1 d.2 q
    if magGt r q fE2M1.maxMag.1 fE2M1.maxMag.2 then ⟨fE2M1.maxOf n, true, false⟩
    else ⟨fE2M1.pack n r q, false, decide (r = 0)⟩
  | _, _ => ⟨0, false, false⟩

/-- Conversion of one TL4 block of 16 values under coarse scale `c` (R45). An input that is no FP32 value (an INT32, or
the product of a TL4 element and its coarse scale) is rounded to FP32 by RNE before the division: DESIGN CHOICE, log 105. -/
def convTl4 (c : Word) (rms : List RM) (satMode : Bool) (vs : List Fp) : ConvBlock :=
  let ys := vs.map (fun v => fp32 (fdiv (toFp32 .rne v) c))
  if anyNan ys then nanBlock 0x7F vs.length
  else if anyInf ys && !satMode then nanBlock 0x7F vs.length
  else if allZero ys then
    ⟨0x38, List.replicate vs.length 0, 0, (vs.filter (fun v => !allZero [v])).length⟩
  else
    let my := maxFinite ys
    match (match my with
      | .fin _ _ _ => fineCodes.find? (fun f => fineEnough f my)
      | _ => some 0x38) with
    | none =>
      if satMode then
        let ds := (List.range vs.length).map (fun i =>
          tl4One (laneRm rms i) 0x7E (vs.getD i (.zero false)) (ys.getD i (.zero false)))
        ⟨0x7E, ds.map (·.bits), satCountOf ds, vanCountOf ds⟩
      else nanBlock 0x7F vs.length
    | some f =>
      let ds := (List.range vs.length).map (fun i =>
        tl4One (laneRm rms i) f (vs.getD i (.zero false)) (ys.getD i (.zero false)))
      ⟨f, ds.map (·.bits), satCountOf ds, vanCountOf ds⟩

/-- Conversion of one block of a block format by code. -/
def convBlock (code : Nat) (c : Word) (rms : List RM) (satMode : Bool) (vs : List Fp) : ConvBlock :=
  if code = 0x0B then convTl4 c rms satMode vs else convMx code rms satMode vs

/-- `l` cut into pieces of `n`, at most `fuel` of them. -/
def chunks {α : Type} (n : Nat) : Nat → List α → List (List α)
  | 0, _ => []
  | fuel + 1, l => if l.isEmpty then [] else l.take n :: chunks n fuel (l.drop n)

/-- The BF16 result pair (R50): hi, lo, and what it adds to SAT and VANISHED. The same random bits serve both halves. -/
def bf16Pair (rm : RM) (satMode : Bool) (a : Fp) : Nat × Nat × Bool × Bool :=
  let h := convFloat fBF16 rm satMode a
  match a, fBF16.decode h.bits 0 with
  | .nan, _ => (h.bits, 0, false, false)
  | .inf _, _ => (h.bits, 0, h.sat, false)
  | _, .inf _ => (h.bits, 0, h.sat, false)
  | .zero _, _ => (h.bits, 0, false, false)
  | .fin n m x, hv =>
    let hi : Int × Int := match hv with
      | .fin n' m' x' => (align n' m' x' (min x x'), min x x')
      | _ => (0, x)
    let d := align n m x hi.2 - hi.1
    let lo := convFloat fBF16 rm satMode
      (if d = 0 then .zero false else .fin (decide (d < 0)) d.natAbs hi.2)
    (h.bits, lo.bits, h.sat,
      decide (h.bits % 2 ^ 15 = 0) && decide (lo.bits % 2 ^ 15 = 0))

/-- x − y for one split step of R47, in FP32 (the difference is exact for finite values). -/
def splitSub (a b : Fp) : Fp := fp32 (addFp false .rne a (match b with
  | .fin n m x => .fin (!n) m x
  | .zero n => .zero (!n)
  | .inf n => .inf (!n)
  | .nan => .nan))

/-- One part of a split: the MXFP8-E4M3 conversion of a block (RNE, SAT mode), decoded again (R47). -/
def splitPart (vs : List Fp) : List Fp :=
  let b := convMx 0x03 [] true vs
  b.elems.map (fun e => decodeElem 0x03 e b.scale)

/-- The parts of a PAIR operand block: hi, lo, or hi, mid, lo (R47). -/
def splitParts : Nat → List Fp → List (List Fp)
  | 0, _ => []
  | n + 1, vs =>
    let p := splitPart vs
    p :: splitParts n ((List.range vs.length).map
      (fun i => splitSub (vs.getD i (.zero false)) (p.getD i (.zero false))))

end Sys2Proof.Machine
end

