-- ==== Sys2Proof/Machine/MacArray.lean ====
section
/-!
DEFINITION. The order of sums: exact products, group windows (R54), the combine (R55), the single rounding (R56), the
integer path (R58), long-sum promotion (R62), strict mode (R64) and the residue check (R68).
-/
namespace Sys2Proof.Machine

/-- The sum of one group of 32 products (R54): its class, and for FIN its window value W and emax. -/
inductive Group where
  | zero
  | nan
  | inf (neg : Bool)
  | fin (W : Int) (emax : Int)
deriving DecidableEq, Repr

/-- e(p) of a FIN product (R54). -/
def prodExp (m : Nat) (x : Int) : Int := ilog2 m + x

/-- emax over the FIN products of a group (R54), if any is FIN. -/
def groupEmax : List Fp → Option Int
  | [] => none
  | .fin _ m x :: ps =>
    match groupEmax ps with
    | some e => some (max e (prodExp m x))
    | none => some (prodExp m x)
  | _ :: ps => groupEmax ps

/-- The aligned term T_k of a product at window exponent L: exact to the left, truncated toward −∞ to the right (R54). -/
def groupTerm (L : Int) (p : Fp) : Int :=
  match p with
  | .fin n m x =>
    let P : Int := if n then -(m : Int) else (m : Int)
    let d := L - x
    if d ≤ 0 then P * ((2 ^ (-d).toNat : Nat) : Int) else P / ((2 ^ d.toNat : Nat) : Int)
  | _ => 0

/-- W of a group at window exponent L (R54). -/
def groupW (L : Int) (ps : List Fp) : Int := (ps.map (groupTerm L)).sum

/-- group_sum of R54, with NaN and infinity by R46. -/
def groupSum (ps : List Fp) : Group :=
  if anyNan ps then .nan
  else
    let pi := ps.any (fun p => decide (p = Fp.inf false))
    let ni := ps.any (fun p => decide (p = Fp.inf true))
    if pi && ni then .nan
    else if pi then .inf false
    else if ni then .inf true
    else match groupEmax ps with
      | none => .zero
      | some e => .fin (groupW (e - 40) ps) e

/-- The largest g_j = emax_j + 1 over the FIN groups (R55). -/
def gMax : List Group → Option Int
  | [] => none
  | .fin _ e :: gs =>
    match gMax gs with
    | some g => some (max g (e + 1))
    | none => some (e + 1)
  | _ :: gs => gMax gs

/-- One group's share of the combine (R55). -/
def combineTerm (g : Int) (gr : Group) : Int :=
  match gr with
  | .fin W e =>
    let d := g - e - 4
    if d ≤ 0 then W * ((2 ^ (-d).toNat : Nat) : Int) else W / ((2 ^ d.toNat : Nat) : Int)
  | _ => 0

/-- C of R55 in units of 2^(gmax − 44). -/
def combineC (g : Int) (gs : List Group) : Int := (gs.map (combineTerm g)).sum

/-- The pass result before the coarse factor (R55, R56, R46). -/
def passResult (gs : List Group) : Word :=
  let nan := gs.any (fun g => decide (g = Group.nan))
  let pi := gs.any (fun g => decide (g = Group.inf false))
  let ni := gs.any (fun g => decide (g = Group.inf true))
  if nan || (pi && ni) then nan32
  else if pi then inf32 false
  else if ni then inf32 true
  else match gMax gs with
    | none => zero32 false
    | some g => roundInt32 .rne (combineC g gs) (g - 44)

/-- The exact products of a row and a column (R54). -/
def products (as bs : List Fp) : List Fp := List.zipWith mulEx as bs

/-- The groups of a pass: 32 products each, in K order (R54). -/
def passGroups (ps : List Fp) : List Group := (chunks 32 (ps.length + 1) ps).map groupSum

/-- A pass result times the coarse factor, when that differs from 1.0 (R37, R56). -/
def coarse (c r : Word) : Word := if c = 0x3F800000#32 then r else fmul .rne r c

/-- The element after one fast-mode pass, and whether the pass sets ACC_INF (R46, R56). -/
def fastPass (acc c : Word) (ps : List Fp) : Word × Bool :=
  let r := coarse c (passResult (passGroups ps))
  let a := fadd false .rne acc r
  (a, isInf r || isInf a)

/-- One serial chain of strict mode: g over the products of a group (R64). -/
def strictChain (ps : List Fp) : Word :=
  match ps with
  | [] => zero32 false
  | p :: rest => rest.foldl (fun g q => addFp true .rne (fp32 g) q) (toFp32 .rne p)

/-- strict_pass of R64: each chain's value takes the coarse factor before its addition. -/
def strictPass (acc c : Word) (ps : List Fp) : Word × Bool :=
  (chunks 32 (ps.length + 1) ps).foldl (fun (s : Word × Bool) g =>
    let r := coarse c (strictChain g)
    let a := fadd true .rne s.1 r
    (a, s.2 || isInf r || isInf a)) (acc, false)

/-- The exact sum of an integer pass (R58). -/
def intPassSum (as bs : List Fp) : Int := (List.zipWith (fun a b => a.toInt * b.toInt) as bs).sum

/-- INT32 accumulation of an exact addend under WRAP or SAT (R58): the element and whether it clamped. -/
def intAccum (sat : Bool) (acc : Word) (s : Int) : Word × Bool :=
  let t := acc.toInt + s
  if sat then
    if t > 2 ^ 31 - 1 then (0x7FFFFFFF#32, true)
    else if t < -(2 ^ 31) then (0x80000000#32, true)
    else (BitVec.ofInt 32 t, false)
  else (BitVec.ofInt 32 t, false)

/-- promote of R62: hi, lo and whether ACC_INF is set. two_sum and fast_two_sum are exact, so their second parts are
the exact residuals. -/
def promote (strict : Bool) (hi lo a : Word) : Word × Word × Bool :=
  let s := fadd strict .rne hi a
  if !isFinite s then (s, zero32 false, isInf s)
  else
    let t := fadd strict .rne lo (residual hi a s)
    let h := fadd strict .rne s t
    if !isFinite h then (h, zero32 false, isInf h)
    else (h, residual s t h, false)

/-! The residue check (R68). -/

/-- Residues of a decoded operand modulo 7 (R68). -/
def residue7 (p : Fp) : Nat :=
  match p with
  | .fin _ m _ => m % 7
  | _ => 0

/-- rho_k of R68 for one product of operands `a` and `b`, at window exponent L. -/
def rho (L : Int) (a b : Fp) : Int :=
  match a, b with
  | .fin na ma xa, .fin nb mb xb =>
    let p := mulEx (.fin na ma xa) (.fin nb mb xb)
    let d := L - (xa + xb)
    let sigma : Int := if na != nb then -1 else 1
    let P : Int := sigma * ((ma * mb : Nat) : Int)
    let q : Int := if d > 0 then P - groupTerm L p * ((2 ^ d.toNat : Nat) : Int) else 0
    ((sigma * (residue7 a : Int) * (residue7 b : Int) - q % 7)
      * ((2 ^ ((-d) % 3).toNat : Nat) : Int)) % 7
  | _, _ => 0

/-- The value that the check side-path predicts for W modulo 7 (R68). -/
def predicted7 (L : Int) (as bs : List Fp) : Int := (List.zipWith (rho L) as bs).sum % 7

end Sys2Proof.Machine
end

