-- ==== Sys2Proof/Machine/State.lean ====
section
/-!
DEFINITION. The state of the LK1620 as plain data: every register, memory, queue, counter, mode and pin that the spec
gives the die, the queue of waiting commands, what may stop a step, and the state right after the always-on reset.
Every array is a table (`Tbl`) over its reset value.
-/
namespace Sys2Proof.Machine

/-- Why the machine stops: no row of the spec ends the run, so there is no such reason. -/
inductive Fault where
deriving DecidableEq, Repr

/-- Why the model gives no meaning. -/
inductive Refusal where
  /-- Raised by Dispatch alone, for a command with no meaning yet. Safe: no claim holds of it. -/
  | notModelled (mnemonic : String)
deriving DecidableEq, Repr

/-- The CXL.cache requests that the die uses (Table HOST-7). -/
inductive CacheReq where
  | rdShared | rdOwn | itoMWr | dirtyEvict | cleanEvict | cleanEvictNoData | cacheFlushed
deriving DecidableEq, Repr

/-- What leaves the die on a pin or a port: replies, interrupts, flits. -/
inductive Out where
  | sb (status : Nat) (data : Word) (crc : Nat)      -- the register port's response (R293)
  | bar0 (data : Word)                               -- a BAR0 read's data
  | hostData (line : List Byte) (poison : Bool)      -- a CXL.mem read's data (R178)
  | snoop (resp : String) (data : List Byte)         -- a snoop response (R183)
  | msix (vec : Nat)                                 -- an MSI-X message (R144)
  | flit (k : Nat) (f : Flit)                        -- a flit on port k (R196)
  | ial (slots : Nat)                                -- an IAL frame as driven: bit n is 0 where slot n was pulled low (R299)
  | cxl (req : CacheReq) (line : Nat)                -- a CXL.cache request (Table HOST-7)
  | evicted (line : Nat) (data : List Byte) (poison : Bool) -- an eviction's data, pulled by the host's grant (R184)
deriving DecidableEq, Repr

/-- A tensor descriptor (Table CMD-3). -/
structure Desc where
  addr : Nat := 0
  scaleAddr : Nat := 0
  pitch : Nat := 0
  format : Nat := 0
  source : Nat := 0
  coarse : Word := 0#32
  reserved : Bool := false    -- a byte that must be 0 is not
  unread : Bool := false      -- it lies outside what the partition may read (R130)
deriving DecidableEq, Repr

/-- A stage entry (Table FUSE-2). -/
structure Stage where
  kind : Nat := 0
  storeFmt : Nat := 0
  sub : Nat := 0
  arg8 : Nat := 0
  arg16 : Nat := 0
  tmo : Nat := 0
  argA : Word := 0#32
  argB : Word := 0#32
  addr : Nat := 0
  addr2 : Nat := 0
deriving DecidableEq, Repr

/-- A fusion descriptor (Table FUSE-1); `named` is false where the command names none. -/
structure Fusion where
  named : Bool := false
  nstage : Nat := 0
  proFlags : Nat := 0
  proAct : Nat := 0
  proFmt : Nat := 0
  proNorm : Nat := 0
  proT : Nat := 0
  proInvn : Word := 0#32
  proEps : Word := 0#32
  statsAddr : Nat := 0
  idxAddr : Nat := 0
  gatherRows : Nat := 0
  reserved : Bool := false
  unread : Bool := false      -- a part of it lies outside what the partition may read (R130)
  stages : List Stage := []
deriving DecidableEq, Repr

/-- The CHAIN parameter block (Table CMD-4). -/
structure ChainP where
  m : Nat := 0
  l : Nat := 0
  scale : Word := 0#32
  offset : Nat := 0
  d : Nat := 0
  dv : Nat := 0
  pFmt : Nat := 0
  mask : Nat := 0
  sSlot : Nat := 0
  oSlot : Nat := 0
  mlSlot : Nat := 0
  fEntry : Nat := 0
  flags : Nat := 0
  reserved : Bool := false
  unread : Bool := false      -- it lies outside what the partition may read (R130)
deriving DecidableEq, Repr

/-- One outgoing stream of a command: its SEND stage (8 for a SEND command), destination and SID, whether its data are
all queued, its flag sent, the answer received: 0 none, 1 DONE, 2 REFUSED, 3 ABORTED (R196, R198), and the CHANNEL
tiles sent, with their format code and rows, for a retry (R199). -/
structure Stream where
  stage : Nat := 0
  dst : Nat := 0
  sid : Nat := 0
  flagSent : Bool := false
  answer : Nat := 0
  kept : List (Nat × Nat × List Byte) := []
  via : List Nat := []       -- relays through which it has sent flits (R204)
deriving DecidableEq, Repr

/-- A fetched command from its fetch to its record (R125, R143). -/
structure Cmd where
  q : Nat
  t : Nat
  part : Nat := 0
  cls : Nat := 0
  e : List Byte := []
  dA : Desc := {}
  dB : Desc := {}
  dV : Desc := {}
  dOut : Desc := {}
  fu : Fusion := {}
  ch : ChainP := {}
  seed : Word := 0#32
  started : Bool := false             -- nothing of Table CMD-6 holds it any more
  crests : List Nat := []             -- logical crests assigned (R135)
  next : Nat := 0                     -- lowest tile (unit) never started
  redo : List Nat := []               -- tiles that became unstarted again (R137)
  doneTiles : Nat := 0
  total : Nat := 0
  fin : Option (Nat × Nat) := none    -- STATUS, SUB once the command has ended
  busy : Nat := 0
  waits : Tbl Nat := []               -- wait CCLK by cause code (Table CMD-11)
  early : Tbl Nat := []               -- wait MCLK by cause code before its crests are assigned (R143)
  energy : Nat := 0
  sat : Nat := 0
  van : Nat := 0
  satHit : Bool := false
  accInf : Bool := false
  eccCorr : Bool := false
  retried : Bool := false
  img : Nat := 0                      -- LOADPROG: bytes of the image that it names, as its header gives them
  image : List Byte := []             -- LOADPROG: the image as acceptance read and checked it (R92)
  dbg : Bool := false                 -- a debug write reached a crest that holds it: its results are unspecified (R338)
  streams : List Stream := []
  added : List (Nat × Nat) := []      -- REDUCE_RECV: (tile k, source rank) already added
  flagsIn : List Nat := []            -- REDUCE_RECV: sources whose flag has arrived
  need : Nat := 0                     -- slices that it names: they wake before it runs (R21)
  expired : Bool := false             -- WAIT: its timer has reached terminal count, its final read is held (R164)
  lost : Nat := 0                     -- slices of its partition that were retired since its acceptance (R274)
deriving DecidableEq, Repr

/-- A tile (or unit) under way on a crest. -/
structure Work where
  q : Nat := 0
  t : Nat := 0
  tile : Nat := 0
  j : Nat := 0            -- the crest's j-th tile of the command: its slot (R128)
  phase : Nat := 0        -- 0 rows streaming; 1 CHAIN E invocation due; 2 CHAIN P·V rows; 3 epilogue due; 4 the tile's own invocation due or running; 5 a unit of MOVE, CONVERT or SEND
  kb : Nat := 0           -- K-block, or CHAIN key tile
  pass : Nat := 0         -- index in the pass order of R48
  row : Nat := 0          -- next row of the tile
  passes : Nat := 0       -- passes added so far (R62)
  gen : Nat := 0          -- steps that the tile's generators have taken since their seeding (R85)
  spent : Nat := 0        -- busy CCLK charged for the tile so far (R137)
  pre : Bool := false     -- preempted by a command of a higher class (R136)
deriving DecidableEq, Repr

/-- A weight bank: which block it holds, and its columns of decoded elements in K order (R51, R53). -/
structure Bank where
  q : Nat := 0
  t : Nat := 0
  tile : Nat := 0
  kb : Nat := 0
  part : Nat := 0
  full : Bool := false
  data : List (List Fp) := []
deriving DecidableEq, Repr

/-- A program handle of a crest (R89, R92). -/
structure Handle where
  bound : Bool := false
  off : Nat := 0
  count : Nat := 0
  entries : List Nat := []
  slotMask : Nat := 0
  limit : Nat := 0
  image : Nat := 0
  loading : Bool := false
  stale : Bool := false     -- its instructions were lost; a reload is due (R94)
deriving DecidableEq, Repr

/-- The running invocation of a crest (R75). -/
structure Inv where
  q : Nat := 0
  t : Nat := 0
  tile : Nat := 0
  handle : Nat := 0
deriving DecidableEq, Repr

/-- What the transpose/gather buffer keeps of one pair of A segment and K-block of a command: its processed rows (R104). -/
structure FeedBuf where
  q : Nat
  t : Nat
  m : Nat                   -- the M-tile
  kb : Nat
  rows : Tbl (List Fp) := []
deriving DecidableEq, Repr

/-- Power states of a crest (R226); RETIRED reads from RP_RETIRED_CREST. -/
inductive CrestPw where
  | run | idle | nap | off
deriving DecidableEq, Repr

/-- Power states of a slice (R226). -/
inductive SlicePw where
  | on | retain | off
deriving DecidableEq, Repr

/-- A piece of accumulator memory: a slot and rows from `lo` to below `hi`; whether its command writes there (R70). -/
structure AccRange where
  slot : Nat
  lo : Nat
  hi : Nat
  writes : Bool := true
deriving DecidableEq, Repr

/-- A physical crest. -/
structure Crest where
  pw : CrestPw := .off
  waking : Bool := false
  level : Nat := 15
  pendLevel : Option Nat := none       -- the level its synthesiser is to switch to (R247)
  held : List (Nat × Nat) := []        -- held commands (queue, tag), acceptance order (R135)
  stopped : List (Nat × Nat) := []     -- of those, held at the scoreboard for an accumulator conflict (R70)
  work : List Work := []               -- the current tile first, then preempted ones (R136)
  counts : List ((Nat × Nat) × Nat) := []   -- tiles begun per held command (R128)
  ready : List (Nat × Nat × Nat) := []  -- (queue, tag, tile) due for an invocation, in the order of becoming so (R75)
  active : Nat := 0                    -- active weight bank
  streamed : Nat := 0                  -- CCLK for which rows have streamed through its block (R53)
  w0 : Bank := {}
  w1 : Bank := {}
  rowBuf : List Fp := []
  feed : List FeedBuf := []            -- the transpose/gather buffer (R104)
  acc : Tbl Word := []                 -- slot × 2^14 + row × 2^7 + element (R59, R338)
  V : Tbl Word := []                   -- reg × 128 + lane
  S : Tbl Word := []
  M : Tbl (BitVec 128) := []           -- M1–M7; M0 reads all ones (Table VEC-1)
  redWait : Tbl Nat := []              -- CCLK until a RED result of an S register may be read (R74)
  sta : List ((Nat × Nat) × Nat × BitVec 128) := [] -- accumulator elements that tile programs of held commands wrote: command, slot × 128 + row, lanes (R82)
  pc : Nat := 0
  steps : Nat := 0
  inv : Option Inv := none
  prog : Tbl DWord := []
  handles : Tbl Handle := []
  halted : Bool := false
  quiet : Bool := false                -- held in a quiet slot (R259)
  quietAt : Option Nat := none         -- µs time of its last quiet slot
  droop : Bool := false
  past : List ((Nat × Nat) × List AccRange) := [] -- what commands in flight that it has let go left in its accumulators (R141)
  lentTo : Option Nat := none          -- the partition it is lent to (R137)
  lastPart : Option Nat := none        -- the partition that last held it (R218)
  heldAt : Option Nat := none          -- µs time at which it last let a command go (R263)
  cls : Nat := 0                       -- phase class of the last window (R260)
  sig : List Nat := []                 -- a0–a7 of the last window
  pEst : Rat := 0                      -- estimated power of the last window, in W (R257)
  wAdj : Tbl Rat := []                 -- refinement of the factory weights (R257)
  learn : Tbl (Rat × Nat) := []        -- learned ratio and sample count per class (R260)
  offs : Tbl (Option (Rat × Nat)) := [] -- quiet-measured offset and its time, at level × 8 + band (R257)
  resCount : Nat := 0
  parCount : Nat := 0
deriving DecidableEq, Repr

/-- A command that is held, and since when: the causes of Table CMD-11 that hold it on a crest, or, as crest 17, before
its first crest (R143). -/
structure Hold where
  q : Nat
  t : Nat
  p : Nat
  causes : Nat              -- bit (cause code), bit 7 a halt (R225)
  since : Nat               -- µs
deriving DecidableEq, Repr

/-- A slice. -/
structure Slice where
  pw : SlicePw := .off
  waking : Bool := false
  transit : Bool := false
  unavailable : Bool := false          -- its tier regulator stopped: contents lost, not yet zeroised (R239)
  spares : Nat := 64
  ce : Nat := 0
  ue : Nat := 0
  sparing : Option (Nat × Bool) := none  -- row, and whether the copy has ended (R272)
  spareQ : List Nat := []
  copied : List Nat := []              -- of these, rows whose spare already stands in their place (R272)
  scrub : Nat := 0                     -- next line of the scrub pass (R273)
deriving DecidableEq, Repr

/-- A partition. -/
structure Part where
  crests : Nat := 0
  slices : Nat := 0
  queues : Nat := 0
  ctl : Nat := 0          -- PT_CTL (Table PART-1)
  guar : Nat := 3         -- PT_GUARANTEE
  st : Nat := 0           -- 0 FREE, 1 ACTIVE, 2 RESHAPING, 3 RESETTING, 4 DESTROYING
  lastResult : Nat := 0
  lastDetail : Nat := 0
  unitLost : Bool := false
  energy : Nat := 0       -- bank 0x05 partition counter (R264)
  lastQ : Nat := 63       -- the queue last served (R134)
deriving DecidableEq, Repr

/-- A path's staging copy of the PT_ registers and its PT_SEL (R207, R327). -/
structure Staging where
  sel : Nat := 0
  crests : Nat := 0
  slices : Nat := 0
  queues : Nat := 0
  ctl : Nat := 0
  guar : Nat := 3
deriving DecidableEq, Repr

/-- A pending overflow record (R123). -/
structure Ovf where
  first : Nat := 0
  requested : Nat := 0
  head : Nat := 0
  count : Nat := 0
deriving DecidableEq, Repr

/-- Queue states (Table CMD-1). -/
inductive QSt where
  | disabled | run | halted | stopping
deriving DecidableEq, Repr

/-- A hardware queue (Table CMD-1). -/
structure Queue where
  sqBase : Nat := 0
  cqBase : Nat := 0
  cfg : Nat := 0x44
  irq : Nat := 0
  st : QSt := .disabled
  tail : Nat := 0
  head : Nat := 0
  cqHead : Nat := 0
  cqTail : Nat := 0
  ovfBit : Bool := false
  dbDisabled : Bool := false
  cfgLocked : Bool := false
  cfgBad : Bool := false
  haltTag : Nat := 0
  ovf : Option Ovf := none
  unsig : Nat := 0          -- records not yet signalled (R144)
  slicesAtRun : Nat := 0    -- the partition's slices when the queue last entered RUN (R130)
  hold : Option Nat := none -- the tag of the BARRIER, FENCE or WAIT that holds later commands
  energy : Nat := 0         -- bank 0x05 queue counter (R264)
deriving DecidableEq, Repr

/-- A regulator (Table SUP-4). -/
structure Reg where
  st : Nat := 0
  attempt : Nat := 0
  tries : Nat := 0          -- attempts made in the present sequence (R238)
  senseFail : Bool := false
  permanent : Bool := false
  openMask : Nat := 0
  limit : Nat := 100
  setpoint : Nat := 0
  vout : Nat := 0
  iin : Nat := 0
  phStat : Tbl Nat := []
  phI : Tbl Nat := []
  phVerify : Tbl Nat := []
  lowOnce : Nat := 0        -- phases that met the open condition in the last window (R240)
  pulse : Nat := 0          -- phases under a diagnostic pulse (R241)
deriving DecidableEq, Repr

/-- A host module (Table REG-9). -/
structure HMod where
  st : Nat := 0
  best : Nat := 0
  reach : Nat := 0           -- bit c − 1: configuration c of Table HOST-2 reached at the last training
  repairs : Nat := 0
  retrains : Nat := 0
  attempt : Nat := 0
  crcRetries : Nat := 0      -- adapter CRC retries (R171)
deriving DecidableEq, Repr

/-- A peer port: LK_PORT fields, sequence spaces, credits, buffers (R189–R203). -/
structure PPort where
  st : Nat := 0              -- 0 OFF, 1 TRAINING, 2 ACTIVE, 3 RETRAIN, 4 DISABLED, 5 RETIRED
  mode : Nat := 0
  disCause : Nat := 0
  retrains : Nat := 0
  attempt : Nat := 0
  helloSeen : Bool := false
  nextSeq : Nat := 0
  expect : Nat := 0
  nakSent : Bool := false
  sendNak : Bool := false
  resends : Nat := 0         -- times the oldest held flit was resent (R193)
  held : List Flit := []     -- replay buffer, oldest first
  resend : Nat := 0          -- how many of `held`, from the newest end, still go out again
  crData : Nat := 64         -- credits to send with
  crFlag : Nat := 8
  crMgmt : Nat := 4
  crRelay : Nat := 32
  oweData : Nat := 0         -- credits owed to the other side
  oweFlag : Nat := 0
  oweMgmt : Nat := 0
  oweRelay : Nat := 0
  qMgmt : List Flit := []
  qFlagAck : List Flit := []
  qFlag : List Flit := []
  qRelay : List Flit := []
  qData : List (Nat × Flit) := []   -- own data, each with the logical crest that sends it (R196)
  lastCrest : Nat := 15      -- the logical crest whose data went last (R196)
  resync : Bool := false     -- the link is lost; held flits wait for RESYNC_RSP (R203)
  again : List Flit := []    -- flits of a lost link that go again through this port, in order (R203)
  replays : Nat := 0         -- replays so far (R193)
  relayTurn : Bool := false  -- whether a relayed flit went last (R196)
  relayIn : List Flit := []  -- flits accepted here that are to be relayed
deriving DecidableEq, Repr

/-- MESI states of the device coherent cache (R182). -/
inductive Mesi where
  | M | E | S | I
deriving DecidableEq, Repr

/-- A line of the device coherent cache. -/
structure CLine where
  st : Mesi := .I
  data : List Byte := []
  poison : Bool := false
deriving DecidableEq, Repr

/-- An entry of the eviction buffer (R184). -/
structure Evict where
  line : Nat
  modified : Bool
  pulled : Bool
  snooped : Bool
  data : List Byte
  poison : Bool
deriving DecidableEq, Repr

/-- A write not yet performed for every observer, or one that follows such a write in its line (R152–R156): the line,
what it held before, the bytes written, the writing command and crest, and the scope at which it has been performed:
0 CREST … 2 HOST, none before its release. -/
structure Pend where
  id : Nat := 0              -- its number among the open values of the run
  q : Nat
  t : Nat
  crest : Option Nat
  line : Nat
  old : List Byte
  bytes : List (Nat × Byte)
  scope : Option Nat
  after : List Nat := []     -- earlier writes of the line that its crest issued before it (R151)
  seenBy : List Nat := []    -- crests of which a command that they have let go may have seen it (R151)
deriving DecidableEq, Repr

/-- One word of the dispatcher's atomic buffer (R159). -/
structure ABuf where
  addr : Nat
  width : Nat
  val : Nat
deriving DecidableEq, Repr

/-- An error log entry (Table FLT-4). -/
structure LogEntry where
  code : Nat := 0
  cls : Nat := 0
  kind : Nat := 0
  unit : Nat := 0
  part : Option Nat := none
  time : Nat := 0
  cmd : Option (Nat × Nat) := none
  count : Nat := 0
  detail : Nat := 0
  addr : Nat := 0
  seq : Nat := 0
deriving DecidableEq, Repr

/-- A trace entry (R341); `zeroed` after its partition's PT_CREATE or PT_DESTROY. -/
structure TraceEntry where
  event : Nat := 0
  crest : Nat := 0
  q : Nat := 0
  part : Nat := 0
  status : Nat := 0
  tag : Nat := 0
  mclk : Word := 0#32
  seq : Nat := 0
  zeroed : Bool := true
deriving DecidableEq, Repr

/-- The reshape journal (R214): the running PT_RESHAPE or PT_DESTROY. -/
structure Journal where
  opcode : Nat := 0
  part : Nat := 0
  phase : Nat := 1           -- Table PART-4: 1 QUIESCE … 5 WAKE
  remCrests : Nat := 0
  remSlices : Nat := 0
  remQueues : Nat := 0
  newCrests : Nat := 0
  newSlices : Nat := 0
  newQueues : Nat := 0
  newCtl : Nat := 0
  newGuar : Nat := 3
  transit : Nat := 0         -- slices in transit, not yet zeroised
  marked : Nat := 0          -- slices whose zeroisation has ended
deriving DecidableEq, Repr

/-- Sideband registers and phases (Table SB-11, R286–R303). -/
structure Sb where
  service : Bool := false        -- SERVICE phase
  strapHold : Bool := false
  straps : Nat := 0              -- SB_STRAPS
  aligned : Bool := false
  armed : Bool := false
  syncTmo : Bool := false
  ialStuck : Bool := false
  epochConflict : Bool := false
  peerAlert : Nat := 0
  epoch : Nat := 0xF
  lastSlots : Nat := 0xFFFF
  slotEn : Nat := 0
  alarmOn : Bool := false        -- slot 4 read asserted in the last decoded frame
  alarmClear : Nat := 4          -- frames slot 4 has read released in a row
  dropClear : Nat := 4           -- frames slot 5 has read released in a row
  driven : Nat := 0xF            -- the epoch that this die latched at the frame's start as leader (R301)
  ownLimit : Nat := 0            -- on the leader, its own L of the last frame in which another die drove the epoch (R301)
  frameBusy : Bool := false      -- the register port is not idle (R291)
deriving DecidableEq, Repr

/-- Power control (Table PWR-2, R250–R263). Energies of samples are in pJ: mA × mV over 1 µs. -/
structure Pwr where
  capSust : Nat := 0x1400
  capPk1 : Nat := 0x1CC0
  capPk2 : Nat := 0x1A40
  mode : Nat := 0
  dropLevel : Nat := 15
  modeNow : Nat := 0             -- the mode in force since the last cap-loop period (R249)
  fixedLevel : Nat := 6
  prio : Nat := 0x76543210
  meas : Nat := 0
  est : Nat := 0
  energy : Nat := 0              -- PW_ENERGY, 2^−6 µJ
  hiLatch : Nat := 0
  sust : Bool := false
  pk1 : Bool := false
  pk2 : Bool := false
  fixedBroken : Bool := false
  lag : Bool := false
  tripBit : Bool := false
  droopCnt : Nat := 0
  stale : Bool := false
  quietTime : Nat := 0           -- µs time of the last quiet measurement
  quietEn : Bool := true
  learnEn : Bool := true
  groupCap : Nat := 0
  vinLow : Bool := false
  supplyAlarm : Bool := false
  capDrop : Bool := false
  seqTimeout : Bool := false
  seqPresent : Bool := true
  tripped : Bool := false
  accW : Nat := 0                -- pJ sampled and not yet in PW_ENERGY
  accWin : Tbl Nat := []         -- pJ of each crest regulator in the present 2 µs window
  est10 : Rat := 0               -- watts of the crests' estimates, summed over the windows since the last cap-loop period
  estN : Nat := 0                -- those windows
  acc10 : Nat := 0               -- pJ sampled since the last cap-loop period, as control takes it
  accCrest : Tbl Nat := []       -- of it, each crest regulator's
  bins10 : List Nat := []        -- 10 µs bins, newest first (R250)
  bins100 : List Nat := []       -- full 100 µs bins, newest first
  bins1000 : List Nat := []      -- full 1 ms bins, newest first
  open100 : Nat := 0             -- the open bins, and the periods in them
  open1000 : Nat := 0
  periods : Nat := 0
  temps : Tbl Int := []          -- last reading of each sensor, in 1/4 °C
  excluded : Tbl Bool := []
  hotOnce : Tbl Bool := []       -- the sensor's last reading was 115 °C or more
  thermal : Tbl Nat := []        -- thermal ceiling of each region, by first sensor
  coolSince : Tbl (Option Nat) := [] -- µs time since which a region has read below 97 °C with no change
  uniform : Nat := 15            -- the uniform level that this die computes in LOCKSTEP (R262)
  effCap : Option Nat := none    -- the latest GROUP_CAP entry (R263)
  epochSent : Nat := 0
  caps : Tbl Rat := []           -- the leader's cap of each member, in 1/16 W
  capsSet : Option Nat := none   -- the membership that the caps were set for
  slackIdx : Nat := 0
  slackOf : Tbl (Option (Int × Nat × Nat × Nat)) := []  -- last SLACK of each member: slack, power, cap, time
deriving DecidableEq, Repr

/-- Management, security and debug registers. -/
structure Mgmt where
  stage : Nat := 0               -- MG_STATE.STAGE
  cause : Nat := 1               -- MG_STATE.STBY_CAUSE
  lastReset : Nat := 0
  fwRunning : Bool := false
  device : Nat := 1              -- 0 OFF, 1 STANDBY, 2 READY, 3 RUN (Table DIE-3)
  released : Bool := true        -- the always-on reset is released
  cmdStatus : Nat := 0           -- MG_CMDSTAT
  cmdDetail : Nat := 0
  pending : List (Path × Nat) := []  -- PT_RESETs that are held, in order (R209)
  dropped : Bool := false
  running : Option Nat := none   -- the opcode of the management command that runs
  linkTarget : Nat := 0          -- of a RESET_LINK that runs: 0 the host link, k + 1 port Tk
  badEnc : Bool := false
  indBusy : Bool := false
  fatalSupply : Bool := false
  minLost : Bool := false
  lostKind : Nat := 0
  alertEn : Nat := 0
  alertStat : Nat := 0           -- W1C bits of MG_ALERT_STAT
  capBuilt : Bool := false
  capGen : Nat := 0
  bankPort : Nat := 0
  iaPort : Nat := 0
  bankBar0 : Nat := 0
  iaBar0 : Nat := 0
  debugLevel : Nat := 0
  debugDenied : Bool := false
  taint : Nat := 0
  measure : List Byte := List.replicate 32 0#8
  policy : Nat := 0xB            -- SE_POLICY
  policyLock : Nat := 0          -- RWL fields already written
  keySlot : Nat := 0
  unsignedRun : Bool := false
  rollback : Nat := 0
  haltReq : Nat := 0
  haltStat : Nat := 0
  resetDue : Option Nat := none  -- the logical crest whose RESET_CREST waits for the spare (R322)
  linkSince : Option Nat := none -- µs time at which a LINK reset of the host link began, while it runs (R321)
  dbgSpace : Nat := 0
  dbgAddr : Nat := 0
  threshCount : Nat := 3
  threshWindow : Nat := 10
  diag : Nat := 3                -- RP_DIAG_CTL
deriving DecidableEq, Repr

/-- Repair state that survives every reset but COLD (R268). -/
structure Repair where
  crestMap : Tbl Nat := []       -- logical crest to physical, where it differs from the identity (R269)
  spareSt : Nat := 0             -- 0 FREE, 1 BOUND, 2 RETIRED
  replaces : Nat := 0
  factory : Bool := false
  retCrest : Nat := 0
  retSlice : Nat := 0
  retCol : Nat := 0
  retMod : Nat := 0
  retPort : Nat := 0
  bindDue : Option Nat := none   -- a logical crest whose spare is starting (R276)
  errs : Tbl (List Nat) := []    -- times of the last errors of a unit, at kind × 256 + unit (R267)
  xfer : Tbl Nat := []           -- XFER_COUNT of each col
  bistPassed : Nat := 0          -- physical crests that passed boot BIST
deriving DecidableEq, Repr

/-- Firmware banks and the paths to them (R311–R313, R175). -/
structure Fw where
  run : Tbl Byte := []
  stage : Tbl Byte := []
  runLen : Nat := 0
  stageOpen : Bool := false
  verifying : Option (Nat × Nat) := none   -- length, and who asked: 0 mailbox, 1 register port, 2 WARM
  handover : Bool := false
  version : Nat := 0
  go : Bool := false
  irq : Bool := false
  vector : Nat := 0
  opcode : Nat := 0
  len : Nat := 0
  result : Nat := 0
  outLen : Nat := 0
  payload : Tbl Byte := []
deriving DecidableEq, Repr

/-- A CXL.mem access that is held: by its page's bias change (R181), the copy of its row (R272), or the link's retrain
(R170). -/
inductive HostAcc where
  | read (addr : Nat) (ecc : Option EccKind) (word : Nat)
  | write (addr : Nat) (bytes : List (Option Byte)) (poison : Bool)
deriving DecidableEq, Repr

/-- What an access of a command waits for, the wait charged as STORE: a bias change of its page (R181), the copy of a row
that is being spared (R272), the host link's retrain (R170), an entry of the eviction buffer (R184). -/
inductive WaitFor where
  | bias
  | sparing (n : Nat)
  | hostLink
  | evictRoom
deriving DecidableEq, Repr

/-- The bias control block (Table HOST-6) and the change under way. -/
structure Bias where
  page : Nat := 0
  count : Nat := 0
  busy : Bool := false
  done : Bool := false
  err : Bool := false
  toHost : Bool := false
  cur : Nat := 0                 -- the page that is changing
  left : Nat := 0                -- pages still to change, this one included
  hostPages : Tbl Bool := []     -- pages in host bias (R179)
  heldHost : List HostAcc := []  -- CXL.mem accesses that are held, oldest first (R170, R181, R272)
deriving DecidableEq, Repr

/-- The whole die, with the queue of commands that wait. -/
structure State where
  pending : List Instr := []
  time : Nat := 0                -- µs since the last COLD reset
  freeCtr : Nat := 0             -- the MODEL's own: counts the free values used
  out : List Out := []           -- what has left the die, newest first
  mg : Mgmt := {}
  sb : Sb := {}
  pwr : Pwr := {}
  rep : Repair := {}
  fw : Fw := {}
  bias : Bias := {}
  stPort : Staging := {}
  stBar0 : Staging := {}
  journal : Option Journal := none
  lastPart : Nat := 7            -- the partition the dispatcher served last (R134)
  queues : Tbl Queue := []
  parts : Tbl Part := []
  crests : Tbl Crest := []       -- by physical number
  slices : Tbl Slice := []
  regs : Tbl Reg := []
  mods : Tbl HMod := []
  ports : Tbl PPort := []
  cmds : List Cmd := []          -- fetched commands whose record is not written, oldest first
  ends : List (Nat × Nat) := []  -- of those, the ended ones (queue, tag) in the order of their ends (R139)
  store : List Host.Cell := []   -- bytes of the store by address after translation; unlisted bytes read 0 (R148)
  poison : Tbl Bool := []        -- poisoned store lines, by line number
  flaws : List Ecc := []         -- the MODEL's own: disturbed store words that no command's read has met yet (R270)
  pend : List Pend := []
  abuf : List ABuf := []
  cache : Tbl CLine := []        -- host-memory and host-bias lines, by line address
  evict : List Evict := []
  hostMem : List Host.Cell := [] -- the host's own memory, as it answers the die; unlisted bytes read 0
  hostPoison : Tbl Bool := []    -- poison of host data: by host line, or 2^47 + the store line of a host-bias page (R186)
  hostConfig : Nat := 0          -- LK_HOST_LINK.CONFIG
  log : List LogEntry := []      -- newest first, at most 1,024
  logNext : Nat := 0
  trace : Tbl TraceEntry := []
  traceNext : Nat := 0
  unattr : Nat := 0              -- bank 0x05 unattributed (R264)
  releasedE : Nat := 0           -- bank 0x05 released
  msixMask : Tbl Nat := []       -- MSI-X table words, vector × 4 + word
  msixPend : Tbl Bool := []      -- pending bits
  linkmaps : Tbl Nat := []       -- LINKS of every other position (R202)
  refused : List (Nat × Nat) := []            -- streams marked refused: (SRC, SID) (R197)
  tiles : List ((Nat × Nat × Nat) × Option (Nat × Nat)) := []  -- (SRC, SID, TILE) decided: landing in (queue, tag), or dropped (R199)
  landing : List ((Nat × Nat × Nat) × (Nat × Nat) × Nat × Bool) := []  -- (SRC, SID, TILE) landing for (queue, tag): rows received, whether the tile is whole
  ingress : List (Nat × Flit) := []  -- accepted flits, each with its port, whose writes wait for the copy of a row (R272)
  stalled : List ((Nat × Nat) × WaitFor) := []  -- commands (queue, tag) with an access that is held
  holds : List Hold := []        -- commands that are held with no measured wait (R143)
  peerPast : List (Nat × Nat) := [] -- waits for peers on crests that have ended: start and end in µs, newest first (R263)
  closing : List (Nat × Nat) := [] -- (destination, SID) of streams that ended before their FLAG_ACK (R196)
  retries : List (Nat × Nat × Nat × Nat) := [] -- (queue, tag, SID, TILE) due to be sent again (R199)
deriving DecidableEq, Repr

/-- The state right after the release of the always-on reset: every register at the reset value of its table, memory
with nothing listed, no command waiting. -/
def State.reset : State := {}

end Sys2Proof.Machine
end

