-- ==== Sys2Proof/Machine/Operands.lean ====
section
/-!
DEFINITION. The fields of a queue entry (Tables CMD-2 and CMD-5), of the descriptors it names (Tables CMD-3, CMD-4,
FUSE-1, FUSE-2), of a vector instruction (Table VEC-3) and of an image header (Table VEC-7).
-/
namespace Sys2Proof.Machine

/-- The little-endian number in bytes `o` to `o + n − 1` (R6). -/
def fld (e : List Byte) (o n : Nat) : Nat := ofBytes ((e.drop o).take n)

/-! The header (Table CMD-2). -/

def Cmd.f8 (c : Cmd) (o : Nat) : Nat := fld c.e o 1
def Cmd.f16 (c : Cmd) (o : Nat) : Nat := fld c.e o 2
def Cmd.f32 (c : Cmd) (o : Nat) : Nat := fld c.e o 4
def Cmd.f64 (c : Cmd) (o : Nat) : Nat := fld c.e o 8
def Cmd.opcode (c : Cmd) : Nat := c.f8 0
def Cmd.flag (c : Cmd) (i : Nat) : Bool := (c.f8 1).testBit i
def Cmd.barrier (c : Cmd) : Bool := c.flag 0
def Cmd.irqFlag (c : Cmd) : Bool := c.flag 1
def Cmd.satMode (c : Cmd) : Bool := c.flag 2
def Cmd.strict (c : Cmd) : Bool := c.flag 3
def Cmd.sharedAcc (c : Cmd) : Bool := c.flag 4
def Cmd.longsum (c : Cmd) : Bool := c.flag 5
def Cmd.srFlag (c : Cmd) : Bool := c.flag 6
def Cmd.seedFixed (c : Cmd) : Bool := c.flag 7
def Cmd.scope (c : Cmd) : Nat := bits (c.f8 2) 1 0
def Cmd.intSat (c : Cmd) : Bool := (c.f8 2).testBit 2
def Cmd.keep (c : Cmd) : Bool := (c.f8 2).testBit 3
def Cmd.srBits (c : Cmd) : Nat := c.f8 3
/-- The number of random bits b (R86). -/
def Cmd.srB (c : Cmd) : Nat := if c.srBits = 0 then 12 else c.srBits
def Cmd.crestMask (c : Cmd) : Nat := c.f16 4
def Cmd.crestCount (c : Cmd) : Nat := c.f8 6
def Cmd.entry (c : Cmd) : Nat := bits (c.f8 7) 2 0
def Cmd.handle (c : Cmd) : Nat := bits (c.f8 7) 5 3
def Cmd.useProg (c : Cmd) : Bool := (c.f8 7).testBit 7
def Cmd.seedField (c : Cmd) : Word := BitVec.ofNat 32 (c.f32 8)
def Cmd.param (c : Cmd) : Word := BitVec.ofNat 32 (c.f32 12)

/-- Opcodes (Table CMD-5). -/
def opGemm : Nat := 1
def opChain : Nat := 2
def opMove : Nat := 3
def opConvert : Nat := 4
def opSend : Nat := 5
def opFence : Nat := 6
def opSignal : Nat := 7
def opWait : Nat := 8
def opLoadprog : Nat := 9
def opMarker : Nat := 10
def opRecv : Nat := 11

/-- FENCE, SIGNAL, WAIT and MARKER run in the dispatcher and occupy no crest (R126). -/
def Cmd.noCrest (c : Cmd) : Bool := decide (c.opcode = 6 ∨ c.opcode = 7 ∨ c.opcode = 8 ∨ c.opcode = 10)

/-- The byte offsets of a body that Table CMD-5 lists; every other body byte must be 0 (R128). -/
def bodyListed (op o : Nat) : Bool :=
  match op with
  | 1 => true
  | 2 => decide (0x10 ≤ o)
  | 3 => decide (o ≤ 0x39 ∨ 0x3C ≤ o)
  | 4 => decide (o ≤ 0x27)
  | 5 => decide (o ≤ 0x37)
  | 6 => false
  | 7 => decide (o ≤ 0x31)
  | 8 => decide (o ≤ 0x29 ∨ (0x2C ≤ o ∧ o ≤ 0x2F))
  | 9 => decide (o ≤ 0x1B)
  | 10 => false
  | 11 => decide (o ≤ 0x32 ∨ 0x34 ≤ o ∧ o ≤ 0x35 ∨ 0x38 ≤ o ∧ o ≤ 0x3B)
  | _ => true

/-! The bodies of GEMM and of what resembles it. -/

def Cmd.gM (c : Cmd) : Nat := c.f32 0x30
def Cmd.gN (c : Cmd) : Nat := c.f32 0x34
def Cmd.gK (c : Cmd) : Nat := c.f32 0x38
def Cmd.gSlot (c : Cmd) : Nat := bits (c.f8 0x3C) 2 0
def Cmd.gNslot (c : Cmd) : Nat := bits (c.f8 0x3C) 4 3 + 1
def Cmd.gRow0 (c : Cmd) : Nat := c.f8 0x3D
def Cmd.gTileRows (c : Cmd) : Nat := c.f8 0x3E
/-- The promotion interval P (R62). -/
def Cmd.gP (c : Cmd) : Nat := if c.f8 0x3F = 0 then 64 else c.f8 0x3F

/-- A tensor descriptor out of its 32 bytes (Table CMD-3). -/
def parseDesc (b : List Byte) : Desc :=
  { addr := fld b 0 8, scaleAddr := fld b 8 8, pitch := fld b 0x10 4, format := fld b 0x14 1, source := fld b 0x15 1
    coarse := BitVec.ofNat 32 (fld b 0x18 4), reserved := decide (fld b 0x16 2 ≠ 0 ∨ fld b 0x1C 4 ≠ 0) }

/-- A stage entry out of its 32 bytes (Table FUSE-2). -/
def parseStage (b : List Byte) : Stage :=
  { kind := fld b 0 1, storeFmt := fld b 1 1, sub := fld b 2 1, arg8 := fld b 3 1, arg16 := fld b 4 2, tmo := fld b 6 2
    argA := BitVec.ofNat 32 (fld b 8 4), argB := BitVec.ofNat 32 (fld b 0xC 4), addr := fld b 0x10 8
    addr2 := fld b 0x18 8 }

/-- A fusion descriptor out of its header and stage bytes (Tables FUSE-1, FUSE-2). -/
def parseFusion (b : List Byte) : Fusion :=
  { named := true, nstage := fld b 0 1, proFlags := fld b 1 1, proAct := fld b 2 1, proFmt := fld b 3 1
    proNorm := fld b 4 1, proT := fld b 5 1, proInvn := BitVec.ofNat 32 (fld b 8 4)
    proEps := BitVec.ofNat 32 (fld b 0xC 4), statsAddr := fld b 0x10 8, idxAddr := fld b 0x18 8
    gatherRows := fld b 0x20 4, reserved := decide (fld b 6 2 ≠ 0 ∨ fld b 0x24 12 ≠ 0)
    stages := (List.range (min 8 (fld b 0 1))).map (fun i => parseStage ((b.drop (48 + 32 * i)).take 32)) }

/-- A CHAIN parameter block out of its 32 bytes (Table CMD-4). -/
def parseChain (b : List Byte) : ChainP :=
  { m := fld b 0 4, l := fld b 4 4, scale := BitVec.ofNat 32 (fld b 8 4), offset := fld b 0xC 4, d := fld b 0x10 1
    dv := fld b 0x11 1, pFmt := fld b 0x12 1, mask := fld b 0x13 1, sSlot := fld b 0x14 1, oSlot := fld b 0x15 1
    mlSlot := fld b 0x16 1, fEntry := fld b 0x17 1, flags := fld b 0x18 1, reserved := decide (fld b 0x19 7 ≠ 0) }

def Fusion.gather (f : Fusion) : Bool := f.proFlags.testBit 0
def Fusion.transA (f : Fusion) : Bool := f.proFlags.testBit 1
def Fusion.transB (f : Fusion) : Bool := f.proFlags.testBit 2
def Fusion.norm (f : Fusion) : Bool := f.proFlags.testBit 3
def Fusion.act (f : Fusion) : Bool := f.proFlags.testBit 4
/-- Does the prologue convert A to PRO_FMT (R99)? -/
def Fusion.converts (f : Fusion) : Bool := f.norm || f.act
/-- The SEND stages of a list, with their places. -/
def Fusion.sends (f : Fusion) : List (Nat × Stage) :=
  ((List.range f.stages.length).zip f.stages).filter (fun e => e.2.kind = 8)

/-- The SRC_MASK, CHANNEL and tile range of a REDUCE_RECV (Tables CMD-5, FUSE-7). -/
def Cmd.rChannel (c : Cmd) : Nat := c.f8 0x28
def Cmd.rSrcMask (c : Cmd) : Nat := c.f8 0x29
def Cmd.rNtile (c : Cmd) : Nat := c.f8 0x2A
def Cmd.rRows (c : Cmd) : Nat := c.f8 0x2B
def Cmd.rTile0 (c : Cmd) : Nat := c.f32 0x2C
def Cmd.rRow0 (c : Cmd) : Nat := c.f8 0x30
def Cmd.rFmt (c : Cmd) : Nat := c.f8 0x31
def Cmd.rSlot0 (c : Cmd) : Nat := c.f8 0x32
def Cmd.rN (c : Cmd) : Nat := c.f32 0x38

/-- The fusion descriptor's address, by opcode; 0 names none (R97). -/
def Cmd.fuseAddr (c : Cmd) : Nat :=
  match c.opcode with
  | 1 => c.f64 0x28
  | 2 => c.f64 0x30
  | 11 => c.f64 0x20
  | _ => 0

/-! Tiles (R96). -/

/-- N-tiles of a command, T_N of R96. -/
def Cmd.nTiles (c : Cmd) : Nat :=
  match c.opcode with | 1 => ceilDiv c.gN 128 | 11 => max 1 (ceilDiv c.rN 128) | _ => 1
/-- Output columns N. -/
def Cmd.cols (c : Cmd) : Nat :=
  match c.opcode with | 1 => c.gN | 2 => c.ch.dv | 4 => c.f32 0x24 | 11 => c.rN | _ => 0
/-- M-tiles of a command, T_M. -/
def Cmd.mTiles (c : Cmd) : Nat :=
  match c.opcode with
  | 1 => ceilDiv c.gM c.gTileRows
  | 2 => ceilDiv c.ch.m 128
  | 11 => ceilDiv c.rNtile c.nTiles
  | _ => 0
/-- Output rows M. -/
def Cmd.outRows (c : Cmd) : Nat :=
  match c.opcode with | 1 => c.gM | 2 => c.ch.m | 4 => c.f32 0x20 | 11 => c.mTiles * c.rRows | _ => 0
/-- Output columns that a command reaches: a REDUCE_RECV of fewer tiles than T_N stops short of N. -/
def Cmd.outCols (c : Cmd) : Nat := if c.opcode = 11 then min c.rN (128 * c.rNtile) else c.cols

/-! Vector instructions (Table VEC-3). -/

/-- The opcode of an instruction word. -/
def vOp (w : DWord) : Nat := bits w.toNat 63 56
/-- The fields of an instruction word. -/
def vDec (w : DWord) : VInst :=
  { vd := bits w.toNat 55 51, va := bits w.toNat 50 46, vb := bits w.toNat 45 41, vc := bits w.toNat 40 36
    mask := bits w.toNat 35 33, rm := bits w.toNat 32 30, sub := bits w.toNat 29 24, imm := bits w.toNat 23 0 }
/-- An instruction word out of its fields. -/
def vEnc (op : Nat) (i : VInst) : DWord :=
  BitVec.ofNat 64 (op * 2 ^ 56 + i.vd * 2 ^ 51 + i.va * 2 ^ 46 + i.vb * 2 ^ 41 + i.vc * 2 ^ 36 + i.mask * 2 ^ 33
    + i.rm * 2 ^ 30 + i.sub * 2 ^ 24 + i.imm)

/-- The sign-extended immediate (Table VEC-3). -/
def simmOf (i : VInst) : Int := sext 24 i.imm

end Sys2Proof.Machine
end

