-- ==== Sys2Proof/Machine/Flags.lean ====
section
/-!
DEFINITION. Statuses, sub-codes and flags of completion records: their codes (Tables CMD-9, CMD-10), their precedence
(R140), and the words of a record (Tables CMD-7, CMD-8).
-/
namespace Sys2Proof.Machine

/-! Status codes (Table CMD-9). -/
def sOk : Nat := 0x00
def sOkSat : Nat := 0x01
def sOkRetried : Nat := 0x02
def sFull : Nat := 0x10
def sState : Nat := 0x11
def sPerm : Nat := 0x12
def sFormat : Nat := 0x13
def sReset : Nat := 0x20
def sFault : Nat := 0x21
def sPoison : Nat := 0x22
def sTimeout : Nat := 0x23
def sPeer : Nat := 0x24

/-- The sub-codes that Table CMD-10 lists for ABORT_FAULT, none among them. -/
def faultSubs : List Nat := [0x00, 0x40, 0x41, 0x42, 0x43, 0x44, 0x45, 0x46, 0x47, 0x48]

/-- The status of a command that completes (R140). -/
def Cmd.okStatus (c : Cmd) : Nat := if c.satHit then sOkSat else if c.retried then sOkRetried else sOk

/-- The command ends with a status; the first end stands (R140). -/
def Cmd.finish (c : Cmd) (st sub : Nat) : Cmd :=
  match c.fin with
  | some _ => c
  | none => { c with fin := some (st, sub) }

/-- Wait causes in the order of Table CMD-11. -/
def causeOrder : List Nat := [3, 6, 5, 4, 2, 1]

/-- The total wait (R143), stopping at 0xFFFF_FFFF (R139). -/
def Cmd.waitTotal (c : Cmd) : Nat := (causeOrder.map (tget 0 c.waits)).sum
/-- The cause bitmap: bit (code − 1) (Table CMD-7). -/
def Cmd.causeBits (c : Cmd) : Nat :=
  (causeOrder.map (fun k => if tget 0 c.waits k ≠ 0 then 2 ^ (k - 1) else 0)).sum
/-- The dominant cause: the most wait, the first of Table CMD-11 on a tie, 0 without wait. -/
def Cmd.dominant (c : Cmd) : Nat :=
  (causeOrder.foldl (fun (b : Nat × Nat) k => if tget 0 c.waits k > b.2 then (k, tget 0 c.waits k) else b) (0, 0)).1

/-- A Bool as a number. -/
def b2n (b : Bool) : Nat := if b then 1 else 0

/-- PHASE of record `n` in a ring of 2^log records: 1 on the first pass, inverted on each wrap (Table CMD-7). -/
def phaseOf (n log : Nat) : Nat := (n / 2 ^ log + 1) % 2

/-- Is a status a refusal? A refused command's busy, wait and energy are 0 (R130). -/
def isRefusal (st : Nat) : Bool := decide (0x10 ≤ st ∧ st < 0x20)

/-- The eight words of a command's record (Table CMD-7). -/
def Cmd.recordWords (c : Cmd) (st sub n cqLog : Nat) (taint : Bool) : List Nat :=
  let r := isRefusal st
  let cap (x : Nat) : Nat := if r then 0 else min 0xFFFFFFFF x
  [ st + sub * 2 ^ 8 + c.q * 2 ^ 16 + b2n c.satHit * 2 ^ 24 + b2n c.accInf * 2 ^ 25 + b2n c.eccCorr * 2 ^ 26
      + b2n c.retried * 2 ^ 27 + b2n taint * 2 ^ 28 + phaseOf n cqLog * 2 ^ 31,
    c.t, cap c.busy, cap c.waitTotal,
    if r then 0 else c.causeBits + c.dominant * 2 ^ 8,
    cap c.energy, c.van + c.sat * 2 ^ 16, n ]

/-- The eight words of an overflow record (Table CMD-8). -/
def overflowWords (q : Nat) (o : Ovf) (n cqLog : Nat) (taint : Bool) : List Nat :=
  [ sFull + q * 2 ^ 16 + b2n taint * 2 ^ 28 + phaseOf n cqLog * 2 ^ 31, o.first, o.requested, o.head, 0, o.count, 0, n ]

/-- Record words as bytes. -/
def wordBytes (ws : List Nat) : List Byte := ws.flatMap (fun w => toBytes w 4)

end Sys2Proof.Machine
end

