-- ==== Sys2Proof/Config.lean ====
section
/-!
DEFINITION. What one implementation fixes and what the spec leaves open: opaque constants with no body, so that every
claim holds whatever they are. Each is named in the assumption log.
-/
namespace Sys2Proof.Config

/-- A free number for the n-th open value of a run: what a byte, a count or an order is where the spec leaves it open. -/
opaque freeNat : Nat → Nat
/-- Which of the values that a racing line may show a reader sees (R152, R153, R156): the n-th read, the write or line. -/
opaque freeChoice : Nat → Nat → Nat
/-- From which open value of the run on a crest's command sees a write that is not performed for it (R151, R152): the
write's number, the observer. -/
opaque seenFrom : Nat → Nat → Nat
/-- A free byte of a location that the spec calls UNSPECIFIED VALUE (R14, R129, R141). -/
opaque freeByte : Nat → Nat → Byte
/-- A free word of an element or lane that the spec calls UNSPECIFIED VALUE (R14, R141). -/
opaque freeWord : Nat → Nat → Word
/-- The free-running 32-bit MCLK counter at an acceptance (R85). -/
opaque mclkSeed : Nat → Word
/-- The low 32 bits of the MCLK count since COLD at a trace entry (R341). -/
opaque mclkNow : Nat → Word
/-- SHA-384 of a byte string (R221): 48 bytes. -/
opaque sha384 : List Byte → List Byte
/-- Does an ECDSA P-384 signature, r and then s, over a message verify under a public key (R219, FIPS 186)? -/
opaque ecdsaOk : List Byte → List Byte → List Byte → Bool
/-- The SHA-384 digest that key-hash fuse slot k holds (R219). -/
opaque keyHash : Nat → List Byte
/-- A word of the CXL component registers at an offset from the start of BAR4 (R173, Table HOST-3): the spec names the
registers and gives them no layout. -/
opaque cxlComponent : Nat → Word
/-- A word of the CXL DVSECs of a Type 2 device, of PCIe configuration space (R173): named and given no contents. -/
opaque dvsec : Nat → Word
/-- The fused serial number (R1, Table PEER-4 HELLO). -/
opaque serial : DWord
/-- Blown anti-rollback bits at manufacture (R219). -/
opaque fuseRollback : Nat
/-- Blown revoke fuses at manufacture (R219). -/
opaque fuseRevoked : Nat
/-- The physical crest that factory repair replaced, if any (R4, R309). -/
opaque factoryRepair : Option Nat
/-- How many dies the package integrator has placed in the group, at positions 0 upwards (R188). -/
opaque groupDies : Nat
/-- Factory weight w_i of a crest (R257). -/
opaque factoryWeight : Nat → Nat → Rat
/-- The estimator's offset where no band of the level was ever measured (R257). -/
opaque factoryOffset : Nat → Nat → Rat
/-- The implementation's own value of the square root of 2, where it lies within FP32's neighbours of it (R257). -/
opaque halfFree : Rat
/-- The factor of an offset entry derived one band away, 2 to the power 10/20 (R257): no rational is exactly that, so this is
some number between the two FP32 neighbours of the square root of 2. DEDUCED (log 100). -/
def halfStep : Rat := max (11863283 / 8388608) (min (11863284 / 8388608) halfFree)

end Sys2Proof.Config
end

