-- ==== Sys2Proof/Machine/Ops.lean ====
section
/-!
DEFINITION. The named operations over the state: reads and updates of its tables, ownership and numbering of units
(R4, R16, R206), outputs, alerts (R244), log entries (R281), trace entries (R341) and free values (R14).
-/
namespace Sys2Proof.Machine

/-! Tables of the state: one read and one update each. -/

/-- Queue `q`. -/
def State.queue (s : State) (q : Nat) : Queue := tget {} s.queues q
/-- `s` with queue `q` changed by `f`. -/
def State.modQueue (s : State) (q : Nat) (f : Queue → Queue) : State := { s with queues := tmod {} s.queues q f }
/-- Partition `p`. -/
def State.part (s : State) (p : Nat) : Part := tget {} s.parts p
/-- `s` with partition `p` changed by `f`. -/
def State.modPart (s : State) (p : Nat) (f : Part → Part) : State := { s with parts := tmod {} s.parts p f }
/-- Physical crest `p`. -/
def State.crest (s : State) (p : Nat) : Crest := tget {} s.crests p
/-- `s` with physical crest `p` changed by `f`. -/
def State.modCrest (s : State) (p : Nat) (f : Crest → Crest) : State := { s with crests := tmod {} s.crests p f }
/-- Slice `n`. -/
def State.slice (s : State) (n : Nat) : Slice := tget {} s.slices n
/-- `s` with slice `n` changed by `f`. -/
def State.modSlice (s : State) (n : Nat) (f : Slice → Slice) : State := { s with slices := tmod {} s.slices n f }
/-- Regulator `r`. -/
def State.reg (s : State) (r : Nat) : Reg := tget {} s.regs r
/-- `s` with regulator `r` changed by `f`. -/
def State.modReg (s : State) (r : Nat) (f : Reg → Reg) : State := { s with regs := tmod {} s.regs r f }
/-- Host module `m`. -/
def State.hmod (s : State) (m : Nat) : HMod := tget {} s.mods m
/-- `s` with host module `m` changed by `f`. -/
def State.modHmod (s : State) (m : Nat) (f : HMod → HMod) : State := { s with mods := tmod {} s.mods m f }
/-- Peer port `k`. -/
def State.port (s : State) (k : Nat) : PPort := tget {} s.ports k
/-- `s` with peer port `k` changed by `f`. -/
def State.modPort (s : State) (k : Nat) (f : PPort → PPort) : State := { s with ports := tmod {} s.ports k f }

/-- The fetched command of queue `q` with tag `t`, while its record is not written. -/
def State.cmd? (s : State) (q t : Nat) : Option Cmd := s.cmds.find? (fun c => c.q = q && c.t = t)
/-- `s` with that command changed by `f`. -/
def State.modCmd (s : State) (q t : Nat) (f : Cmd → Cmd) : State :=
  { s with cmds := s.cmds.map (fun c => if c.q = q && c.t = t then f c else c) }

/-- A command's access is held until `w` is over. -/
def State.stall (s : State) (q t : Nat) (w : WaitFor) : State :=
  if s.stalled.contains ((q, t), w) then s else { s with stalled := s.stalled ++ [((q, t), w)] }

/-- `f` folded over a list of numbers. -/
def State.each (s : State) (ns : List Nat) (f : State → Nat → State) : State := ns.foldl f s

/-! Outputs, free values, alerts, the log and the trace. -/

/-- `s` with `o` sent out. -/
def State.emit (s : State) (o : Out) : State := { s with out := o :: s.out }
/-- `s` after one free value has been used. -/
def State.bump (s : State) : State := { s with freeCtr := s.freeCtr + 1 }
/-- `s` with management registers changed by `f`. -/
def State.modMg (s : State) (f : Mgmt → Mgmt) : State := { s with mg := f s.mg }
/-- `s` with power control changed by `f`. -/
def State.modPwr (s : State) (f : Pwr → Pwr) : State := { s with pwr := f s.pwr }
/-- `s` with sideband state changed by `f`. -/
def State.modSb (s : State) (f : Sb → Sb) : State := { s with sb := f s.sb }
/-- `s` with repair state changed by `f`. -/
def State.modRep (s : State) (f : Repair → Repair) : State := { s with rep := f s.rep }
/-- `s` with firmware state changed by `f`. -/
def State.modFw (s : State) (f : Fw → Fw) : State := { s with fw := f s.fw }

/-- `v` with bit `i` set. -/
def orBit (v i : Nat) : Nat := v ||| 2 ^ i
/-- `v` with bit `i` cleared. -/
def clrBit (v i : Nat) : Nat := if v.testBit i then v - 2 ^ i else v
/-- `v` with the bits of `m` cleared. -/
def andNot (v m : Nat) : Nat := v ^^^ (v &&& m)

/-- Alert bits of Table REG-4. -/
def aVinLow : Nat := 0
def aVinHigh : Nat := 1
def aRegRetry : Nat := 2
def aRegFault : Nat := 3
def aStoreLost : Nat := 4
def aPhaseOpen : Nat := 5
def aSenseFail : Nat := 6
def aSeqRestart : Nat := 7
def aSeqTimeout : Nat := 8
def aSupplyAlarm : Nat := 10
def aThermalTrip : Nat := 11
def aUnitRetired : Nat := 12
def aSpareUsed : Nat := 13
def aCapacityLost : Nat := 14
def aStoreUe : Nat := 15
def aSensorFault : Nat := 16

/-- `s` with an alert bit set (R244, R330). -/
def State.alert (s : State) (i : Nat) : State := s.modMg fun m => { m with alertStat := orBit m.alertStat i }

/-- MG_ALERT_STAT as read: bits 9 and 17 follow MG_ERR (Table REG-4). -/
def State.alertStat (s : State) : Nat :=
  s.mg.alertStat ||| (if s.mg.fatalSupply then 2 ^ 9 else 0) ||| (if s.mg.minLost then 2 ^ 17 else 0)
/-- MG_ALERT_EN as read: bits 9 and 17 read 1 (R330). -/
def State.alertEn (s : State) : Nat := s.mg.alertEn ||| (2 ^ 9 + 2 ^ 17)
/-- Does the die assert its position's IAL slot (R331)? -/
def State.slotAsserted (s : State) : Bool := decide (s.alertStat &&& s.alertEn ≠ 0)

/-- `s` with an entry appended to the error log ring, which keeps the newest 1,024 (R281). -/
def State.addLog (s : State) (e : LogEntry) : State :=
  { s with
    log := ({ e with time := s.time, seq := s.logNext } :: s.log).take 1024
    logNext := (s.logNext + 1) % 2 ^ 32 }

/-- `s` with a trace entry appended to the buffer of 4,096 (R341). -/
def State.addTrace (s : State) (event crest q part status tag : Nat) : State :=
  { s.bump with
    trace := tset {} s.trace (s.traceNext % 4096)
      { event := event, crest := crest, q := q, part := part, status := status, tag := tag,
        mclk := Config.mclkNow s.freeCtr, seq := s.traceNext, zeroed := false }
    traceNext := (s.traceNext + 1) % 2 ^ 32 }

/-- `s` after MG_CAPPTR.GEN has followed a change of a live field (R344); nothing before the list exists. -/
def State.liveChange (s : State) : State :=
  if s.mg.capBuilt then s.modMg fun m => { m with capGen := (m.capGen + 1) % 2 ^ 16 } else s

/-! Management commands. -/

/-- STATUS codes of MG_CMDSTAT (Table PART-3). -/
def csOk : Nat := 0
def csRunning : Nat := 1
def csBusy : Nat := 2
def csState : Nat := 3
def csArg : Nat := 4
def csQuiesce : Nat := 5
/-- DETAIL codes (Table PART-3, R329). -/
def dNotFree : Nat := 1
def dNotActive : Nat := 2
def dQueues : Nat := 3
def dOwned : Nat := 4
def dRetired : Nat := 5
def dTransit : Nat := 6
def dRing : Nat := 7
def dEmpty : Nat := 8
def dInterleave : Nat := 9
def dImage : Nat := 10
def dNotOpen : Nat := 11
def dOpcode : Nat := 12
def dSel : Nat := 13

/-- The running management command ends with a STATUS and DETAIL (R209, R326). -/
def State.mgResult (s : State) (status detail : Nat) : State :=
  s.modMg fun m => { m with running := none, cmdStatus := status, cmdDetail := detail }
/-- A management command runs on: MG_CMDSTAT reads RUNNING (R326). -/
def State.mgRuns (s : State) (op : Nat) : State :=
  s.modMg fun m => { m with running := some op, cmdStatus := csRunning, cmdDetail := 0 }
/-- A RESET_LINK whose modules or port have ended their retrain ends OK (R315). -/
def State.linkDone (s : State) : State :=
  let busy := if s.mg.linkTarget = 0 then (List.range 4).any (fun m => decide ((s.hmod m).st = 1 ∨ (s.hmod m).st = 4))
    else decide ((s.port (s.mg.linkTarget - 1)).st = 1 ∨ (s.port (s.mg.linkTarget - 1)).st = 3)
  if s.mg.running = some 0x43 ∧ busy = false then s.mgResult csOk 0 else s

/-! Numbering and ownership. -/

/-- The physical crest of a logical crest; 31 is absent (RP_CREST_MAP, R269). -/
def State.physOf (s : State) (l : Nat) : Nat :=
  let v := tget 32 s.rep.crestMap l
  if v = 32 then l else v
/-- Is a logical crest present? -/
def State.crestPresent (s : State) (l : Nat) : Bool := decide (l < 16 ∧ s.physOf l ≠ 31)
/-- The logical crest bound to a physical crest. -/
def State.logicalOf (s : State) (p : Nat) : Option Nat := (List.range 16).find? (fun l => s.physOf l = p)
/-- Is a physical crest retired? -/
def State.crestRetired (s : State) (p : Nat) : Bool := s.rep.retCrest.testBit p
/-- Is a slice retired? -/
def State.sliceRetired (s : State) (n : Nat) : Bool := s.rep.retSlice.testBit n

/-- The partition that owns queue `q` (R119, R206). -/
def State.queueOwner (s : State) (q : Nat) : Option Nat :=
  (List.range 8).find? (fun p => (s.part p).st ≠ 0 && (s.part p).queues.testBit q)
/-- The partition that owns slice `n`; a slice in transit is owned by none (R206). -/
def State.sliceOwner (s : State) (n : Nat) : Option Nat :=
  if (s.slice n).transit then none
  else (List.range 8).find? (fun p => (s.part p).st ≠ 0 && (s.part p).slices.testBit n)
/-- The partition that guarantees logical crest `l`. -/
def State.crestOwner (s : State) (l : Nat) : Option Nat :=
  (List.range 8).find? (fun p => (s.part p).st ≠ 0 && (s.part p).crests.testBit l)

/-- The column whose col a physical crest attaches to: its own, or that of the crest the spare replaces (R16). -/
def State.crestCol (s : State) (p : Nat) : Nat := (if p = 16 then s.rep.replaces else p) / 4
/-- The col of a slice (R16): columns 4q to 4q + 3 lie on col q. -/
def sliceCol (n : Nat) : Nat := n % 16 / 4
/-- The tier of a slice (Table SCOPE-3). -/
def sliceTier (n : Nat) : Nat := n / 16
/-- Is a col retired? -/
def State.colRetired (s : State) (c : Nat) : Bool := s.rep.retCol.testBit c

/-- A slice that host and crest accesses reach: owned, not in transit, not retired, its contents valid (R178, R239). -/
def State.sliceServes (s : State) (n : Nat) : Bool :=
  decide (n < 96) && (s.sliceOwner n).isSome && !s.sliceRetired n && !(s.slice n).unavailable

/-- PT_CTL and PT_GUARANTEE fields (Table PART-1). -/
def Part.interleave (p : Part) : Bool := p.ctl.testBit 0
def Part.peerIngress (p : Part) : Bool := p.ctl.testBit 1
def Part.dbgOptin (p : Part) : Bool := p.ctl.testBit 2
def Part.crestOff (p : Part) : Bool := p.ctl.testBit 3
def Part.lend (p : Part) : Bool := p.guar.testBit 0
def Part.borrow (p : Part) : Bool := p.guar.testBit 1

/-- Q_CFG and Q_IRQ fields (Table CMD-1). -/
def Queue.sqLog (q : Queue) : Nat := bits q.cfg 3 0
def Queue.cqLog (q : Queue) : Nat := bits q.cfg 7 4
def Queue.cls (q : Queue) : Nat := bits q.cfg 9 8
def Queue.irqEn (q : Queue) : Bool := q.irq.testBit 7
def Queue.irqVec (q : Queue) : Nat := bits q.irq 6 0
def Queue.irqCount (q : Queue) : Nat := max 1 (bits q.irq 15 8)
def Queue.irqTimer (q : Queue) : Nat := bits q.irq 31 16

/-- The die's position (SB_STRAPS.POSITION). -/
def State.position (s : State) : Nat := bits s.sb.straps 5 4
/-- The debug strap (SB_STRAPS.DEBUG). -/
def State.debugStrap (s : State) : Bool := s.sb.straps.testBit 6

/-- The device is in READY or RUN (Table DIE-3). -/
def State.serving (s : State) : Bool := decide (s.mg.device ≥ 2)

/-- READY or RUN, whichever the enabled queues make it (R20). DEDUCED (log 106): a queue in STOPPING, whose commands still
run, counts as enabled. -/
def State.readyOrRun (s : State) : State :=
  if s.serving then
    let any := (tkeys s.queues).any (fun q => (s.queue q).st ≠ .disabled && (s.queueOwner q).isSome)
    s.modMg fun m => { m with device := if any then 3 else 2 }
  else s

/-! Commands held by crests. -/

/-- The physical crests that hold a command. -/
def State.holders (s : State) (q t : Nat) : List Nat :=
  (List.range 17).filter (fun p => (s.crest p).held.contains (q, t))
/-- Does a crest hold no command? -/
def Crest.free (c : Crest) : Bool := c.held.isEmpty

/-- Accumulators and vector state zeroised (R59, R217). -/
def Crest.zeroise (c : Crest) : Crest := { c with acc := [], V := [], S := [], M := [], sta := [], past := [] }

/-- A command's crest lets it go: its place, its tiles and its bank contents. -/
def Crest.drop (c : Crest) (q t : Nat) : Crest :=
  { c with
    held := c.held.filter (· != (q, t))
    stopped := c.stopped.filter (· != (q, t))
    work := c.work.filter (fun w => !(w.q = q && w.t = t))
    counts := c.counts.filter (fun e => e.1 != (q, t))
    ready := c.ready.filter (fun e => !(e.1 = q && e.2.1 = t))
    w0 := if c.w0.q = q ∧ c.w0.t = t then {} else c.w0
    w1 := if c.w1.q = q ∧ c.w1.t = t then {} else c.w1
    feed := c.feed.filter (fun b => !(b.q = q && b.t = t))
    inv := match c.inv with
      | some i => if i.q = q ∧ i.t = t then none else some i
      | none => none }

/-- Wait CCLK charged to a cause of a command, stopping at 0xFFFF_FFFF (R139, R143). -/
def Cmd.charge (c : Cmd) (cause n : Nat) : Cmd := { c with waits := tset 0 c.waits cause (tget 0 c.waits cause + n) }
/-- Busy CCLK charged to a command (R143). -/
def Cmd.addBusy (c : Cmd) (n : Nat) : Cmd := { c with busy := c.busy + n }
/-- SAT and VANISHED counts added, each stopping at 0xFFFF (R39, R41). -/
def Cmd.count (c : Cmd) (sat van : Nat) : Cmd :=
  { c with sat := min 0xFFFF (c.sat + sat), van := min 0xFFFF (c.van + van), satHit := c.satHit || decide (sat ≠ 0) }

/-- Wait causes (Table CMD-11). -/
def wQueue : Nat := 1
def wPower : Nat := 2
def wAcc : Nat := 3
def wStore : Nat := 4
def wPeer : Nat := 5
def wWake : Nat := 6

/-! P-levels (Table PWR-1). -/

/-- Table PWR-1: MHz, mV, crest current bound in 0.1 A, crest power bound in 0.1 W, die power bound in W. -/
def levelTable : List (Nat × Nat × Nat × Nat × Nat) :=
  [ (2200, 880, 182, 178, 354), (2100, 840, 165, 154, 315), (2000, 800, 150, 133, 282), (1900, 775, 138, 119, 259),
    (1800, 750, 127, 106, 238), (1700, 725, 116, 93, 218), (1600, 700, 105, 82, 200), (1500, 685, 96, 73, 186),
    (1400, 670, 88, 66, 174), (1300, 655, 80, 58, 162), (1200, 640, 72, 51, 151), (1100, 625, 65, 45, 141),
    (1000, 610, 57, 39, 131), (900, 595, 50, 33, 122), (850, 590, 47, 31, 118), (800, 580, 44, 28, 114) ]

/-- A level's row. -/
def levelRow (l : Nat) : Nat × Nat × Nat × Nat × Nat := levelTable.getD l (800, 580, 44, 28, 114)
/-- CCLK in MHz. -/
def levelMhz (l : Nat) : Nat := (levelRow l).1
/-- Voltage in mV. -/
def levelMv (l : Nat) : Nat := (levelRow l).2.1
/-- Crest current bound in 0.1 A. -/
def levelAmp (l : Nat) : Nat := (levelRow l).2.2.1
/-- Crest power bound in 0.1 W. -/
def levelWatt (l : Nat) : Nat := (levelRow l).2.2.2.1
/-- Die power bound in W. -/
def levelDie (l : Nat) : Nat := (levelRow l).2.2.2.2

/-- CCLK of physical crest `p` in a time of `ns` nanoseconds. -/
def State.cclkOf (s : State) (p ns : Nat) : Nat := ns * levelMhz (s.crest p).level / 1000

/-- A time in ns in the CCLK of a command's first crest, or in MCLK where it takes none (R143). -/
def State.clocksOf (s : State) (c : Cmd) (ns : Nat) : Nat :=
  if c.noCrest then ns * 1600 / 1000 else s.cclkOf ((c.crests.head?.map s.physOf).getD 0) ns

/-- A wait of `n` MCLK is charged to a command: in MCLK where it takes no crest, else in the CCLK of its first crest, once
its crests are assigned (R143). -/
def State.chargeMclk (s : State) (q t cause n : Nat) : State :=
  if n = 0 then s
  else s.modCmd q t fun c =>
    if c.noCrest then c.charge cause n
    else match c.crests with
      | l :: _ => c.charge cause (n * levelMhz (s.crest (s.physOf l)).level / 1600)
      | [] => { c with early := tset 0 c.early cause (tget 0 c.early cause + n) }

/-- The crests of a command are assigned: its waits so far are counted in the CCLK of the first (R143). -/
def State.chargeEarly (s : State) (q t : Nat) : State :=
  match s.cmd? q t with
  | none => s
  | some c =>
    let s := s.modCmd q t fun c => { c with early := [] }
    [1, 2, 3, 4, 5, 6].foldl (fun s k => s.chargeMclk q t k (tget 0 c.early k)) s

/-- The time in ns that a slice takes to wake: from RETAIN, or from OFF with its zeroisation (R21, Table SUP-6). -/
def State.wakeNs (s : State) (n : Nat) : Nat := if (s.slice n).pw = .off then 85000 else 500

/-- PH_STAT of a phase as it reads now: UNVERIFIED after 20 ms without a verification, except while its regulator is OFF
(R241, Table SUP-4). -/
def Reg.phNow (r : Reg) (time k : Nat) : Nat :=
  let st := tget 0 r.phStat k
  if r.st = 0 ∨ st ≥ 2 then st else if time > tget 0 r.phVerify k + 20000 then 1 else 0
/-- Phases of a regulator (Table SUP-2). -/
def regPhases (r : Nat) : Nat := if r ≤ 16 ∨ r = 23 then 4 else if r ≤ 22 then 2 else 0
/-- A regulator goes OFF, its phases keeping their status (R241); a permanently faulted one stays FAULTED. -/
def Reg.turnOff (r : Reg) (time n : Nat) : Reg :=
  if r.permanent then r
  else { r with
    phStat := (List.range n).foldl (fun t k => tset 0 t k (r.phNow time k)) r.phStat
    st := 0, setpoint := 0, pulse := 0, lowOnce := 0 }

/-! Waits that no row measures: charged by the time base between their start and their end (R143, Table CMD-11). -/

/-- A hold by a halt of the crest (R225), which is charged as QUEUE. -/
def wHalt : Nat := 7
/-- The cause that the present part of a hold goes to: the first of Table CMD-11. -/
def Hold.cause (h : Hold) : Option Nat :=
  ([3, 6, 5, 4, 2, 1, wHalt].find? (fun k => h.causes.testBit k)).map (fun k => if k = wHalt then wQueue else k)

/-- A hold's present part is charged: in the CCLK of its crest, or, before the first crest, of the first crest assigned; in
MCLK for a command of the dispatcher. -/
def State.chargeHold (s : State) (h : Hold) : State :=
  match h.cause with
  | none => s
  | some k =>
    let s := if k = wPeer ∧ h.p < 17 then { s with peerPast := (h.since, s.time) :: s.peerPast } else s
    s.modCmd h.q h.t fun c => c.charge k
      (if h.p < 17 then s.cclkOf h.p (1000 * (s.time - h.since)) else s.clocksOf c (1000 * (s.time - h.since)))

/-- A cause starts or stops holding a command on a crest: what went before is charged (R143). -/
def State.setHold (s : State) (q t p cause : Nat) (on : Bool) : State :=
  let at? (h : Hold) : Bool := decide (h.q = q ∧ h.t = t ∧ h.p = p)
  match s.holds.find? at? with
  | none =>
    if on then { s with holds := s.holds ++ [{ q := q, t := t, p := p, causes := 2 ^ cause, since := s.time }] } else s
  | some h =>
    if h.causes.testBit cause = on then s
    else
      let s := s.chargeHold h
      let m := if on then orBit h.causes cause else clrBit h.causes cause
      let rest := s.holds.filter (fun h => !at? h)
      { s with holds := if m = 0 then rest else rest ++ [{ h with causes := m, since := s.time }] }

/-- A cause stops holding a command on a crest, and a measured wait takes the place of the hold's present part. -/
def State.measured (s : State) (q t p cause waited : Nat) : State :=
  let s := { s with holds := s.holds.map (fun (h : Hold) => if h.q = q ∧ h.t = t ∧ h.p = p then { h with since := s.time } else h) }
  (s.setHold q t p cause false).modCmd q t fun c => c.charge cause waited

/-- Every hold of a command on the crests that `sel` picks ends, each charged. -/
def State.endHolds (s : State) (q t : Nat) (sel : Nat → Bool) : State :=
  let mine (h : Hold) : Bool := decide (h.q = q ∧ h.t = t) && sel h.p
  let s := (s.holds.filter mine).foldl State.chargeHold s
  { s with holds := s.holds.filter (fun h => !mine h) }

/-- A command stands busy on a crest: the command's count, and the tile's (R137, R143). -/
def State.busyOn (s : State) (p q t n : Nat) : State :=
  (s.modCmd q t fun c => c.addBusy n).modCrest p fun x =>
    { x with work := x.work.map (fun w => if w.q = q ∧ w.t = t then { w with spent := w.spent + n } else w) }

/-- What held accesses is over: their commands are charged the wait as STORE (R170, R181, R184, R272). -/
def State.unstall (s : State) (w : WaitFor) (waited : Nat) : State :=
  let s := (s.stalled.filter (fun e => e.2 = w)).foldl (fun s e => s.modCmd e.1.1 e.1.2 fun c => c.charge wStore waited) s
  { s with stalled := s.stalled.filter (fun e => e.2 ≠ w) }

/-- CRC-32 of R90 (IEEE 802.3, reflected) over bytes: one bit step. -/
def crcStep (c : Nat) : Nat := if c % 2 = 1 then (c / 2) ^^^ 0xEDB88320 else c / 2
/-- CRC-32 of R90: one byte. -/
def crcByte (c : Nat) (b : Byte) : Nat :=
  let x := c ^^^ b.toNat
  crcStep (crcStep (crcStep (crcStep (crcStep (crcStep (crcStep (crcStep x)))))))
/-- CRC-32 of R90. -/
def crc32 (bs : List Byte) : Word := BitVec.ofNat 32 ((bs.foldl crcByte 0xFFFFFFFF) ^^^ 0xFFFFFFFF)

end Sys2Proof.Machine
end

