-- ==== Sys2Proof/Machine/Memory.lean ====
section
/-!
DEFINITION. Who sees what when: address translation (R146, R147), reads and writes of the store and of host memory by
each observer (R150–R156), the device coherent cache and its eviction buffer (R182–R184), and poison (R186).

A global byte address is a store address after translation, or `hostBase` plus a host physical address. A line is a
global address divided by 64.
-/
namespace Sys2Proof.Machine

/-- Who reads or writes (R150). A crest acts for a command (queue, tag). -/
inductive Obs where
  | crest (q t p : Nat)
  | disp
  | host
  | ingress
deriving DecidableEq, Repr

/-- Global addresses of host memory start here. -/
def hostBase : Nat := 2 ^ 56

/-- Is an R121 address in host form? -/
def isHostAddr (a : Nat) : Bool := a.testBit 63
/-- Is an R121 address well formed? -/
def addrOk (a : Nat) : Bool :=
  if a.testBit 63 then decide (bits a 62 52 = 0 ∧ a < 2 ^ 64) else decide (a < 2 ^ 31)
/-- The slice field of a store address (Table MEM-1). -/
def sliceField (a : Nat) : Nat := bits a 30 24

/-- The rank of `x` among the set bits of a mask. -/
def rankIn (mask x : Nat) : Nat := ((maskList mask 96).filter (· < x)).length

/-- translate of R147: `mask` holds the partition's slices. -/
def translate (mask a : Nat) : Nat :=
  let l := maskList mask 96
  let n := max 1 l.length
  let lin := rankIn mask (sliceField a) * 2 ^ 24 + a % 2 ^ 24
  let b := lin / 2 ^ 12
  l.getD (b % n) 0 * 2 ^ 24 + b / n * 2 ^ 12 + a % 2 ^ 12

/-- A store address as partition `p` presents it, after translation (R147). -/
def State.xlate (s : State) (p a : Nat) : Nat :=
  if (s.part p).interleave then translate (s.part p).slices a else a % 2 ^ 31

/-- The global address of an R121 address that partition `p` presents. -/
def State.gaddr (s : State) (p a : Nat) : Nat :=
  if isHostAddr a then hostBase + a % 2 ^ 52 else s.xlate p a

/-- The global addresses of `n` bytes from an R121 address on. -/
def State.gaddrs (s : State) (p a n : Nat) : List Nat := (List.range n).map (fun i => s.gaddr p (a + i))

/-- The form of R121 of a global address (Table FLT-4). -/
def r121 (g : Nat) : Nat := if hostBase ≤ g then 2 ^ 63 + (g - hostBase) else g
/-- Is a line of host memory? -/
def isHostLine (l : Nat) : Bool := decide (hostBase / 64 ≤ l)
/-- Is the page of a store line in host bias (R179)? -/
def State.hostBias (s : State) (l : Nat) : Bool := !isHostLine l && tget false s.bias.hostPages (l / 64)
/-- Do the die's accesses to a line go through the device coherent cache (R179, R182)? -/
def State.viaCache (s : State) (l : Nat) : Bool := isHostLine l || s.hostBias l

/-- Does every byte of a range lie in slices of the mask? A host range does. -/
def rangeIn (mask a n : Nat) : Bool :=
  isHostAddr a || (decide (a + n ≤ 2 ^ 31) &&
    (List.range ((a + max 1 n - 1) / 2 ^ 24 - a / 2 ^ 24 + 1)).all (fun i => mask.testBit (a / 2 ^ 24 + i)))

/-- Does every byte of a store range lie in slices that a command's partition owns, or owned until their retirement after the
command's acceptance (R82, R274)? -/
def State.mayReach (s : State) (c : Cmd) (a n : Nat) : Bool :=
  !isHostAddr a && rangeIn ((s.part c.part).slices ||| c.lost) a n

/-- Does every byte of a store range lie in slices that partition `p` owns (R82)? Host form never does. -/
def State.ownsStore (s : State) (p a n : Nat) : Bool := !isHostAddr a && rangeIn (s.part p).slices a n

/-! What a byte holds. -/

/-- Modified data of a line that stand in the eviction buffer and nowhere else yet (R184). -/
def State.liveEvict (s : State) (l : Nat) : Option Evict :=
  s.evict.find? (fun e => decide (e.line = l) && e.modified && !e.snooped && !e.pulled)

/-- The newest byte at a global address: the cache's where it holds the line, else what its eviction carries, else the
slice's or the host's. -/
def State.newest (s : State) (g : Nat) : Byte :=
  let c := tget {} s.cache (g / 64)
  if s.viaCache (g / 64) && decide (c.st ≠ .I) then c.data.getD (g % 64) 0#8
  else match s.liveEvict (g / 64) with
    | some e => e.data.getD (g % 64) 0#8
    | none => if isHostLine (g / 64) then tget 0#8 s.hostMem (g - hostBase) else tget 0#8 s.store g

/-- The 64 newest bytes of a line. -/
def State.newestLine (s : State) (l : Nat) : List Byte := (List.range 64).map (fun i => s.newest (64 * l + i))

/-- Is a write performed for an observer, so that a later read of its sees it (R151, R154)? -/
def State.covers (s : State) (e : Pend) (o : Obs) : Bool :=
  match o with
  | .crest q t p =>
    (decide (e.crest = some p) && (decide (e.q = q ∧ e.t = t) || !(s.crest p).held.contains (e.q, e.t)))
      || (match e.scope with | some 0 => decide (e.crest = some p) | some _ => true | none => false)
  | .disp => e.scope.isSome
  | .ingress => match e.scope with | some (_ + 1) => true | _ => false
  | .host => match e.scope with | some 1 => !s.hostBias e.line && !isHostLine e.line | some (_ + 2) => true | _ => false

/-- The 64 bytes of a line with a write's bytes put in. -/
def putBytes (old : List Byte) (m : List (Nat × Byte)) : List Byte := m.foldl (fun d e => d.set (e.1 % 64) e.2) old

/-- The number of an observer among those that may see a write before it is performed for them. -/
def Obs.key : Obs → Nat
  | .crest q t p => 3 + p + 17 * (q + 64 * t)
  | .disp => 0
  | .host => 1
  | .ingress => 2

/-- Does an observer see a write: one performed for it, or one that it happens to see early (R152, R156)? What a crest's
command has seen once it goes on to see, and so do the crest's later commands (R151); the other observers may see old after
new. -/
def State.seesPend (s : State) (o : Obs) (e : Pend) : Bool :=
  s.covers e o || match o with
    | .crest _ _ p => decide (Config.seenFrom e.id o.key ≤ s.freeCtr) || e.seenBy.contains p
    | _ => (Config.freeChoice s.freeCtr e.id).testBit 0

/-- Of a line's writes, oldest first, those that an observer sees: with a write of a crest it sees the ones that the crest
issued before it to the line (R151, R152). -/
def State.visible (s : State) (o : Obs) : List Pend → List Pend
  | [] => []
  | e :: es =>
    let vs := s.visible o es
    if s.seesPend o e || vs.any (fun f => f.after.contains e.id) then e :: vs else vs

/-- The line that an observer sees out of a line's writes, oldest first (R153). -/
def State.seen (s : State) (o : Obs) (es : List Pend) (d : List Byte) : List Byte :=
  (s.visible o es).foldl (fun d e => putBytes d e.bytes) d

/-- Does a word of the dispatcher's atomic buffer hold a byte (R159)? -/
def State.inAbuf (s : State) (g : Nat) : Bool := s.abuf.any (fun w => decide (w.addr ≤ g ∧ g < w.addr + w.width))

/-- The byte that the atomic buffer holds at a global address. -/
def State.abufByte (s : State) (g : Nat) : Option Byte :=
  (s.abuf.find? (fun w => decide (w.addr ≤ g ∧ g < w.addr + w.width))).map
    (fun w => BitVec.ofNat 8 (w.val / 256 ^ (g - w.addr)))

/-- What an observer reads at a global address. Where several whole lines may show (R153), each write that still waits is
seen or not as a whole. A byte of a word that a CREST-scope SIGNAL holds is the buffer's to the dispatcher (R150, R159), and
free to all others (R160). -/
def State.byteAt (s : State) (o : Obs) (g : Nat) : Byte :=
  match s.abufByte g with
  | some b => if o = .disp then b else Config.freeByte s.freeCtr g
  | none =>
    match (s.pend.filter (fun e => e.line = g / 64)).reverse with
    | [] => s.newest g
    | e :: es => (s.seen o (e :: es) e.old).getD (g % 64) 0#8

/-- What an observer reads at each of a list of global addresses. -/
def State.read (s : State) (o : Obs) (gs : List Nat) : List Byte := gs.map (s.byteAt o)

/-- `n` bytes read from an R121 address on. -/
def State.readAt (s : State) (o : Obs) (p a n : Nat) : List Byte := s.read o (s.gaddrs p a n)

/-- Is a line poisoned (R186)? -/
def State.linePoison (s : State) (l : Nat) : Bool :=
  let c := tget {} s.cache l
  if s.viaCache l && decide (c.st ≠ .I) then c.poison
  else match s.liveEvict l with
    | some e => e.poison
    | none =>
      if isHostLine l then tget false s.hostPoison (l - hostBase / 64)
      else tget false s.poison l || tget false s.hostPoison (2 ^ 47 + l)

/-- The sub-code of the first poisoned line that a read of these addresses meets: HOST_POISON where the poison came by
CXL.cache, else STORE_POISON (R186). -/
def State.poisonOf (s : State) (gs : List Nat) : Option Nat :=
  match gs.find? (fun g => s.linePoison (g / 64)) with
  | some g => some (if isHostLine (g / 64) || tget false s.hostPoison (2 ^ 47 + g / 64) then 0x51 else 0x50)
  | none => none

/-! The device coherent cache. -/

/-- The set of a line: 2,048 sets of 16 ways (R182). -/
def cacheSet (l : Nat) : Nat := l % 2048

/-- The valid lines of a set. -/
def State.waysOf (s : State) (set : Nat) : List Nat :=
  (s.cache.filter (fun e => cacheSet e.1 = set && decide (e.2.st ≠ .I))).map (·.1)

/-- `s` with 64 bytes written where a line lives outside the cache: its slice, or host memory. -/
def State.backLine (s : State) (l : Nat) (data : List Byte) (poison : Bool) : State :=
  if isHostLine l then
    { s with
      hostMem := tsetFrom 0#8 s.hostMem (64 * l - hostBase) data
      hostPoison := tset false s.hostPoison (l - hostBase / 64) poison }
  else
    { s with
      store := tsetFrom 0#8 s.store (64 * l) data
      poison := tset false s.poison l poison
      hostPoison := tset false s.hostPoison (2 ^ 47 + l) false }

/-- The host's grant ends the oldest eviction of a line: a snooped entry sends no data (R184). -/
def State.grantEvict (s : State) (l : Nat) : State :=
  match s.evict.find? (fun x => x.line = l) with
  | none => s
  | some x =>
    let s := { s with evict := s.evict.erase x }
    if x.modified && !x.snooped && !x.pulled then
      (s.backLine l x.data x.poison).emit (.evicted l x.data x.poison)
    else s

/-- A line leaves the cache for the eviction buffer; its request goes out (R184, Table HOST-7). DESIGN CHOICE (log 37): a step
that evicts more lines than the buffer has entries keeps the ones beyond in the list too, none of them completed before its
grant; no other miss that needs a victim goes on until fewer than sixteen are left. -/
def State.evictLine (s : State) (l : Nat) : State :=
  let c := tget {} s.cache l
  { s.emit (.cxl (match c.st with | .M => .dirtyEvict | .E => .cleanEvict | _ => .cleanEvictNoData) l) with
    cache := tset {} s.cache l {}
    evict := s.evict ++ [{ line := l, modified := decide (c.st = .M), pulled := false, snooped := false,
                           data := c.data, poison := c.poison }] }

/-- Room for a line: a full set gives up the way that a free value picks (R182). -/
def State.wayFor (s : State) (l : Nat) : State :=
  let ws := s.waysOf (cacheSet l)
  if (tget {} s.cache l).st ≠ .I || ws.length < 16 then s
  else (s.evictLine (ws.getD (Config.freeChoice s.freeCtr l % 16) 0)).bump

/-- The modified data of a line in the eviction buffer goes back where it lives, as by a snoop; the entry stays until
its grant (R184). -/
def State.settle (s : State) (l : Nat) : State :=
  match s.liveEvict l with
  | some e =>
    { s.backLine l e.data e.poison with
      evict := s.evict.map (fun x => if x.line = l then { x with snooped := true } else x) }
  | none => s

/-- The cache takes a line in, in state `st`, by a request of Table HOST-7; a line that it holds in the state asked for
needs none. -/
def State.fill (s : State) (l : Nat) (st : Mesi) (req : CacheReq) : State :=
  let c := tget {} s.cache l
  if c.st = .I then
    let s := (s.settle l).wayFor l
    { s.emit (.cxl req l) with cache := tset {} s.cache l { st := st, data := s.newestLine l, poison := s.linePoison l } }
  else
    match st with
    | .M =>
      let s := if c.st = .S then s.emit (.cxl req l) else s
      { s with cache := tset {} s.cache l { c with st := .M } }
    | .E => if c.st = .S then { s.emit (.cxl req l) with cache := tset {} s.cache l { c with st := .E } } else s
    | _ => s

/-- The store bytes of a slice become zero, unpoisoned, in device bias; no copy of an old line or word that the cache,
the eviction buffer or the atomic buffer held comes back, and no disturbed word is left (R148, R179, R217). -/
def State.zeroSlice (s : State) (n : Nat) : State :=
  let lo := n * 2 ^ 24
  let hi := (n + 1) * 2 ^ 24
  { s with
    store := tclear s.store lo hi
    poison := tclear s.poison (lo / 64) (hi / 64)
    hostPoison := tclear s.hostPoison (2 ^ 47 + lo / 64) (2 ^ 47 + hi / 64)
    cache := tclear s.cache (lo / 64) (hi / 64)
    pend := s.pend.filter (fun e => decide (e.line < lo / 64) || decide (hi / 64 ≤ e.line))
    evict := s.evict.filter (fun e => decide (e.line < lo / 64) || decide (hi / 64 ≤ e.line))
    abuf := s.abuf.filter (fun w => decide (w.addr < lo) || decide (hi ≤ w.addr))
    flaws := s.flaws.filter (fun e => decide (e.addr < lo) || decide (hi ≤ e.addr))
    bias := { s.bias with hostPages := tclear s.bias.hostPages (lo / 4096) (hi / 4096) } }

/-- Row sparings that waited through a WARM reset: each spare row takes its row's place with no copy, and the test of the
first old row begins; the tests of the others follow (R272). -/
def Slice.wakeSparing (x : Slice) : Slice :=
  match x.sparing, x.spareQ with
  | none, r :: rs => if x.spares = 0 then x else { x with sparing := some (r, true), spareQ := rs, copied := rs }
  | _, _ => x

/-- Is a regulator's output within 3 % of its setpoint (R235)? -/
def Reg.inBand (r : Reg) : Bool := decide (97 * r.setpoint ≤ 100 * r.vout ∧ 100 * r.vout ≤ 103 * r.setpoint)

/-- Is the regulator of a slice's tier ON and at its setpoint, so that the slice's domain may be switched on (R235)? -/
def State.tierOn (s : State) (n : Nat) : Bool :=
  let r := s.reg (17 + sliceTier n)
  decide (r.st = 2) && r.inBand

/-- A slice that an access reaches wakes (R21, R178); one that was OFF is zeroised first and its waiting row sparings go
on (R217, R272); its scrub pass starts again (R273). A retired slice stays off (R274), and so does one whose regulator is
not ON (R235, R239). -/
def State.wakeSlice (s : State) (n : Nat) : State :=
  if decide (n < 96) && decide ((s.slice n).pw ≠ .on) && !s.sliceRetired n && !(s.slice n).unavailable && s.tierOn n then
    let s := if (s.slice n).pw = .off then (s.zeroSlice n).modSlice n Slice.wakeSparing else s
    s.modSlice n fun x => { x with pw := .on, waking := false, scrub := 0 }
  else s

/-- Does a list of global addresses meet a slice that is retired, or whose contents are lost with its regulator (R274,
R239)? -/
def State.inRetired (s : State) (gs : List Nat) : Bool :=
  gs.any (fun g => decide (g < hostBase) && (s.sliceRetired (g / 2 ^ 24) || (s.slice (g / 2 ^ 24)).unavailable))

/-- An access reaches a slice: it wakes (R178), and the commands that waited for it have waited its wake time (R21). -/
def State.reachSlice (s : State) (n : Nat) : State :=
  let t := s.wakeSlice n
  if (s.slice n).waking && decide ((s.slice n).pw ≠ .on ∧ (t.slice n).pw = .on) then
    { t with cmds := t.cmds.map (fun c =>
        if c.fin.isNone && c.need.testBit n then c.charge wWake (s.clocksOf c (s.wakeNs n)) else c) }
  else t

/-- The slices that hold some of a list of global addresses, as a mask. -/
def slicesOf (gs : List Nat) : Nat := gs.foldl (fun m g => if g < hostBase then orBit m (g / 2 ^ 24) else m) 0

/-- The longest wake that an access to these addresses has to wait for, in ns: of the slices that are not ON and may wake. -/
def State.asleepNs (s : State) (gs : List Nat) : Nat :=
  (((maskList (slicesOf gs) 96).filter (fun n => decide ((s.slice n).pw ≠ .on) && decide (((s.wakeSlice n).slice n).pw = .on))).map
    s.wakeNs).foldl max 0

/-- The slices under a list of addresses wake. -/
def State.wakes (s : State) (gs : List Nat) : State := (maskList (slicesOf gs) 96).foldl State.reachSlice s

/-- What a read leaves in the state: slices awake, cached lines filled by a request. With no link no line comes in (R172). -/
def State.touchBy (st : Mesi) (req : CacheReq) (s : State) (gs : List Nat) : State :=
  gs.foldl (fun s g => if s.viaCache (g / 64) && decide (s.hostConfig ≠ 0) then s.fill (g / 64) st req else s) (s.wakes gs)
/-- What a plain read leaves: RdShared (Table HOST-7). -/
def State.touch (s : State) (gs : List Nat) : State := s.touchBy .S .rdShared gs
/-- A HOST-scope SIGNAL's lines are owned before they are read (Table MEM-5, Table HOST-7). -/
def State.own (s : State) (gs : List Nat) : State := s.touchBy .E .rdOwn gs

/-- Where the HDM decoder's address a lies: translated where the owning partition interleaves (R177). -/
def State.hdmAddr (s : State) (a : Nat) : Nat :=
  match s.sliceOwner (sliceField a) with
  | some p => s.xlate p a
  | none => a % 2 ^ 31

/-- Is the host link retraining, its transactions held (R170)? -/
def State.hostRetraining (s : State) : Bool := (List.range 4).any (fun m => decide ((s.hmod m).st = 4))

/-- Does an access need a CXL.cache transaction: its line missing, or shared where a write needs it owned (R182)? -/
def State.needsLink (s : State) (wr : Bool) (g : Nat) : Bool :=
  s.viaCache (g / 64) && decide ((tget {} s.cache (g / 64)).st = .I ∨ (wr = true ∧ (tget {} s.cache (g / 64)).st = .S))

/-- What holds an access to these addresses: its page changes bias (R181), its row is being copied to a spare (R272), the
host link retrains (R170), or its miss needs a victim while the eviction buffer is full (R184). -/
def State.heldBy (s : State) (wr : Bool) (gs : List Nat) : Option WaitFor :=
  if s.bias.busy && gs.any (fun g => decide (g < hostBase) && decide (g / 4096 = s.hdmAddr s.bias.cur / 4096)) then some .bias
  else match gs.find? (fun g => decide (g < hostBase)
      && (s.slice (g / 2 ^ 24)).sparing.any (fun r => !r.2 && decide (r.1 = g % 2 ^ 24 / 4096))) with
    | some g => some (.sparing (g / 2 ^ 24))
    | none =>
      if s.hostConfig = 0 then none
      else if s.hostRetraining && gs.any (s.needsLink wr) then some .hostLink
      else if decide (s.evict.length ≥ 16) && gs.any (fun g => s.needsLink false g
          && decide ((s.waysOf (cacheSet (g / 64))).length ≥ 16)) then some .evictRoom
      else none

/-! Writes. -/

/-- The distinct lines of a list of global addresses, in order of first mention. -/
def linesOf (gs : List Nat) : List Nat :=
  gs.foldl (fun ls g => if ls.contains (g / 64) then ls else ls ++ [g / 64]) []

/-- `s` with the bytes of one line replaced where `m` lists them; `whole` says that all 64 are (R148, R186). A retired
slice takes no write (R274), and a line whose transaction fails with the host link takes none (R172). -/
def State.writeLine (s : State) (l : Nat) (m : List (Nat × Byte)) : State :=
  if (!isHostLine l && s.sliceRetired (l / 2 ^ 18)) || (s.needsLink true (64 * l) && decide (s.hostConfig = 0)) then s else
  let old := s.newestLine l
  let data := putBytes old m
  let whole := (List.range 64).all (fun i => m.any (fun e => e.1 % 64 = i))
  let poison := !whole && s.linePoison l
  if s.viaCache l then
    let s := s.fill l .M (if whole then .itoMWr else .rdOwn)
    { s with cache := tset {} s.cache l { st := .M, data := data, poison := poison } }
  else
    (s.wakeSlice (l / 2 ^ 18)).backLine l data poison

/-- The writes of a command's crest wait for their release (R152); any other write is performed at once, and is kept only
where older writes of its line still wait. -/
def State.pendLine (s : State) (o : Obs) (l : Nat) (m : List (Nat × Byte)) : State :=
  match o with
  | .crest q t p =>
    let before (e : Pend) : Bool := decide (e.line = l ∧ e.crest = some p)
      && (decide (e.q = q ∧ e.t = t) || !(s.crest p).held.contains (e.q, e.t))
    { s.bump with
      pend := { id := s.freeCtr, q := q, t := t, crest := some p, line := l, old := s.newestLine l, bytes := m, scope := none
                after := (s.pend.filter before).map (·.id) } :: s.pend }
  | _ =>
    if s.pend.any (fun e => e.line = l) then
      { s with
        pend := { q := 0, t := 0, crest := none, line := l, old := s.newestLine l, bytes := m, scope := some 2 } :: s.pend }
    else s

/-- An observer writes bytes at global addresses, line by line. -/
def State.write (s : State) (o : Obs) (m : List (Nat × Byte)) : State :=
  (linesOf (m.map (·.1))).foldl (fun s l =>
    let k := m.filter (fun e => e.1 / 64 = l)
    (s.pendLine o l k).writeLine l k) s

/-- A line's writes, oldest first, laid over `d` one after the other. -/
def relay : List Byte → List Pend → List Pend
  | _, [] => []
  | d, e :: es => { e with old := d } :: relay (putBytes d e.bytes) es

/-- The write that ends an indivisible read-modify-write of the dispatcher in one line: the writes of others that its read
did not see come after it (R152, R159). -/
def State.writeAtomic (s : State) (l : Nat) (m : List (Nat × Byte)) : State :=
  let ps := (s.pend.filter (fun e => e.line = l)).reverse
  let vs := s.visible .disp ps
  match ps, ps.filter (fun e => !vs.contains e) with
  | e :: _, u :: us =>
    let w : Pend := { q := 0, t := 0, crest := none, line := l, old := [], bytes := m, scope := some 2 }
    let es := relay e.old (vs ++ w :: u :: us)
    let d := es.foldl (fun d x => putBytes d x.bytes) e.old
    { s with pend := es.reverse ++ s.pend.filter (fun (e : Pend) => e.line ≠ l) }.writeLine l
      ((List.range 64).map (fun i => (64 * l + i, d.getD i 0#8)))
  | _, _ => s.write .disp m

/-- An observer writes consecutive bytes from an R121 address on. -/
def State.writeAt (s : State) (o : Obs) (p a : Nat) (bs : List Byte) : State :=
  s.write o ((s.gaddrs p a bs.length).zip bs)

/-! Release (R154, R155). -/

/-- Is a write performed for every observer? -/
def State.settledFor (s : State) (e : Pend) : Bool :=
  match e.scope with
  | some 1 => !s.hostBias e.line
  | some (_ + 2) => true
  | _ => false

/-- The writes, oldest first, without those that are performed for all and follow no write that is kept. -/
def State.prune (s : State) : List Pend → List Nat → List Pend
  | [], _ => []
  | e :: es, kept =>
    if s.settledFor e && !kept.contains e.line then s.prune es kept
    else e :: s.prune es (e.line :: kept)

/-- The writes that `sel` picks are performed at a scope. -/
def State.perform (s : State) (sel : Pend → Bool) (scope : Nat) : State :=
  let ps := s.pend.map (fun e => if sel e then { e with scope := some (max scope (e.scope.getD 0)) } else e)
  { s with pend := (s.prune ps.reverse []).reverse }

/-- What a command on a crest may have seen, the crest's later commands see (R151). -/
def State.passOn (s : State) (q t p : Nat) : State :=
  { s with pend := s.pend.map (fun e =>
      if decide (Config.seenFrom e.id (Obs.crest q t p).key ≤ s.freeCtr) && !e.seenBy.contains p then
        { e with seenBy := p :: e.seenBy } else e) }

/-- The release of a command's record (R154). -/
def State.release (s : State) (q t scope : Nat) : State := s.perform (fun e => e.crest.isSome && e.q = q && e.t = t) scope

/-- The host has written a line that it may cache: what the eviction buffer or the cache holds modified goes home first, and
the cache gives the line up by snoop; the bytes are then in their place. -/
def State.hostOwns (s : State) (l : Nat) (g : Nat) (b : Byte) : State :=
  let s := s.settle l
  let k := tget {} s.cache l
  let s := if k.st = .M then s.backLine l k.data k.poison else s
  let s := { s.pendLine .host l [(g, b)] with cache := tset {} s.cache l {} }
  if isHostLine l then { s with hostMem := tset 0#8 s.hostMem (g - hostBase) b, hostPoison := tset false s.hostPoison (l - hostBase / 64) false }
  else { s with store := tset 0#8 s.store g b }

/-- Does a list of bytes cover a line? -/
def coversLine (l : Nat) (gs : List Nat) : Bool := (List.range 64).all (fun i => gs.contains (64 * l + i))

/-- A host-bias line that the host has written whole is free of poison (R186). -/
def State.unpoison (s : State) (l : Nat) : State :=
  { s with poison := tset false s.poison l false, hostPoison := tset false s.hostPoison (2 ^ 47 + l) false }

/-- The host has written its own memory, or its copies of host-bias pages (keys from 2^53 on): the die's cache hears of
it by snoop and gives the lines up. A line that it holds poisoned comes by CXL.cache with poison (R186). -/
def State.hostWrites (s : State) (h : HostUpd) : State :=
  let s := if h.flaws.isEmpty then s else { s with flaws := s.flaws ++ h.flaws }
  let s := h.cells.foldl (fun s c =>
    if c.1 < 2 ^ 53 then s.hostOwns ((hostBase + c.1) / 64) (hostBase + c.1) c.2
    else if s.hostBias ((c.1 - 2 ^ 53) / 64) then s.hostOwns ((c.1 - 2 ^ 53) / 64) (c.1 - 2 ^ 53) c.2
    else s) s
  let ds := (h.cells.filter (fun c => decide (2 ^ 53 ≤ c.1))).map (fun c => c.1 - 2 ^ 53)
  let s := ((linesOf ds).filter (fun l => s.hostBias l && coversLine l ds)).foldl State.unpoison s
  h.poison.foldl (fun s l =>
    if l < 2 ^ 47 then
      { s with cache := tset {} s.cache (hostBase / 64 + l) {}, hostPoison := tset false s.hostPoison l true }
    else if s.hostBias (l - 2 ^ 47) then
      let s := s.settle (l - 2 ^ 47)
      { s with cache := tset {} s.cache (l - 2 ^ 47) {}, hostPoison := tset false s.hostPoison l true }
    else s) s

/-! The dispatcher's atomic buffer (R159). -/

/-- A buffered word goes back to its line and is dropped. -/
def State.abufBack (s : State) (w : ABuf) : State :=
  { s with abuf := s.abuf.filter (· != w) }.write .disp
    ((List.range w.width).map (fun i => (w.addr + i, BitVec.ofNat 8 (w.val / 256 ^ i))))

/-- What holds the return of the buffered words that `sel` picks to their lines (R170, R181, R184, R272). -/
def State.flushHeld (s : State) (sel : ABuf → Bool) : Option WaitFor :=
  (s.abuf.filter sel).findSome? (fun w => s.heldBy true ((List.range w.width).map (w.addr + ·)))

/-- Every buffered word that `sel` picks goes back to its line. -/
def State.abufFlush (s : State) (sel : ABuf → Bool) : State := (s.abuf.filter sel).foldl State.abufBack s

/-- The word that the dispatcher reads: the buffer's where it holds it, else memory's. -/
def State.wordAt (s : State) (g width : Nat) : Nat :=
  match s.abuf.find? (fun w => w.addr = g && w.width = width) with
  | some w => w.val
  | none => ofBytes (s.read .disp ((List.range width).map (g + ·)))

end Sys2Proof.Machine
end

