-- ==== Sys2Proof/Machine/Abort.lean ====
section
/-!
DEFINITION. What a command occupies: its ranges in memory and in accumulator memory (R70, R112, R117, R128), and what
those hold after an abort (R141).
-/
namespace Sys2Proof.Machine

/-- A range that a command names: `rows` pieces of `n` bytes, `pitch` apart. -/
structure Rng where
  a : Nat
  n : Nat
  pitch : Nat := 0
  rows : Nat := 1
deriving DecidableEq, Repr

/-- The stored element format of a descriptor: its source where it names a PAIR (R47). -/
def Desc.stored (d : Desc) : Nat := if isPair d.format then d.source else d.format

/-- Scale bytes of one row of `n` elements (R30). -/
def scaleBytes (code n : Nat) : Nat := if isBlock code then ceilDiv n (blockSize code) else 0

/-- The ranges of a tensor of `rows` rows of `n` contiguous elements (R30, Table CMD-3). -/
def Desc.ranges (d : Desc) (rows n : Nat) : List Rng :=
  if d.format = 0 then []
  else
    let f := d.stored
    let el : Rng := { a := d.addr, n := rowBytes f n, pitch := d.pitch, rows := rows }
    if isBlock f then [el, { a := d.scaleAddr, n := rows * scaleBytes f n }]
    else if f = 0x22 then [el, { a := d.scaleAddr, n := rowBytes f n, pitch := d.pitch, rows := rows }]
    else [el]

/-- The records that the REDUCE stages of a command write (R107). -/
def Cmd.reduceRanges (c : Cmd) : List Rng :=
  if c.useProg then [] else (c.fu.stages.filter (fun g => g.kind = 6)).map (fun g =>
    let w := if g.sub = 3 then 8 else 4
    { a := g.addr, n := if g.arg8 = 0 then c.outRows * c.nTiles * w else c.mTiles * c.cols * w })

/-- The ranges that a command writes: its output and the records of its REDUCE stages, or the destination of a MOVE. -/
def Cmd.outRanges (c : Cmd) : List Rng :=
  match c.opcode with
  | 1 | 2 | 4 | 11 => c.dOut.ranges c.outRows c.outCols ++ c.reduceRanges
  | 3 =>
    let rows := c.f32 0x28
    let rb := c.f32 0x2C
    let el := max 1 (c.f8 0x39)
    [if c.f8 0x38 = 2 then { a := c.f64 0x18, n := rows * el, pitch := c.f32 0x34, rows := rb / el }
     else { a := c.f64 0x18, n := rb, pitch := c.f32 0x34, rows := rows }]
  | _ => []

/-- Does a command name a program handle (R93, R111)? -/
def Cmd.namesProg (c : Cmd) : Bool :=
  (c.useProg && decide (c.opcode = 1 ∨ c.opcode = 2 ∨ c.opcode = 11)) || decide (c.opcode = 2 ∧ c.ch.fEntry ≠ 0xFF)

/-- Handle `h` of physical crest `p`. -/
def State.handle (s : State) (p h : Nat) : Handle := tget {} (s.crest p).handles h

/-- Does an instruction of a bound image write a slot: STA with that SUB? -/
def State.imageWrites (s : State) (p h k : Nat) : Bool :=
  let x := s.handle p h
  (List.range x.count).any (fun i =>
    let w := tget 0#64 (s.crest p).prog (x.off + i)
    decide (vOp w = 0x31) && decide ((vDec w).sub = k))

/-- The slots of an image that a command names, all rows (R93). -/
def State.imageRange (s : State) (c : Cmd) (p : Nat) : List AccRange :=
  if c.namesProg then (maskList (s.handle p c.handle).slotMask 8).map
    (fun k => { slot := k, lo := 0, hi := 128, writes := s.imageWrites p c.handle k }) else []

/-- The accumulator rows of a command itself, its image's slots apart (R70, R112, R117, R128). -/
def Cmd.accOwn (c : Cmd) : List AccRange :=
  match c.opcode with
  | 1 =>
    if c.longsum then (List.range c.gNslot).flatMap (fun j =>
      [⟨c.gSlot + 2 * j, c.gRow0, c.gRow0 + c.gTileRows, true⟩, ⟨c.gSlot + 2 * j + 1, 0, 128, true⟩])
    else (List.range c.gNslot).map (fun j => ⟨c.gSlot + j, c.gRow0, c.gRow0 + c.gTileRows, true⟩)
  | 2 => [⟨c.ch.sSlot, 0, 128, true⟩, ⟨c.ch.mlSlot, 0, 128, true⟩, ⟨c.ch.oSlot, 0, min 128 c.ch.m, true⟩]
  | 11 => (List.range c.rNtile).map (fun k => ⟨c.rSlot0 + k, c.rRow0, c.rRow0 + c.rRows, true⟩)
  | _ => []

/-- The accumulator range of a command on physical crest `p` (R70). -/
def State.accRange (s : State) (c : Cmd) (p : Nat) : List AccRange := c.accOwn ++ s.imageRange c p

/-- The key of an accumulator element (R338). -/
def accKey (slot row e : Nat) : Nat := slot * 2 ^ 14 + row * 2 ^ 7 + e

/-- The observer of the dispatcher's own data writes: no crest has this number, and they wait for their release. -/
def dispWriter : Nat := 17


/-! After an abort (R141). -/

/-- The bytes of a command's output that it has not written itself, each with a free value; all of them after a debug
write (R338). -/
def State.freeOutput (s : State) (c : Cmd) : List (Nat × Byte) :=
  let mine := if c.dbg then [] else (s.pend.filter (fun e => e.crest.isSome && e.q = c.q && e.t = c.t)).flatMap (fun e => e.bytes.map (·.1))
  ((c.outRanges.flatMap (fun r =>
    if r.n = 0 then [] else (List.range r.rows).flatMap (fun i => s.gaddrs c.part (r.a + i * r.pitch) r.n))).filter
      (fun g => !mine.contains g)).map (fun g => (g, Config.freeByte s.freeCtr g))

/-- The lanes of an accumulator row that a command's tile programs wrote on a crest. -/
def Crest.staLanes (x : Crest) (k : Nat × Nat) (row : Nat) : BitVec 128 :=
  (x.sta.filter (fun e => decide (e.1 = k ∧ e.2.1 = row))).foldl (fun m e => m ||| e.2.2) 0#128

/-- An accumulator range of a command on a crest with free contents, but for what its tile programs wrote (R82). -/
def Crest.freeAcc (fr : Nat) (k : Nat × Nat) (x : Crest) (r : AccRange) : Crest :=
  { x with acc := (List.range (r.hi - r.lo)).foldl (fun a i =>
      let kept := x.staLanes k (r.slot * 128 + (r.lo + i))
      (List.range 128).foldl (fun a e => if kept.getLsbD e then a
        else tset 0#32 a (accKey r.slot (r.lo + i) e) (Config.freeWord fr (accKey r.slot (r.lo + i) e))) a) x.acc }

/-- The accumulator rows of an aborted command on a crest: of one that holds it, its whole range; of one that has let it
go, what it left there and no later command has taken. -/
def State.leftIn (s : State) (c : Cmd) (p : Nat) : List AccRange :=
  if (s.crest p).held.contains (c.q, c.t) then s.accRange c p
  else ((s.crest p).past.filter (fun e => decide (e.1 = (c.q, c.t)))).flatMap (·.2)

/-- Do the rows that an aborted command has added stay: gathered rows before a bad index (R100), and the additions of a
REDUCE_RECV that its timer, a lost source or a wrong format ends (R118)? -/
def Cmd.keepsRows (c : Cmd) (sub : Nat) : Bool :=
  decide (sub = 0x45) || (decide (c.opcode = 11) && decide (sub = 0x81 ∨ sub = 0x60 ∨ sub = 0x61))

/-- A running command aborts: what it had not written of its output, and its accumulator rows, are UNSPECIFIED VALUE; rows
already added stay where R100 and R118 say so, elements that tile programs wrote stay (R82), and the incomplete tiles of a
REDUCE_RECV that ends early get no output (R141), nor does a tile whose epilogue has not run (DEDUCED, log 136). After a debug write nothing of it is specified (R338). -/
def State.unspecify (s : State) (c : Cmd) (sub : Nat) : State :=
  let quiet := decide (c.opcode = 11) && c.keepsRows sub
  let s1 := if quiet then s else s.write (.crest c.q c.t dispWriter) (s.freeOutput c)
  let s2 := if c.keepsRows sub && !c.dbg then s1
    else (List.range 17).foldl (fun s1 p => s1.modCrest p fun x =>
      let x := if c.dbg then { x with sta := x.sta.filter (fun e => e.1 != (c.q, c.t)) } else x
      (s.leftIn c p).foldl (Crest.freeAcc s.freeCtr (c.q, c.t)) x) s1
  s2.bump

end Sys2Proof.Machine
end

