-- ==== Sys2Proof/Machine/Loss.lean ====
section
/-!
DEFINITION. Detected errors and losses: counting (R267), how a command ends (R140), the retirement of a slice, crest,
col, host module or peer port (R268, R274–R278), the host link's configuration (R168), loss notices (R280), the minimum
service set (R23, R24), and store errors (R270–R272).
-/
namespace Sys2Proof.Machine

/-! KIND codes (Table FLT-4). -/
def kCrest : Nat := 1
def kSlice : Nat := 2
def kCol : Nat := 3
def kHost : Nat := 4
def kPort : Nat := 5
def kReg : Nat := 6
def kPhase : Nat := 7
def kSensor : Nat := 8
def kDie : Nat := 9

/-! Interrupt messages. -/

/-- A word of the MSI-X table; the vector-control word resets with its mask bit set, as the MSI-X rules have it. -/
def State.msixWord (s : State) (v w : Nat) : Nat :=
  if w = 3 then tget 0 s.msixMask (4 * v + 3) ^^^ 1 else tget 0 s.msixMask (4 * v + w)

/-- The message of a vector is sent, or its pending bit set where it is masked (R144). -/
def State.sendMsix (s : State) (v : Nat) : State :=
  if (s.msixWord v 3).testBit 0 then { s with msixPend := tset false s.msixPend v true } else s.emit (.msix v)

/-! Counting (R267). -/

/-- The key of a unit in the error times. -/
def unitKey (kind unit : Nat) : Nat := kind * 256 + unit

/-- Errors of a unit within the last WINDOW seconds; one exactly WINDOW old no longer counts. -/
def State.errsIn (s : State) (kind unit : Nat) : Nat :=
  ((tget [] s.rep.errs (unitKey kind unit)).filter
    (fun t => s.time < t + s.mg.threshWindow * 1000000)).length

/-- A detected error of a unit at the present time; the last 15 are kept. -/
def State.countErr (s : State) (kind unit : Nat) : State :=
  s.modRep fun r => { r with errs := tmod [] r.errs (unitKey kind unit) (fun ts => (s.time :: ts).take 15) }

/-- Is the unit permanent by RP_THRESH at this error (R267)? -/
def State.atThresh (s : State) (kind unit : Nat) : Bool := decide (s.errsIn kind unit ≥ s.mg.threshCount)

/-! How a command ends. -/

/-- The pairs that a command holds open close (R118). -/
def State.closePairs (s : State) (q t : Nat) : State :=
  { s with tiles := s.tiles.filter (fun e => e.2 != some (q, t)), landing := s.landing.filter (fun e => e.2.1 != (q, t)) }

/-- The PARTITION reset of partition `p`, if it has one, ends once no crest of its is lent any more: the crests are zeroised,
the partition is ACTIVE (R319). -/
def State.resetEnd (s : State) (p : Nat) : State :=
  let ps := (maskList (s.part p).crests 16).map s.physOf
  if decide ((s.part p).st ≠ 3) || ps.any (fun c => (s.crest c).lentTo.isSome) then s
  else
    let s := ps.foldl (fun s c => s.modCrest c Crest.zeroise) s
    (s.mgResult csOk 0).modPart p fun x => { x with st := 1, lastResult := csOk, lastDetail := 0 }

/-- A PARTITION reset under way may have come to its end. -/
def State.resetEnds (s : State) : State :=
  if s.mg.running = some 0x13 then (List.range 8).foldl State.resetEnd s else s

/-- A crest whose borrower's last command has gone is lent no longer (R137); where it holds commands of its owner, they get
it zeroised in 1,024 CCLK, charged as QUEUE (R218). -/
def State.unlend (s : State) (p : Nat) : State :=
  let x := s.crest p
  match x.lentTo with
  | none => s
  | some b =>
    if x.held.any (fun k => (s.cmd? k.1 k.2).any (fun c => c.part = b)) then s
    else match x.held with
      | [] => (s.modCrest p fun x => { x with lentTo := none }).resetEnds
      | k :: _ =>
        let s := s.modCrest p fun x => { x.zeroise with lentTo := none, lastPart := (s.cmd? k.1 k.2).map (·.part) }
        (x.held.foldl (fun s k => s.modCmd k.1 k.2 fun c => c.charge wQueue 1024) s).resetEnds

/-- A command leaves a crest, whose later commands see what it may have seen (R151). -/
def State.dropFrom (s : State) (p q t : Nat) : State :=
  let t0 := s.time
  let s := if (s.crest p).held.contains (q, t) then (s.passOn q t p).modCrest p fun x => { x with heldAt := some t0 } else s
  (s.modCrest p fun x => x.drop q t).unlend p

/-- The LOADPROGs under way on a crest. -/
def State.loadsOn (s : State) (p : Nat) : List (Nat × Nat) :=
  (s.cmds.filter (fun c => decide (c.opcode = 9) && c.started && c.fin.isNone
    && (maskList c.crestMask 16).any (fun l => s.physOf l = p) && (s.handle p (c.f8 0x1A)).loading)).map (fun c => (c.q, c.t))

/-- A command that ends before any crest was assigned to it keeps its waits in MCLK. DESIGN CHOICE (log 125). -/
def State.uncharged (s : State) (q t : Nat) : State :=
  s.modCmd q t fun c => { [1, 2, 3, 4, 5, 6].foldl (fun d k => d.charge k (tget 0 c.early k)) c with early := [] }

/-- A command ends with a status: its crests let it go, its open pairs close; the first end stands (R140, R275). An
abort leaves what R141 says, a command that a debug write has met what R338 says. -/
def State.endCmd (s : State) (q t st sub : Nat) : State :=
  match s.cmd? q t with
  | none => s
  | some c =>
    if c.fin.isSome then s
    else
      let s := (s.endHolds q t (fun _ => true)).uncharged q t
      let s := if c.started = true ∧ (st ≥ 0x20 ∨ c.dbg = true) then s.unspecify c sub else s
      let s := { s.modCmd q t (fun c => c.finish st sub) with
        ends := s.ends ++ [(q, t)], stalled := s.stalled.filter (fun e => e.1 ≠ (q, t)) }
      let s := s.closePairs q t
      (List.range 17).foldl (fun s p => (s.dropFrom p q t).modCrest p fun c =>
        { c with past := c.past.filter (fun e => e.1 ≠ (q, t)), sta := c.sta.filter (fun e => e.1 ≠ (q, t)) }) s

/-- The commands that occupy a crest: those that it holds, and the LOADPROGs under way there (R126, R135). -/
def State.onCrest (s : State) (p : Nat) : List (Nat × Nat) := (s.crest p).held ++ s.loadsOn p

/-- The partitions of the commands that occupy a crest. -/
def State.heldParts (s : State) (p : Nat) : List Nat :=
  (s.onCrest p).filterMap (fun k => (s.cmd? k.1 k.2).map (·.part))

/-- Every command that occupies a crest ends (R275, R320). -/
def State.endHeld (s : State) (p st sub : Nat) : State :=
  (s.onCrest p).foldl (fun s k => s.endCmd k.1 k.2 st sub) s

/-! The minimum service set. -/

/-- Is a logical crest able to work, behind a working col: bound to a crest in service, or about to get the spare? -/
def State.crestWorks (s : State) (l : Nat) : Bool :=
  s.crestPresent l && !s.colRetired (s.crestCol (s.physOf l)) &&
    (decide (s.rep.bindDue = some l) || (!s.crestRetired (s.physOf l) && !(s.reg (s.physOf l)).permanent))

/-- Is a slice able to work? -/
def State.sliceWorks (s : State) (n : Nat) : Bool :=
  !s.sliceRetired n && !(s.reg (17 + sliceTier n)).permanent && !s.colRetired (sliceCol n)

/-- Table DIE-5, valid firmware excepted: the kind of the first unit that is missing, where `link` says whether the host link
is there. -/
def State.unitMissing (s : State) (link : Bool) : Option Nat :=
  if (s.reg 23).permanent || decide ((s.reg 23).st ≠ 2 ∧ s.mg.stage > 2) then some kReg
  else if s.colRetired 0 then some kCol
  else if !link then some kHost
  else if !(List.range 16).any s.crestWorks then some kCrest
  else if !(List.range 96).any s.sliceWorks then some kSlice
  else none

/-- The kind of the first unit that is missing from the minimum service set: of the host link, a configuration. -/
def State.minMissing (s : State) : Option Nat := s.unitMissing (decide (s.hostConfig ≠ 0))

/-- The die leaves its group: its ports go OFF with all that they hold, and every stream and REDUCE_RECV ends (R118,
R204). -/
def State.leaveGroup (s : State) : State :=
  let s := (List.range 3).foldl (fun s k => s.modPort k fun x =>
    if x.st = 4 ∨ x.st = 5 then x
    else { st := 0, mode := x.mode, retrains := x.retrains, replays := x.replays }) s
  let s := (s.cmds.filter (fun c => c.fin.isNone
      && (decide (c.opcode = 11 ∧ c.total ≠ 0) || c.streams.any (fun x => decide (x.answer = 0))))).foldl
    (fun s c => s.endCmd c.q c.t sPeer 0x60) s
  ({ s with linkmaps := [], refused := [], tiles := [], landing := [], closing := [], retries := [] }.modPwr fun w =>
    { w with capsSet := none }).liveChange

/-- The die leaves READY or RUN, and its group, for STANDBY when a unit of the set is lost (R24, R204). -/
def State.checkMin (s : State) (kind : Nat) : State :=
  if s.serving && s.minMissing.isSome then
    (s.leaveGroup.modMg fun m => { m with device := 1, cause := 3, minLost := true, lostKind := kind }).addLog
      { code := 0x30, cls := 2, kind := kDie, detail := kind }
  else s

/-! Loss notices (R280). -/

/-- Steps 1, 3, 4 and 5 of R280 for a loss that hits the given partitions. -/
def State.notice (s : State) (alerts : List Nat) (parts : List Nat) : State :=
  let s := alerts.foldl State.alert s.liveChange
  let s := parts.foldl (fun s p => s.modPart p fun x => { x with unitLost := true }) s
  if s.mg.diag.testBit 15 then s.sendMsix (bits s.mg.diag 14 8) else s

/-! Host link (R168). -/

/-- GB/s per module of each configuration of Table HOST-2. -/
def cfgRate (c : Nat) : Nat :=
  match c with | 1 => 256 | 2 => 128 | 3 => 128 | 4 => 64 | 5 => 64 | 6 => 32 | _ => 0

/-- Modules in service that reached configuration `c` at their last training. -/
def State.reaching (s : State) (c : Nat) : List Nat :=
  (List.range 4).filter (fun m => !s.rep.retMod.testBit m && (s.hmod m).reach.testBit (c - 1))

/-- The configuration of the largest product, the earlier on a tie; 0 where no module reaches any (R168). -/
def State.bestConfig (s : State) : Nat :=
  ([1, 2, 3, 4, 5, 6].foldl (fun (b : Nat × Nat) c =>
    if (s.reaching c).length * cfgRate c > b.2 then (c, (s.reaching c).length * cfgRate c) else b) (0, 0)).1

/-- Does a module train or retrain? -/
def State.hostTraining (s : State) : Bool := (List.range 4).any (fun m => decide ((s.hmod m).st = 1 ∨ (s.hmod m).st = 4))

/-- The commands that await a CXL.cache transaction that is out (R172). -/
def State.awaitLink (s : State) : List (Nat × Nat) :=
  (s.stalled.filter (fun e => decide (e.2 = .hostLink ∨ e.2 = .evictRoom))).map (·.1)

/-- With no module ACTIVE, every transaction that is out fails, the evictions among them, every command that awaits one ends
HOST_ACCESS and the die leaves service (R172). -/
def State.linkGone (s : State) : State :=
  let s := s.awaitLink.foldl (fun s k => s.endCmd k.1 k.2 sFault 0x47) s
  { s with
    stalled := s.stalled.filter (fun e => !decide (e.2 = WaitFor.hostLink ∨ e.2 = WaitFor.evictRoom))
    evict := [] }.checkMin kHost

/-- Once no module trains any more the link is configured: the reaching modules are ACTIVE, the others IDLE (R168, R172). -/
def State.hostReconfig (s : State) : State :=
  if s.hostTraining then s
  else
    let c := s.bestConfig
    let s := (List.range 4).foldl (fun s m =>
      if s.rep.retMod.testBit m then s
      else s.modHmod m fun h =>
        let used := decide (c ≠ 0) && h.reach.testBit (c - 1)
        { h with st := if h.st = 0 then h.st else if used then 2 else 3 }) s
    let s := ({ s with hostConfig := c }.modMg fun m => { m with linkSince := none }).liveChange
    if c = 0 then s.linkGone else s

/-! Retirement. -/

/-- What a crest loses with its power; power control's own records of it stay (R226, R257). Bindings stay recorded and
are reloaded (R94). -/
def Crest.powerLoss (c : Crest) : Crest :=
  { c with
    pw := .off, waking := false, w0 := {}, w1 := {}, rowBuf := [], acc := [], V := [], S := [], M := [], pc := 0
    steps := 0, inv := none, redWait := [], sta := [], past := [], feed := [], prog := [], handles := c.handles.map (fun h => (h.1, { h.2 with stale := true }))
    quiet := false, droop := false }

/-- What a crest in NAP holds only under FULL: its weight banks and its V, S and M registers (R226). -/
def Crest.unkept (c : Crest) : Crest :=
  if c.pw = .nap then { c with w0 := {}, w1 := {}, V := [], S := [], M := [] } else c

/-- A halt on a logical crest is released (R275, R337). -/
def State.unhalt (s : State) (l : Nat) : State :=
  let s := s.modMg fun m => { m with haltReq := clrBit m.haltReq l, haltStat := clrBit m.haltStat l }
  s.modCrest (s.physOf l) fun c => { c with halted := false }

/-- A logical crest becomes absent (R277); the log entry names the physical crest that it was bound to, and the notice
reaches its owner and the partitions whose commands have ended with it (R280). -/
def State.makeAbsent (s : State) (l : Nat) (hit : List Nat) : State :=
  let o := s.crestOwner l
  let p := s.physOf l
  let n := s.errsIn kCrest p
  let s := s.modRep fun r => { r with crestMap := tset 32 r.crestMap l 31 }
  let s := s.addLog { code := 0x0C, cls := 3, kind := kCrest, unit := p, part := o, count := n, detail := l }
  s.notice [aUnitRetired, aCapacityLost] (o.toList ++ hit)

/-- An RP_RETIRE that waited for a spare binding ends OK (R279). -/
def State.retireDone (s : State) : State := if s.mg.running = some 0x20 then s.mgResult csOk 0 else s

/-- A RESET_CREST that waited for a spare binding finds the crest absent (R315, R322). -/
def State.resetFails (s : State) : State :=
  if s.mg.resetDue.isSome then (s.modMg fun m => { m with resetDue := none }).mgResult csState dRetired else s

/-- The spare, or the col that it would attach to, fails before it is bound: the logical crest that it was for is absent,
and the commands that waited there end, which their partitions are told (R276–R278, R280). IVR16 stays off (R236). -/
def State.bindFails (s : State) : State :=
  match s.rep.bindDue with
  | none => s
  | some l =>
    let hit := s.heldParts (s.physOf l)
    let s := s.endHeld (s.physOf l) sFault 0x46
    let s := (s.modCrest 16 fun x => { x with waking := false }).modReg 16 fun r => r.turnOff s.time 4
    ((((s.modRep fun r => { r with bindDue := none }).makeAbsent l hit).retireDone).resetFails).checkMin kCrest

/-- May the spare replace physical crest `p` (R276)? -/
def State.spareReady (s : State) (p : Nat) : Bool :=
  decide (s.rep.spareSt = 0) && !(s.reg 16).permanent && !s.crestRetired 16 && s.rep.bindDue.isNone
    && !s.colRetired (s.crestCol p)

/-- A physical crest is retired (R275): its commands end CREST_LOST, its state is lost, and the spare takes its place
where R276 allows it, else its logical crest is absent (R277). Commands that still wait for a crest to leave OFF, or for
its regulator's restart, have not reached it: they wait on for the spare (Table SUP-7). -/
def State.retireCrest (s : State) (p cause : Nat) : State :=
  if s.crestRetired p then s
  else
    let l := s.logicalOf p
    let n := s.errsIn kCrest p
    let can := decide (p < 16) && s.spareReady p
    let wakes := can && (s.crest p).waking && decide ((s.crest p).pw = .off)
    let hit := (if wakes then [] else s.heldParts p) ++ (match l with | some l => (s.crestOwner l).toList | none => [])
    let s := if wakes then s else s.endHeld p sFault 0x46
    let s := match l with | some l => s.unhalt l | none => s
    let s := s.modRep fun r => { r with
      retCrest := orBit r.retCrest p
      spareSt := if p = 16 then 2 else r.spareSt
      bindDue := if can then l else r.bindDue }
    let s := s.modCrest p fun c => { c.powerLoss with lentTo := none, lastPart := none }
    let s := s.modReg p fun r => r.turnOff s.time 4
    let s := s.addLog { code := 0x0A, cls := 2, kind := kCrest, unit := p, count := n, detail := cause
                        part := match l with | some l => s.crestOwner l | none => none }
    let s := s.notice [aUnitRetired] hit
    let s := if can then s else match l with | some l => s.makeAbsent l [] | none => s
    let s := if p = 16 then s.bindFails else s
    s.checkMin kCrest

/-- A queue whose ring lies in a slice (R274). -/
def State.ringIn (s : State) (q n : Nat) : Bool :=
  let k := s.queue q
  match s.queueOwner q with
  | some p =>
    [(k.sqBase, 64 * 2 ^ k.sqLog), (k.cqBase, 32 * 2 ^ k.cqLog)].any (fun r =>
      !isHostAddr r.1 && (List.range ((r.2 + 4095) / 4096)).any (fun i => s.xlate p (r.1 + 4096 * i) / 2 ^ 24 = n))
  | none => false

/-- A queue in RUN or HALTED moves to STOPPING, and to DISABLED at once when nothing of it is in flight (R145). -/
def State.stopQueue (s : State) (q : Nat) : State :=
  match (s.queue q).st with
  | .run | .halted =>
    let idle := !(s.cmds.any (fun c => c.q = q))
    (s.modQueue q fun k => { k with st := if idle then .disabled else .stopping, hold := none }).readyOrRun
  | _ => s

/-- A slice is retired (R274); a SIGNAL whose word waited for a copy there meets the retired slice. -/
def State.retireSlice (s : State) (n cause : Nat) : State :=
  if s.sliceRetired n then s
  else
    let o := s.sliceOwner n
    let k := s.errsIn kSlice n
    let qs := (List.range 64).filter (fun q => s.ringIn q n)
    let s := s.zeroSlice n
    let s := s.modRep fun r => { r with retSlice := orBit r.retSlice n }
    let s := { s with cmds := s.cmds.map (fun (c : Cmd) =>
      if decide (o = some c.part) && c.fin.isNone then { c with lost := orBit c.lost n } else c) }
    let held := s.stalled.filter (fun e => decide (e.2 = .sparing n) && (s.cmd? e.1.1 e.1.2).any (fun c => c.opcode = 7))
    let s := (s.modSlice n fun x => { x with
      pw := .off, waking := false, sparing := none, spareQ := [], copied := [] }).unstall (.sparing n) 0
    let s := held.foldl (fun s e => s.endCmd e.1.1 e.1.2 sPoison 0x50) s
    let s := match o with
      | some p => if (s.part p).interleave then s
          else s.modPart p fun x => { x with slices := clrBit x.slices n }
      | none => s
    let s := match s.journal with
      | some j => if j.transit.testBit n then
          { s with journal := some { j with marked := orBit j.marked n, transit := clrBit j.transit n } } else s
      | none => s
    let s := s.addLog { code := 0x05, cls := 2, kind := kSlice, unit := n, part := o, count := k, detail := cause }
    let s := s.notice [aUnitRetired, aCapacityLost] o.toList
    let s := qs.foldl State.stopQueue s
    s.checkMin kSlice

/-- A peer port is retired: its state, the routes and the log (R194, R202). -/
def State.retirePort (s : State) (k cause : Nat) : State :=
  if s.rep.retPort.testBit k then s
  else
    let n := s.errsIn kPort k
    let s := s.modRep fun r => { r with retPort := orBit r.retPort k }
    let s := s.modPort k fun x => { x with st := 5, helloSeen := false }
    let s := s.addLog { code := 0x13, cls := 2, kind := kPort, unit := k, count := n, detail := cause }
    s.notice [aUnitRetired] []

/-- A host module is retired (R171); the link is configured again on the rest. -/
def State.retireModule (s : State) (m cause : Nat) : State :=
  if s.rep.retMod.testBit m then s
  else
    let n := s.errsIn kHost m
    let s := s.modRep fun r => { r with retMod := orBit r.retMod m }
    let s := s.modHmod m fun x => { x with st := 5 }
    let s := s.addLog { code := 0x11, cls := 2, kind := kHost, unit := m, count := n, detail := cause }
    (s.notice [aUnitRetired] []).hostReconfig

/-- A col is retired, with everything behind it, a spare that was starting for a crest of it included (R276, R278). -/
def State.retireCol (s : State) (c cause : Nat) : State :=
  if s.colRetired c then s
  else
    let n := s.errsIn kCol c
    let s := s.modRep fun r => { r with retCol := orBit r.retCol c }
    let s := s.addLog { code := 0x0E, cls := 2, kind := kCol, unit := c, count := n, detail := cause }
    let s := (s.notice [aUnitRetired] []).checkMin kCol
    let spare := decide (s.rep.spareSt = 1) && decide (s.rep.replaces / 4 = c)
    let s := (List.range 17).foldl (fun s p =>
      if (p < 16 ∧ p / 4 = c) ∨ (p = 16 ∧ spare) then s.retireCrest p 4 else s) s
    let s := if s.rep.bindDue.any (fun l => decide (s.crestCol (s.physOf l) = c)) then s.bindFails else s
    let s := (List.range 96).foldl (fun s n => if sliceCol n = c then s.retireSlice n 4 else s) s
    if c = 0 then s else s.retirePort (c - 1) 4

/-! Store errors. -/

/-- A slice queues the sparing of a row; with no spare row left it is permanent (R272). -/
def State.spareRow (s : State) (n row : Nat) : State :=
  if (s.slice n).spares = 0 then s.retireSlice n 2
  else s.modSlice n fun x =>
    if x.sparing.any (fun r => r.1 = row && !r.2) || x.spareQ.contains row then x
    else { x with spareQ := x.spareQ ++ [row] }

/-- One store error met by a read (R270, R271, R284); `cmd` is the consumer's (queue, tag). -/
def State.storeError (s : State) (e : Ecc) (cmd : Option (Nat × Nat)) : State :=
  let n := e.addr / 2 ^ 24
  let row := e.addr % 2 ^ 24 / 4096
  let ent : LogEntry := { kind := kSlice, unit := n, part := s.sliceOwner n, cmd := cmd, detail := e.word, addr := e.addr }
  if n ≥ 96 then s
  else if s.sliceRetired n then s.addLog { ent with code := if e.kind = .ue then 0x02 else 0x01, cls := 2 }
  else
    match e.kind with
    | .ce => (s.modSlice n fun x => { x with ce := min 255 (x.ce + 1) }).addLog
        { ent with code := 0x01, cls := 0, count := s.errsIn kSlice n }
    | .hardCe =>
      let s := (s.modSlice n fun x => { x with ce := min 255 (x.ce + 1) }).addLog
        { ent with code := 0x03, cls := 0, count := s.errsIn kSlice n }
      s.spareRow n row
    | .ue =>
      if s.linePoison (e.addr / 64) then s
      else
        let s := s.modSlice n fun x => { x with ue := min 255 (x.ue + 1) }
        let s := { s with poison := tset false s.poison (e.addr / 64) true }.countErr kSlice n
        let perm := s.atThresh kSlice n
        let s := s.addLog { ent with code := 0x02, cls := 1, count := s.errsIn kSlice n }
        let s := s.alert aStoreUe
        if perm then s.retireSlice n (if (s.slice n).spares = 0 then 2 else 1) else s.spareRow n row

/-- The store errors that a step's reads meet; a correctable one sets ECC_CORR of the consumer (R270). -/
def State.storeErrors (s : State) (es : List Ecc) (q t : Nat) : State :=
  es.foldl (fun s e =>
    let s := s.storeError e (some (q, t))
    if e.kind = .ue then s else s.modCmd q t fun c => { c with eccCorr := true }) s

/-- The store errors among `es` that lie in lines which the step reads. -/
def errsOf (gs : List Nat) (es : List Ecc) : List Ecc :=
  es.filter (fun e => gs.any (fun g => decide (g / 64 = e.addr / 64)))

/-- The addresses among `gs` for which a read reaches a slice: no line that the device coherent cache holds. -/
def State.missing (s : State) (gs : List Nat) : List Nat :=
  gs.filter (fun g => !(s.viaCache (g / 64) && decide ((tget {} s.cache (g / 64)).st ≠ .I)))

/-- Before a command's read takes effect: the slices under it wake, which it waits for (R21), and the disturbed words among
its addresses are met, `es` and those that the model keeps (R270, R271). -/
def State.meets (s : State) (q t : Nat) (gs : List Nat) (es : List Ecc) : State :=
  let s := (s.chargeMclk q t wWake (s.asleepNs gs * 8 / 5)).wakes gs
  let met := errsOf (s.missing gs) s.flaws
  { s with flaws := s.flaws.filter (fun e => !met.contains e) }.storeErrors (met ++ errsOf (s.missing gs) es) q t

/-- A command reads these addresses; the cache takes in what it misses. A later read may see writes that this one did not
(R152). -/
def State.readsWith (s : State) (q t : Nat) (gs : List Nat) (es : List Ecc) : State := ((s.meets q t gs es).touch gs).bump

/-- A command reads these addresses. -/
def State.reads (s : State) (q t : Nat) (gs : List Nat) : State := s.readsWith q t gs []

end Sys2Proof.Machine
end

