-- ==== Sys2Proof/Machine/Group.lean ====
section
/-!
DEFINITION. The group of dies: wiring (R187), routes and members (R202), and the placing of a flit in the egress of the
port that its route takes (R196, R202).
-/
namespace Sys2Proof.Machine

/-- The position that port Tk reaches (R187). -/
def State.peerOf (s : State) (k : Nat) : Nat := (s.position + k + 1) % 4
/-- The port that reaches position q (R187). -/
def State.portTo (s : State) (q : Nat) : Nat := (q + 3 - s.position) % 4
/-- Is the own link to position q in use: ACTIVE, or in a retrain, across which its held flits and streams go on (R194)?
DEDUCED (log 47). -/
def State.linkUp (s : State) (q : Nat) : Bool :=
  decide (q < 4) && decide (q ≠ s.position) && decide ((s.port (s.portTo q)).st = 2 ∨ (s.port (s.portTo q)).st = 3)
/-- Is the link from m to q ACTIVE by m's latest LINKMAP? -/
def State.mapUp (s : State) (m q : Nat) : Bool := (tget 0 s.linkmaps m).testBit q

/-- A route (R202). -/
inductive Route where
  | none
  | direct
  | relay (m : Nat)
  | self
deriving DecidableEq, Repr

/-- The route to a position (R202). -/
def State.route (s : State) (q : Nat) : Route :=
  if q = s.position then .self
  else if s.linkUp q then .direct
  else match (List.range 4).find? (fun m => m ≠ q && s.linkUp m && s.mapUp m q) with
    | some m => .relay m
    | none => .none

/-- Is a position in the group? -/
def State.member (s : State) (q : Nat) : Bool := decide (q < 4) && decide (s.route q ≠ .none)
/-- The group as a mask (LK_GROUP.MEMBERS). -/
def State.members (s : State) : Nat := ((List.range 4).map (fun q => if s.member q then 2 ^ q else 0)).sum
/-- The leading position: the lowest present (R202). -/
def State.leader (s : State) : Nat := ((List.range 4).find? (fun q => s.member q)).getD s.position

/-- The port that a route to q leaves by. -/
def State.wayTo (s : State) (q : Nat) : Option Nat :=
  match s.route q with
  | .direct => some (s.portTo q)
  | .relay m => some (s.portTo m)
  | _ => none

/-- An empty flit of a type to a position; SEQ, ACK, credits and CRC are filled in as it leaves (R192, R196). -/
def State.newFlit (s : State) (typ dst : Nat) (body : List Byte) : Flit :=
  { typ := typ, seq := 0, ack := 0, nak := false
    fwd := match s.route dst with | .relay _ => true | _ => false
    src := s.position, dst := dst, lines := 3, crData := 0, crFlag := false, crMgmt := false, crRelay := 0
    sid := 0, place := 0, body := body ++ List.replicate (256 - body.length) 0#8, crc := 0#32 }

/-- The port whose egress takes new flits for q: while the flits of a lost link wait for RESYNC_RSP, later ones queue
behind them (R203). -/
def State.wayIn (s : State) (q : Nat) : Option Nat :=
  if q ≠ s.position ∧ (s.port (s.portTo q)).resync = true then some (s.portTo q) else s.wayTo q

/-- A flit enters the egress of port `k`, in the queue of its class (R196). -/
def State.putEgress (s : State) (k : Nat) (f : Flit) (crest : Nat) : State :=
  s.modPort k fun x =>
    match f.typ with
    | 5 => { x with qMgmt := x.qMgmt ++ [f] }
    | 4 => { x with qFlagAck := x.qFlagAck ++ [f] }
    | 3 => { x with qFlag := x.qFlag ++ [f] }
    | _ => { x with qData := x.qData ++ [(crest, f)] }

/-- A flit of this die enters the egress of its route's port (R196, R202). -/
def State.enqueue (s : State) (f : Flit) (crest : Nat := 0) : State :=
  match s.wayIn f.dst with
  | none => s
  | some k => s.putEgress k f crest

/-- A management message to a position: MSG and its fields (Table PEER-4). -/
def State.sendMgmt (s : State) (dst msg : Nat) (fields : List Byte) : State :=
  s.enqueue (s.newFlit 5 dst (BitVec.ofNat 8 msg :: fields))

/-- LINKS of this die: the direct links that are ACTIVE (Table PEER-4). -/
def State.links (s : State) : Nat :=
  ((List.range 4).map (fun q => if q ≠ s.position ∧ (s.port (s.portTo q)).st = 2 then 2 ^ q else 0)).sum

/-- The caps that the leader has set stand for one membership: at a change they are set anew (R263). -/
def State.regroup (s : State) : State :=
  let ms := s.members
  s.modPwr fun w => { w with capsSet := w.capsSet.filter (fun m => decide (m = ms)) }

/-- A LINKMAP goes to every reachable member at a change of a port's state (Table PEER-4). The spec does not say what its
EPOCH counts: a free value. -/
def State.sendLinkmap (s : State) : State :=
  (List.range 4).foldl (fun s q =>
    if q ≠ s.position ∧ s.member q = true then
      (s.sendMgmt q 2 (toBytes (Config.freeNat s.freeCtr) 4 ++ toBytes s.links 1)).bump else s) s.regroup.liveChange

/-- Streams in flight to a destination use these SIDs: those of commands in flight, and those whose command has gone
before the FLAG_ACK (R196). -/
def State.sidsInUse (s : State) (dst : Nat) : List Nat :=
  s.cmds.flatMap (fun c => (c.streams.filter (fun x => x.dst = dst && x.answer = 0)).map (·.sid))
    ++ (s.closing.filter (fun e => e.1 = dst)).map (·.2)
/-- A SID for a further stream to a destination, if fewer than 256 are in flight. -/
def State.freeSid (s : State) (dst : Nat) : Option Nat :=
  (List.range 256).find? (fun i => !(s.sidsInUse dst).contains i)

/-- The stream of a command's SEND stage, opened with a fresh SID at its first tile (R196). -/
def State.openStream (s : State) (q t stage dst : Nat) : State × Option Nat :=
  match s.cmd? q t with
  | none => (s, none)
  | some c =>
    match c.streams.find? (fun x => x.stage = stage) with
    | some x => (s, some x.sid)
    | none =>
      match s.freeSid dst with
      | none => (s, none)
      | some sid => (s.modCmd q t fun c => { c with streams := c.streams ++ [{ stage := stage, dst := dst, sid := sid }] },
          some sid)

/-- DATA_STORE flits for consecutive lines from a destination address on: up to four lines a flit (R191). -/
def State.sendStore (s : State) (crest dst sid addr : Nat) (bs : List Byte) : State :=
  let ls := chunks 256 (bs.length + 1) bs
  (List.range ls.length).foldl (fun s i =>
    let d := ls.getD i []
    s.enqueue { s.newFlit 1 dst d with sid := sid, lines := ceilDiv d.length 64 - 1, place := (addr + 256 * i) / 64 % 2 ^ 25 } crest) s

/-- FMT of a held format (Table PEER-3). -/
def fmtCode (f : Nat) : Nat :=
  match f with | 1 => 0 | 2 => 1 | 0x10 => 2 | 0x11 => 3 | 0x12 => 4 | 0x13 => 5 | _ => 7
/-- Element bytes of an FMT code. -/
def fmtBytes (k : Nat) : Nat := if k ≤ 1 then 1 else if k ≤ 3 then 2 else 4

/-- PLACE of a DATA_CHANNEL flit (Table PEER-3). -/
def chPlace (channel half row tile fmt : Nat) : Nat :=
  channel + half * 2 ^ 4 + row * 2 ^ 5 + tile * 2 ^ 12 + fmt * 2 ^ 41

/-- DATA_CHANNEL flits of one tile, in row order: two rows, one row or half a row each by the width (R191). -/
def State.sendChannel (s : State) (crest dst sid channel tile fmt : Nat) (bs : List Byte) : State :=
  let w := fmtBytes fmt
  let ls := chunks 256 (bs.length + 1) bs
  (List.range ls.length).foldl (fun s i =>
    let row := if w = 1 then 2 * i else if w = 2 then i else i / 2
    s.enqueue { s.newFlit 2 dst (ls.getD i []) with
      sid := sid, place := chPlace channel (if w = 4 then i % 2 else 0) row tile fmt } crest) s

/-- May every outgoing stream of a command be opened now, 256 at most in flight to a destination (R196)? -/
def State.sidsFree (s : State) (c : Cmd) (ss : List (Nat × Nat)) : Bool :=
  ss.all (fun e => c.streams.any (fun x => x.stage = e.1) || (s.freeSid e.2).isSome)

/-- Does the port to a destination take nothing new from the crests: its replay buffer is full (R192), it retrains (R194),
or its route is being changed (R203)? -/
def State.sendHeld (s : State) (dst : Nat) : Bool :=
  match s.wayIn dst with
  | none => false
  | some k => decide ((s.port k).held.length ≥ 256) || decide ((s.port k).st = 3) || (s.port k).resync

end Sys2Proof.Machine
end

