-- ==== Sys2Proof/Machine/Image.lean ====
section
/-!
DEFINITION. Generavas tile images (R90, R91): the header of Table VEC-7 and the rules that every instruction must meet.
-/
namespace Sys2Proof.Machine

/-- Instructions in an image, COUNT (Table VEC-7). -/
def imgCount (b : List Byte) : Nat := fld b 6 2
/-- Length of an image in bytes (R90). -/
def imgLen (b : List Byte) : Nat := 64 + 8 * imgCount b
/-- The instruction words of an image. -/
def imgWords (b : List Byte) : List DWord :=
  (List.range (imgCount b)).map (fun i => BitVec.ofNat 64 (fld b (64 + 8 * i) 8))
/-- ENTRY[0..7]. -/
def imgEntries (b : List Byte) : List Nat := (List.range 8).map (fun i => fld b (0x10 + 2 * i) 2)
/-- SLOT_MASK. -/
def imgSlots (b : List Byte) : Nat := fld b 0x20 1
/-- Instructions per invocation: 0 means 2^20. -/
def imgLimit (b : List Byte) : Nat := if fld b 0xC 4 = 0 then 2 ^ 20 else fld b 0xC 4

/-- The code is one that CVT accepts (R77). -/
def cvtTarget (c : Nat) : Bool := decide (c = 1 ∨ c = 2 ∨ c = 9 ∨ c = 0xA ∨ c = 0x10 ∨ c = 0x11 ∨ c = 0x13)
/-- The code is one that LDS accepts (R77). -/
def ldsSource (c : Nat) : Bool := decide (c = 1 ∨ c = 2 ∨ c = 9 ∨ c = 0x10 ∨ c = 0x11 ∨ c = 0x12 ∨ c = 0x13)
/-- The code is one that STC accepts (R77). -/
def stcTarget (c : Nat) : Bool := roleOutput c && decide (c ≠ 0x22)

/-- What one field of an instruction may hold. -/
inductive FieldUse where
  | none   -- unused: 0
  | v      -- a V register
  | s      -- an S register: 0–15
  | m      -- a destination M register: 1–7
  | src    -- STC's source type: 0 or 1
deriving DecidableEq, Repr

/-- Does a value fit a field's use (R91)? -/
def FieldUse.ok (u : FieldUse) (x : Nat) : Bool :=
  match u with
  | .none => decide (x = 0)
  | .v => decide (x < 32)
  | .s => decide (x < 16)
  | .m => decide (1 ≤ x ∧ x < 8)
  | .src => decide (x < 2)

/-- The uses of an instruction's fields: VD, VA, VB, VC, MASK used, IMM bits used, largest RM (Tables VEC-4, VEC-5). -/
structure Uses where
  vd : FieldUse := .none
  va : FieldUse := .none
  vb : FieldUse := .none
  vc : FieldUse := .none
  mask : Bool := false
  imm : Nat := 0
  rm : Nat := 0

/-- The row of Table VEC-5 for an opcode and SUB; none where the table lists none. DEDUCED (log 131): of RED only SUM rounds and
takes the directed modes (Table VEC-4). -/
def usesOf (op sub : Nat) : Option Uses :=
  match op with
  | 0x00 => if sub = 0 then some {} else none
  | 0x01 => if sub = 0 then some {} else none
  | 0x02 => if sub ≤ 4 then some { va := if sub = 0 then .none else .s, imm := 10 } else none
  | 0x03 => if sub = 0 then some { vd := .s, imm := 10 } else none
  | 0x08 =>
    if sub ≤ 8 then some { vd := .s, va := .s, vb := .s }
    else if sub = 9 then some { vd := .s, va := .s, imm := 24 }
    else if sub = 10 then some { vd := .s, imm := 24 }
    else if sub = 11 then some { vd := .s, imm := 16 }
    else none
  | 0x09 => if sub = 0 then some { vd := .s, va := .v, imm := 7 } else none
  | 0x0A => if sub = 0 then some { vd := .v, va := .s, mask := true } else none
  | 0x0B => if sub = 0 then some { vd := .v, mask := true } else none
  | 0x10 | 0x11 | 0x12 => if sub = 0 then some { vd := .v, va := .v, vb := .v, mask := true, rm := 3 } else none
  | 0x13 => if sub = 0 then some { vd := .v, va := .v, vb := .v, vc := .v, mask := true, rm := 3 } else none
  | 0x14 | 0x15 => if sub = 0 then some { vd := .v, va := .v, vb := .v, mask := true } else none
  | 0x16 => if sub ≤ 2 then some { vd := .v, va := .v, mask := true } else none
  | 0x17 => if sub ≤ 3 then some { vd := .m, va := .v, vb := .v, mask := true } else none
  | 0x20 => if sub ≤ 10 then some { vd := .v, va := .v, vb := .v, mask := true } else none
  | 0x21 => if sub ≤ 2 then some { vd := .m, va := .v, vb := .v, mask := true } else none
  | 0x22 => if sub = 0 then some { vd := .v, va := .v, vb := .v, mask := true } else none
  | 0x28 => if cvtTarget sub then some { vd := .v, va := .v, mask := true, rm := 4 } else none
  | 0x29 => if sub = 0 then some { vd := .v, va := .v, mask := true, rm := 3 } else none
  | 0x30 => if sub < 8 then some { vd := .v, va := .s, mask := true, imm := 24 } else none
  | 0x31 => if sub < 8 then some { va := .s, vb := .v, mask := true, imm := 24 } else none
  | 0x32 => if ldsSource sub then some { vd := .v, va := .s, mask := true, imm := 24 } else none
  | 0x33 =>
    if stcTarget sub then
      some { vd := .src, va := .v, vb := .s, vc := if isBlock sub then .s else .none, mask := true, imm := 24, rm := 4 }
    else none
  | 0x34 => if sub = 0 then some { va := .v, vb := .s, vc := .s, mask := true, imm := 24, rm := 3 } else none
  | 0x38 => if sub ≤ 3 then some { vd := .s, va := .v, mask := true, rm := if sub = 0 then 3 else 0 } else none
  | 0x40 => if sub ≤ 5 then some { vd := .v, va := .v, mask := true } else none
  | _ => none

/-- Does an instruction word meet R91 in an image of `n` instructions that accesses the slots of `slots`? -/
def instrOk (n slots : Nat) (w : DWord) : Bool :=
  let i := vDec w
  match usesOf (vOp w) i.sub with
  | none => false
  | some u =>
    u.vd.ok i.vd && u.va.ok i.va && u.vb.ok i.vb && u.vc.ok i.vc && (u.mask || decide (i.mask = 0))
      && decide (i.imm < 2 ^ u.imm) && decide (i.rm ≤ u.rm)
      && (if vOp w = 2 ∨ vOp w = 3 then decide (i.imm < n) else true)
      && (if vOp w = 0x30 ∨ vOp w = 0x31 then slots.testBit i.sub else true)

/-- May an image end with this instruction: END, or BR with SUB 0 (R91)? -/
def closes (w : DWord) : Bool := decide (vOp w = 1) || (decide (vOp w = 2) && decide ((vDec w).sub = 0))

/-- Is the header of an image valid (R91)? -/
def imageHeadOk (b : List Byte) : Bool :=
  let n := imgCount b
  decide (fld b 0 4 = 0x4E475649) && decide (fld b 5 1 = 1) && decide (1 ≤ n ∧ n ≤ 1024)
    && decide (fld b 8 4 < 2) && decide (fld b 0xC 4 ≤ 2 ^ 20) && decide (fld b 0x21 3 = 0) && decide (fld b 0x28 24 = 0)
    && (imgEntries b).all (fun e => decide (e = 0xFFFF ∨ e < n)) && (imgEntries b).any (fun e => decide (e ≠ 0xFFFF))

/-- Are the instructions of an image valid, and its length and CRC right (R90, R91)? -/
def imageBodyOk (b : List Byte) : Bool :=
  let ws := imgWords b
  decide (b.length = imgLen b) && decide (crc32 (b.drop 64) = BitVec.ofNat 32 (fld b 0x24 4))
    && ws.all (instrOk (imgCount b) (imgSlots b)) && (match ws.getLast? with | some w => closes w | none => false)

/-- Is an image valid (R91)? -/
def imageOk (b : List Byte) : Bool := imageHeadOk b && imageBodyOk b

end Sys2Proof.Machine
end

