-- ==== Sys2Proof/Machine/Queue.lean ====
section
/-!
DEFINITION. Queue pages, doorbells, fetch and records (R119–R125, R134, R138–R145).
-/
namespace Sys2Proof.Machine

/-- 2^32: queue indices run modulo it (R122). -/
def m32 : Nat := 2 ^ 32
/-- A difference of two indices modulo 2^32. -/
def sub32 (a b : Nat) : Nat := (a + m32 - b % m32) % m32

/-- Commands of a queue in flight, from fetch to record (R125). -/
def State.inFlight (s : State) (q : Nat) : Nat := (s.cmds.filter (fun c => c.q = q)).length

/-- Free records of a completion ring after one reserved for every command in flight (R125). -/
def State.freeRecords (s : State) (q : Nat) : Nat :=
  let k := s.queue q
  2 ^ k.cqLog - sub32 k.cqTail k.cqHead - s.inFlight q

/-- Is a queue ready to be fetched from (R125, R134)? Its partition is ACTIVE and not stopped by a reshape (R212). -/
def State.queueReady (s : State) (q : Nat) : Bool :=
  let k := s.queue q
  s.serving && decide (k.st = .run) && decide (k.head ≠ k.tail) && decide (s.inFlight q < 32)
    && decide (s.freeRecords q ≥ 2) && k.hold.isNone
    && (match s.queueOwner q with | some p => decide ((s.part p).st = 1) | none => false)

/-- The first of `n` numbers, taken in round-robin order after `last`, that `f` accepts. -/
def robin (n last : Nat) (f : Nat → Bool) : Option Nat :=
  ((List.range n).map (fun i => (last + 1 + i) % n)).find? f

/-- The partition that the dispatcher serves next (R134). -/
def State.nextPart (s : State) : Option Nat :=
  robin 8 s.lastPart (fun p => (List.range 64).any (fun q => s.queueOwner q = some p && s.queueReady q))

/-- The queue that the dispatcher serves next: the lowest class with a ready queue, round robin within it (R134). -/
def State.nextQueue (s : State) : Option Nat :=
  match s.nextPart with
  | none => none
  | some p =>
    let ready := fun q => decide (s.queueOwner q = some p) && s.queueReady q
    let cls := ((List.range 4).find? (fun c => (List.range 64).any (fun q => ready q && (s.queue q).cls = c))).getD 0
    robin 64 (s.part p).lastQ (fun q => ready q && (s.queue q).cls = cls)

/-- The R121 address of submission entry `n` (R122). -/
def Queue.entryAddr (k : Queue) (n : Nat) : Nat := k.sqBase + n % 2 ^ k.sqLog * 64
/-- The R121 address of record `n` (R122). -/
def Queue.recordAddr (k : Queue) (n : Nat) : Nat := k.cqBase + n % 2 ^ k.cqLog * 32

/-- Records not yet signalled send the queue's message (R144). -/
def State.signalQueue (s : State) (q : Nat) : State :=
  (s.modQueue q fun k => { k with unsig := 0 }).sendMsix (s.queue q).irqVec

/-- Can the records of a queue be written now: its ring is in the store, or host memory answers (R172)? -/
def State.ringReachable (s : State) (q : Nat) : Bool := !isHostAddr (s.queue q).cqBase || decide (s.hostConfig ≠ 0)

/-- The global addresses of the record that a queue writes next. -/
def State.recordLine (s : State) (q : Nat) : List Nat :=
  s.gaddrs ((s.queueOwner q).getD 0) ((s.queue q).recordAddr (s.queue q).cqTail) 32

/-- A record is written at Q_CQ_TAIL, which advances; a ring in a retired slice drops it, and so does the part of a ring
that lies in no slice of the partition (R139, R144, R274). -/
def State.putRecord (s : State) (q : Nat) (ws : List Nat) (status tag : Nat) (irq : Bool) : State :=
  let k := s.queue q
  let a := k.recordAddr k.cqTail
  let p := (s.queueOwner q).getD 0
  let g := s.gaddr p a
  let lost := !isHostAddr a && (s.sliceRetired (g / 2 ^ 24) || !rangeIn (s.part p).slices a 32)
  let s := if lost then
      s.addLog { code := 0x06, cls := 3, part := s.queueOwner q, cmd := some (q, tag), addr := a }
    else s.writeAt .disp p a (wordBytes ws)
  let s := s.modQueue q fun k => { k with cqTail := (k.cqTail + 1) % m32, unsig := k.unsig + 1 }
  if k.irqEn && (decide (k.unsig + 1 ≥ k.irqCount) || irq || decide (status ≥ 0x10)) then s.signalQueue q else s

/-- A pending overflow record is written. -/
def State.overflow (s : State) (q : Nat) (o : Ovf) : State :=
  let k := s.queue q
  let s := s.putRecord q (overflowWords q o k.cqTail k.cqLog (decide (s.mg.taint ≠ 0))) sFull o.first false
  s.modQueue q fun k => { k with ovf := none }

/-- The pending overflow record is written where a record is free and its ring can be reached (R123). -/
def State.putOverflow (s : State) (q : Nat) : State :=
  match (s.queue q).ovf with
  | none => s
  | some o =>
    if decide (s.freeRecords q ≥ 1) && s.ringReachable q && (s.heldBy true (s.recordLine q)).isNone then s.overflow q o else s

/-- A doorbell write of value T (R123, R124). -/
def State.doorbell (s : State) (q T : Nat) : State :=
  let k := s.queue q
  match s.queueOwner q with
  | none => s
  | some _ =>
    if k.st = .disabled ∨ k.st = .stopping then s.modQueue q fun k => { k with dbDisabled := true }
    else if sub32 T k.tail > 2 ^ k.sqLog - sub32 k.tail k.head then
      let s := s.modQueue q fun k => { k with
        ovfBit := true
        ovf := some (match k.ovf with
          | some o => { o with requested := T, count := o.count + 1 }
          | none => { first := k.tail, requested := T, head := k.head, count := 1 }) }
      s.putOverflow q
    else s.modQueue q fun k => { k with tail := T % m32 }

/-- May a queue be enabled: owned, its bases aligned, each in host memory or in the partition's slices (R120)? -/
def State.canEnable (s : State) (q : Nat) : Bool :=
  let k := s.queue q
  match s.queueOwner q with
  | none => false
  | some p =>
    [k.sqBase, k.cqBase].all (fun a => decide (a % 4096 = 0) && addrOk a && rangeIn (s.part p).slices a 1)

/-- A write of ENABLE = 1 (R120, R145). An overflow record that is still pending takes the ring's first record (R138). -/
def State.enableQueue (s : State) (q : Nat) : State :=
  if (s.queueOwner q).isNone then s
  else if (s.queue q).st ≠ .disabled then s.modQueue q fun k => { k with cfgLocked := true }
  else if s.canEnable q && s.serving then
    let m := match s.queueOwner q with | some p => (s.part p).slices | none => 0
    ((s.modQueue q fun k => { k with
      st := .run, tail := 0, head := 0, cqHead := 0, cqTail := 0, unsig := 0, hold := none
      slicesAtRun := m, energy := 0 }).readyOrRun).putOverflow q
  else s.modQueue q fun k => { k with cfgBad := true }

/-- A write of RESUME = 1: a HALTED queue returns to RUN, every index kept (R133). DEDUCED (log 137): it enters RUN with the
slices that its partition owns now. -/
def State.resumeQueue (s : State) (q : Nat) : State :=
  if (s.queue q).st = .halted ∧ (s.queueOwner q).isSome then
    let m := match s.queueOwner q with | some p => (s.part p).slices | none => 0
    s.modQueue q fun k => { k with st := .run, hold := none, slicesAtRun := m }
  else s

/-- A Q_CQ_HEAD write: taken unless it moves past Q_CQ_TAIL or backwards (R139); the freed
slots take the records that wait. -/
def State.setCqHead (s : State) (q v : Nat) : State :=
  let k := s.queue q
  if (s.queueOwner q).isSome && decide (sub32 v k.cqHead ≤ sub32 k.cqTail k.cqHead) && decide (v < m32) then
    s.modQueue q fun k => { k with cqHead := v }
  else s

/-- The streams of a command whose flag is unanswered: destination and SID. -/
def Cmd.unanswered (c : Cmd) : List (Nat × Nat) :=
  (c.streams.filter (fun x : Stream => x.flagSent && decide (x.answer = 0))).map (fun x => (x.dst, x.sid))

/-- The command leaves its queue once its record is written or dropped: holds end, the SIDs of its unanswered
streams stay taken (R196), a queue that stops is DISABLED when
nothing is in flight, a BARRIER command that was refused or aborted halts its queue (R133, R145). -/
def State.leaveQueue (s : State) (c : Cmd) (st : Nat) : State :=
  let s := { s with
    cmds := s.cmds.filter (fun k => !(k.q = c.q && k.t = c.t)), ends := s.ends.filter (· != (c.q, c.t))
    closing := s.closing ++ c.unanswered }
  let halt := c.barrier && (isRefusal st || decide (st ≥ 0x20))
  let idle := !(s.cmds.any (fun k => k.q = c.q))
  (s.modQueue c.q fun k =>
    let k := if k.hold = some c.t then { k with hold := none } else k
    let k := if halt ∧ k.st = .run then { k with st := .halted, haltTag := c.t } else k
    if k.st = .stopping ∧ idle then { k with st := .disabled } else k).readyOrRun

/-- A read of a queue page word (Table CMD-1); 64-bit registers answer whole at their offset. -/
def State.readQueue (s : State) (q off : Nat) : Nat :=
  let k := s.queue q
  if (s.queueOwner q).isNone then 0
  else
    match off with
    | 0x000 => k.sqBase
    | 0x008 => k.cqBase
    | 0x010 => k.cfg
    | 0x014 => k.irq
    | 0x018 => if k.st = .run ∨ k.st = .halted then 1 else 0
    | 0x01C => match k.st with | .disabled => 0 | .run => 1 | .halted => 2 | .stopping => 3
    | 0x024 => k.tail
    | 0x028 => k.head
    | 0x02C => k.cqHead
    | 0x030 => k.cqTail
    | 0x034 => b2n k.ovfBit + 2 * b2n k.dbDisabled + 4 * b2n k.cfgLocked + 8 * b2n k.cfgBad
    | 0x038 => k.haltTag
    | _ => 0

/-- A write of Q_CFG: each field with an unlisted encoding keeps its value and sets CFG_BAD (R120). -/
def Queue.writeCfg (k : Queue) (v : Nat) : Queue :=
  let sq := bits v 3 0
  let cq := bits v 7 4
  let okS := decide (4 ≤ sq ∧ sq ≤ 12)
  let okC := decide (4 ≤ cq ∧ cq ≤ 12)
  let cfg := (if okS then sq else k.sqLog) + 16 * (if okC then cq else k.cqLog) + 256 * bits v 9 8
  { k with cfg := cfg, cfgBad := k.cfgBad || !okS || !okC }

/-- A write of a configuration register outside DISABLED is ignored and sets CFG_LOCKED (R120). -/
def Queue.ifDisabled (k : Queue) (f : Queue → Queue) : Queue :=
  if k.st = .disabled then f k else { k with cfgLocked := true }

/-- A write of a queue page word (Table CMD-1, R119, R120). A Q_CTL write acts on ENABLE first, then on RESUME. -/
def State.writeQueue (s : State) (q off v : Nat) : State :=
  if (s.queueOwner q).isNone then s
  else
    match off with
    | 0x000 => s.modQueue q fun k => k.ifDisabled fun k => { k with sqBase := v % 2 ^ 64 }
    | 0x008 => s.modQueue q fun k => k.ifDisabled fun k => { k with cqBase := v % 2 ^ 64 }
    | 0x010 => s.modQueue q fun k => k.ifDisabled fun k => k.writeCfg v
    | 0x014 => s.modQueue q fun k => k.ifDisabled fun k => { k with irq := v % m32 }
    | 0x018 =>
      let s := if v.testBit 0 then s.enableQueue q else s.stopQueue q
      if v.testBit 1 then s.resumeQueue q else s
    | 0x020 => s.doorbell q (v % m32)
    | 0x02C => s.setCqHead q v
    | 0x034 => s.modQueue q fun k => { k with
        ovfBit := k.ovfBit && !v.testBit 0, dbDisabled := k.dbDisabled && !v.testBit 1
        cfgLocked := k.cfgLocked && !v.testBit 2, cfgBad := k.cfgBad && !v.testBit 3 }
    | _ => s

end Sys2Proof.Machine
end

