-- ==== Sys2Proof/Machine/Accept.lean ====
section
/-!
DEFINITION. The checks at acceptance, in their order (R130): reserved bits, field ranges and format rules, permissions,
present state. Each rule answers the status and sub-code of its refusal.
-/
namespace Sys2Proof.Machine

/-- A check: whether it is broken, and the status and sub-code of the refusal. -/
abbrev Check := Bool × Nat × Nat

/-- The first broken check of a list. -/
def firstBroken : List Check → Option (Nat × Nat)
  | [] => none
  | (b, r) :: cs => if b then some r else firstBroken cs

/-! Sub-codes (Table CMD-10). -/
def fBad (b : Bool) : Check := (b, sFormat, 0x02)
def fSub (sub : Nat) (b : Bool) : Check := (b, sFormat, sub)

/-! What a command names. -/

/-- Does every byte of a range lie in slices of the mask (host ranges do)? -/
def Rng.inMask (mask : Nat) (r : Rng) : Bool :=
  r.n = 0 || (List.range r.rows).all (fun i => rangeIn mask (r.a + i * r.pitch) r.n)

/-- The slices that a range names, as the partition presents it. -/
def Rng.slices (r : Rng) : Nat :=
  if isHostAddr r.a || decide (r.n = 0) then 0
  else ((List.range r.rows).flatMap (fun i =>
    (List.range ((r.a + i * r.pitch + r.n - 1) / 2 ^ 24 - (r.a + i * r.pitch) / 2 ^ 24 + 1)).map
      (fun j => (r.a + i * r.pitch) / 2 ^ 24 + j))).foldl orBit 0

/-- Rows of the source of operand A: the gathered source's where GATHER is set (R100). -/
def Cmd.aRows (c : Cmd) (m : Nat) : Nat := if c.fu.gather then c.fu.gatherRows else m

/-- The descriptors and blocks that an entry names by address, with their lengths (R97, R127). -/
def Cmd.structs (c : Cmd) : List (Nat × Nat) :=
  let opt (a n : Nat) : List (Nat × Nat) := if a = 0 then [] else [(a, n)]
  match c.opcode with
  | 1 => [(c.f64 0x10, 32), (c.f64 0x18, 32)] ++ opt (c.f64 0x20) 32 ++ opt (c.f64 0x28) 48
  | 2 => [(c.f64 0x10, 32), (c.f64 0x18, 32), (c.f64 0x20, 32)] ++ opt (c.f64 0x28) 32 ++ opt (c.f64 0x30) 48
      ++ [(c.f64 0x38, 32)]
  | 4 => [(c.f64 0x10, 32), (c.f64 0x18, 32)]
  | 11 => opt (c.f64 0x18) 32 ++ opt (c.f64 0x20) 48
  | _ => []

/-- The address fields of an entry, each in a form of R121. -/
def Cmd.addrFields (c : Cmd) : List Nat :=
  match c.opcode with
  | 1 => [c.f64 0x10, c.f64 0x18, c.f64 0x20, c.f64 0x28]
  | 2 => [c.f64 0x10, c.f64 0x18, c.f64 0x20, c.f64 0x28, c.f64 0x30, c.f64 0x38]
  | 3 => [c.f64 0x10, c.f64 0x18, c.f64 0x20]
  | 4 => [c.f64 0x10, c.f64 0x18]
  | 5 => [c.f64 0x10, c.f64 0x18, c.f64 0x20]
  | 7 => [c.f64 0x10, c.f64 0x28]
  | 8 => [c.f64 0x10]
  | 9 => [c.f64 0x10]
  | 11 => [c.f64 0x10, c.f64 0x18, c.f64 0x20]
  | _ => []

/-- Element bytes of a REDUCE_RECV format (Table FUSE-7). -/
def recvWidth (f : Nat) : Nat :=
  if f = 1 ∨ f = 2 then 1 else if f = 0x10 ∨ f = 0x11 then 2 else if f = 0x12 ∨ f = 0x13 then 4 else 0

/-- Set bits of a mask below `n`. -/
def popcount (v n : Nat) : Nat := (maskList v n).length

/-- The bytes of staging that a REDUCE_RECV needs (R116). -/
def Cmd.stageBytes (c : Cmd) : Nat := popcount c.rSrcMask 8 * c.rNtile * 128 * (128 * recvWidth c.rFmt)

/-- The ranges that check 3 of R130 covers: descriptors, operands and outputs. -/
def Cmd.ranges (c : Cmd) : List Rng :=
  let st := c.structs.map (fun r => ({ a := r.1, n := r.2 } : Rng))
  let fu : List Rng :=
    if c.fu.named then
      { a := c.fuseAddr, n := 48 + 32 * min 8 c.fu.nstage } ::
        (if c.fu.gather then [{ a := c.fu.idxAddr, n := 4 * (if c.opcode = 2 then c.ch.m else c.gM) }] else [])
    else []
  st ++ fu ++
  match c.opcode with
  | 1 =>
    (if c.fu.transA then c.dA.ranges c.gK (c.aRows c.gM) else c.dA.ranges (c.aRows c.gM) c.gK)
      ++ (if c.fu.transB then c.dB.ranges c.gK c.gN else c.dB.ranges c.gN c.gK)
      ++ c.dOut.ranges c.gM c.gN
  | 2 =>
    (if c.fu.transA then c.dA.ranges c.ch.d (c.aRows c.ch.m) else c.dA.ranges (c.aRows c.ch.m) c.ch.d)
      ++ (if c.fu.transB then c.dB.ranges c.ch.d c.ch.l else c.dB.ranges c.ch.l c.ch.d)
      ++ (if c.ch.flags.testBit 0 then c.dV.ranges c.ch.l c.ch.dv else c.dV.ranges c.ch.dv c.ch.l)
      ++ c.dOut.ranges c.ch.m c.ch.dv
  | 3 =>
    let rows := c.f32 0x28
    let rb := c.f32 0x2C
    let kind := c.f8 0x38
    let el := max 1 (c.f8 0x39)
    [{ a := c.f64 0x10, n := rb, pitch := c.f32 0x30, rows := if kind = 1 then c.f32 0x3C else rows },
     if kind = 2 then { a := c.f64 0x18, n := rows * el, pitch := c.f32 0x34, rows := rb / el }
     else { a := c.f64 0x18, n := rb, pitch := c.f32 0x34, rows := rows }]
      ++ (if kind = 1 then [{ a := c.f64 0x20, n := 4 * rows }] else [])
  | 4 => c.dA.ranges (c.f32 0x20) (c.f32 0x24) ++ c.dOut.ranges (c.f32 0x20) (c.f32 0x24)
  | 5 => [{ a := c.f64 0x10, n := c.f32 0x30 }]
  | 7 => { a := c.f64 0x10, n := c.f8 0x31 } :: (if c.f64 0x28 = 0 then [] else [{ a := c.f64 0x28, n := 8 }])
  | 8 => [{ a := c.f64 0x10, n := c.f8 0x29 }]
  | 9 => if (c.f8 0x1B).testBit 0 then [] else [{ a := c.f64 0x10, n := max 64 c.img }]
  | 11 => { a := c.f64 0x10, n := c.stageBytes } :: c.dOut.ranges c.outRows c.outCols
  | _ => []

/-! Check 1. -/

/-- Check 1 on the entry itself: opcode known, reserved bits and bytes 0 (R130). -/
def Cmd.check1 (c : Cmd) : List Check :=
  [ fSub 0x01 (!decide (1 ≤ c.opcode ∧ c.opcode ≤ 11)),
    fBad (decide (bits (c.f8 2) 7 4 ≠ 0) || (c.f8 7).testBit 6),
    fBad ((List.range 48).any (fun i => !bodyListed c.opcode (0x10 + i) && decide (c.f8 (0x10 + i) ≠ 0))),
    fBad (match c.opcode with
      | 1 => decide (bits (c.f8 0x3C) 7 5 ≠ 0)
      | 5 => decide (bits (c.f8 0x35) 7 1 ≠ 0)
      | 9 => decide (bits (c.f8 0x1B) 7 1 ≠ 0)
      | _ => false),
    fBad (c.addrFields.any (fun a => !addrOk a)) ]

/-- Check 1 on a descriptor: its reserved bytes and its addresses' forms. -/
def Desc.badForm (d : Desc) : Bool := d.reserved || !addrOk d.addr || !addrOk d.scaleAddr

/-! Check 2: field ranges and the rules that refuse with FIELD_BAD. -/

/-- Fields of a descriptor that its format does not use are 0 (Table CMD-3). -/
def Desc.badField (d : Desc) : Bool :=
  (decide (d.source ≠ 0) && !isPair d.format)
    || (decide (d.scaleAddr ≠ 0) && !(isBlock d.format || decide (d.format = 0x22)))

/-- Crests named, as a count. -/
def Cmd.nCrests (c : Cmd) : Nat := popcount c.crestMask 16

/-- Is CREST_MASK or CREST_COUNT broken (R126, R131)? KEEP and USE_PROG are asked of every opcode. -/
def Cmd.badCrests (c : Cmd) : Bool :=
  ((c.keep || decide (c.opcode = 11)) && decide (c.nCrests ≠ 1)) || (c.useProg && decide (c.crestMask = 0)) ||
  if c.noCrest then decide (c.crestMask ≠ 0 ∨ c.crestCount ≠ 0 ∨ c.f8 7 ≠ 0)
  else
    decide ((c.crestMask ≠ 0) = (c.crestCount ≠ 0)) || decide (c.crestCount > 16)
      || (decide (c.opcode = 9) && decide (c.crestMask = 0))

/-- MOVE's own rules (R129). -/
def Cmd.badMove (c : Cmd) : Bool :=
  let rows := c.f32 0x28
  let rb := c.f32 0x2C
  let sp := c.f32 0x30
  let dp := c.f32 0x34
  let k := c.f8 0x38
  let el := c.f8 0x39
  let idx := c.f64 0x20
  let sr := c.f32 0x3C
  decide (rows = 0 ∨ rb = 0 ∨ rb % 64 ≠ 0 ∨ k > 2) || decide (sp % 64 ≠ 0 ∨ dp % 64 ≠ 0)
    || (decide (k ≤ 1) && decide (sp < rb ∨ dp < rb ∨ el ≠ 0))
    || (if k = 1 then decide (idx % 4 ≠ 0 ∨ sr = 0 ∨ sr > 2 ^ 24) else decide (idx ≠ 0 ∨ sr ≠ 0))
    || (decide (k = 2) && (decide (el ≠ 1 ∧ el ≠ 2 ∧ el ≠ 4) || decide (rb % el ≠ 0 ∨ sp < rb ∨ dp < rows * el)))

/-- Slots that the tiles of a GEMM use: all within A0–A7 (R128). -/
def Cmd.slotTop (c : Cmd) : Nat := if c.longsum then c.gSlot + 2 * c.gNslot else c.gSlot + c.gNslot

/-- The field ranges of an entry's body (R128, R129, R158, R163). -/
def Cmd.badFields (c : Cmd) : Bool :=
  decide (c.scope = 3) ||
  match c.opcode with
  | 1 =>
    decide (c.gM = 0 ∨ c.gN = 0 ∨ c.gK = 0) || decide (c.gTileRows = 0 ∨ c.gTileRows > 128)
      || decide (c.gRow0 + c.gTileRows > 128) || decide (c.slotTop > 8)
  | 3 => c.badMove
  | 5 =>
    decide (c.f32 0x30 % 64 ≠ 0) || decide (c.f64 0x20 % 8 ≠ 0)
      || isHostAddr (c.f64 0x18) || isHostAddr (c.f64 0x20)
  | 7 =>
    decide (c.f8 0x31 ≠ 4 ∧ c.f8 0x31 ≠ 8) || decide (c.f64 0x10 % c.f8 0x31 ≠ 0) || decide (c.f64 0x28 % 8 ≠ 0)
      || decide (c.f8 0x30 > 2)
  | 8 => decide (c.f8 0x29 ≠ 4 ∧ c.f8 0x29 ≠ 8) || decide (c.f64 0x10 % c.f8 0x29 ≠ 0) || decide (c.f8 0x28 > 3)
  | 9 => decide (c.f8 0x1A > 7)
  | _ => false

/-! Check 2: formats. -/

/-- A descriptor in the operand role (R26): PAIR codes with a source code. -/
def Desc.operandOk (d : Desc) : Bool := roleOperand d.format && (!isPair d.format || roleSource d.source)

/-- R26 for a command; what could not be read breaks no rule. DEDUCED (log 107): the source of a CONVERT holds what is
stored in one array as elements, codes 0x01 to 0x0B and 0x10 to 0x13; its output, as any, may be 0x00 and writes nothing
(Table CMD-3). -/
def Cmd.badRoles (c : Cmd) : Bool :=
  let out := !c.dOut.unread && decide (c.dOut.format ≠ 0) && !roleOutput c.dOut.format
  let bad (d : Desc) : Bool := !d.unread && !d.operandOk
  match c.opcode with
  | 1 => (!c.fu.converts && bad c.dA) || bad c.dB || out
  | 2 => (!c.fu.converts && bad c.dA) || bad c.dB || bad c.dV || out
  | 4 => (!c.dA.unread && (!(roleOperand c.dA.format || roleOutput c.dA.format) || isPair c.dA.format
      || decide (c.dA.format = 0x22))) || out
  | 11 => out
  | _ => false

/-- The format that the array reads A in (R99). -/
def Cmd.aFmt (c : Cmd) : Nat := if c.fu.converts then c.fu.proFmt else c.dA.format

/-- Is the accumulator INT32 (R36, Table FUSE-7)? -/
def Cmd.intAcc (c : Cmd) : Bool :=
  match c.opcode with
  | 1 => isInt c.aFmt && isInt c.dB.format
  | 11 => decide (c.rFmt = 0x13)
  | _ => false

/-- Is an extent no whole number of blocks of a format (R31)? -/
def badExtent (code n : Nat) : Bool := isBlock code && decide (n % blockSize code ≠ 0)

/-- R31 for a command. PAIR operands split blocks of 32 along K (R47); their extent is not restricted. -/
def Cmd.badK (c : Cmd) : Bool :=
  match c.opcode with
  | 1 => badExtent c.dA.format c.gK || badExtent c.dB.format c.gK
  | 2 => badExtent c.dA.format c.ch.d || badExtent c.dB.format c.ch.d
      || (!c.ch.flags.testBit 0 && badExtent c.dV.format c.ch.l)
  | 4 => badExtent c.dA.format (c.f32 0x24) || badExtent c.dOut.format (c.f32 0x24)
  | _ => false

/-- A coarse scale is finite and greater than zero (R33). -/
def coarseOk (c : Word) : Bool := isFinite c && flt 0#32 c

/-- R33 for a command: each TL4 descriptor, and the output descriptor's coarse scale where a CONVERT stage targets TL4. -/
def Cmd.badTl4 (c : Cmd) : Bool :=
  [c.dA, c.dB, c.dV, c.dOut].any (fun d => decide (d.format = 0x0B) && !coarseOk d.coarse)
    || (c.fu.stages.any (fun g => decide (g.kind = 7 ∧ g.arg8 = 0x0B)) && !c.dOut.unread && !coarseOk c.dOut.coarse)

/-- R63 for a GEMM. -/
def Cmd.badLongsum (c : Cmd) : Bool :=
  decide (c.opcode = 1) && c.longsum
    && (decide (c.gSlot % 2 = 1) || decide (c.gRow0 + c.gTileRows > 64) || c.intAcc)

/-- R86, of any command (Table CMD-2). -/
def Cmd.badSr (c : Cmd) : Bool :=
  !decide (c.srBits = 0 ∨ (8 ≤ c.srBits ∧ c.srBits ≤ 16))

/-! Check 2: fusion descriptors (R98, R106, R108, R113). -/

/-- Finite and at least 0. -/
def epsOk (w : Word) : Bool := isFinite w && !flt w 0#32

/-- Is the header of a fusion descriptor broken (R98)? -/
def Fusion.badHeader (f : Fusion) : Bool :=
  f.reserved || decide (f.nstage > 8 ∨ f.proFlags > 31)
    || (if f.converts then decide (f.proFmt ≠ 1 ∧ f.proFmt ≠ 2) else decide (f.proFmt ≠ 0))
    || (if f.norm then decide (f.proNorm > 1 ∨ f.proT = 0) || !epsOk f.proEps || !addrOk f.statsAddr
        else decide (f.proNorm ≠ 0 ∨ f.proT ≠ 0 ∨ f.proInvn ≠ 0#32 ∨ f.proEps ≠ 0#32 ∨ f.statsAddr ≠ 0))
    || (if f.act then decide (f.proAct > 6) else decide (f.proAct ≠ 0))
    || (if f.gather then decide (f.gatherRows = 0 ∨ f.gatherRows > 2 ^ 24) || !addrOk f.idxAddr
        else decide (f.idxAddr ≠ 0 ∨ f.gatherRows ≠ 0))

/-- The formats that a SEND stage may carry (R113). -/
def sendFmt (f : Nat) : Bool := decide (f = 1 ∨ f = 2 ∨ f = 0x10 ∨ f = 0x11 ∨ f = 0x12 ∨ f = 0x13)

/-- Is a stage entry broken (R98, Table FUSE-5)? -/
def Stage.bad (g : Stage) : Bool :=
  let z8 := decide (g.arg8 = 0)
  let z16 := decide (g.arg16 = 0)
  let zt := decide (g.tmo = 0)
  let zA := decide (g.argA = 0#32)
  let zB := decide (g.argB = 0#32)
  let z1 := decide (g.addr = 0)
  let z2 := decide (g.addr2 = 0)
  let fmt := decide (g.storeFmt = 0 ∨ g.storeFmt = 0x12 ∨ g.storeFmt = 0x10 ∨ g.storeFmt = 0x11 ∨ g.storeFmt = 1
    ∨ g.storeFmt = 2)
  !fmt || !addrOk g.addr || !addrOk g.addr2 ||
  match g.kind with
  | 1 | 2 => !(z8 && z16 && zt && zB && z2 &&
      (if g.sub = 0 then z1 else decide (g.sub ≤ 2) && zA))
  | 3 => !(decide (g.sub = 0 ∧ g.arg8 ≤ 6) && z16 && zt && zA && zB && z1 && z2)
  | 4 => !(decide (g.sub ≤ 1 ∧ g.arg8 ≠ 0) && z16 && zt && epsOk g.argB && z2)
  | 5 => !(decide (g.sub = 0) && decide (g.arg8 = 1 ∨ g.arg8 = 2 ∨ g.arg8 = 0x10 ∨ g.arg8 = 0x11 ∨ g.arg8 = 0x12)
      && z16 && zt && zB && z2)
  | 6 => !(decide (g.sub ≤ 3 ∧ g.arg8 ≤ 1) && z16 && zt && zA && zB && z2)
  | 7 => !(decide (g.sub = 0) && roleOutput g.arg8 && z16 && zt && zA && zB && z1 && z2)
  | 8 => !(decide (g.sub ≤ 1 ∧ g.arg8 ≤ 3 ∧ g.arg16 ≤ 15) && decide (g.addr2 % 8 = 0) && !isHostAddr g.addr
      && !isHostAddr g.addr2 && (decide (g.sub = 0) || z1))
  | _ => true

/-- FP32 is named by 0x00 and by 0x12 alike (Table FUSE-2). -/
def fp32Code (f : Nat) : Nat := if f = 0 then 0x12 else f

/-- The stage-order rules of R106: `conv` is the held format once a CONVERT has run. -/
def badOrder : Option Nat → List Stage → Bool
  | _, [] => false
  | none, g :: gs =>
    (decide (g.kind = 7) && decide (fp32Code g.storeFmt ≠ 0x12)) || badOrder (if g.kind = 7 then some g.arg8 else none) gs
  | some f, g :: gs => decide (g.kind ≠ 6 ∧ g.kind ≠ 8) || decide (fp32Code g.storeFmt ≠ 0x12) || badOrder (some f) gs

/-- The held format after a stage: a CONVERT's target from there on, else the stage's STORE_FMT (R105, R106). -/
def heldNext (conv : Bool) (held : Nat) (g : Stage) : Nat :=
  if g.kind = 7 then g.arg8 else if conv then held else fp32Code g.storeFmt

/-- The held format after a list of stages. -/
def heldAfter : Bool → Nat → List Stage → Nat
  | _, held, [] => held
  | conv, held, g :: gs => heldAfter (conv || decide (g.kind = 7)) (heldNext conv held g) gs

/-- R106 and R108 on the whole list, for an output format. -/
def Fusion.badList (f : Fusion) (out : Nat) (prog : Bool) : Bool :=
  let sends := f.stages.filter (fun g => g.kind = 8)
  let held := heldAfter false 0x12 f.stages
  badOrder none f.stages || decide (sends.length > 3)
    || (List.range sends.length).any (fun i => (List.range i).any (fun j =>
        (sends.getD i {}).arg8 = (sends.getD j {}).arg8))
    || ((isBlock held || decide (held = 0x22)) && decide (out ≠ 0 ∧ out ≠ held))
    || (prog && decide (sends ≠ []) && !sendFmt out)

/-- R113: each SEND stage meets a held format that it may carry. -/
def badSends (prog : Bool) (out : Nat) : Bool → Nat → List Stage → Bool
  | _, _, [] => false
  | conv, held, g :: gs =>
    (decide (g.kind = 8) && !sendFmt (if prog then out else heldNext conv held g))
      || badSends prog out (conv || decide (g.kind = 7)) (heldNext conv held g) gs

/-- Tiles of a command (R96, R116). -/
def Cmd.tileCount (c : Cmd) : Nat :=
  match c.opcode with
  | 1 => ceilDiv c.gM c.gTileRows * ceilDiv c.gN 128
  | 2 => ceilDiv c.ch.m 128
  | 3 =>
    if c.f8 0x38 = 2 then ceilDiv (c.f32 0x28) 128 * ceilDiv (c.f32 0x2C / max 1 (c.f8 0x39)) 128
    else ceilDiv (c.f32 0x28) 128
  | 4 => ceilDiv (c.f32 0x20) 128
  | 5 => ceilDiv (c.f32 0x30) (128 * 64)
  | 11 => c.rNtile
  | _ => 0

/-- The largest tile index of a command. -/
def Cmd.lastTile (c : Cmd) : Nat := if c.opcode = 11 then c.rTile0 + c.rNtile - 1 else c.tileCount - 1

/-- R101: an operand that TRANSPOSE acts on has no block scale and 8- or 16-bit elements. -/
def transOk (d : Desc) : Bool :=
  d.unread || !isBlock d.stored && decide (elemBits d.stored = 8 ∨ elemBits d.stored = 16)

/-- R101 for a command. -/
def Cmd.badTranspose (c : Cmd) : Bool :=
  decide (c.opcode = 1 ∨ c.opcode = 2) && ((c.fu.transA && !transOk c.dA) || (c.fu.transB && !transOk c.dB)
    || (decide (c.opcode = 2) && c.ch.flags.testBit 0 && !transOk c.dV))

/-- R109. -/
def Cmd.badChain (c : Cmd) : Bool :=
  decide (c.opcode = 2) && (c.longsum || !c.ch.unread &&
    (!decide (1 ≤ c.ch.m ∧ 1 ≤ c.ch.l ∧ c.ch.l ≤ 65536 ∧ 1 ≤ c.ch.d ∧ c.ch.d ≤ 128 ∧ 1 ≤ c.ch.dv ∧ c.ch.dv ≤ 128)
      || !isFinite c.ch.scale || decide (c.ch.mask > 1) || !decide (c.ch.pFmt = 1 ∨ c.ch.pFmt = 2)
      || decide (c.ch.sSlot > 7 ∨ c.ch.oSlot > 7 ∨ c.ch.mlSlot > 7)
      || !decide (c.ch.fEntry ≤ 7 ∨ c.ch.fEntry = 0xFF)
      || decide (c.ch.sSlot = c.ch.oSlot ∨ c.ch.sSlot = c.ch.mlSlot ∨ c.ch.oSlot = c.ch.mlSlot)))

/-- R116. The staging area has a base and no size: it is too small where it would run past the end of the store
(DEDUCED, log 108). -/
def Cmd.badRecv (c : Cmd) (pos : Nat) : Bool :=
  decide (c.opcode = 11) &&
    (!decide (c.rChannel ≤ 15 ∧ c.rSrcMask < 16) || c.rSrcMask.testBit pos
      || !decide (1 ≤ c.rNtile ∧ c.rNtile ≤ 8 ∧ c.rTile0 + c.rNtile ≤ 2 ^ 29)
      || !decide (1 ≤ c.rRows ∧ c.rRows ≤ 128 ∧ c.rRow0 + c.rRows ≤ 128 ∧ c.rSlot0 + c.rNtile ≤ 8)
      || decide (recvWidth c.rFmt = 0) || (!isHostAddr (c.f64 0x10) && decide (c.f64 0x10 + c.stageBytes > 2 ^ 31)))

/-! Programs. -/

/-- The entries that it names. -/
def Cmd.entries (c : Cmd) : List Nat :=
  (if c.useProg then [c.entry] else []) ++ (if c.opcode = 2 ∧ c.ch.fEntry ≠ 0xFF then [c.ch.fEntry] else [])

/-- The logical crests that a command names. -/
def Cmd.named (c : Cmd) : List Nat := maskList c.crestMask 16

/-- Is a handle in use: named by an accepted command whose record is not written (R92)? DEDUCED (log 109): the commands
that run its program name it so; a LOADPROG that binds it does not. -/
def State.handleInUse (s : State) (l h : Nat) : Bool :=
  s.cmds.any (fun k => k.namesProg && k.handle = h && k.crests.contains l)

/-- R92: the range overlaps, or the handle is bound to, a handle in use. -/
def State.progInUse (s : State) (l h off n : Nat) (unload : Bool) : Bool :=
  let p := s.physOf l
  (s.handleInUse l h && (s.handle p h).bound) || (!unload && (List.range 8).any (fun k =>
    let x := s.handle p k
    x.bound && decide (x.off < off + n ∧ off < x.off + x.count) && s.handleInUse l k))

/-- May a logical crest be chosen for a CREST_COUNT command of a partition: guaranteed to it, or lent or free under
BORROW (R135, R137)? -/
def State.lendable (s : State) (part l : Nat) : Bool :=
  let x := s.crest (s.physOf l)
  let own := s.crestOwner l
  s.crestWorks l && (s.part part).borrow && decide (own ≠ some part)
    && (match own with
      | none => true
      | some o => decide ((s.part o).st = 1) && (s.part o).lend && !x.held.any (fun k => (s.cmd? k.1 k.2).any (fun c => c.part = o)))
    && (x.held.all (fun k => (s.cmd? k.1 k.2).all (fun c => c.part = part)))

/-- The crests that a CREST_COUNT command gets, in order: idle guaranteed ones, lent or free ones, then guaranteed ones
by how many commands they hold (R135). -/
def State.choose (s : State) (c : Cmd) : List Nat :=
  let own := (List.range 16).filter (fun l => (s.part c.part).crests.testBit l && s.crestWorks l)
  let n (l : Nat) : Nat := (s.crest (s.physOf l)).held.length
  let lent := (List.range 16).filter (fun l => s.lendable c.part l && !c.namesProg)
  let busy := [1, 2, 3, 4].flatMap (fun k => own.filter (fun l => n l = k))
  (own.filter (fun l => n l = 0) ++ lent ++ busy).take c.crestCount

/-- The logical crests that a command runs on: those that it names, or those that the dispatcher chooses (R135). -/
def State.assigned (s : State) (c : Cmd) : List Nat := if c.crestMask ≠ 0 then c.named else s.choose c

/-! The whole of R130. -/

/-- The fusion and output rules of check 2, in the order of R98 to R113. -/
def Cmd.fusionChecks (c : Cmd) : List Check :=
  let f := c.fu
  let prog := c.useProg
  if !f.named then []
  else
    [ fSub 0x0A f.badHeader, fSub 0x0A (f.stages.any Stage.bad), fSub 0x0A (f.badList c.dOut.format (prog && !c.dOut.unread)),
      fSub 0x0B (prog && f.stages.any (fun g => decide (g.kind ≠ 8))) ]

/-- R92 on what could be read of an image: its header alone, or all of it. -/
def Cmd.badImage (c : Cmd) (img : List Byte) : Bool :=
  decide (c.opcode = 9) && !(c.f8 0x1B).testBit 0 && decide (64 ≤ img.length)
    && (!imageHeadOk img || decide (fld c.e 0x18 2 + imgCount img > 1024)
      || (decide (img.length ≠ 64) && !imageBodyOk img))

/-- Check 2 of R130, its rules in their order; `img` is what could be read of the image of a LOADPROG. -/
def State.check2 (s : State) (c : Cmd) (img : List Byte) : List Check :=
  let progPresent := fun (l : Nat) => c.namesProg && (s.handle (s.physOf l) c.handle).bound
  [ fBad (c.badFields || [c.dA, c.dB, c.dV, c.dOut].any Desc.badField), fBad c.badCrests,
    fSub 0x03 c.badRoles,
    fSub 0x03 (decide (c.opcode = 1 ∨ c.opcode = 2) && c.fu.converts && !c.dA.unread && !ldsSource c.dA.format),
    fSub 0x04 c.badK, fSub 0x05 c.badTl4, fSub 0x06 c.badLongsum, fSub 0x07 c.badSr,
    fSub 0x08 (c.badImage img),
    fSub 0x09 ((s.assigned c).any (fun l => progPresent l && c.entries.any (fun e =>
      (s.handle (s.physOf l) c.handle).entries.getD e 0xFFFF = 0xFFFF))) ]
  ++ c.fusionChecks ++
  [ fSub 0x0C c.badTranspose, fSub 0x0D c.badChain,
    fSub 0x0A (c.fu.named && ((badSends c.useProg c.dOut.format false 0x12 c.fu.stages && !(c.useProg && c.dOut.unread))
      || (c.fu.stages.any (fun g => decide (g.kind = 8 ∧ g.sub = 1)) && decide (c.lastTile ≥ 2 ^ 29)))),
    fSub 0x0E ((decide (c.opcode = 5) && decide (c.f8 0x34 = s.position))
      || c.fu.stages.any (fun g => decide (g.kind = 8 ∧ g.arg8 = s.position))),
    fSub 0x0F (c.badRecv s.position) ]

/-- Check 3 of R130: crests guaranteed, ranges in slices owned now or when the queue last entered RUN; a staging area in
host memory lies outside the slices (R116). -/
def State.check3 (s : State) (c : Cmd) : List Check :=
  let m := (s.part c.part).slices ||| (s.queue c.q).slicesAtRun
  [ (c.named.any (fun l => s.crestOwner l != some c.part), sPerm, 0x20),
    (c.ranges.any (fun r => !r.inMask m) || (decide (c.opcode = 11) && isHostAddr (c.f64 0x10)), sPerm, 0x21) ]

/-- Check 4 of R130: programs, channels, peers, slices and crests, in the order in which R130 names them (DEDUCED,
log 110). -/
def State.check4 (s : State) (c : Cmd) (img : List Byte) : List Check :=
  let part := s.part c.part
  let unload := (c.f8 0x1B).testBit 0
  let dsts := (if c.opcode = 5 then [c.f8 0x34] else []) ++ c.fu.sends.map (fun g => g.2.arg8)
  [ (c.namesProg && (s.assigned c).any (fun l => s.crestPresent l && !(s.handle (s.physOf l) c.handle).bound), sState, 0x31),
    (decide (c.opcode = 9) && c.named.any (fun l => s.progInUse l (c.f8 0x1A) (fld c.e 0x18 2) (imgCount img) unload),
      sState, 0x30),
    (decide (c.opcode = 11) && s.cmds.any (fun k => decide (k.opcode = 11) && k.fin.isNone && decide (k.t ≠ c.t ∨ k.q ≠ c.q)
      && decide (k.rChannel = c.rChannel) && decide (k.rTile0 < c.rTile0 + c.rNtile ∧ c.rTile0 < k.rTile0 + k.rNtile)
      && decide (k.total ≠ 0)), sState, 0x33),
    ((dsts.any (fun q => !s.member q)) || (decide (c.opcode = 11) && (maskList c.rSrcMask 4).any (fun q => !s.member q)),
      sState, 0x32),
    (c.ranges.any (fun r => !r.inMask part.slices), sState, 0x34),
    (c.named.any (fun l => !s.crestPresent l), sState, 0x35),
    (decide (c.crestCount ≠ 0) && !part.borrow && !(List.range 16).any (fun l => part.crests.testBit l && s.crestWorks l),
      sState, 0x35) ]

/-- Reads of what an entry names: none where the range is outside the partition's slices. -/
def State.readBlock (s : State) (part a n : Nat) : Option (List Byte) :=
  if rangeIn (s.part part).slices a n then some (s.readAt .disp part a n) else none

/-- The poison sub-code of a block, where it is read; a slice that has been retired counts as STORE_POISON (R274). -/
def State.blockPoison (s : State) (part a n : Nat) : Option Nat :=
  let gs := s.gaddrs part a n
  if !rangeIn (s.part part).slices a n then none
  else if s.inRetired gs then some 0x50 else s.poisonOf gs

/-- The image of a LOADPROG: its header, then as many instructions as its COUNT says. -/
def State.imageAt (s : State) (part a : Nat) : List Byte :=
  let h := s.readAt .disp part a 64
  h ++ s.readAt .disp part (a + 64) (8 * imgCount h)

/-- A tensor descriptor as acceptance reads it (R127). -/
def State.loadDesc (s : State) (part a : Nat) : Desc :=
  match s.readBlock part a 32 with | some b => parseDesc b | none => { unread := true }
/-- An optional descriptor: address 0 names none (R121). -/
def State.loadOpt (s : State) (part a : Nat) : Desc := if a = 0 then {} else s.loadDesc part a

/-- The fusion descriptor of a command, in full or what of it can be read (R97). DESIGN CHOICE (log 134): what changes later in
memory changes nothing of the command. -/
def State.loadFusion (s : State) (c : Cmd) : Fusion :=
  if c.fuseAddr = 0 then {}
  else match s.readBlock c.part c.fuseAddr 48 with
    | some h => match s.readBlock c.part c.fuseAddr (48 + 32 * min 8 (fld h 0 1)) with
      | some b => parseFusion b
      | none => { parseFusion h with stages := [], unread := true }
    | none => { named := true, unread := true }

/-- The command with what its entry names read in (R97, R127): of the image of a LOADPROG all of it, its header alone, or
nothing, as the partition may read it (R92). -/
def State.loadNames (s : State) (c : Cmd) : Cmd :=
  let d := s.loadDesc c.part
  let o := s.loadOpt c.part
  match c.opcode with
  | 1 => { c with dA := d (c.f64 0x10), dB := d (c.f64 0x18), dOut := o (c.f64 0x20), fu := s.loadFusion c }
  | 2 =>
    { c with
      dA := d (c.f64 0x10), dB := d (c.f64 0x18), dV := d (c.f64 0x20), dOut := o (c.f64 0x28), fu := s.loadFusion c
      ch := match s.readBlock c.part (c.f64 0x38) 32 with | some b => parseChain b | none => { unread := true, fEntry := 0xFF } }
  | 4 => { c with dA := d (c.f64 0x10), dOut := d (c.f64 0x18) }
  | 9 => match (if (c.f8 0x1B).testBit 0 then none else s.readBlock c.part (c.f64 0x10) 64) with
    | some h => { c with img := imgLen h, image := (s.readBlock c.part (c.f64 0x10) (imgLen h)).getD h }
    | none => c
  | 11 => { c with dOut := o (c.f64 0x18), fu := s.loadFusion c }
  | _ => c

/-- The blocks read at acceptance, the whole fusion descriptor and the image among them. -/
def Cmd.namedBlocks (c : Cmd) : List (Nat × Nat) :=
  c.structs ++ (if c.fu.named then [(c.fuseAddr, 48 + 32 * min 8 c.fu.nstage)] else [])
    ++ (if c.opcode = 9 ∧ (c.f8 0x1B).testBit 0 = false then [(c.f64 0x10, 64), (c.f64 0x10, max 64 c.img)] else [])

/-- What acceptance decides: the status of a refusal or of a poisoned descriptor (R130, R186), or none. What lies outside
the partition's slices is not read and breaks no rule of check 2; check 3 or check 4 refuses it (R130, R132). -/
def State.acceptance (s : State) (c : Cmd) : Option (Nat × Nat) :=
  match firstBroken c.check1 with
  | some r => some r
  | none =>
    match c.namedBlocks.findSome? (fun b => s.blockPoison c.part b.1 b.2) with
    | some sub => some (sPoison, sub)
    | none =>
      firstBroken (fBad ([c.dA, c.dB, c.dV, c.dOut].any Desc.badForm || c.ch.reserved)
        :: fBad (decide (c.opcode = 2) && decide (c.ch.flags > 1))
        :: (s.check2 c c.image ++ s.check3 c ++ s.check4 c c.image))

end Sys2Proof.Machine
end

