-- ==== Sys2Proof/Machine/Levels.lean ====
section
/-!
DEFINITION. P-levels (Table PWR-1), the ceilings on them (R252, R255, R262), how a crest comes to a level (R247), and the
regulator that follows its crest (R235, R236).
-/
namespace Sys2Proof.Machine

/-- The fastest level, from `c` on, that `ok` accepts; P15 where none is. -/
def fastest (c : Nat) (ok : Nat → Bool) : Nat := ((List.range 16).find? (fun l => decide (c ≤ l) && ok l)).getD 15

/-! Ceilings (R252). -/

/-- The regions that cover a physical crest, by first sensor (R255). -/
def State.regionsOf (s : State) (p : Nat) : List Nat := [3 * p, 51 + s.crestCol p, 55, 56, 57, 58, 59, 60, 61, 62, 63]
/-- The thermal ceiling of a crest: the slowest among its regions (R255). -/
def State.thermalCeil (s : State) (p : Nat) : Nat := ((s.regionsOf p).map (tget 0 s.pwr.thermal)).foldl max 0
/-- The ceiling of open phases: the fastest level whose current fits the lowered limit of a 20 A regulator (Table PWR-3). -/
def State.openCeil (s : State) (p : Nat) : Nat :=
  if (s.reg p).openMask = 0 then 0 else fastest 0 (fun l => decide (levelAmp l ≤ 2 * (s.reg p).limit))
/-- VIN_LOW, SUPPLY_ALARM or SEQ_TIMEOUT: P15. -/
def State.p15Ceil (s : State) : Nat := if s.pwr.vinLow || s.pwr.supplyAlarm || s.pwr.seqTimeout then 15 else 0
/-- CAP_DROP: DROP_LEVEL. -/
def State.dropCeil (s : State) : Nat := if s.pwr.capDrop then s.pwr.dropLevel else 0
/-- Is the group this die alone, so that LOCKSTEP and CRITICAL_PATH act as CAP (R249)? -/
def State.alone (s : State) : Bool := decide (s.members = 2 ^ s.position)
/-- Is LOCKSTEP in force? -/
def State.lockstep (s : State) : Bool := decide (s.pwr.modeNow = 2) && !s.alone
/-- The lockstep limit: the epoch, P15 on a die that is not aligned, and a follower's own uniform level (R262, R303). -/
def State.lockCeil (s : State) : Nat :=
  if s.lockstep then
    max (if s.leader = s.position then s.sb.ownLimit else s.pwr.uniform) (if s.sb.aligned then s.sb.epoch else 15)
  else 0
/-- The limits that hardware applies. -/
def State.hwCeil (s : State) : Nat := max s.p15Ceil (max s.dropCeil s.lockCeil)
/-- The ceiling of a crest: the slowest limit (R252). -/
def State.ceiling (s : State) (p : Nat) : Nat := max s.hwCeil (max (s.thermalCeil p) (s.openCeil p))
/-- The limit that acts on a crest now: while the sequencer is absent hardware's alone (R243, Table PWR-3). -/
def State.ceilNow (s : State) (p : Nat) : Nat := if s.pwr.seqPresent then s.ceiling p else s.hwCeil
/-- CEIL_SRC: the first row of Table PWR-3 that sets the ceiling (R339). -/
def State.ceilSrc (s : State) (p : Nat) : Nat :=
  let c := s.ceiling p
  if c = 0 then 0 else if s.thermalCeil p = c then 1 else if s.openCeil p = c then 2 else if s.p15Ceil = c then 3
  else if s.dropCeil = c then 4 else 5

/-! The estimate for control (R258, R259). -/

/-- Time since the last quiet measurement in µs. -/
def State.quietAge (s : State) : Nat := s.time - s.pwr.quietTime
/-- GUARD in %: 0 until STALE, then 1 % per further 10 s, 8 % at most (R259). -/
def State.guardPct (s : State) : Nat := if s.pwr.stale then min 8 (s.quietAge / 10000000 - 1) else 0
/-- The guard bands on a crest's estimate: staleness, and 10 % where its regulator's sense has failed (R242, R259). -/
def State.guard (s : State) (p : Nat) : Rat :=
  (((100 + s.guardPct : Nat) : Rat) / 100) * (if (s.reg p).senseFail then 11 / 10 else 1)

/-! Levels of crests. -/

/-- FIXED_BROKEN: a ceiling holds a crest that holds a command slower than the fixed level (R261). -/
def State.fixedCheck (s : State) : State :=
  if s.pwr.modeNow = 1 ∧ (List.range 17).any (fun p => !(s.crest p).held.isEmpty && decide (s.ceiling p > s.pwr.fixedLevel))
  then s.modPwr fun p => { p with fixedBroken := true } else s

/-- A crest's synthesiser switches: the level stands, 8 CCLK are charged as POWER to what the crest holds, and its
regulator takes the level's voltage (R247). -/
def State.toLevel (s : State) (p l : Nat) : State :=
  let x := s.crest p
  if x.pw = .off then s.modCrest p fun x => { x with pendLevel := none }
  else
    let s := s.modCrest p fun x => { x with level := l, pendLevel := none }
    let s := if x.level = l then s else x.held.foldl (fun s k => s.modCmd k.1 k.2 fun c => c.charge wPower 8) s
    if (s.reg p).st = 2 then s.modReg p fun r => { r with setpoint := levelMv l } else s

/-- Each crest that is faster than the limit `c` gives it goes to that limit at once (R252). -/
def State.slowTo (s : State) (c : Nat → Nat) : State :=
  ((List.range 17).foldl (fun s p => if (s.crest p).level < c p then s.toLevel p (c p) else s) s).fixedCheck
/-- Hardware applies its limits, whether or not the sequencer runs. -/
def State.applyHw (s : State) : State := s.slowTo (fun _ => s.hwCeil)
/-- Every limit is applied. -/
def State.applyCeilings (s : State) : State := s.slowTo s.ceiling

/-- The level of a crest that leaves OFF (R247). -/
def State.startLevel (s : State) (p : Nat) : Nat :=
  if s.pwr.modeNow = 1 then max s.pwr.fixedLevel (s.ceilNow p) else 15

/-! Waking. -/

/-- A regulator's phases are verified at a time, but for open ones and those of a failed sense (R237, R241). -/
def Reg.verified (r : Reg) (time n : Nat) : Reg :=
  if r.senseFail then r
  else (List.range n).foldl (fun r k => if r.openMask.testBit k then r else { r with
    phVerify := tset 0 r.phVerify k time, phStat := tset 0 r.phStat k 0 }) r

/-- May a crest that wakes be awake: from OFF its soft start needs the sequencer, no trip, and a regulator that is OFF, or
that has come ON and is at its setpoint (R235, R237, R243, R256)? -/
def State.canWake (s : State) (p : Nat) : Bool :=
  decide ((s.crest p).pw ≠ .off)
    || (s.pwr.seqPresent && !s.pwr.tripped && (decide ((s.reg p).st = 0) || (decide ((s.reg p).st = 2) && (s.reg p).inBand)))

/-- A crest's regulator, where it was OFF, has been through its soft start at the first attempt, its phases checked on the
way (R237). -/
def Reg.softStarted (r : Reg) (time : Nat) : Reg :=
  if r.st = 0 then { r.verified time 4 with attempt := 1, tries := 1 } else r

/-- A crest is in RUN; from OFF at its starting level, from NAP in FIXED mode at the fixed level (R247, R261). Where its
regulator was OFF its soft start has gone by at the first attempt, its phases checked on the way (R237). -/
def State.crestOn (s : State) (p : Nat) : State :=
  let x := s.crest p
  let l := if x.pw = .off ∨ s.pwr.modeNow = 1 then s.startLevel p else x.level
  let s := s.modCrest p fun x => { x with pw := .run, waking := false, level := l, pendLevel := none }
  let t := s.time
  (s.modReg p fun r =>
    { r.softStarted t with st := 2, setpoint := levelMv l }).fixedCheck

/-- A crest in NAP that a reset or a debug access wakes is in IDLE, in FIXED mode at the fixed level (R261, R320, R338). -/
def State.wakeIdle (s : State) (p : Nat) : State :=
  if (s.crest p).pw = .nap then
    let l := if s.pwr.modeNow = 1 then s.startLevel p else (s.crest p).level
    (s.modCrest p fun c => { c with pw := .idle, level := l }).modReg p fun r => { r with st := 2, setpoint := levelMv l }
  else s

end Sys2Proof.Machine
end

