-- ==== Sys2Proof/Machine/Sched.lean ====
section
/-!
DEFINITION. The dispatcher's and the sequencers' bookkeeping: which crests take a command (R135, R137), the scoreboard
(R70, R71), which tile a crest runs next (R136), the end of tiles and commands, and the commands that the dispatcher
carries out itself: FENCE, SIGNAL, WAIT, MARKER (R155, R158, R159, R163), and LOADPROG (R92).
-/
namespace Sys2Proof.Machine

/-! Accumulator ranges. -/

/-- Do two pieces intersect? -/
def AccRange.meets (a b : AccRange) : Bool := decide (a.slot = b.slot ∧ a.lo < b.hi ∧ b.lo < a.hi)

/-- Does a command only accumulate, with SHARED_ACC set (R71)? -/
def Cmd.onlyAccumulates (c : Cmd) : Bool :=
  decide (c.opcode = 1 ∨ c.opcode = 11) && c.sharedAcc && c.keep && !c.longsum && c.fu.stages.isEmpty && !c.useProg
    && decide (c.dOut.format = 0)

/-- Tiles of a command that no crest has begun. -/
def Cmd.tilesLeft (c : Cmd) : Bool := decide (c.redo ≠ [] ∨ c.next < c.total)

/-- The slot of a crest's j-th tile of a command (R128). -/
def Cmd.slotOf (c : Cmd) (tile j : Nat) : Nat :=
  match c.opcode with
  | 1 => if c.longsum then c.gSlot + 2 * (j % c.gNslot) else c.gSlot + j % c.gNslot
  | 2 => c.ch.oSlot
  | 11 => c.rSlot0 + tile
  | _ => 0

/-- Does a REDUCE_RECV still have additions to tile `k` to make, or its epilogue to begin? -/
def Cmd.recvDue (c : Cmd) (k : Nat) : Bool :=
  decide ((c.added.filter (fun e => e.1 = k)).length < popcount c.rSrcMask 4) || c.redo.contains k

/-- The tiles of a command that no crest has begun, as a count. -/
def Cmd.leftTiles (c : Cmd) : Nat := c.redo.length + (c.total - c.next)

/-- The first accumulator row of a tile. -/
def Cmd.row0 (c : Cmd) : Nat := match c.opcode with | 1 => c.gRow0 | 11 => c.rRow0 | _ => 0

/-- The slots that a tile at hand still accesses, its image's apart: a CHAIN's S and ML slots until its last key tile has
been divided, then its O slot alone (R110). -/
def Cmd.tileSlots (c : Cmd) (w : Work) : List Nat :=
  let k := c.slotOf w.tile w.j
  match c.opcode with
  | 1 => if c.longsum then [k, k + 1] else [k]
  | 2 => if w.phase ≥ 3 then [c.ch.oSlot] else [c.ch.sSlot, c.ch.mlSlot, c.ch.oSlot]
  | 11 => [k]
  | _ => []

/-- The slots of a command's own that it may still access on a crest: those of the tiles at hand, those of the tiles that
may yet begin there, and those of a REDUCE_RECV's tiles that are not whole. -/
def State.slotsInUse (s : State) (c : Cmd) (p : Nat) : List Nat :=
  let j := ((s.crest p).counts.find? (fun e => e.1 = (c.q, c.t))).elim 0 (·.2)
  ((s.crest p).work.filter (fun w => decide (w.q = c.q ∧ w.t = c.t))).flatMap c.tileSlots
    ++ (match c.opcode with
      | 11 => ((List.range c.rNtile).filter c.recvDue).map (c.rSlot0 + ·)
      | _ => (List.range (min c.leftTiles c.gNslot)).flatMap (fun i => c.tileSlots { j := j + i }))

/-- May a command still run a tile program on a crest: while tiles of it are at hand or may begin there, and of a CHAIN that
names only an E program while key tiles are left (R108, R111)? -/
def State.programDue (s : State) (c : Cmd) (p : Nat) : Bool :=
  c.namesProg && (decide (c.leftTiles ≠ 0) || (decide (c.opcode = 11) && (List.range c.rNtile).any c.recvDue)
    || (s.crest p).work.any (fun w => decide (w.q = c.q ∧ w.t = c.t)
      && (c.useProg || decide (w.phase ≤ 1) || (decide (w.phase = 2) && decide (w.kb + 1 < ceilDiv c.ch.l 128)))))

/-- The accumulator rows that a command held by a crest may still access there (R70): those of its slots in use, and of the
slots of its image while that may run; all of its range while a tile may come back from a lent crest (R137). -/
def State.restRange (s : State) (c : Cmd) (p : Nat) : List AccRange :=
  if c.crests.any (fun l => (s.crest (s.physOf l)).lentTo.isSome) then s.accRange c p
  else c.accOwn.filter (fun r => (s.slotsInUse c p).contains r.slot)
    ++ (if s.programDue c p then s.imageRange c p else [])

/-- Does a command conflict with an earlier one on a crest: with rows that the earlier one may still access, and that one
of them writes (R70, R71)? -/
def State.conflict (s : State) (p : Nat) (c d : Cmd) : Bool :=
  !(c.onlyAccumulates && d.onlyAccumulates)
    && (s.accRange c p).any (fun a => (s.restRange d p).any (fun b => a.meets b && (a.writes || b.writes)))

/-- Does a command conflict with one that the crest took before it? -/
def State.blocked (s : State) (p : Nat) (k : Nat × Nat) : Bool :=
  match s.cmd? k.1 k.2 with
  | none => false
  | some c => ((s.crest p).held.takeWhile (· != k)).any (fun j =>
      match s.cmd? j.1 j.2 with | some d => s.conflict p c d | none => false)

/-! Crests for commands. -/

/-- Is a place free for a command of a class: the fourth only for a class above all held (R135)? -/
def State.placeFor (s : State) (p cls : Nat) : Bool :=
  let h := (s.crest p).held
  decide (h.length < 3) || (decide (h.length = 3)
    && h.all (fun k => match s.cmd? k.1 k.2 with | some d => decide (cls < d.cls) | none => true))

/-- A crest that a command reaches leaves IDLE, or starts to wake from NAP or OFF (R21). -/
def Crest.rouse (c : Crest) : Crest :=
  match c.pw with
  | .run => c
  | .idle => { c with pw := .run }
  | _ => { c with waking := true }

/-- May a command of a partition use a logical crest: guaranteed to it, lent to it, or lendable (R135, R137)? -/
def State.mayUse (s : State) (part l : Nat) : Bool :=
  decide (s.crestOwner l = some part) || decide ((s.crest (s.physOf l)).lentTo = some part) || s.lendable part l

/-- The landed tile (SRC, SID, TILE) from a source for tile `k` of a command, whole. -/
def State.landedTile (s : State) (c : Cmd) (k src : Nat) : Option Nat :=
  (s.landing.find? (fun e => e.1.1 = src && e.1.2.2 = c.rTile0 + k && decide (e.2.1 = (c.q, c.t)) && e.2.2.2)).map (·.2.2.1)

/-- The sources of a command in ascending position. -/
def Cmd.sources (c : Cmd) : List Nat := maskList c.rSrcMask 4
/-- How many of a tile's sources have been added. -/
def Cmd.addedTo (c : Cmd) (k : Nat) : Nat := (c.added.filter (fun e => e.1 = k)).length

/-- The next addition that is ready: the lowest tile whose next source has landed (R117); the tile, the source's rank and
position, and the rows received. -/
def State.readyAdd (s : State) (c : Cmd) : Option (Nat × Nat × Nat × Nat) :=
  (List.range c.rNtile).findSome? (fun k =>
    let j := c.addedTo k
    match c.sources[j]? with
    | none => none
    | some src => (s.landedTile c k src).map (fun n => (k, j, src, n)))

/-- The commands that a lent crest holds for others than its borrower `b`. -/
def State.ownersOn (s : State) (p b : Nat) : List (Nat × Nat) :=
  (s.crest p).held.filter (fun k => (s.cmd? k.1 k.2).any (fun c => c.part ≠ b))

/-- Does the guaranteeing partition of a crest call it back for a reshape, a destroy or a reset (R212, R319)? -/
def State.calledBack (s : State) (p : Nat) : Bool :=
  match s.logicalOf p with
  | some l => match s.crestOwner l with | some o => decide ((s.part o).st ≥ 2) | none => false
  | none => false

/-- Is a lent crest to return: a command of another partition waits for it, or its owner calls it back (R137, R212)? -/
def State.recallDue (s : State) (p : Nat) : Bool :=
  match (s.crest p).lentTo with
  | none => false
  | some b => !(s.ownersOn p b).isEmpty || s.calledBack p

/-- Is a tile at a boundary where it may be preempted: between two segments, at a key tile, or between units (R136)? -/
def Cmd.atBoundary (c : Cmd) (w : Work) : Bool :=
  decide (w.row = 0) && (decide (c.opcode ≠ 2) || decide (w.phase = 0 ∧ w.pass = 0 ∨ w.phase ≥ 3))

/-- Does a borrower's command stop on a crest for its return: its tile there, if any, at a boundary (R137)? -/
def State.returning (s : State) (p : Nat) (c : Cmd) : Bool :=
  s.recallDue p && decide ((s.crest p).lentTo = some c.part) && (s.crest p).inv.isNone
    && (match (s.crest p).work.find? (fun w => w.q = c.q && w.t = c.t) with | some w => c.atBoundary w | none => true)

/-- May a command run on a crest now: started, not ended, not at the scoreboard, its slices awake or lost, its program there,
the crest not lent to another and not to be returned? -/
def State.runnable (s : State) (p : Nat) (k : Nat × Nat) : Bool :=
  let x := s.crest p
  match s.cmd? k.1 k.2 with
  | none => false
  | some c =>
    c.started && c.fin.isNone && !x.stopped.contains k
      && (x.lentTo.isNone || decide (x.lentTo = some c.part)) && !s.returning p c
      && (maskList c.need 96).all (fun n => s.sliceRetired n || (s.slice n).unavailable || decide ((s.slice n).pw = .on))
      && (!c.namesProg || (!(s.handle p c.handle).loading && !(s.handle p c.handle).stale))

/-- May a crest work at all: powered, awake, not halted, not in a quiet slot? -/
def Crest.works (c : Crest) : Bool := decide (c.pw = .run) && !c.waking && !c.halted && !c.quiet

/-- The commands that could take the crest: a tile under way, or tiles left. -/
def State.candidates (s : State) (p : Nat) : List (Nat × Nat) :=
  let x := s.crest p
  x.held.filter (fun k => s.runnable p k && (x.work.any (fun w => w.q = k.1 && w.t = k.2)
    || (match s.cmd? k.1 k.2 with | some c => c.tilesLeft | none => false)))

/-- The class of a command. -/
def State.clsOf (s : State) (k : Nat × Nat) : Nat := match s.cmd? k.1 k.2 with | some c => c.cls | none => 4

/-- The candidate of the highest class, the first accepted among equals (R136). -/
def State.bestCandidate (s : State) (p : Nat) : Option (Nat × Nat) :=
  let cs := s.candidates p
  (List.range 4).findSome? (fun k => cs.find? (fun c => s.clsOf c = k))

/-- The candidate of a class above a command's, the highest of them (R136). -/
def State.above (s : State) (p : Nat) (c : Cmd) : Option (Nat × Nat) :=
  let cs := (s.candidates p).filter (· != (c.q, c.t))
  (List.range c.cls).findSome? (fun k => cs.find? (fun c => s.clsOf c = k))

/-- Does a command that a crest holds wait there as QUEUE: it may not start yet, its program loads, the crest is to return to
it, or another has the crest (R92, R136, R137, R143)? -/
def State.queuedOn (s : State) (p : Nat) (k : Nat × Nat) : Bool :=
  let x := s.crest p
  match s.cmd? k.1 k.2 with
  | none => false
  | some c =>
    !c.started || (c.namesProg && (s.handle p c.handle).loading) || (x.lentTo.isSome && decide (x.lentTo ≠ some c.part))
      || (decide (c.opcode = 11) && (s.readyAdd c).isSome && (s.above p c).isSome)
      || ((x.work.any (fun w => w.q = k.1 && w.t = k.2) || c.tilesLeft)
        && (match x.work with | w :: _ => decide ((w.q, w.t) ≠ k) | [] => false))

/-- The QUEUE waits of what a crest holds, as they stand now. -/
def State.requeue (s : State) (p : Nat) : State :=
  (s.crest p).held.foldl (fun s k => s.setHold k.1 k.2 p wQueue (s.queuedOn p k)) s

/-- A crest takes a command, if it has a place. A crest whose last holder was another partition is zeroised first, the
1,024 CCLK charged as QUEUE (R218); a crest still held by a borrower waits for its recall (R137). A command that comes to
its first crest has waited for it as QUEUE (R143, R277); a REDUCE_RECV awaits its peers as PEER, and a conflict holds as
ACC_CONFLICT (R70, Table CMD-11). A retired crest, whose spare is starting, is not woken (R268). -/
def State.place (s : State) (q t p : Nat) : State :=
  match s.cmd? q t with
  | none => s
  | some c =>
    let x := s.crest p
    if x.held.contains (q, t) || !s.placeFor p c.cls
        || (decide (c.crestCount ≠ 0) && !(s.logicalOf p).any (s.mayUse c.part)) then s
    else
      let owner := match s.logicalOf p with | some l => s.crestOwner l | none => none
      let borrowed := x.lentTo.isSome && decide (x.lentTo ≠ some c.part)
      let dirty := x.lastPart.isSome && decide (x.lastPart ≠ some c.part) && !borrowed
      let s := if dirty then s.modCmd q t fun c => c.charge wQueue 1024 else s
      let s := s.modCrest p fun x =>
        let x := if dirty then x.zeroise else x
        { (if s.crestRetired p then x else x.rouse) with
          held := x.held ++ [(q, t)]
          ready := x.ready ++ (if decide (c.opcode = 11) && c.useProg then c.redo.map (fun k => (q, t, k)) else [])
          lentTo := if borrowed then x.lentTo else if owner = some c.part then none else some c.part
          lastPart := if borrowed then x.lastPart else some c.part }
      let s := s.setHold q t 17 wQueue false
      let s := if c.opcode = 11 ∧ c.rSrcMask ≠ 0 then s.setHold q t p wPeer true else s
      let s := if x.halted then s.setHold q t p wHalt true else s
      let s := if s.blocked p (q, t) then
          (s.modCrest p fun x => { x with stopped := x.stopped ++ [(q, t)] }).setHold q t p wAcc true else s
      s.requeue p

/-- The physical crests assigned to a command. -/
def State.crestsOf (s : State) (c : Cmd) : List Nat := c.crests.map s.physOf

/-- A command that has tiles left tries for the crests assigned to it; a CREST_COUNT command of whose crests none works
for it any more is given others where there are any (R135, R277). -/
def State.adopt (s : State) (q t : Nat) : State :=
  match s.cmd? q t with
  | none => s
  | some c =>
    if c.fin.isSome || c.noCrest || !(c.tilesLeft || decide (c.opcode = 11 ∧ c.doneTiles < c.total)) then s
    else
      let s := if decide (c.crestCount ≠ 0) && c.crests.all (fun l => !(s.crestWorks l && s.mayUse c.part l)) then
          (s.modCmd q t fun d => { d with crests := s.choose c }).chargeEarly q t
        else s
      match s.cmd? q t with
      | none => s
      | some c => (s.crestsOf c).foldl (fun s p => s.place q t p) s

/-- Every waiting command tries for its crests. -/
def State.adoptAll (s : State) : State := (s.cmds.map (fun c => (c.q, c.t))).foldl (fun s k => s.adopt k.1 k.2) s

/-! Tiles. -/

/-- First output row of a tile. DEDUCED (log 108): tile k of a REDUCE_RECV lies as tile k of a GEMM with TILE_ROWS = ROWS. -/
def Cmd.m0 (c : Cmd) (tile : Nat) : Nat :=
  match c.opcode with
  | 1 => tile / c.nTiles * c.gTileRows
  | 11 => tile / c.nTiles * c.rRows
  | _ => tile * 128
/-- First output column of a tile. -/
def Cmd.n0 (c : Cmd) (tile : Nat) : Nat := tile % c.nTiles * 128
/-- Rows of a tile (R96). -/
def Cmd.tileRows (c : Cmd) (tile : Nat) : Nat :=
  match c.opcode with
  | 1 => min c.gTileRows (c.gM - c.m0 tile)
  | 2 => min 128 (c.ch.m - c.m0 tile)
  | 4 => min 128 (c.f32 0x20 - c.m0 tile)
  | 11 => c.rRows
  | _ => 0
/-- Columns of a tile below N. -/
def Cmd.tileCols (c : Cmd) (tile : Nat) : Nat := min 128 (c.cols - c.n0 tile)

/-- Elements 0 to n − 1 of accumulator rows set to +0 (R59). -/
def clearRows (acc : Tbl Word) (slot lo n cols : Nat) : Tbl Word :=
  (List.range n).foldl (fun a i => tclear a (accKey slot (lo + i) 0) (accKey slot (lo + i) cols)) acc

/-- The place of m of query row `i` of a CHAIN: row 0 of the ML slot, lane i (Table FUSE-6). -/
def mKey (c : Cmd) (i : Nat) : Nat := accKey c.ch.mlSlot 0 i
/-- The place of l of query row `i`: row 1 of the ML slot, lane i. -/
def lKey (c : Cmd) (i : Nat) : Nat := accKey c.ch.mlSlot 1 i

/-- At a CHAIN tile's start: m = −∞, l = +0, O = +0 for each of its query rows (R110). -/
def Cmd.chainInit (c : Cmd) (tile : Nat) (a : Tbl Word) : Tbl Word :=
  (List.range (c.tileRows tile)).foldl (fun a i =>
    tclear (tset 0#32 (tset 0#32 a (mKey c i) (inf32 true)) (lKey c i) 0#32)
      (accKey c.ch.oSlot i 0) (accKey c.ch.oSlot i c.ch.dv)) a

/-- ACC_INIT ZERO at a tile's start: all its TILE_ROWS rows; columns at or beyond N are never written (R51, R59, R62). The
rows of a REDUCE_RECV are cleared before their first addition, or here where it has no source. -/
def Cmd.initAcc (c : Cmd) (tile j : Nat) (acc : Tbl Word) : Tbl Word :=
  let sl := c.slotOf tile j
  let n := c.gTileRows
  let w := c.tileCols tile
  if c.opcode = 1 ∧ c.keep = false then
    let a := clearRows acc sl c.gRow0 n w
    if c.longsum then clearRows (clearRows a (sl + 1) c.gRow0 n w) (sl + 1) (c.gRow0 + 64) n w else a
  else if c.opcode = 2 then c.chainInit tile acc
  else if c.opcode = 11 ∧ c.rSrcMask = 0 ∧ c.keep = false then clearRows acc sl c.rRow0 c.rRows w
  else acc

/-- How a tile begins. -/
def Cmd.phase0 (c : Cmd) : Nat :=
  match c.opcode with | 1 => 0 | 2 => 0 | 11 => 3 | _ => 5

/-- The tile that a command begins next: the lowest unstarted one (R135); of a REDUCE_RECV the first whose additions are all
made (R75). -/
def Cmd.nextTile (c : Cmd) : Nat :=
  match c.redo with | [] => c.next | r :: rs => if c.opcode = 11 then r else rs.foldl min r

/-- A crest begins a command's next tile; what commands that it let go left in the rows of this one is no longer theirs. -/
def State.startTile (s : State) (p : Nat) (k : Nat × Nat) : State :=
  match s.cmd? k.1 k.2 with
  | none => s
  | some c =>
    let tile := c.nextTile
    let j := ((s.crest p).counts.find? (fun e => e.1 = k)).elim 0 (·.2)
    let s := s.modCmd k.1 k.2 fun c =>
      if c.redo.isEmpty then { c with next := c.next + 1 } else { c with redo := c.redo.filter (· ≠ tile) }
    let w : Work := { q := k.1, t := k.2, tile := tile, j := j
                      phase := if c.opcode = 11 ∧ c.useProg = true then 4 else c.phase0 }
    let rs := s.accRange c p
    let s := s.modCrest p fun x => { x with
      past := x.past.map (fun e => (e.1, e.2.filter (fun a => !rs.any a.meets)))
      work := w :: x.work, counts := (k, j + 1) :: x.counts.filter (fun e => e.1 ≠ k), acc := c.initAcc tile j x.acc }
    if j = 0 then s.addTrace 2 ((s.logicalOf p).getD 0) k.1 c.part 0 k.2 else s

/-- The crest turns to a command: its tile under way, else a new one. A preempted command that it turns back to resumes,
trace event 4 (R136, R341). -/
def State.turnTo (s : State) (p : Nat) (k : Nat × Nat) : State :=
  (match (s.crest p).work.find? (fun w : Work => w.q = k.1 && w.t = k.2) with
  | some w =>
    let s := s.modCrest p fun x => { x with work := ({ w with pre := false } : Work) :: x.work.filter (fun v : Work => !(v.q = k.1 && v.t = k.2)) }
    if w.pre then s.addTrace 4 ((s.logicalOf p).getD 0) k.1 ((s.cmd? k.1 k.2).elim 0 (·.part)) 0 k.2 else s
  | none => s.startTile p k).requeue p

/-- A crest that works, with no tile in hand, takes the best candidate's (R136); a halted, sleeping or retired crest takes
none (R225, R268). -/
def State.kick (s : State) (p : Nat) : State :=
  let busy := match (s.crest p).work with
    | w :: _ => !w.pre && s.runnable p (w.q, w.t)
    | [] => false
  if busy || (s.crest p).inv.isSome || !(s.crest p).works then s
  else match s.bestCandidate p with
    | some k => s.turnTo p k
    | none => s

/-- At a boundary the crest turns to a candidate of a higher class, trace event 3 (R136, R341); the preempted command waits
as QUEUE (Table CMD-11). -/
def State.preempt (s : State) (p : Nat) : State :=
  match (s.crest p).work with
  | [] => s
  | w :: ws =>
    match s.cmd? w.q w.t with
    | none => s
    | some c =>
      match s.above p c with
      | none => s
      | some k =>
        if (s.crest p).works && (s.crest p).inv.isNone && c.atBoundary w then
          ((s.modCrest p fun x => { x with work := { w with pre := true } :: ws }).addTrace 3
            ((s.logicalOf p).getD 0) c.q c.part 0 c.t).turnTo p k
        else s

/-- A crest before its next step: it has a tile in hand, that of the highest class (R136). -/
def State.turn (s : State) (p : Nat) : State := (s.kick p).preempt p

/-- Invocations run in the order in which their tiles became ready: with one due, the crest turns to the first (R75). -/
def State.firstReady (s : State) (p : Nat) : State :=
  match (s.crest p).work, (s.crest p).ready.find? (fun e => s.runnable p (e.1, e.2.1)) with
  | w :: _, some (q, t, k) =>
    if decide (w.phase = 1 ∨ w.phase = 4) && decide ((w.q, w.t, w.tile) ≠ (q, t, k)) then s.turnTo p (q, t) else s
  | _, _ => s

/-- Every stream of a command is acknowledged DONE (R114). -/
def Cmd.streamsDone (c : Cmd) : Bool := c.streams.all (fun x => x.answer = 1)
/-- Every source's flag has arrived (R118). -/
def Cmd.flagsDone (c : Cmd) : Bool :=
  decide (c.opcode ≠ 11) || (maskList c.rSrcMask 4).all (fun k => c.flagsIn.contains k)

/-- A command whose tiles, streams and flags are all done ends (R114, R118, R140); a SEND has a stream, even one of no
bytes. -/
def State.tryComplete (s : State) (q t : Nat) : State :=
  match s.cmd? q t with
  | none => s
  | some c =>
    if c.started && c.fin.isNone && !c.noCrest && decide (c.opcode ≠ 9) && decide (c.doneTiles = c.total) && c.streamsDone
      && c.flagsDone && (decide (c.opcode ≠ 5) || !c.streams.isEmpty)
    then s.endCmd q t c.okStatus 0 else s

/-- A crest lets a command go that has nothing more to do there: its holds end; its accumulator rows stay its own until
another command takes them or it ends (R141). -/
def State.letGo (s : State) (p : Nat) (c : Cmd) : State :=
  let rs := s.accRange c p
  ((s.endHolds c.q c.t (· = p)).modCrest p fun x =>
    { x with past := ((c.q, c.t), rs) :: x.past.filter (fun e => e.1 ≠ (c.q, c.t)) }).dropFrom p c.q c.t

/-- The tile in hand is done: the command counts it, the crest lets the command go when no tile is left for it, and
takes its next (R135). -/
def State.tileDone (s : State) (p : Nat) : State :=
  match (s.crest p).work with
  | [] => s
  | w :: _ =>
    let s := s.modCrest p fun x => { x with work := x.work.drop 1 }
    let s := s.modCmd w.q w.t fun c => { c with doneTiles := c.doneTiles + 1 }
    let s := match s.cmd? w.q w.t with
      | some c => if c.tilesLeft || (decide (c.opcode = 11) && decide (c.doneTiles < c.total)) then s
          else ((List.range 17).filter (fun p => (s.crest p).held.contains (w.q, w.t)
              && !(s.crest p).work.any (fun v => v.q = w.q && v.t = w.t))).foldl (fun s p => s.letGo p c) s
      | none => s
    (s.tryComplete w.q w.t).kick p

/-! The dispatcher's own commands. -/

/-- The low `w` bytes of a value. -/
def lowBytes (v w : Nat) : Nat := v % 256 ^ w

/-- SIGNAL's new value (R158). DESIGN CHOICE (log 126): at WIDTH 4 the upper halves of OPERAND and COMPARE are ignored. -/
def signalNew (op w old operand compare : Nat) : Nat :=
  match op with
  | 0 => lowBytes (old + operand) w
  | 1 => max old (lowBytes operand w)
  | _ => if old = lowBytes compare w then lowBytes operand w else old

/-- The buffered words that go back before a SIGNAL or WAIT reaches its word: at CREST scope those that overlap it without
being it, else all of its line (R159). -/
def clashes (scope g w : Nat) (b : ABuf) : Bool :=
  if scope = 0 then decide (b.addr < g + w ∧ g < b.addr + b.width) && !decide (b.addr = g ∧ b.width = w)
  else decide (b.addr / 64 = g / 64)

/-- Room in the 16-word buffer: a full one gives up a word of a free choice, one that may go back now (R159). -/
def State.abufRoom (s : State) : State :=
  let vs := s.abuf.filter (fun w => (s.flushHeld (· = w)).isNone)
  if s.abuf.length < 16 then s
  else match vs[Config.freeChoice s.freeCtr 0 % vs.length]? with
    | some w => (s.abufBack w).bump
    | none => s

/-- What holds the word of a SIGNAL of a scope, or of a WAIT: its line, a buffered word that has to go back first, or, for a
word that the buffer takes in, that none of a full buffer's may go back (R159, R170, R181, R184, R272). -/
def State.wordHeld (s : State) (wr takes : Bool) (scope g w : Nat) : Option WaitFor :=
  (s.heldBy wr ((List.range w).map (g + ·))).orElse fun _ =>
    (s.flushHeld (clashes scope g w)).orElse fun _ =>
      if takes && decide (s.abuf.length ≥ 16) && s.abuf.all (fun b => (s.flushHeld (· = b)).isSome) then s.flushHeld (fun _ => true)
      else none

/-- SIGNAL's read-modify-write; answers the old value (R158). At CREST scope it is the atomic buffer's; at DIE scope on a
cached line one read and one write; else it is indivisible (R159, Table MEM-5). -/
def State.signalWord (s : State) (scope g w op operand compare : Nat) : State × Nat :=
  if scope = 0 then
    let old := s.wordAt g w
    let new := signalNew op w old operand compare
    if s.abuf.any (fun b => b.addr = g && b.width = w) then
      ({ s with abuf := s.abuf.map (fun b => if b.addr = g ∧ b.width = w then { b with val := new } else b) }, old)
    else
      let s := s.abufRoom
      ({ s with abuf := s.abuf ++ [{ addr := g, width := w, val := new }] }, old)
  else
    let old := ofBytes (s.read .disp ((List.range w).map (g + ·)))
    let new := signalNew op w old operand compare
    let m := (List.range w).map (fun i => (g + i, BitVec.ofNat 8 (new / 256 ^ i)))
    (if scope = 1 ∧ s.viaCache (g / 64) = true then s.write .disp m else s.writeAtomic (g / 64) m, old)

/-- Why an access cannot be served: poison, or a slice retired meanwhile, counts as STORE_POISON (R274, R186); a CXL.cache
transaction fails with no link (R172). -/
def State.accessFault (s : State) (gs : List Nat) : Option (Nat × Nat) :=
  if s.inRetired gs then some (sPoison, 0x50)
  else if gs.any (s.needsLink false) && decide (s.hostConfig = 0) then some (sFault, 0x47)
  else match s.poisonOf gs with
    | some sub => some (sPoison, sub)
    | none => none

/-- Why a write cannot be served: a slice retired meanwhile (R274), a transaction that fails with no link (R172). -/
def State.writeFault (s : State) (gs : List Nat) : Option (Nat × Nat) :=
  if s.inRetired gs then some (sPoison, 0x50)
  else if gs.any (s.needsLink true) && decide (s.hostConfig = 0) then some (sFault, 0x47)
  else none

/-- Is the word of a SIGNAL or WAIT one that the atomic buffer holds, so that no line is read for it (R159)? -/
def State.abufHit (s : State) (g w : Nat) : Bool := s.abuf.any (fun b => b.addr = g && b.width = w)

/-- SIGNAL is carried out (R158); where its word or its result may not be reached yet, it waits (R170, R181, R184, R272).
A word that the atomic buffer holds is changed there, and no line is read; at HOST scope a cached line is owned before it
is read (R159). DESIGN CHOICE (log 126): the old value of a 4-byte word is written to RESULT_ADDR as 8 bytes. -/
def State.runSignal (s : State) (c : Cmd) : State :=
  let w := c.f8 0x31
  let gs := s.gaddrs c.part (c.f64 0x10) w
  let rs := if c.f64 0x28 = 0 then [] else s.gaddrs c.part (c.f64 0x28) 8
  let g := s.gaddr c.part (c.f64 0x10)
  let hit := decide (c.scope = 0) && s.abufHit g w
  match (if hit then none else s.wordHeld (decide (c.scope ≠ 0)) (decide (c.scope = 0)) c.scope g w).orElse
      (fun _ => s.heldBy true rs) with
  | some x => s.stall c.q c.t x
  | none =>
    let s := if hit then s
      else if c.scope = 2 then (((s.abufFlush (clashes 2 g w)).meets c.q c.t gs []).own gs).bump
      else (s.abufFlush (clashes c.scope g w)).reads c.q c.t gs
    match (if hit then none else s.accessFault gs) with
    | some r => s.endCmd c.q c.t r.1 r.2
    | none =>
      let r := s.signalWord c.scope g w (c.f8 0x30) (c.f64 0x18) (c.f64 0x20)
      if c.f64 0x28 = 0 then r.1.endCmd c.q c.t c.okStatus 0
      else
        match r.1.writeFault rs with
        | some e => r.1.endCmd c.q c.t e.1 e.2
        | none =>
          (r.1.writeAt (.crest c.q c.t dispWriter) c.part (c.f64 0x28) (toBytes r.2 8)).endCmd c.q c.t c.okStatus 0

/-- FENCE: every write of the queue's earlier commands is performed at its scope (R155); the buffer gives its words back
at DIE or HOST scope (R159), once they may go. -/
def State.runFence (s : State) (c : Cmd) : State :=
  match if c.scope = 0 then none else s.flushHeld (fun _ => true) with
  | some x => s.stall c.q c.t x
  | none =>
    let s := s.perform (fun e => e.crest.isSome && e.q = c.q && decide (e.t ≠ c.t)) c.scope
    let s := if c.scope = 0 then s else s.abufFlush (fun _ => true)
    s.endCmd c.q c.t c.okStatus 0

/-- COND of WAIT (Table CMD-5). -/
def condHolds (cond v x : Nat) : Bool :=
  match cond with | 0 => decide (v = x) | 1 => decide (v ≠ x) | 2 => decide (x ≤ v) | _ => decide (v < x)

/-- What holds the read of a WAIT. -/
def State.waitHeld (s : State) (c : Cmd) : Option WaitFor :=
  let g := s.gaddr c.part (c.f64 0x10)
  if s.abufHit g (c.f8 0x29) then none else s.wordHeld false false 0 g (c.f8 0x29)

/-- WAIT reads its word, from the atomic buffer where that holds it: it ends OK on its condition, ABORT_POISON on poison
(R159, R163); where the word may not be reached yet, it waits. -/
def State.readWait (s : State) (c : Cmd) : State :=
  let w := c.f8 0x29
  let gs := s.gaddrs c.part (c.f64 0x10) w
  let g := s.gaddr c.part (c.f64 0x10)
  let hit := s.abufHit g w
  match s.waitHeld c with
  | some x => s.stall c.q c.t x
  | none =>
    let s := if hit then s else (s.abufFlush (clashes 0 g w)).reads c.q c.t gs
    match (if hit then none else s.accessFault gs) with
    | some r => s.endCmd c.q c.t r.1 r.2
    | none =>
      let v := Nat.land (s.wordAt g w) (lowBytes (c.f64 0x20) w)
      if condHolds (c.f8 0x28) v (lowBytes (c.f64 0x18) w) then s.endCmd c.q c.t c.okStatus 0 else s

/-- The final read of a WAIT: without a satisfying value it ends WAIT_TIMEOUT (R163, R164). DEDUCED (log 127): a read that is
held when the timer reaches terminal count is still made, once it may be. -/
def State.finalRead (s : State) (c : Cmd) : State :=
  match s.waitHeld c with
  | some x => (s.modCmd c.q c.t fun d => { d with expired := true }).stall c.q c.t x
  | none => (s.readWait c).endCmd c.q c.t sTimeout 0x80

/-- The SIGNALs, FENCEs and final reads of WAITs that waited for a line try again. -/
def State.retrySignals (s : State) : State :=
  (s.cmds.filter (fun c => decide (c.opcode = 6 ∨ c.opcode = 7 ∨ (c.opcode = 8 ∧ c.expired = true))
      && c.started && c.fin.isNone)).foldl
    (fun s c => match c.opcode with
      | 6 => s.runFence c
      | 7 => s.runSignal c
      | _ => s.finalRead c) s

/-- No earlier command of the queue is in flight. -/
def State.firstInQueue (s : State) (q t : Nat) : Bool :=
  match s.cmds.find? (fun c => c.q = q) with | some c => decide (c.t = t) | none => false

/-- Is the start of a command held until every earlier record (Table CMD-6)? -/
def Cmd.waitsForEarlier (c : Cmd) : Bool := c.barrier || decide (c.opcode = 6)

/-- A handle is unbound. -/
def Crest.unbind (c : Crest) (h : Nat) : Crest := { c with handles := tset {} c.handles h {} }

/-- A crest takes an image in: overlapped handles unbound, instructions written, the handle bound (R92). -/
def Crest.bind (c : Crest) (h off img : Nat) (b : List Byte) (loading : Bool) : Crest :=
  let n := imgCount b
  let c := (List.range 8).foldl (fun c k =>
    let x := tget {} c.handles k
    if x.bound ∧ x.off < off + n ∧ off < x.off + x.count then c.unbind k else c) c
  { c with
    prog := tsetFrom 0#64 c.prog off (imgWords b)
    handles := tset {} c.handles h { bound := true, off := off, count := n, entries := imgEntries b
                                     slotMask := imgSlots b, limit := imgLimit b, image := img, loading := loading } }

/-- LOADPROG on every named crest that is present: the image that acceptance checked is bound (R92). UNLOAD only unbinds. -/
def State.runLoadprog (s : State) (c : Cmd) : State :=
  let h := c.f8 0x1A
  let ls := c.named.filter s.crestPresent
  if (c.f8 0x1B).testBit 0 then
    (ls.foldl (fun s l => s.modCrest (s.physOf l) fun x => x.unbind h) s).endCmd c.q c.t c.okStatus 0
  else
    ls.foldl (fun s l => s.modCrest (s.physOf l) fun x =>
      let y := if s.crestRetired (s.physOf l) then x else x.rouse
      { y.bind h (fld c.e 0x18 2) (c.f64 0x10) c.image true with pw := y.pw }) s

/-- The logical crests that trace entries of a command name; 0 for a command without a crest (R341). -/
def Cmd.traced (c : Cmd) : List Nat := if c.noCrest then [0] else if c.opcode = 9 then c.named else c.crests

/-- A command's event is traced on each of its crests (R341). -/
def State.traceAll (s : State) (c : Cmd) (event : Nat) : State :=
  c.traced.foldl (fun s l => s.addTrace event l c.q c.part 0 c.t) s

/-- A command that may start does: the dispatcher's own are carried out, LOADPROG writes its crests, the others wait for
their crests' work (Table CMD-6). What it waited till then was QUEUE; a MARKER waits on for its record (R143). -/
def State.start (s : State) (q t : Nat) : State :=
  match s.cmd? q t with
  | none => s
  | some c =>
    if c.started || c.fin.isSome || (c.waitsForEarlier && !s.firstInQueue q t) then s
    else
      let s := s.modCmd q t fun c => { c with started := true }
      let s := if c.noCrest ∨ c.opcode = 9 then
        (if c.opcode = 10 then s else s.setHold q t 17 wQueue false).traceAll c 2 else s
      match c.opcode with
      | 6 => s.runFence c
      | 7 => s.runSignal c
      | 8 => s.readWait c
      | 9 => s.runLoadprog c
      | 10 => s
      | _ => ((List.range 17).foldl (fun s p =>
          if (s.crest p).held.contains (q, t) then (s.turn p).requeue p else s) s).tryComplete q t

/-- A MARKER whose earlier commands all have their records ends (Table CMD-6). -/
def State.markers (s : State) (q : Nat) : State :=
  match s.cmds.find? (fun c => c.q = q) with
  | some c => if c.opcode = 10 ∧ c.started = true then s.endCmd q c.t c.okStatus 0 else s
  | none => s

/-- The commands of a queue that waited for earlier records go on. -/
def State.startWaiting (s : State) (q : Nat) : State :=
  ((s.cmds.filter (fun c => c.q = q && !c.started)).foldl (fun s c => s.start q c.t) s).markers q

/-- Slices that a command names start to wake (R21); free ones among them are zeroised on the way (R178). -/
def State.wakeNeed (s : State) (m : Nat) : State :=
  (maskList m 96).foldl (fun s n =>
    if s.sliceRetired n || decide ((s.slice n).pw = .on) then s else s.modSlice n fun x => { x with waking := true }) s

/-- Waking slices among those of a mask are ON, together. Each running command that names one is charged as WAKE the
longest of their wake times: 500 ns from RETAIN; from OFF a measured wait where one is given (R21, log 118). -/
def State.slicesAwake (s : State) (m : Nat) (waited : Option Nat) : State :=
  let up := (maskList m 96).filter (fun n =>
    (s.slice n).waking && !s.sliceRetired n && !(s.slice n).unavailable && s.tierOn n)
  if up.isEmpty then s
  else
    let due (c : Cmd) : Nat :=
      let ns := ((up.filter (fun n => c.need.testBit n)).map s.wakeNs).foldl max 0
      match waited with
      | some w => if ns = 0 then 0 else if ns = 500 then s.clocksOf c 500 else w
      | none => s.clocksOf c ns
    let s := up.foldl State.wakeSlice
      { s with cmds := s.cmds.map (fun c => if c.fin.isNone then c.charge wWake (due c) else c) }
    (List.range 17).foldl (fun s p => if (s.crest p).held.isEmpty then s else s.kick p) s

/-- The slices that a command's ranges reach: all of the partition's where it interleaves. -/
def State.needOf (s : State) (c : Cmd) : Nat :=
  let m := (c.ranges.map Rng.slices).foldl Nat.lor 0
  if (s.part c.part).interleave then (if m = 0 then 0 else (s.part c.part).slices) else m

/-- An accepted command: seed, tiles, crests, holds (R85, R133, R135); until it starts, or a crest takes it, it waits as
QUEUE (R143, R277). The tiles of a REDUCE_RECV without a source have all their additions made (R116). -/
def State.takeIn (s : State) (q t : Nat) : State :=
  match s.cmd? q t with
  | none => s
  | some c =>
    let seed := if c.seedFixed then c.seedField else Config.mclkSeed s.freeCtr
    let need := s.needOf c
    let total := if c.opcode = 9 then c.nCrests else c.tileCount
    let crests := if c.noCrest then [] else s.assigned c
    let d := { c with
      seed := seed, need := need, total := total, crests := crests
      next := if c.opcode = 11 ∨ c.opcode = 9 then total else 0
      redo := if c.opcode = 11 ∧ c.rSrcMask = 0 then List.range total else [] }
    let s := ((s.modCmd q t fun _ => d).chargeEarly q t).bump
    let s := s.wakeNeed need
    let s := if c.noCrest ∨ c.opcode = 9 then s.slicesAwake need none else s
    let s := if c.waitsForEarlier || decide (c.opcode = 8) then s.modQueue q fun k => { k with hold := some t } else s
    let s := (s.setHold q t 17 wQueue true).traceAll d 1
    let s := if c.noCrest ∨ c.opcode = 9 then s else (crests.map s.physOf).foldl (fun s p => s.place q t p) s
    ((s.start q t).markers q).fixedCheck

/-- The entry at Q_HEAD. -/
def State.nextEntry (s : State) (q : Nat) : List Byte :=
  let k := s.queue q
  s.readAt .disp ((s.queueOwner q).getD 0) (k.entryAddr k.head) 64

/-- The addresses of an entry, and of the blocks that it names and its partition may read (R97, R122, R127). -/
def State.entryLines (s : State) (q : Nat) : List Nat :=
  s.gaddrs ((s.queueOwner q).getD 0) ((s.queue q).entryAddr (s.queue q).head) 64
def State.blockLines (s : State) (c : Cmd) : List Nat :=
  c.namedBlocks.flatMap (fun b => if rangeIn (s.part c.part).slices b.1 b.2 then s.gaddrs c.part b.1 b.2 else [])

/-- May the dispatcher read the next entry of a queue and what it names now (R170, R181, R184, R272)? -/
def State.fetchable (s : State) (q : Nat) : Bool :=
  (s.heldBy false (s.entryLines q)).isNone
    && (s.heldBy false (s.blockLines (s.loadNames { q := q, t := 0, part := (s.queueOwner q).getD 0, e := s.nextEntry q }))).isNone

/-- The dispatcher reads queue `q`'s next entry and accepts or refuses it (R122, R130). `waited` MCLK are charged as
QUEUE. An entry whose slice the partition has lost since the doorbell ends as one in a retired slice does (R274; log
111), and so does a command a descriptor of which lies in a slice that an error of this read retires (R271). DESIGN CHOICE
(log 138): an entry or descriptor that the host writes after the doorbell is read as it then stands. -/
def State.fetch (s : State) (q waited : Nat) : State :=
  let k := s.queue q
  let part := (s.queueOwner q).getD 0
  let gs := s.entryLines q
  let own := rangeIn (s.part part).slices (k.entryAddr k.head) 64
  let e := s.nextEntry q
  let t := k.head
  let s := s.modQueue q fun k => { k with head := (k.head + 1) % m32 }
  let s := { s.modPart part (fun x => { x with lastQ := q }) with lastPart := part }
  let c0 : Cmd := { q := q, t := t, part := part, cls := k.cls, e := e }
  let s := ({ s with cmds := s.cmds ++ [c0] }.chargeMclk q t wQueue waited).reads q t gs
  match if s.inRetired gs || !own then some 0x50 else s.poisonOf gs with
  | some sub => s.endCmd q t sPoison sub
  | none =>
    let c := s.loadNames ((s.cmd? q t).getD c0)
    let bs := s.blockLines c
    let s := (s.modCmd q t fun _ => c).reads q t bs
    match if (firstBroken c.check1).isNone && s.inRetired bs then some (sPoison, 0x50) else s.acceptance c with
    | some r =>
      let s := if isRefusal r.1 then s.addTrace 6 0 q part r.1 t else s
      let s := if c.barrier then s.modQueue q fun k => { k with hold := some t } else s
      s.endCmd q t r.1 r.2
    | none => s.takeIn q t

end Sys2Proof.Machine
end

