-- ==== Sys2Proof/Machine/Feeder.lean ====
section
/-!
DEFINITION. The feeder of a crest: operand elements out of memory (R30, R34), PAIR parts and the order of passes (R47,
R48), the prologue (R99–R104), and the filling of the weight banks (R51, R53).
-/
namespace Sys2Proof.Machine

/-- What a crest's access meets: a status and sub-code, or a result. -/
abbrev Fed (α : Type) := Except (Nat × Nat) α

/-- A crest's command reads these addresses: caches and slices follow, and the errors met are handled (R270, R271). -/
def State.crestReads (s : State) (q t : Nat) (gs : List Nat) (es : List Ecc) : State :=
  s.readsWith q t gs es

/-- A command ends on an abort; the crests that held it go on with their next (R95). -/
def State.abort (s : State) (q t st sub : Nat) : State :=
  let hs := s.holders q t
  hs.foldl State.kick (s.endCmd q t st sub)

/-! Operand elements. -/

/-- Where element `k` of line `i` of a tensor lies: first byte, number of bytes, first bit (Table NUM-4). -/
def Desc.place (d : Desc) (i k : Nat) : Nat × Nat × Nat :=
  let b := k * elemBits d.stored
  (d.addr + i * d.pitch + b / 8, (b % 8 + elemBits d.stored + 7) / 8, b % 8)

/-- Where its scale byte lies, on lines of extent `E` (R30). -/
def Desc.scalePlace (d : Desc) (E i k : Nat) : Nat :=
  d.scaleAddr + i * scaleBytes d.stored E + k / blockSize d.stored

/-- The addresses that an element takes. -/
def State.elemAddrs (s : State) (part : Nat) (d : Desc) (E i k : Nat) : List Nat :=
  let p := d.place i k
  s.gaddrs part p.1 p.2.1 ++ (if isBlock d.stored then [s.gaddr part (d.scalePlace E i k)] else [])

/-- The decoded element `k` of line `i` of a tensor, as an observer reads it (R34, R35). -/
def State.elem (s : State) (o : Obs) (part : Nat) (d : Desc) (E i k : Nat) : Fp :=
  let p := d.place i k
  decodeElem d.stored (ofBytes (s.readAt o part p.1 p.2.1) / 2 ^ p.2.2 % 2 ^ elemBits d.stored)
    (if isBlock d.stored then ofBytes (s.readAt o part (d.scalePlace E i k) 1) else 0)

/-- An operand as the array takes it: its tensor, whether it is stored with its other dimension contiguous (R101), and
its reduction extent K. -/
structure Oper where
  d : Desc
  trans : Bool
  K : Nat

/-- Line and place of reduction index `k` of row or column `r`. -/
def Oper.at (x : Oper) (r k : Nat) : Nat × Nat := if x.trans then (k, r) else (r, k)

/-- The reduction indices of K-block `kb` that exist (R51). -/
def Oper.ks (x : Oper) (kb : Nat) : List Nat := (List.range (min 128 (x.K - 128 * kb))).map (128 * kb + ·)

/-- The addresses of K-block `kb` of row or column `r`. -/
def State.operAddrs (s : State) (part : Nat) (x : Oper) (r kb : Nat) : List Nat :=
  (x.ks kb).flatMap (fun k => s.elemAddrs part x.d x.K (x.at r k).1 (x.at r k).2)

/-- The elements of K-block `kb` of row or column `r`, without padding. -/
def State.operElems (s : State) (o : Obs) (part : Nat) (x : Oper) (r kb : Nat) : List Fp :=
  (x.ks kb).map (fun k => s.elem o part x.d x.K (x.at r k).1 (x.at r k).2)

/-- A short K-block is padded with zero elements (R51). -/
def padBlock (vs : List Fp) : List Fp := vs ++ List.replicate (128 - vs.length) (.zero false)

/-- Part `i` of a K-block of an operand that splits into `n` parts (R47). -/
def partOf (n i : Nat) (vs : List Fp) : List Fp :=
  if n ≤ 1 then vs else (chunks 32 5 vs).flatMap (fun b => (splitParts n b).getD i [])

/-- The part products of a K-block in their order (R48). -/
def passOrder (pA pB : Nat) : List (Nat × Nat) :=
  (List.range (max pA pB)).reverse.flatMap (fun d =>
    (List.range pA).filterMap (fun i => if i ≤ d ∧ d - i < pB then some (i, d - i) else none))

/-! The operands of GEMM and CHAIN. -/

/-- Operand A. -/
def Cmd.operA (c : Cmd) : Oper := { d := c.dA, trans := c.fu.transA, K := if c.opcode = 2 then c.ch.d else c.gK }
/-- Operand B of the product that a phase computes: B or K, and V in a CHAIN's second product. -/
def Cmd.operB (c : Cmd) (phase : Nat) : Oper :=
  if phase = 2 then { d := c.dV, trans := c.ch.flags.testBit 0, K := c.ch.l }
  else { d := c.dB, trans := c.fu.transB, K := if c.opcode = 2 then c.ch.d else c.gK }

/-- Parts of the activation operand of a phase: P of a CHAIN has one. -/
def Cmd.partsA (c : Cmd) (phase : Nat) : Nat := if phase = 2 then 1 else pairParts c.aFmt
/-- Parts of the weight operand of a phase. -/
def Cmd.partsB (c : Cmd) (phase : Nat) : Nat := pairParts (c.operB phase).d.format
/-- The passes of one K-block of a phase (R48). -/
def Cmd.passes (c : Cmd) (phase : Nat) : List (Nat × Nat) := passOrder (c.partsA phase) (c.partsB phase)

/-- c_A × c_B of a phase (R37). -/
def Cmd.coarseOf (c : Cmd) (phase : Nat) : Word :=
  let f (d : Desc) : Word := if d.format = 0x0B then d.coarse else one32
  fmul .rne (if phase = 2 ∨ c.fu.converts = true then one32 else f c.dA) (f (c.operB phase).d)

/-- K-blocks of a GEMM, key tiles of a CHAIN. -/
def Cmd.blocks (c : Cmd) : Nat := if c.opcode = 2 then ceilDiv c.ch.l 128 else ceilDiv c.gK 128

/-- The weight block that a pass needs: K-block or key tile, and part; V's parts count from 8. -/
def Cmd.blockOf (c : Cmd) (w : Work) : Nat × Nat :=
  let j := ((c.passes w.phase).getD w.pass (0, 0)).2
  (w.kb, if w.phase = 2 then 8 + j else j)

/-- The columns of a weight block that stand for output columns, and the first of them. -/
def Cmd.blockCols (c : Cmd) (w : Work) : Nat × Nat :=
  if c.opcode = 2 then (if w.phase = 2 then (0, c.ch.dv) else (128 * w.kb, min 128 (c.ch.l - 128 * w.kb)))
  else (c.n0 w.tile, c.tileCols w.tile)

/-- The K-block of the weight operand: a CHAIN's keys have one, its values one per key tile. -/
def Cmd.blockK (c : Cmd) (w : Work) : Nat := if c.opcode = 2 ∧ w.phase = 0 then 0 else w.kb

/-- The pass after the one at hand, in the tile's order (R52, R110). -/
def Cmd.nextPass (c : Cmd) (w : Work) : Option Work :=
  if w.pass + 1 < (c.passes w.phase).length then some { w with pass := w.pass + 1, row := 0 }
  else if c.opcode = 2 ∧ w.phase = 0 then some { w with phase := 2, pass := 0, row := 0 }
  else if w.kb + 1 < c.blocks then
    some { w with phase := 0, kb := w.kb + 1, pass := 0, row := 0 }
  else none

/-- The first later pass, within `fuel` of them, that needs another block. -/
def Cmd.nextBlock (c : Cmd) (b : Nat × Nat) : Nat → Work → Option Work
  | 0, _ => none
  | n + 1, w =>
    match c.nextPass w with
    | none => none
    | some v => if c.blockOf v = b then c.nextBlock b n v else some v

/-! The prologue. -/

/-- norm of R102 over the T sums and sums of squares of a row, oldest tile first. -/
def normWord (strict : Bool) (rms : Bool) (invn eps : Word) (st : List (Word × Word)) (x : Word) : Word :=
  let ad := fadd strict .rne
  let S := st.foldl (fun a e => ad a e.1) (zero32 false)
  let Q := st.foldl (fun a e => ad a e.2) (zero32 false)
  if rms then fmul .rne x (fnRsqrt (ffma strict .rne Q invn eps))
  else
    let mu := fmul .rne S invn
    let v := ffma strict .rne (fneg mu) mu (fmul .rne Q invn)
    let v := if flt v (zero32 false) then zero32 false else v
    fmul .rne (fsub strict .rne x mu) (fnRsqrt (ad v eps))

/-- The statistics of row `r`, as an observer reads them (R102). -/
def State.statsOf (s : State) (o : Obs) (part a T r : Nat) : List (Word × Word) :=
  (List.range T).map (fun t =>
    let b := s.readAt o part (a + (r * T + t) * 8) 8
    (BitVec.ofNat 32 (fld b 0 4), BitVec.ofNat 32 (fld b 4 4)))

/-- Why a row's statistics cannot be read: outside the partition's slices, or poisoned (R102). -/
def State.statsFault (s : State) (c : Cmd) (a T r : Nat) : Option (Nat × Nat) :=
  if s.mayReach c (a + r * T * 8) (T * 8) then s.accessFault (s.gaddrs c.part (a + r * T * 8) (T * 8))
  else some (sFault, 0x43)

/-- A decoded element as the lane word that LDS would widen it to, taken as FP32 (R99). DEDUCED (log 112): an INT32 that
FP32 does not hold is rounded by RNE. -/
def laneWord (v : Fp) : Word := toFp32 .rne v

/-- A row of the prologue: its K-block's elements as the array takes them, and what the conversion counts (R99). -/
structure FedRow where
  elems : List Fp
  sat : Nat := 0
  van : Nat := 0

/-- NORM, ACT and the conversion to PRO_FMT on the elements of a row (R99). -/
def Cmd.prologue (c : Cmd) (st : List (Word × Word)) (vs : List Fp) : FedRow :=
  if c.fu.converts then
    let f (v : Fp) : Word :=
      let x := laneWord v
      let x := if c.fu.norm then normWord c.strict (decide (c.fu.proNorm = 1)) c.fu.proInvn c.fu.proEps st x else x
      if c.fu.act then actEval c.strict c.fu.proAct x else x
    let cs := vs.map (fun v => convScalar c.fu.proFmt .rne c.satMode (fp32 (f v)))
    { elems := cs.map (fun k => decodeElem c.fu.proFmt k.bits 0), sat := satCountOf cs, van := vanCountOf cs }
  else { elems := vs }

/-- The index-list entry of row `m` lies here (R100). -/
def State.idxAddrs (s : State) (c : Cmd) (m : Nat) : List Nat :=
  if c.fu.gather then s.gaddrs c.part (c.fu.idxAddr + 4 * m) 4 else []

/-- The source row of row `m`: the row itself, or its index (R100). -/
def State.sourceRow (s : State) (o : Obs) (c : Cmd) (m : Nat) : Nat :=
  if c.fu.gather then ofBytes (s.readAt o c.part (c.fu.idxAddr + 4 * m) 4) else m

/-- The addresses that feeding K-block `kb` of row `m` reads. -/
def State.feedAddrs (s : State) (o : Obs) (c : Cmd) (m kb : Nat) : List Nat :=
  let r := s.sourceRow o c m
  s.idxAddrs c m ++
    (if c.fu.gather ∧ r ≥ c.fu.gatherRows then []
    else s.operAddrs c.part c.operA r kb
      ++ (if c.fu.norm then s.gaddrs c.part (c.fu.statsAddr + r * c.fu.proT * 8) (c.fu.proT * 8) else []))

/-- K-block `kb` of row `m` of operand A, as the array takes it (R99–R102). -/
def State.feedRow (s : State) (o : Obs) (c : Cmd) (m kb : Nat) : Fed FedRow :=
  match s.accessFault (s.idxAddrs c m) with
  | some r => .error r
  | none =>
    let r := s.sourceRow o c m
    if c.fu.gather ∧ r = 0xFFFFFFFF then .ok { elems := [] }
    else if c.fu.gather ∧ r ≥ c.fu.gatherRows then .error (sFault, 0x45)
    else match s.accessFault (s.operAddrs c.part c.operA r kb) with
      | some e => .error e
      | none =>
        if c.fu.norm then
          match s.statsFault c c.fu.statsAddr c.fu.proT r with
          | some e => .error e
          | none =>
            .ok (c.prologue (s.statsOf o c.part c.fu.statsAddr c.fu.proT r) (s.operElems o c.part c.operA r kb))
        else .ok (c.prologue [] (s.operElems o c.part c.operA r kb))

/-- Does a prologue operation act: on A, or on B as TRANSPOSE_B does (R99)? -/
def Fusion.prologued (f : Fusion) : Bool := f.gather || f.transA || f.transB || f.norm || f.act

/-- The pair of A segment and K-block of the row at hand: M-tile and K-block (R104). -/
def Cmd.pairOf (c : Cmd) (w : Work) : Nat × Nat :=
  (if c.opcode = 1 then w.tile / c.nTiles else w.tile, if c.opcode = 2 then 0 else w.kb)

/-- The processed row at hand, where the transpose/gather buffer holds it (R104). -/
def Crest.fed (x : Crest) (c : Cmd) (w : Work) : Option (List Fp) :=
  match x.feed.find? (fun b => decide (b.q = c.q ∧ b.t = c.t ∧ (b.m, b.kb) = c.pairOf w)) with
  | some b => match tget [] b.rows w.row with | [] => none | v :: vs => some (v :: vs)
  | none => none

/-- The buffer takes the processed row at hand (R104). -/
def Crest.putFed (x : Crest) (c : Cmd) (w : Work) (vs : List Fp) : Crest :=
  let mine (b : FeedBuf) : Bool := decide (b.q = c.q ∧ b.t = c.t ∧ (b.m, b.kb) = c.pairOf w)
  let b := (x.feed.find? mine).getD { q := c.q, t := c.t, m := (c.pairOf w).1, kb := (c.pairOf w).2 }
  { x with feed := x.feed.filter (fun b => !mine b) ++ [{ b with rows := tset [] b.rows w.row vs }] }

/-- CCLK for which the array holds for the first row of a pair: the latencies of Table FUSE-4 that are neither issue CCLK
nor store reads; they are busy (R96). -/
def Cmd.prologueHold (c : Cmd) : Nat :=
  (if c.fu.gather then 2 else 0) + (if c.fu.transA then 130 else 0) + (if c.fu.transB then 130 else 0)
    + (if c.fu.norm then 2 else 0) + (if c.fu.act then 4 else 0) + (if c.fu.converts then 3 else 0)

/-- Issue CCLK of the prologue of one row, its segment's share on the first row (Table FUSE-4). -/
def Cmd.prologueCost (c : Cmd) (first : Bool) : Nat :=
  (if c.fu.norm then (if first then 2 * c.fu.proT + 8 else 0) + (if c.fu.proNorm = 1 then 1 else 2) else 0)
    + (if c.fu.act then actCost c.fu.proAct else 0) + (if c.fu.converts then 1 else 0)

/-! Weight banks. -/

/-- Does a bank hold the block that a pass needs? -/
def Bank.holds (b : Bank) (w : Work) (k : Nat × Nat) : Bool :=
  b.full && decide (b.q = w.q ∧ b.t = w.t ∧ b.tile = w.tile ∧ b.kb = k.1 ∧ b.part = k.2)

/-- The active and the inactive bank. -/
def Crest.activeBank (c : Crest) : Bank := if c.active = 0 then c.w0 else c.w1
/-- The inactive bank. -/
def Crest.idleBank (c : Crest) : Bank := if c.active = 0 then c.w1 else c.w0

/-- CCLK in which a weight block fills, its parts of 8 bits each where it is of a PAIR operand (R47, R53). -/
def Cmd.fillTime (c : Cmd) (w : Work) : Nat :=
  let d := (c.operB w.phase).d
  if isPair d.format then 64 else 8 * elemBits d.format

/-- CCLK for which the array holds for a block: its fill has gone on while the command's rows streamed through the active
bank (R53); a command's first block adds its whole fill time (R66). -/
def Crest.fillHold (x : Crest) (c : Cmd) (w : Work) : Nat :=
  c.fillTime w - (if x.activeBank.q = c.q ∧ x.activeBank.t = c.t ∧ x.activeBank.full = true then x.streamed else 0)

/-- The crest with the block of a pass in its active bank, the banks swapped where the inactive one holds it (R53). -/
def Crest.withBank (c : Crest) (w : Work) (k : Nat × Nat) : Option Crest :=
  if c.activeBank.holds w k then some c
  else if c.idleBank.holds w k then some { c with active := 1 - c.active, streamed := 0 }
  else none

/-- The block that the feeder fills next: the one that the pass at hand needs, else the one after it (R53). -/
def Crest.fillTarget (x : Crest) (c : Cmd) (w : Work) : Option Work :=
  let k := c.blockOf w
  if x.activeBank.holds w k || x.idleBank.holds w k then
    match c.nextBlock k 8 w with
    | some v => if x.activeBank.holds v (c.blockOf v) || x.idleBank.holds v (c.blockOf v) then none else some v
    | none => none
  else some w

/-- The addresses of a weight block. -/
def State.blockAddrs (s : State) (c : Cmd) (w : Work) : List Nat :=
  let n := c.blockCols w
  (List.range n.2).flatMap (fun j => s.operAddrs c.part (c.operB w.phase) (n.1 + j) (c.blockK w))

/-- The columns of a weight block, decoded, the part of a PAIR operand taken. -/
def State.blockData (s : State) (o : Obs) (c : Cmd) (w : Work) : List (List Fp) :=
  let n := c.blockCols w
  let j := ((c.passes w.phase).getD w.pass (0, 0)).2
  (List.range n.2).map (fun i =>
    partOf (c.partsB w.phase) j (padBlock (s.operElems o c.part (c.operB w.phase) (n.1 + i) (c.blockK w))))

/-- May a crest's tile stream rows now? -/
def State.streams (s : State) (p : Nat) (w : Work) : Bool :=
  let x := s.crest p
  x.works && x.inv.isNone && s.runnable p (w.q, w.t) && decide (w.phase = 0 ∨ w.phase = 2)

/-- The feeder fills the inactive bank with the next block, unless its lines may not be read yet (R53); the banks swap before
it where the inactive one holds the block at hand. `waited` CCLK are charged as STORE. -/
def State.fillBank (s : State) (p waited : Nat) (es : List Ecc) : State :=
  match (s.crest p).work with
  | [] => s
  | w :: _ =>
    match s.cmd? w.q w.t with
    | none => s
    | some c =>
      if !s.streams p w then s
      else
        let s := match (s.crest p).withBank w (c.blockOf w) with | some x => s.modCrest p fun _ => x | none => s
        match (s.crest p).fillTarget c w with
        | none => s
        | some v =>
          let gs := s.blockAddrs c v
          match s.heldBy false gs with
          | some x => s.stall w.q w.t x
          | none =>
          let s := (s.crestReads w.q w.t gs es).modCmd w.q w.t fun c => c.charge wStore waited
          match s.accessFault gs with
          | some r => s.abort w.q w.t r.1 r.2
          | none =>
            let k := c.blockOf v
            let b : Bank := { q := w.q, t := w.t, tile := w.tile, kb := k.1, part := k.2, full := true
                              data := s.blockData (.crest w.q w.t p) c v }
            s.modCrest p fun x => if x.active = 0 then { x with w1 := b } else { x with w0 := b }

end Sys2Proof.Machine
end

