-- ==== Sys2Proof/Machine/Lanes.lean ====
section
/-!
DEFINITION. Rows of 128 lanes: accumulator rows (R59), vector, scalar and mask registers (R73), the tree of RED (R80),
and the per-lane generators of stochastic rounding (R84–R86).
-/
namespace Sys2Proof.Machine

/-- Does a lane take part under a mask? -/
abbrev LaneMask := Nat → Bool
/-- Every lane. -/
def allLanes : LaneMask := fun _ => true
/-- The lanes below `n`. -/
def lanesBelow (n : Nat) : LaneMask := fun i => decide (i < n)

/-- `n` values at a place of a table, those of the masked lanes replaced (R78). -/
def putLanes (t : Tbl Word) (k : Nat) (m : LaneMask) (vs : List Word) : Tbl Word :=
  (List.range vs.length).foldl (fun t i => if m i then tset 0#32 t (k + i) (vs.getD i 0#32) else t) t

/-- A row of an accumulator slot (R59). -/
def accRow (a : Tbl Word) (slot row : Nat) : List Word := tgetFrom 0#32 a (accKey slot row 0) 128
/-- A row of an accumulator slot written in the masked lanes. -/
def putAccRow (a : Tbl Word) (slot row : Nat) (m : LaneMask) (vs : List Word) : Tbl Word :=
  putLanes a (accKey slot row 0) m vs

/-- V[r] (R73). -/
def Crest.vreg (x : Crest) (r : Nat) : List Word := tgetFrom 0#32 x.V (r * 128) 128
/-- V[r] written in the active lanes (R78). -/
def Crest.setV (x : Crest) (r : Nat) (m : LaneMask) (vs : List Word) : Crest :=
  { x with V := putLanes x.V (r * 128) m vs }
/-- S[r]. -/
def Crest.sreg (x : Crest) (r : Nat) : Word := tget 0#32 x.S r
/-- S[r] written. -/
def Crest.setS (x : Crest) (r : Nat) (v : Word) : Crest := { x with S := tset 0#32 x.S r v }
/-- M[r]; M0 is all ones (Table VEC-1). -/
def Crest.mreg (x : Crest) (r : Nat) : BitVec 128 := if r = 0 then BitVec.allOnes 128 else tget 0#128 x.M r
/-- M[r] written; M0 is read-only (Table VEC-1). -/
def Crest.setM (x : Crest) (r : Nat) (v : BitVec 128) : Crest := if r = 0 then x else { x with M := tset 0#128 x.M r v }
/-- The active lanes of an instruction (R78). -/
def Crest.lanes (x : Crest) (r : Nat) : LaneMask := fun i => (x.mreg r).getLsbD i

/-- The tree of R80 over 2^n lanes: lane i takes lane i + w, w halving. -/
def redTree (op : Word → Word → Word) : Nat → List Word → Word
  | 0, vs => vs.getD 0 0#32
  | n + 1, vs => redTree op n (List.zipWith op (vs.take (2 ^ n)) (vs.drop (2 ^ n)))

/-- RED over the active lanes (R80). -/
def redLanes (op : Word → Word → Word) (ident : Word) (m : LaneMask) (vs : List Word) : Word :=
  redTree op 7 ((List.range 128).map (fun i => if m i then vs.getD i ident else ident))

/-- The identity of SUM: +0, −0 under STRICT (R80). -/
def sumIdent (strict : Bool) : Word := zero32 strict

/-! The generators (R85). -/

/-- seed_state of R85. -/
def seedState (seed : Word) (tile lane : Nat) : DWord :=
  let z : DWord := BitVec.ofNat 64 (seed.toNat * 2 ^ 32 + tile % 2 ^ 24 * 2 ^ 8 + lane)
  let z := z + 0x9E3779B97F4A7C15#64
  let z := (z ^^^ (z >>> 30)) * 0xBF58476D1CE4E5B9#64
  let z := (z ^^^ (z >>> 27)) * 0x94D049BB133111EB#64
  let z := z ^^^ (z >>> 31)
  if z = 0#64 then 0x9E3779B97F4A7C15#64 else z

/-- step of R85. -/
def genStep (s : DWord) : DWord :=
  let s := s ^^^ (s <<< 13)
  let s := s ^^^ (s >>> 7)
  s ^^^ (s <<< 17)

/-- `n` steps of a generator. -/
def genSteps : Nat → DWord → DWord
  | 0, s => s
  | n + 1, s => genSteps n (genStep s)

/-- The tile index that seeds a tile's generators (R85). -/
def Cmd.seedTile (c : Cmd) (tile : Nat) : Nat := if c.opcode = 11 then c.rTile0 + tile else tile

/-- The rounding of each lane at the generators' `n`-th step since the tile's seeding (R84–R86). -/
def Cmd.srLanes (c : Cmd) (tile n : Nat) : List RM :=
  (List.range 128).map (fun i =>
    .sr c.srB ((genSteps n (seedState c.seed (c.seedTile tile) i)).toNat / 2 ^ (64 - c.srB)))

/-- The rounding of a conversion outside tile programs: RNE, or the tile's generators after one more step where the
command selects stochastic rounding (R38, R85). -/
def Cmd.convLanes (c : Cmd) (tile n : Nat) : List RM :=
  if c.srFlag then c.srLanes tile (n + 1) else List.replicate 128 .rne
/-- The generators' steps after such a conversion. -/
def Cmd.genAfter (c : Cmd) (n : Nat) : Nat := if c.srFlag then n + 1 else n

/-- The tile under way on a crest changed by `f`. -/
def Crest.modWork (x : Crest) (f : Work → Work) : Crest :=
  match x.work with
  | [] => x
  | w :: ws => { x with work := f w :: ws }

end Sys2Proof.Machine
end

