-- ==== Sys2Proof/Machine/Chain.lean ====
section
/-!
DEFINITION. The vector work of CHAIN between its two products (R110–R112): the running maximum m and sum l of each query
row in rows 0 and 1 of the ML slot, E and F in the S slot, O in the O slot.
-/
namespace Sys2Proof.Machine

/-- Is the operand pair of a phase INT8 or INT4 (R58, R64)? P of a CHAIN is FP8. -/
def Cmd.intPair (c : Cmd) (phase : Nat) : Bool := decide (phase ≠ 2) && isInt c.aFmt && isInt c.dB.format
/-- Does STRICT act on a phase's passes: not on integer pairs (R64)? -/
def Cmd.strictOn (c : Cmd) (phase : Nat) : Bool := c.strict && !c.intPair phase
/-- CCLK per row of a phase's passes (R64). -/
def Cmd.rowRate (c : Cmd) (phase : Nat) : Nat := if c.strictOn phase then 32 else 1

/-- Is key `k` hidden from query row `q`: masked, or beyond L (R110, Table FUSE-6)? -/
def Cmd.keyHidden (c : Cmd) (q k : Nat) : Bool :=
  decide (k ≥ c.ch.l) || (decide (c.ch.mask = 1) && decide ((k : Int) > (q : Int) + sext 32 c.ch.offset))

/-- Is any column of a key tile masked for a tile's rows (R112)? -/
def Cmd.anyMasked (c : Cmd) (tile kb : Nat) : Bool :=
  (List.range (c.tileRows tile)).any (fun i => (List.range 128).any (fun k => c.keyHidden (c.m0 tile + i) (128 * kb + k)))

/-- Has every key so far been masked for query row `i`: m = −∞ (R110)? -/
def Cmd.rowMasked (c : Cmd) (a : Tbl Word) (i : Nat) : Bool := decide (tget 0#32 a (mKey c i) = inf32 true)

/-- A row of the S slot whose contents the spec does not state. -/
def Cmd.freeS (c : Cmd) (fr i : Nat) (a : Tbl Word) : Tbl Word :=
  putAccRow a c.ch.sSlot i allLanes ((List.range 128).map (fun n => Config.freeWord fr (accKey c.ch.sSlot i n)))

/-- From S to E of one query row: m takes the new maximum, l and O their factor alpha (R110). A row that
sees no key yet forms no E: what the S slot then shows a tile program is a free value. -/
def Cmd.chainRow (c : Cmd) (fr tile kb i : Nat) (a : Tbl Word) : Tbl Word :=
  let S := accRow a c.ch.sSlot i
  let D := (List.range 128).map (fun n =>
    if c.keyHidden (c.m0 tile + i) (128 * kb + n) then inf32 true else fmul .rne (S.getD n 0#32) c.ch.scale)
  let m := tget 0#32 a (mKey c i)
  let m' := fmax m (redLanes fmax nan32 allLanes D)
  if m' = inf32 true then (if c.ch.fEntry = 0xFF then a else c.freeS fr i a)
  else
    let alpha := fnExp2 (fsub c.strict .rne m m')
    let a := putAccRow a c.ch.sSlot i allLanes (D.map (fun d => fsub c.strict .rne d m'))
    let a := tset 0#32 a (mKey c i) m'
    let a := tset 0#32 a (lKey c i) (fmul .rne (tget 0#32 a (lKey c i)) alpha)
    putAccRow a c.ch.oSlot i (lanesBelow c.ch.dv) ((accRow a c.ch.oSlot i).map (fun o => fmul .rne o alpha))

/-- P of one query row out of the F that the S slot holds: its conversions to P_FMT (R110). -/
def Cmd.pRow (c : Cmd) (a : Tbl Word) (i : Nat) : List Conv :=
  (accRow a c.ch.sSlot i).map (fun f => convScalar c.ch.pFmt .rne c.satMode (fp32 f))
/-- The elements of P as the array takes them. -/
def Cmd.pElems (c : Cmd) (a : Tbl Word) (i : Nat) : List Fp :=
  (c.pRow a i).map (fun k => decodeElem c.ch.pFmt k.bits 0)

/-- F of one query row: EXP2 of E, unless a tile program has written it (R110, R111). -/
def Cmd.fRow (c : Cmd) (i : Nat) (a : Tbl Word) : Tbl Word :=
  if c.ch.fEntry = 0xFF then putAccRow a c.ch.sSlot i allLanes ((accRow a c.ch.sSlot i).map fnExp2) else a

/-- l takes the sum of P (R110). -/
def Cmd.lRow (c : Cmd) (i : Nat) (a : Tbl Word) : Tbl Word :=
  let sum := redLanes (fadd c.strict .rne) (sumIdent c.strict) allLanes ((c.pElems a i).map laneWord)
  tset 0#32 a (lKey c i) (fadd c.strict .rne (tget 0#32 a (lKey c i)) sum)

/-- The query rows of a tile that see at least one key so far. -/
def Cmd.liveRows (c : Cmd) (tile : Nat) (a : Tbl Word) : List Nat :=
  (List.range (c.tileRows tile)).filter (fun i => !c.rowMasked a i)

/-- E is formed for a key tile whose S is complete (R110). -/
def State.chainE (s : State) (p : Nat) (c : Cmd) (w : Work) : State :=
  s.bump.modCrest p fun x =>
    { x with acc := (List.range (c.tileRows w.tile)).foldl (fun a i => c.chainRow s.freeCtr w.tile w.kb i a) x.acc }

/-- F and P are formed and the second product may start (R110); the costs of R112, the array's for query rows that see no
key among them, and the transpose of V (Table FUSE-6). -/
def State.chainP (s : State) (p : Nat) (c : Cmd) (w : Work) : State :=
  let a0 := (s.crest p).acc
  let rows := c.liveRows w.tile a0
  let a := rows.foldl (fun a i => c.fRow i a) a0
  let cs := rows.flatMap (c.pRow a)
  let a := rows.foldl (fun a i => c.lRow i a) a
  let cost := (if c.anyMasked w.tile w.kb then 17 else 16) * c.tileRows w.tile + 8
    + (c.tileRows w.tile - rows.length) * (c.passes 2).length * c.rowRate 2
    + (if c.ch.flags.testBit 0 then 130 else 0)
  ((s.modCrest p fun x => { x with acc := a }).modCmd c.q c.t fun k =>
    k.count (satCountOf cs) (vanCountOf cs)).busyOn p c.q c.t cost

/-- The final division of a tile (R110, R112). Where no tile program formed F, the S slot holds free values from here on:
S and P never leave the crest. -/
def State.chainEnd (s : State) (p : Nat) (c : Cmd) (w : Work) : State :=
  let f (a : Tbl Word) (i : Nat) : Tbl Word :=
    let l := tget 0#32 a (lKey c i)
    let O := accRow a c.ch.oSlot i
    let a := if c.ch.fEntry = 0xFF then c.freeS s.freeCtr i a else a
    putAccRow a c.ch.oSlot i (lanesBelow c.ch.dv)
      (if feq l 0#32 then O.map (fun _ => 0#32) else O.map (fun o => fmul .rne o (fnRcp l)))
  (s.bump.modCrest p fun x => { x with acc := (List.range (c.tileRows w.tile)).foldl f x.acc }).busyOn p c.q c.t
    (2 * c.tileRows w.tile + 6)

end Sys2Proof.Machine
end

