-- ==== Sys2Proof/Machine/Crest.lean ====
section
/-!
DEFINITION. A crest at work on rows: the pass of one activation row (R51–R58, R64), long-sum promotion (R62), replays and
parity (R61, R69), the order of a tile's passes (R52, R110), WEIGHT_BANK_FILL (R53), PREEMPT (R136), the scoreboard
(R70), and the recall of a lent crest (R137).
-/
namespace Sys2Proof.Machine

/-! One row. -/

/-- What a row's passes leave: the accumulator memory, whether ACC_INF is set, clamped additions (R56, R58). -/
structure RowOut where
  acc : Tbl Word
  inf : Bool := false
  clamps : Nat := 0

/-- One pass added to one element: integer, strict or fast (R56, R58, R64). -/
def Cmd.addPass (c : Cmd) (phase : Nat) (cf old : Word) (as bs : List Fp) : Word × Bool × Nat :=
  if c.intAcc then
    let r := intAccum c.intSat old (intPassSum as bs)
    (r.1, false, b2n r.2)
  else if c.strictOn phase then
    let r := strictPass old cf (products as bs)
    (r.1, r.2, 0)
  else
    let r := fastPass old cf (products as bs)
    (r.1, r.2, 0)

/-- The promotion of one element of a long-sum tile: run at `a`, hi and lo in the pair slot (R62). -/
def promoteAt (strict : Bool) (slot row e : Nat) (o : RowOut) : RowOut :=
  let hk := accKey (slot + 1) row e
  let lk := accKey (slot + 1) (row + 64) e
  let ak := accKey slot row e
  let r := promote strict (tget 0#32 o.acc hk) (tget 0#32 o.acc lk) (tget 0#32 o.acc ak)
  { o with acc := tset 0#32 (tset 0#32 (tset 0#32 o.acc hk r.1) lk r.2.1) ak 0#32, inf := o.inf || r.2.2 }

/-- Slot and row that a row's passes add to. -/
def Cmd.target (c : Cmd) (w : Work) : Nat × Nat :=
  if c.opcode = 2 then (if w.phase = 2 then (c.ch.oSlot, w.row) else (c.ch.sSlot, w.row))
  else (c.slotOf w.tile w.j, c.row0 + w.row)

/-- Is the pass at hand the tile's last? -/
def Cmd.lastPass (c : Cmd) (w : Work) : Bool := (c.nextPass w).isNone

/-- The passes of one row on every column (R51), and the promotions that follow them (R62). -/
def Cmd.rowPasses (c : Cmd) (w : Work) (data : List (List Fp)) (as : List Fp) (a : Tbl Word) : RowOut :=
  let g := c.target w
  let n := (c.blockCols w).2
  let cf := c.coarseOf w.phase
  let a := if c.opcode = 2 ∧ w.phase = 0 ∧ w.pass = 0 then tclear a (accKey g.1 g.2 0) (accKey g.1 g.2 128) else a
  let o := (List.range n).foldl (fun (o : RowOut) e =>
    let k := accKey g.1 g.2 e
    let r := c.addPass w.phase cf (tget 0#32 o.acc k) as (data.getD e [])
    { acc := tset 0#32 o.acc k r.1, inf := o.inf || r.2.1, clamps := o.clamps + r.2.2 }) { acc := a }
  let promo (o : RowOut) : RowOut := (List.range n).foldl (fun o e => promoteAt c.strict g.1 g.2 e o) o
  if c.longsum then
    let o := if (w.passes + 1) % c.gP = 0 then promo o else o
    if c.lastPass w then promo o else o
  else o

/-- Does the residue check look at anything in this row: a FIN group, or under STRICT a FIN product (R68)? -/
def Cmd.checked (c : Cmd) (phase : Nat) (data : List (List Fp)) (as : List Fp) : Bool :=
  data.any (fun bs =>
    if c.strictOn phase then (products as bs).any (fun q => match q with | .fin _ _ _ => true | _ => false)
    else (passGroups (products as bs)).any (fun g => match g with | .fin _ _ => true | _ => false))

/-! What the detectors find. -/

/-- A command's row failed for good: it ends, and the crest is retired where it has become permanent (R61, R69, R275). -/
def State.rowFails (s : State) (p : Nat) (c : Cmd) (sub : Nat) (cause : Option Nat) : State :=
  let s := s.abort c.q c.t sFault sub
  match cause with
  | some k => (s.retireCrest p k).modPart c.part fun x => { x with unitLost := true }
  | none => s

/-- An accumulator parity mismatch (R61, R275). -/
def State.parityFails (s : State) (p : Nat) (c : Cmd) : State :=
  let s := (s.countErr kCrest p).modCrest p fun x => { x with parCount := min 255 (x.parCount + 1) }
  let s := s.addLog { code := 0x09, cls := 1, kind := kCrest, unit := p, part := some c.part, cmd := some (c.q, c.t)
                      count := s.errsIn kCrest p }
  s.rowFails p c 0x41 (if s.atThresh kCrest p then some 1 else none)

/-- A row whose residues mismatched `n` times: one detected error; a match on a replay lets the row through, the third
mismatch is permanent (R69, R275). -/
def State.residueSeen (s : State) (p : Nat) (c : Cmd) (n : Nat) : State :=
  let s := (s.countErr kCrest p).modCrest p fun x => { x with resCount := min 255 (x.resCount + 1) }
  let perm := decide (n ≥ 3)
  s.addLog { code := 0x08, cls := if perm then 2 else 1, kind := kCrest, unit := p, part := some c.part
             cmd := some (c.q, c.t), count := s.errsIn kCrest p, detail := min n 2 }

/-! The order of a tile's passes. -/

/-- The first row at or after `r` that a phase streams: in a CHAIN's second product only rows that see a key (R110). -/
def State.rowFrom (s : State) (p : Nat) (c : Cmd) (w : Work) (r : Nat) : Option Nat :=
  (List.range (c.tileRows w.tile)).find? (fun i =>
    decide (r ≤ i) && (decide (w.phase ≠ 2) || !c.rowMasked (s.crest p).acc i))

/-- A tile becomes ready for an invocation (R75). -/
def State.dueNow (s : State) (p : Nat) (w : Work) : State :=
  s.modCrest p fun x => { x with ready := x.ready ++ [(w.q, w.t, w.tile)] }

/-- The tile's own end of work: the division of CHAIN, then the stage list or the tile's invocation (R105, R108). -/
def State.passesDone (s : State) (p : Nat) (c : Cmd) (w : Work) : State :=
  let s := if c.opcode = 2 then s.chainEnd p c w else s
  (if c.useProg then s.dueNow p w else s).modCrest p fun x =>
    x.modWork fun w => { w with phase := if c.useProg then 4 else 3, row := 0, pass := 0 }

/-- From the last row of a key tile's second product to the next key tile, or to the tile's end (R110). -/
def State.keyTileDone (s : State) (p : Nat) (c : Cmd) (w : Work) : State :=
  if w.kb + 1 < c.blocks then
    s.modCrest p fun x => x.modWork fun w => { w with phase := 0, kb := w.kb + 1, pass := 0, row := 0 }
  else s.passesDone p c w

/-- F and P of a key tile are formed; its second product starts at the first row that sees a key (R110). -/
def State.chainSecond (s : State) (p : Nat) (c : Cmd) (w : Work) : State :=
  let s := s.chainP p c w
  let w2 := { w with phase := 2, pass := 0, row := 0 }
  match s.rowFrom p c w2 0 with
  | some r => s.modCrest p fun x => x.modWork fun w => { w with phase := 2, pass := 0, row := r }
  | none => s.keyTileDone p c w2

/-- The last row of a pass has been added: the next pass in the order of R52, or what follows the tile's last. -/
def State.passEnd (s : State) (p : Nat) (c : Cmd) (w : Work) : State :=
  let w1 := { w with passes := w.passes + 1 }
  let s := s.modCrest p fun x => x.modWork fun w => { w with passes := w.passes + 1 }
  if c.opcode = 2 ∧ w.phase = 0 ∧ w.pass + 1 = (c.passes 0).length then
    let s := s.chainE p c w1
    if c.ch.fEntry = 0xFF then s.chainSecond p c w1
    else (s.dueNow p w).modCrest p fun x => x.modWork fun w => { w with phase := 1, row := 0, pass := 0 }
  else if c.opcode = 2 ∧ w.phase = 2 ∧ w.pass + 1 = (c.passes 2).length then s.keyTileDone p c w1
  else match c.nextPass w1 with
    | some v =>
      let r := (s.rowFrom p c v 0).getD 0
      s.modCrest p fun x => x.modWork fun w => { w with phase := v.phase, kb := v.kb, pass := v.pass, row := r }
    | none => s.passesDone p c w1

/-- The row has been added: counts, and the next row. -/
def State.rowAdded (s : State) (p : Nat) (c : Cmd) (w : Work) (o : RowOut) : State :=
  let s := (s.modCrest p fun x => { x with acc := o.acc, streamed := x.streamed + c.rowRate w.phase }).busyOn p c.q c.t (c.rowRate w.phase)
  let s := s.modCmd c.q c.t fun k =>
    let k := k.count o.clamps 0
    { k with accInf := k.accInf || o.inf }
  match s.rowFrom p c w (w.row + 1) with
  | some r => s.modCrest p fun x => x.modWork fun w => { w with row := r }
  | none => s.passEnd p c w

/-- The activation row at hand: a fed row of A, out of the transpose/gather buffer where that holds it (R104), or P of a
CHAIN (R110). -/
def State.actRow (s : State) (p : Nat) (c : Cmd) (w : Work) : Fed FedRow :=
  if w.phase = 2 then .ok { elems := c.pElems (s.crest p).acc w.row }
  else match (s.crest p).fed c w with
    | some vs => .ok { elems := vs }
    | none => s.feedRow (.crest c.q c.t p) c (c.m0 w.tile + w.row) (if c.opcode = 2 then 0 else w.kb)

/-- The addresses that the row's feeding reads. -/
def State.actAddrs (s : State) (p : Nat) (c : Cmd) (w : Work) : List Nat :=
  if decide (w.phase = 2) || ((s.crest p).fed c w).isSome then []
  else s.feedAddrs (.crest c.q c.t p) c (c.m0 w.tile + w.row) (if c.opcode = 2 then 0 else w.kb)

/-- A row that the prologue has just processed: kept for reuse, its counts and costs charged (R96, R99, R104). DEDUCED
(log 135): the first row of each pair of A segment and K-block has the first-row charges of Table FUSE-4. -/
def State.processed (s : State) (p : Nat) (c : Cmd) (w : Work) (f : FedRow) : State :=
  if decide (w.phase = 2) || !c.fu.prologued || ((s.crest p).fed c w).isSome then s
  else
    let first := decide (w.row = 0)
    ((s.modCrest p fun x => x.putFed c w (padBlock f.elems)).modCmd c.q c.t fun k => k.count f.sat f.van).busyOn p c.q c.t
      (c.prologueCost first + (if first then c.prologueHold else 0))

/-- One row streams through the array with its block in the active bank (R51, R61, R69), unless its lines may not be read
yet. -/
def State.streamRow (s : State) (p : Nat) (c : Cmd) (w : Work) (ev : PassEvent) (es : List Ecc) : State :=
  let gs := s.actAddrs p c w
  match s.heldBy false gs with
  | some x => s.stall c.q c.t x
  | none =>
  let s := s.crestReads c.q c.t gs es
  match s.actRow p c w with
  | .error r => s.abort c.q c.t r.1 r.2
  | .ok f =>
    let s := s.processed p c w f
    let as := partOf (c.partsA w.phase) ((c.passes w.phase).getD w.pass (0, 0)).1 (padBlock f.elems)
    let x := s.crest p
    let s := s.modCrest p fun x => { x with rowBuf := as }
    let o := c.rowPasses w x.activeBank.data as x.acc
    match ev with
    | .clean => s.rowAdded p c w o
    | .parity => s.parityFails p c
    | .residue n =>
      if n = 0 || !c.checked w.phase x.activeBank.data as then s.rowAdded p c w o
      else
        let s := (s.residueSeen p c n).busyOn p c.q c.t (11 * min n 2)
        if n ≥ 3 then s.rowFails p c 0x40 (some 2)
        else if s.atThresh kCrest p then s.rowFails p c 0x40 (some 1)
        else (s.modCmd c.q c.t fun k => { k with retried := true }).rowAdded p c w o

/-! The commands. -/

/-- ROW_PASS: the crest's next row enters the array once its weight block is there (R51, R53); else nothing happens. -/
def execRowPass (p : Nat) (ev : PassEvent) (ecc : List Ecc) (s : State) : Host.Outcome State Fault Refusal :=
  let s := s.turn p
  match (s.crest p).work with
  | [] => .next s
  | w :: _ =>
    match s.cmd? w.q w.t with
    | none => .next s
    | some c =>
      if !s.streams p w then .next s
      else match (s.crest p).withBank w (c.blockOf w) with
        | none => .next s
        | some x => .next ((s.modCrest p fun _ => x).streamRow p c w ev ecc)

/-- WEIGHT_BANK_FILL: the feeder ends filling the inactive bank (R53). -/
def execWeightBankFill (p waited : Nat) (ecc : List Ecc) (s : State) : Host.Outcome State Fault Refusal :=
  .next ((s.turn p).fillBank p waited ecc)

/-- Do two held commands only accumulate with SHARED_ACC, so that rows of theirs may interleave anywhere (R71)? -/
def State.mayInterleave (s : State) (j k : Nat × Nat) : Bool :=
  match s.cmd? j.1 j.2, s.cmd? k.1 k.2 with
  | some c, some d => c.onlyAccumulates && d.onlyAccumulates
  | _, _ => false

/-- PREEMPT: at a boundary the crest turns to a candidate of a higher class (R136); between two commands of R71 it may
turn at any row. -/
def execPreempt (p : Nat) (s : State) : Host.Outcome State Fault Refusal :=
  let t := s.turn p
  match (s.crest p).work, (t.crest p).work with
  | w :: _, v :: _ =>
    if (w.q, w.t) = (v.q, v.t) then
      match (t.candidates p).find? (fun k => k != (w.q, w.t) && t.mayInterleave (w.q, w.t) k) with
      | some k => if (t.crest p).works && (t.crest p).inv.isNone then .next (t.turnTo p k) else .next t
      | none => .next t
    else .next t
  | _, _ => .next t

/-- The first command held for an accumulator conflict that no longer exists goes on; its wait, measured or not, is charged
as ACC_CONFLICT (R70). -/
def State.unblock (s : State) (p : Nat) (waited : Option Nat) : State :=
  match (s.crest p).stopped.find? (fun k => !s.blocked p k) with
  | none => s
  | some k =>
    let s := s.modCrest p fun x => { x with stopped := x.stopped.filter (· != k) }
    (match waited with
    | some n => s.measured k.1 k.2 p wAcc n
    | none => s.setHold k.1 k.2 p wAcc false).kick p

/-- SCOREBOARD_RELEASE (R70). -/
def execScoreboardRelease (p waited : Nat) (s : State) : Host.Outcome State Fault Refusal := .next (s.unblock p (some waited))

/-- A borrower's command leaves a lent crest: its tiles there become unstarted, and their lost work is wait (R137). -/
def State.leaveLent (s : State) (p : Nat) (k : Nat × Nat) : State :=
  let ws := (s.crest p).work.filter (fun w => w.q = k.1 && w.t = k.2)
  let lost := (ws.map (·.spent)).sum
  let l := s.logicalOf p
  let s := (s.endHolds k.1 k.2 (· = p)).modCmd k.1 k.2 fun c =>
    { c with redo := c.redo ++ ws.map (fun w : Work => w.tile), busy := c.busy - lost, crests := c.crests.filter (fun m => l ≠ some m) : Cmd }.charge wQueue lost
  let t0 := s.time
  (s.passOn k.1 k.2 p).modCrest p fun x => { x.drop k.1 k.2 with heldAt := some t0 }

/-- A lent crest returns: the borrower's commands leave it, and it is zeroised in 1,024 CCLK; the wait of the owner's
commands, measured or not, the zeroisation included, is charged as QUEUE (R137, R218). -/
def State.recall (s : State) (p : Nat) (waited : Option Nat) : State :=
  match (s.crest p).lentTo with
  | none => s
  | some b =>
    let mine := (s.crest p).held.filter (fun k => (s.cmd? k.1 k.2).any (fun c => c.part = b))
    let owners := s.ownersOn p b
    let s := mine.foldl (fun s k => s.leaveLent p k) s
    let s := s.modCrest p fun x => { x.zeroise with
      lentTo := none
      lastPart := match owners with | k :: _ => (s.cmd? k.1 k.2).map (·.part) | [] => none }
    let s := owners.foldl (fun s k => match waited with
      | some n => s.measured k.1 k.2 p wQueue (n + 1024)
      | none => (s.requeue p).modCmd k.1 k.2 fun c => c.charge wQueue 1024) s
    s.resetEnds.adoptAll.turn p

/-- May a lent crest return now: it is due, no invocation runs there, and the tile in hand is at a boundary (R137)? -/
def State.mayReturn (s : State) (p : Nat) : Bool :=
  s.recallDue p && (s.crest p).inv.isNone && (match (s.crest p).work with
    | w :: _ => (s.cmd? w.q w.t).any (fun c => c.atBoundary w)
    | [] => true)

/-- LENT_CREST_RECALL: at the borrower's next segment boundary a lent crest returns to an owner whose command waits for
it, or whose partition calls it back (R137, R212). -/
def execLentCrestRecall (p waited : Nat) (s : State) : Host.Outcome State Fault Refusal :=
  if s.mayReturn p then .next (s.recall p (some waited)) else .next s

end Sys2Proof.Machine
end

