-- ==== Sys2Proof/Machine/Vector.lean ====
section
/-!
DEFINITION. The vector engine: invocations (R73–R75, R95), the instructions of Table VEC-5 on 128 lanes, and the rows of
accumulator and store that they read and write (R76–R87).
-/
namespace Sys2Proof.Machine

/-! Invocations. -/

/-- The state of Table VEC-1 at the start of an invocation, with the context of Table VEC-2. -/
def Crest.invoke (x : Crest) (i : Inv) (pc : Nat) (ctx : List Word) : Crest :=
  { x with V := [], S := tsetFrom 0#32 [] 0 ctx, M := [], redWait := [], pc := pc, steps := 0, inv := some i }

/-- S4: where the tile's output begins; free where the command writes no output (Table VEC-2). -/
def Cmd.outBase (c : Cmd) (fr tile : Nat) : Word :=
  if c.dOut.format = 0 then Config.freeWord fr tile
  else BitVec.ofNat 32 (c.dOut.addr + c.m0 tile * c.dOut.pitch + c.n0 tile * elemBits c.dOut.format / 8)

/-- The context of a tile's invocation; a CHAIN's F program has its own S0 to S3 (Table VEC-2, R111). DEDUCED (log 133): S1 is
the slot of the tile, where a command uses several. -/
def Cmd.context (c : Cmd) (fr : Nat) (w : Work) (key : Option Nat) : List Word :=
  let n (v : Nat) : Word := BitVec.ofNat 32 v
  (match key with
  | some j => [n j, n c.ch.sSlot, 0#32, n (c.tileRows w.tile)]
  | none => [n w.tile, n (c.slotOf w.tile w.j), n c.row0, n (c.tileRows w.tile)])
  ++ [c.outBase fr w.tile, n c.dOut.pitch, n (c.n0 w.tile), c.param]

/-- Do the instructions of a bound handle keep the rules of R91? Debug writes alone can break them (R338). -/
def Crest.handleOk (x : Crest) (h : Handle) : Bool :=
  let ws := tgetFrom 0#64 x.prog h.off h.count
  ws.all (instrOk h.count h.slotMask) && (match ws.getLast? with | some w => closes w | none => false)

/-- Free bytes in a slice; no old copy of its lines comes back. -/
def State.freeSlice (s : State) (n : Nat) : State :=
  let lo := n * 2 ^ 24
  let hi := (n + 1) * 2 ^ 24
  let out (l : Nat) : Bool := decide (l < lo / 64) || decide (hi / 64 ≤ l)
  { s with
    store := tsetFrom 0#8 s.store lo ((List.range (2 ^ 24)).map (fun i => Config.freeByte s.freeCtr (lo + i)))
    cache := tclear s.cache (lo / 64) (hi / 64)
    pend := s.pend.filter (fun e => out e.line)
    evict := s.evict.filter (fun e => out e.line)
    abuf := s.abuf.filter (fun w => out (w.addr / 64)) }

/-- Free accumulators and registers in physical crest `p`, each word of its own; M0 stays all ones. -/
def Crest.freeWork (fr p : Nat) (x : Crest) : Crest :=
  let w (k : Nat) : Word := Config.freeWord fr (p * 2 ^ 20 + k)
  let m (k : Nat) : BitVec 128 := (List.range 4).foldl (fun a i =>
    a ||| BitVec.ofNat 128 ((w (2 ^ 19 + 4 * k + i)).toNat * 2 ^ (32 * i))) 0#128
  { x with
    acc := tsetFrom 0#32 [] 0 ((List.range (2 ^ 17)).map w)
    V := tsetFrom 0#32 [] 0 ((List.range 4096).map (fun k => w (2 ^ 17 + k)))
    S := tsetFrom 0#32 [] 0 ((List.range 16).map (fun k => w (2 ^ 18 + k)))
    M := tsetFrom 0#128 [] 1 ((List.range 7).map m) }

/-- Free program words in physical crest `p`. -/
def Crest.freeProg (fr p : Nat) (x : Crest) : Crest :=
  let w (k : Nat) : Nat := (Config.freeWord fr (p * 2 ^ 20 + 3 * 2 ^ 18 + k)).toNat
  { x with prog := tsetFrom 0#64 [] 0 ((List.range 1024).map (fun i => BitVec.ofNat 64 (w (2 * i) + w (2 * i + 1) * 2 ^ 32))) }

/-- What a partition has on a crest: the accumulators and registers of one that it holds, its own or lent to it, and the
programs of its own. -/
def State.freeCrest (s : State) (part p : Nat) : State :=
  let own := decide ((s.logicalOf p).bind s.crestOwner = some part)
  let holds := match (s.crest p).lentTo with | some b => decide (b = part) | none => own
  s.modCrest p fun x =>
    let x := if holds then x.freeWork s.freeCtr p else x
    if own then x.freeProg s.freeCtr p else x

/-- What is UNCONTAINED within a partition (R14): its slices, and the accumulators, registers and programs that are its own,
hold free values, each its own; what a crest lent to another holds stays as it is; each of its queues may hang; the command ends with a free status, or never. Nothing outside the
partition changes. DEDUCED (log 10). -/
def State.uncontained (s : State) (c : Cmd) : State :=
  let fr := s.freeCtr
  let x := s.part c.part
  let s := (maskList x.slices 96).foldl State.freeSlice s
  let s := (List.range 17).foldl (fun s p => s.freeCrest c.part p) s
  let s := (maskList x.queues 64).foldl (fun s q =>
    if Config.freeChoice fr q % 2 = 1 then s.modQueue q fun k => { k with hold := some (2 ^ 32) } else s) s
  let s := s.bump
  if Config.freeNat fr % 2 = 1 then s
  else (s.modCmd c.q c.t fun k => { k with
      busy := Config.freeChoice fr 64, sat := Config.freeChoice fr 65 % 2 ^ 16, van := Config.freeChoice fr 66 % 2 ^ 16 }).endCmd
    c.q c.t (Config.freeChoice fr 67 % 256) (Config.freeChoice fr 68 % 256)

/-- INVOCATION_START: the tile at hand is ready for its invocation, which starts in the state of Table VEC-1 (R75). With
a bound program that debug writes have put outside R91 it is UNCONTAINED (R338). -/
def execInvocationStart (p : Nat) (s : State) : Host.Outcome State Fault Refusal :=
  let s := (s.turn p).firstReady p
  let x := s.crest p
  match x.work with
  | [] => .next s
  | w :: _ =>
    match s.cmd? w.q w.t with
    | none => .next s
    | some c =>
      let h := tget {} x.handles c.handle
      if !(x.works && x.inv.isNone && s.runnable p (w.q, w.t) && decide (w.phase = 1 ∨ w.phase = 4) && h.bound) then .next s
      else if !x.handleOk h then .next (s.uncontained c)
      else
        let key := if w.phase = 1 then some w.kb else none
        let e := h.entries.getD (if w.phase = 1 then c.ch.fEntry else c.entry) 0
        let i : Inv := { q := w.q, t := w.t, tile := w.tile, handle := c.handle }
        .next ((s.bump.modCrest p fun x => x.invoke i (h.off + e) (c.context s.freeCtr w key)).busyOn p w.q w.t 4)

/-- The S registers that an instruction reads or writes (Tables VEC-3, VEC-5). -/
def vSregs (op : Nat) (i : VInst) : List Nat :=
  match usesOf op i.sub with
  | none => []
  | some u =>
    (if u.vd = .s then [i.vd] else []) ++ (if u.va = .s then [i.va] else []) ++ (if u.vb = .s then [i.vb] else [])
      ++ (if u.vc = .s then [i.vc] else [])

/-- CCLK until the S registers of an instruction have their results (R74). -/
def Crest.waitFor (x : Crest) (op : Nat) (i : VInst) : Nat :=
  (vSregs op i).foldl (fun n r => max n (tget 0 x.redWait r)) 0

/-- `n` CCLK pass for the results that are on their way. -/
def Crest.passCclk (x : Crest) (n : Nat) : Crest :=
  { x with redWait := (List.range 16).foldl (fun t r => tset 0 t r (tget 0 t r - n)) x.redWait }

/-- An instruction of a command is issued in `n` CCLK: PC is past it, one step is counted, and the CCLK are busy (R74, R75). -/
def State.issue (s : State) (p q t n : Nat) : State :=
  (s.modCrest p fun x => { x.passCclk n with pc := (x.pc + 1) % 1024, steps := x.steps + 1 }).busyOn p q t n

/-- An instruction's work: the state after it, or the abort that it meets. -/
abbrev VBody := State → Cmd → Fed State

/-- One instruction of the running invocation (R74): it must be the one at the PC, else nothing happens. Its
issue CCLK and its wait for an earlier result are busy. An invocation that would execute more than STEP_LIMIT instructions ends its command (R95). -/
def State.vstep (s : State) (p op : Nat) (i : VInst) (cost : Nat) (body : VBody) : Host.Outcome State Fault Refusal :=
  let x := s.crest p
  match x.inv with
  | none => .next s
  | some v =>
    let w := tget 0#64 x.prog x.pc
    match s.cmd? v.q v.t with
    | none => .next s
    | some c =>
      if !(x.works && decide (vOp w = op) && decide (vDec w = i)) then .next s
      else if x.steps ≥ (tget {} x.handles v.handle).limit then .next (s.abort v.q v.t sFault 0x44)
      else
        let s := s.issue p v.q v.t (x.waitFor op i + cost)
        match body s c with
        | .ok s => .next s
        | .error r => .next (s.abort v.q v.t r.1 r.2)

/-- An instruction that only changes the crest. -/
def onCrest (p : Nat) (f : Crest → Cmd → Crest) : VBody := fun s c => .ok (s.modCrest p fun x => f x c)

/-- The image base of the running invocation. -/
def Crest.base (x : Crest) : Nat := match x.inv with | some v => (tget {} x.handles v.handle).off | none => 0

/-! Lane operations. -/

/-- RM of an instruction that rounds by Table VEC-4, SR apart. -/
def rmOf (rm : Nat) : RM := match rm with | 1 => .rtz | 2 => .rup | 3 => .rdn | _ => .rne

/-- V[VD] := f(V[VA]) in the active lanes. -/
def lane1 (i : VInst) (x : Crest) (f : Word → Word) : Crest := x.setV i.vd (x.lanes i.mask) ((x.vreg i.va).map f)
/-- V[VD] := f(V[VA], V[VB]) in the active lanes. -/
def lane2 (i : VInst) (x : Crest) (f : Word → Word → Word) : Crest :=
  x.setV i.vd (x.lanes i.mask) (List.zipWith f (x.vreg i.va) (x.vreg i.vb))
/-- V[VD] := f(V[VA], V[VB], V[VC]) in the active lanes. -/
def lane3 (i : VInst) (x : Crest) (f : Word → Word → Word → Word) : Crest :=
  x.setV i.vd (x.lanes i.mask)
    (List.zipWith (fun g c => g c) (List.zipWith f (x.vreg i.va) (x.vreg i.vb)) (x.vreg i.vc))
/-- M[VD[2:0]] := the comparison in the active lanes, 0 in the others (R78). -/
def laneCmp (i : VInst) (x : Crest) (f : Word → Word → Bool) : Crest :=
  let a := x.vreg i.va
  let b := x.vreg i.vb
  x.setM (i.vd % 8) (BitVec.ofNat 128 (((List.range 128).map (fun k =>
    if x.lanes i.mask k && f (a.getD k 0#32) (b.getD k 0#32) then 2 ^ k else 0)).sum))

/-- The integer operations of SALU and IALU, codes 0 to 8, and IALU's MAX and MIN (Table VEC-5). -/
def intOp (sub : Nat) (a b : Word) : Word :=
  match sub with
  | 0 => a + b
  | 1 => a - b
  | 2 => a * b
  | 3 => a &&& b
  | 4 => a ||| b
  | 5 => a ^^^ b
  | 6 => a <<< (b.toNat % 32)
  | 7 => a >>> (b.toNat % 32)
  | 8 => a.sshiftRight (b.toNat % 32)
  | 9 => if a.toInt < b.toInt then b else a
  | _ => if b.toInt < a.toInt then b else a

/-- SALU's result (Table VEC-5). -/
def saluOp (i : VInst) (x : Crest) : Word :=
  match i.sub with
  | 9 => x.sreg i.va + BitVec.ofInt 32 (simmOf i)
  | 10 => BitVec.ofInt 32 (simmOf i)
  | 11 => BitVec.ofNat 32 (i.imm % 2 ^ 16 * 2 ^ 16 + (x.sreg i.vd).toNat % 2 ^ 16)
  | k => intOp k (x.sreg i.va) (x.sreg i.vb)

/-- BR's condition (Table VEC-5). -/
def brTaken (i : VInst) (x : Crest) : Bool :=
  let a := (x.sreg i.va).toInt
  match i.sub with
  | 0 => true
  | 1 => decide (a = 0)
  | 2 => decide (a ≠ 0)
  | 3 => decide (a < 0)
  | _ => decide (a ≥ 0)

/-- A taken branch: one further issue CCLK (Table VEC-5). -/
def State.jump (s : State) (p : Nat) (c : Cmd) (i : VInst) : State :=
  (s.modCrest p fun x => { x.passCclk 1 with pc := (x.base + i.imm % 2 ^ 10) % 1024 }).busyOn p c.q c.t 1

/-! Conversions (R83–R86). -/

/-- The rounding of each lane of an instruction; SR uses the generators after one more step of each (R85). -/
def Cmd.vRounding (c : Cmd) (x : Crest) (rm : Nat) : List RM :=
  if rm = 4 then (match x.work with
    | w :: _ => c.srLanes w.tile (w.gen + 1)
    | [] => List.replicate 128 .rne)
  else List.replicate 128 (rmOf rm)

/-- The generators have taken their step for an SR instruction (R85). -/
def Crest.vGen (x : Crest) (rm : Nat) : Crest := if rm = 4 then x.modWork fun w => { w with gen := w.gen + 1 } else x

/-- A converted element held as FP32 or INT32 (CVT, Table VEC-5). -/
def heldWord (code bits : Nat) : Word :=
  if code = 0x09 ∨ code = 0x0A ∨ code = 0x13 then BitVec.ofInt 32 (sext (elemBits code) bits)
  else laneWord (decodeElem code bits 0)

/-- A lane as a number: FP32, or INT32 taken exactly (R83). -/
def laneFp (int : Bool) (a : Word) : Fp :=
  if int then
    let v := a.toInt
    if v = 0 then .zero false else .fin (decide (v < 0)) v.natAbs 0
  else fp32 a

/-- An element widened by LDS: INT8 and INT32 to INT32, the others exactly to FP32 (R77). -/
def ldsWord (code bits : Nat) : Word :=
  if code = 0x09 then BitVec.ofInt 32 (sext 8 bits)
  else if code = 0x12 ∨ code = 0x13 then BitVec.ofNat 32 bits
  else laneWord (decodeElem code bits 0)

/-- One element of a scalar format as STC writes it: raw copies of R83, else converted. -/
def stcOne (code : Nat) (int : Bool) (rm : RM) (sat : Bool) (a : Word) : Conv :=
  if (code = 0x12 ∧ int = false) ∨ (code = 0x13 ∧ int = true) then ⟨a.toNat, false, false⟩
  else convScalar code rm sat (laneFp int a)

/-- Bits of elements packed little-endian into bytes: element `e` takes bits [w × e + w − 1 : w × e] (Table NUM-4). -/
def packElems (w : Nat) (es : List Nat) : List Byte :=
  toBytes ((List.range es.length).map (fun e => es.getD e 0 % 2 ^ w * 2 ^ (w * e))).sum (ceilDiv (es.length * w) 8)

/-- Bytes at an address of a partition, with their global addresses. -/
def State.placed (s : State) (part a : Nat) (bs : List Byte) : List (Nat × Byte) :=
  (s.gaddrs part a bs.length).zip bs

/-- What an STC writes and counts: bytes at their addresses, SAT and VANISHED. -/
structure Stored where
  bytes : List (Nat × Byte)
  sat : Nat := 0
  van : Nat := 0

/-- The bytes of the masked elements of a scalar format; a half byte keeps its other half (R78). -/
def State.laneBytes (s : State) (o : Obs) (part a code : Nat) (m : LaneMask) (es : List Nat) : List (Nat × Byte) :=
  let w := elemBits code
  let new := packElems w es
  let at' := s.placed part a new
  if w = 4 then
    let old := s.readAt o part a new.length
    ((List.range new.length).filter (fun j => m (2 * j) || m (2 * j + 1))).map (fun j =>
      let n := (new.getD j 0#8).toNat
      let d := (old.getD j 0#8).toNat
      ((at'.getD j (0, 0#8)).1,
        BitVec.ofNat 8 ((if m (2 * j) then n % 16 else d % 16) + 16 * (if m (2 * j + 1) then n / 16 else d / 16))))
  else ((List.range new.length).filter (fun j => m (8 * j / w))).map (fun j => at'.getD j (0, 0#8))

/-- One row of 128 lanes stored in a format: scalar formats in the masked lanes, block formats whole (R78, R83). A TL4
store under a coarse scale that R33 would refuse writes free bytes. DESIGN CHOICE (log 132): where the ranges of one store
overlap, the scale bytes and the lo bytes stay. -/
def State.storeRow (s : State) (o : Obs) (c : Cmd) (code : Nat) (int : Bool) (rms : List RM) (m : LaneMask)
    (a sa : Nat) (vs : List Word) : Stored :=
  if isBlock code then
    let n := blockSize code
    let bs := (chunks n 129 vs).zip (chunks n 129 rms)
    let cs := bs.map (fun b => convBlock code c.dOut.coarse b.2 c.satMode (b.1.map (laneFp int)))
    let el := s.placed c.part a (packElems (elemBits code) (cs.flatMap (·.elems)))
    let sc := s.placed c.part sa (cs.map (fun b => BitVec.ofNat 8 b.scale))
    if code = 0x0B ∧ coarseOk c.dOut.coarse = false then
      { bytes := (el ++ sc).map (fun e => (e.1, Config.freeByte s.freeCtr e.1)) }
    else { bytes := el ++ sc, sat := (cs.map (·.sat)).sum, van := (cs.map (·.van)).sum }
  else
    let cs := (List.range 128).map (fun i => stcOne code int (rms.getD i .rne) c.satMode (vs.getD i 0#32))
    let act := ((List.range 128).filter (fun i => m i)).map (fun i => cs.getD i ⟨0, false, false⟩)
    { bytes := s.laneBytes o c.part a code m (cs.map (·.bits)), sat := satCountOf act, van := vanCountOf act }

/-- S register plus immediate as an address of 32 bits. -/
def sAddr (a : Word) (k : Int) : Nat := (a + BitVec.ofInt 32 k).toNat

/-- Issue CCLK of writing `n` bytes (R367). -/
def writeCost (n : Nat) : Nat := ceilDiv n 128

/-! The commands, in the table's order. -/

/-- NOP. -/
def execVNop (p : Nat) (i : VInst) (s : State) : Host.Outcome State Fault Refusal :=
  s.vstep p 0x00 i 1 fun s _ => .ok s

/-- The invocation of a tile ends: F of a CHAIN is there (R111), or the tile's SEND stages or its end follow (R108). -/
def State.invocationEnd (s : State) (p : Nat) (c : Cmd) : State :=
  let s := s.modCrest p fun x => { x with
    inv := none, ready := match x.inv with | some i => x.ready.erase (i.q, i.t, i.tile) | none => x.ready }
  match (s.crest p).work with
  | [] => s.kick p
  | w :: _ =>
    if w.phase = 1 then s.chainSecond p c w
    else if c.fu.stages.isEmpty then s.tileDone p
    else s.modCrest p fun x => x.modWork fun w => { w with phase := 3 }

/-- Does the running invocation form F of a CHAIN (R111)? -/
def Crest.formsF (x : Crest) : Bool := match x.work with | w :: _ => decide (w.phase = 1) | [] => false

/-- END: the invocation ends (R75); the accumulator rows that a CHAIN then reads may meet a parity mismatch (R61). -/
def execVEnd (p : Nat) (e : Checked VInst) (s : State) : Host.Outcome State Fault Refusal :=
  s.vstep p 0x01 e.it 1 fun s c =>
    if e.parityBad && (s.crest p).formsF then .ok (s.parityFails p c) else .ok (s.invocationEnd p c)

/-- BR. -/
def execVBr (p : Nat) (i : VInst) (s : State) : Host.Outcome State Fault Refusal :=
  s.vstep p 0x02 i 1 fun s c => .ok (if brTaken i (s.crest p) then s.jump p c i else s)

/-- LOOP: S[VD] counts down; the branch is taken until it reaches 0. -/
def execVLoop (p : Nat) (i : VInst) (s : State) : Host.Outcome State Fault Refusal :=
  s.vstep p 0x03 i 1 fun s c =>
    let n := (s.crest p).sreg i.vd - 1#32
    let s := s.modCrest p fun x => x.setS i.vd n
    .ok (if n ≠ 0#32 then s.jump p c i else s)

/-- SALU. -/
def execVSalu (p : Nat) (i : VInst) (s : State) : Host.Outcome State Fault Refusal :=
  s.vstep p 0x08 i 1 (onCrest p fun x _ => x.setS i.vd (saluOp i x))

/-- VGET: S[VD] := lane IMM[6:0] of V[VA]. -/
def execVVget (p : Nat) (i : VInst) (s : State) : Host.Outcome State Fault Refusal :=
  s.vstep p 0x09 i 1 (onCrest p fun x _ => x.setS i.vd ((x.vreg i.va).getD (i.imm % 128) 0#32))

/-- BCAST: active lanes := S[VA]. -/
def execVBcast (p : Nat) (i : VInst) (s : State) : Host.Outcome State Fault Refusal :=
  s.vstep p 0x0A i 1 (onCrest p fun x _ => x.setV i.vd (x.lanes i.mask) (List.replicate 128 (x.sreg i.va)))

/-- LANEID: active lane i := i. -/
def execVLaneid (p : Nat) (i : VInst) (s : State) : Host.Outcome State Fault Refusal :=
  s.vstep p 0x0B i 1 (onCrest p fun x _ => x.setV i.vd (x.lanes i.mask) ((List.range 128).map (BitVec.ofNat 32)))

/-- FADD (R79). -/
def execVFadd (p : Nat) (i : VInst) (s : State) : Host.Outcome State Fault Refusal :=
  s.vstep p 0x10 i 1 (onCrest p fun x c => lane2 i x (fadd c.strict (rmOf i.rm)))

/-- FSUB (R79). -/
def execVFsub (p : Nat) (i : VInst) (s : State) : Host.Outcome State Fault Refusal :=
  s.vstep p 0x11 i 1 (onCrest p fun x c => lane2 i x (fsub c.strict (rmOf i.rm)))

/-- FMUL (R79). -/
def execVFmul (p : Nat) (i : VInst) (s : State) : Host.Outcome State Fault Refusal :=
  s.vstep p 0x12 i 1 (onCrest p fun x _ => lane2 i x (fmul (rmOf i.rm)))

/-- FMA: one rounding (R79). -/
def execVFma (p : Nat) (i : VInst) (s : State) : Host.Outcome State Fault Refusal :=
  s.vstep p 0x13 i 1 (onCrest p fun x c => lane3 i x (ffma c.strict (rmOf i.rm)))

/-- FMAX (R46). -/
def execVFmax (p : Nat) (i : VInst) (s : State) : Host.Outcome State Fault Refusal :=
  s.vstep p 0x14 i 1 (onCrest p fun x _ => lane2 i x fmax)

/-- FMIN (R46). -/
def execVFmin (p : Nat) (i : VInst) (s : State) : Host.Outcome State Fault Refusal :=
  s.vstep p 0x15 i 1 (onCrest p fun x _ => lane2 i x fmin)

/-- FUN: ABS, NEG, MOV. -/
def execVFun (p : Nat) (i : VInst) (s : State) : Host.Outcome State Fault Refusal :=
  s.vstep p 0x16 i 1 (onCrest p fun x _ => lane1 i x fun a =>
    match i.sub with | 0 => fabs a | 1 => fnegN a | _ => a)

/-- FCMP: EQ, LT, LE, UNORD. -/
def execVFcmp (p : Nat) (i : VInst) (s : State) : Host.Outcome State Fault Refusal :=
  s.vstep p 0x17 i 1 (onCrest p fun x _ => laneCmp i x fun a b =>
    match i.sub with | 0 => feq a b | 1 => flt a b | 2 => fle a b | _ => funord a b)

/-- IALU. -/
def execVIalu (p : Nat) (i : VInst) (s : State) : Host.Outcome State Fault Refusal :=
  s.vstep p 0x20 i 1 (onCrest p fun x _ => lane2 i x (intOp i.sub))

/-- ICMP: EQ, LT, LE, signed. -/
def execVIcmp (p : Nat) (i : VInst) (s : State) : Host.Outcome State Fault Refusal :=
  s.vstep p 0x21 i 1 (onCrest p fun x _ => laneCmp i x fun a b =>
    match i.sub with
    | 0 => decide (a = b)
    | 1 => decide (a.toInt < b.toInt)
    | _ => decide (a.toInt ≤ b.toInt))

/-- SEL: the mask selects, all lanes are written (R78). -/
def execVSel (p : Nat) (i : VInst) (s : State) : Host.Outcome State Fault Refusal :=
  s.vstep p 0x22 i 1 (onCrest p fun x _ =>
    let a := x.vreg i.va
    let b := x.vreg i.vb
    x.setV i.vd allLanes ((List.range 128).map (fun k =>
      if x.lanes i.mask k then a.getD k 0#32 else b.getD k 0#32)))

/-- CVT: active lanes converted and held as FP32 or INT32; the active lanes count (R83). -/
def execVCvt (p : Nat) (i : VInst) (s : State) : Host.Outcome State Fault Refusal :=
  s.vstep p 0x28 i 1 fun s c =>
    let x := s.crest p
    let rms := c.vRounding x i.rm
    let a := x.vreg i.va
    let cs := (List.range 128).map (fun k => convScalar i.sub (rms.getD k .rne) c.satMode (fp32 (a.getD k 0#32)))
    let act := ((List.range 128).filter (x.lanes i.mask)).map (fun k => cs.getD k ⟨0, false, false⟩)
    let s := s.modCrest p fun x => (x.vGen i.rm).setV i.vd (x.lanes i.mask) (cs.map (fun k => heldWord i.sub k.bits))
    .ok (s.modCmd c.q c.t fun k => k.count (satCountOf act) (vanCountOf act))

/-- CVTF: INT32 lanes to FP32. -/
def execVCvtf (p : Nat) (i : VInst) (s : State) : Host.Outcome State Fault Refusal :=
  s.vstep p 0x29 i 1 (onCrest p fun x _ => lane1 i x (cvtf (rmOf i.rm)))

/-- The accumulator row that LDA or STA names: S[VA] + IMM, signed (R81). -/
def vRow (i : VInst) (x : Crest) : Int := (x.sreg i.va + BitVec.ofInt 32 (simmOf i)).toInt
/-- Is it a row (R81)? -/
def vRowOk (i : VInst) (x : Crest) : Bool := decide (0 ≤ vRow i x ∧ vRow i x ≤ 127)

/-- LDA: an accumulator row into the active lanes; a parity mismatch ends the command (R61, R81). -/
def execVLda (p : Nat) (i : VInst) (parityBad : Bool) (s : State) : Host.Outcome State Fault Refusal :=
  s.vstep p 0x30 i 1 fun s c =>
    let x := s.crest p
    if !vRowOk i x then .error (sFault, 0x42)
    else if parityBad then .ok (s.parityFails p c)
    else .ok (s.modCrest p fun x => x.setV i.vd (x.lanes i.mask) (accRow x.acc (i.sub % 8) (vRow i x).toNat))

/-- STA: the active lanes into an accumulator row (R81); what it writes stays, however the command ends (R82). -/
def execVSta (p : Nat) (i : VInst) (s : State) : Host.Outcome State Fault Refusal :=
  s.vstep p 0x31 i 1 fun s c =>
    if !vRowOk i (s.crest p) then .error (sFault, 0x42)
    else .ok (s.modCrest p fun x =>
      { x with
        acc := putAccRow x.acc (i.sub % 8) (vRow i x).toNat (x.lanes i.mask) (x.vreg i.vb)
        sta := x.sta ++ [((c.q, c.t), i.sub % 8 * 128 + (vRow i x).toNat, x.mreg i.mask)] })

/-- What holds the store access of the instruction at the PC, if it is this one and its ranges of bytes lie within the
partition's slices (R170, R181, R184, R272). -/
def State.vHeld (s : State) (p op : Nat) (i : VInst) (wr : Bool) (rs : Crest → List (Nat × Nat)) :
    Option ((Nat × Nat) × WaitFor) :=
  let x := s.crest p
  match x.inv with
  | none => none
  | some v =>
    match s.cmd? v.q v.t with
    | none => none
    | some c =>
      let w := tget 0#64 x.prog x.pc
      if x.works && decide (vOp w = op) && decide (vDec w = i)
        && decide (x.steps < (tget {} x.handles v.handle).limit) then
        if (rs x).all (fun r => decide (r.2 = 0) || s.mayReach c r.1 r.2) then
          (s.heldBy wr ((rs x).flatMap (fun r => s.gaddrs c.part r.1 r.2))).map (fun h => ((v.q, v.t), h))
        else none
      else none

/-- An instruction that reaches the store waits while its access is held, else it is carried out. -/
def State.vaccess (s : State) (p op : Nat) (i : VInst) (wr : Bool) (rs : Crest → List (Nat × Nat))
    (o : Host.Outcome State Fault Refusal) : Host.Outcome State Fault Refusal :=
  match s.vHeld p op i wr rs with
  | some h => .next (s.stall h.1.1 h.1.2 h.2)
  | none => o

/-- Where LDS reads: bits 5:0 of its address taken as 0 (R82). -/
def ldsAddr (i : VInst) (x : Crest) : Nat := sAddr (x.sreg i.va) (simmOf i) / 64 * 64

/-- LDS: 128 elements from the store, widened; bounds and poison of R82. -/
def execVLds (p : Nat) (i : VInst) (ecc : List Ecc) (s : State) : Host.Outcome State Fault Refusal :=
  s.vaccess p 0x32 i false (fun x => [(ldsAddr i x, 128 * (elemBits i.sub / 8))]) <|
  s.vstep p 0x32 i 1 fun s c =>
    let a := ldsAddr i (s.crest p)
    let w := elemBits i.sub / 8
    if !s.mayReach c a (128 * w) then .error (sFault, 0x43)
    else
      let gs := s.gaddrs c.part a (128 * w)
      let s := s.crestReads c.q c.t gs ecc
      match s.accessFault gs with
      | some r => .ok (s.abort c.q c.t r.1 r.2)
      | none =>
        let b := s.readAt (.crest c.q c.t p) c.part a (128 * w)
        let vs := (List.range 128).map (fun k => ldsWord i.sub (fld b (w * k) w))
        .ok (s.modCrest p fun x => x.setV i.vd (x.lanes i.mask) vs)

/-- Bytes of the element array of 128 lanes in a format. -/
def rowArray (code : Nat) : Nat := 128 * elemBits code / 8
/-- Bytes of the scale array of 128 lanes in a format. -/
def rowScales (code : Nat) : Nat := if isBlock code then 128 / blockSize code else 0

/-- Where STC and STP write their elements: bits 5:0 taken as 0 (R82). -/
def stcAddr (i : VInst) (x : Crest) : Nat := sAddr (x.sreg i.vb) (simmOf i) / 64 * 64
/-- Where STC writes its scales: bits 1:0 taken as 0 for an MX format, bits 2:0 for TL4 (R82). -/
def stcScales (i : VInst) (x : Crest) : Nat :=
  let al := if i.sub = 0x0B then 8 else 4
  (x.sreg i.vc).toNat / al * al
/-- Where STP writes its lo elements (R82). -/
def stpLo (i : VInst) (x : Crest) : Nat := (x.sreg i.vc).toNat / 64 * 64

/-- STC: V[VA] converted and written, both ranges checked first (R82, R83). -/
def execVStc (p : Nat) (i : VInst) (s : State) : Host.Outcome State Fault Refusal :=
  s.vaccess p 0x33 i true (fun x => [(stcAddr i x, rowArray i.sub), (stcScales i x, rowScales i.sub)]) <|
  s.vstep p 0x33 i (writeCost (rowArray i.sub) + writeCost (rowScales i.sub)) fun s c =>
    let x := s.crest p
    let n := rowArray i.sub
    let k := rowScales i.sub
    let a := stcAddr i x
    let sa := stcScales i x
    let rms := c.vRounding x i.rm
    let s := s.modCrest p fun x => x.vGen i.rm
    if !(s.mayReach c a n && (decide (k = 0) || s.mayReach c sa k)) then .error (sFault, 0x43)
    else
      let o : Obs := .crest c.q c.t p
      let r := s.storeRow o c i.sub (decide (i.vd % 2 = 1)) rms (x.lanes i.mask) a sa (x.vreg i.va)
      match s.writeFault (r.bytes.map (·.1)) with
      | some e => .error e
      | none => .ok ((s.bump.write o r.bytes).modCmd c.q c.t fun k => k.count r.sat r.van)

/-- STP: the BF16 result pair of the active lanes, hi and lo at their addresses (R50, R82). -/
def execVStp (p : Nat) (i : VInst) (s : State) : Host.Outcome State Fault Refusal :=
  s.vaccess p 0x34 i true (fun x => [(stcAddr i x, 256), (stpLo i x, 256)]) <|
  s.vstep p 0x34 i 2 fun s c =>
    let x := s.crest p
    let a := stcAddr i x
    let b := stpLo i x
    if !(s.mayReach c a 256 && s.mayReach c b 256) then .error (sFault, 0x43)
    else
      let o : Obs := .crest c.q c.t p
      let rs := (x.vreg i.va).map (fun v => bf16Pair (rmOf i.rm) c.satMode (fp32 v))
      let m := x.lanes i.mask
      let act := ((List.range 128).filter m).map (fun k => rs.getD k (0, 0, false, false))
      let bs := s.laneBytes o c.part a 0x10 m (rs.map (·.1)) ++ s.laneBytes o c.part b 0x10 m (rs.map (·.2.1))
      match s.writeFault (bs.map (·.1)) with
      | some e => .error e
      | none => .ok ((s.write o bs).modCmd c.q c.t fun k =>
          k.count (act.filter (·.2.2.1)).length (act.filter (·.2.2.2)).length)

/-- RED's operation and identity (R80). -/
def redOf (strict : Bool) (sub rm : Nat) : (Word → Word → Word) × Word :=
  match sub with
  | 0 => (fadd strict (rmOf rm), sumIdent strict)
  | 1 => (fmax, nan32)
  | 2 => (fmin, nan32)
  | _ => ((· + ·), 0#32)

/-- RED: the tree of R80 over the active lanes; its result comes 8 CCLK after its issue (Table VEC-5, R74). -/
def execVRed (p : Nat) (i : VInst) (s : State) : Host.Outcome State Fault Refusal :=
  s.vstep p 0x38 i 1 (onCrest p fun x c =>
    let r := redOf c.strict i.sub i.rm
    { x with redWait := tset 0 x.redWait i.vd 7 }.setS i.vd (redLanes r.1 r.2 (x.lanes i.mask) (x.vreg i.va)))

/-- FN: the approximate functions of R87. -/
def execVFn (p : Nat) (i : VInst) (s : State) : Host.Outcome State Fault Refusal :=
  s.vstep p 0x40 i 4 (onCrest p fun x _ => lane1 i x (fnEval i.sub))

end Sys2Proof.Machine
end

