-- ==== Sys2Proof/Machine/Epilogue.lean ====
section
/-!
DEFINITION. The epilogue of a tile: its stage list (R105–R107, R367), the conversion and writing of the tile (R32, R106),
and the early sends (R108, R113).
-/
namespace Sys2Proof.Machine

/-- A row of a tile between two stages: the values of its columns below N, their format, and whether a CONVERT has run
(R105, R106). -/
structure Held where
  vals : List Word
  fmt : Nat := 0x12
  conv : Bool := false
  int : Bool := false        -- the values are INT32, no stage having run
  bits : List Nat := []      -- after a CONVERT: the elements' bits, whole blocks
  scales : List Nat := []
  lo : List Nat := []        -- the lo elements of 0x22

/-- An epilogue under way: the state, which carries its issue CCLK so far, the generators' steps, the quantities of the
ROWS reductions by stage, and the rows that the SEND stages have taken. -/
structure Epi where
  s : State
  gen : Nat
  red : Tbl (List (Word × Word)) := []
  out : Tbl (List Byte) := []

/-- What a step of an epilogue answers: a result, or the state reached and the abort that it meets; writes made earlier
stay (R367). -/
abbrev EpiM (α : Type) := Except (State × (Nat × Nat)) α

/-- A row in the form of a format: element bits, scales, lo bits, the decoded values, and the counts. -/
structure Coded where
  bits : List Nat
  scales : List Nat := []
  lo : List Nat := []
  vals : List Word
  sat : Nat := 0
  van : Nat := 0

/-- A row of values converted to an output format (R38–R45, R50): whole blocks for a block format (R32). -/
def codeRow (code : Nat) (coarse : Word) (sat : Bool) (rms : List RM) (vs : List Fp) : Coded :=
  if isBlock code then
    let n := blockSize code
    let padded := vs ++ List.replicate (ceilDiv vs.length n * n - vs.length) (.zero false)
    let cs := ((chunks n 129 padded).zip (chunks n 129 rms)).map (fun b => convBlock code coarse b.2 sat b.1)
    { bits := cs.flatMap (·.elems), scales := cs.map (·.scale), sat := (cs.map (·.sat)).sum, van := (cs.map (·.van)).sum
      vals := (cs.flatMap (fun b => b.elems.map (fun e => laneWord (decodeElem code e b.scale)))).take vs.length
        |>.map (fun v => if code = 0x0B then fmul .rne v coarse else v) }
  else if code = 0x22 then
    let cs := (List.range vs.length).map (fun i => bf16Pair (rms.getD i .rne) sat (vs.getD i (.zero false)))
    { bits := cs.map (·.1), lo := cs.map (·.2.1), sat := (cs.filter (·.2.2.1)).length, van := (cs.filter (·.2.2.2)).length
      vals := cs.map (fun k => fadd false .rne (laneWord (decodeElem 0x10 k.1 0)) (laneWord (decodeElem 0x10 k.2.1 0))) }
  else
    let cs := (List.range vs.length).map (fun i => convScalar code (rms.getD i .rne) sat (vs.getD i (.zero false)))
    { bits := cs.map (·.bits), sat := satCountOf cs, van := vanCountOf cs
      vals := cs.map (fun k => laneWord (decodeElem code k.bits 0)) }

/-- Bits of values that a scalar format holds exactly. -/
def exactBits (code : Nat) (vs : List Word) : List Nat :=
  if code = 0x12 then vs.map (·.toNat) else vs.map (fun v => (convScalar code .rne false (fp32 v)).bits)

/-- The crest as an observer for a command. -/
def obsOf (c : Cmd) (p : Nat) : Obs := .crest c.q c.t p

/-- A store read of a stage: bounds of R367, then poison. -/
def State.stageRead (s : State) (c : Cmd) (p a n : Nat) : Fed (List Byte) :=
  if !s.mayReach c a n then .error (sFault, 0x43)
  else match s.accessFault (s.gaddrs c.part a n) with
    | some r => .error r
    | none => .ok (s.readAt (obsOf c p) c.part a n)

/-- A store write of a stage: bounds of R367, then a slice retired meanwhile (R274). -/
def State.stageWrite (s : State) (c : Cmd) (p a : Nat) (bs : List Byte) : Fed State :=
  if !s.mayReach c a bs.length then .error (sFault, 0x43)
  else match s.writeFault (s.gaddrs c.part a bs.length) with
    | some r => .error r
    | none => .ok (s.writeAt (obsOf c p) c.part a bs)

/-- The quantities of REDUCE (R107): operation, identity and what is taken of an element. -/
def reduceParts (strict : Bool) (sub : Nat) : List ((Word → Word → Word) × Word × (Word → Word)) :=
  let sum := (fadd strict .rne, sumIdent strict)
  match sub with
  | 0 => [(sum.1, sum.2, id)]
  | 1 => [(fmax, nan32, id)]
  | 2 => [(sum.1, sum.2, fun x => fmul .rne x x)]
  | _ => [(sum.1, sum.2, id), (sum.1, sum.2, fun x => fmul .rne x x)]

/-- The addend or factor of SCALE and BIAS for each column (Table FUSE-5). -/
def State.stageVector (s : State) (c : Cmd) (p : Nat) (g : Stage) (m n0 n : Nat) : Fed (List Word) :=
  match g.sub with
  | 0 => .ok (List.replicate n g.argA)
  | 1 => (s.stageRead c p (g.addr + 4 * n0) (4 * n)).map (fun b =>
      (List.range n).map (fun i => BitVec.ofNat 32 (fld b (4 * i) 4)))
  | _ => (s.stageRead c p (g.addr + 4 * m) 4).map (fun b => List.replicate n (BitVec.ofNat 32 (fld b 0 4)))

/-- RESID's row, widened to FP32 (Table FUSE-5). -/
def State.residRow (s : State) (c : Cmd) (p : Nat) (g : Stage) (m n0 n : Nat) : Fed (List Word) :=
  let w := elemBits g.arg8 / 8
  (s.stageRead c p (g.addr + m * g.argA.toNat + n0 * w) (n * w)).map (fun b =>
    (List.range n).map (fun i =>
      if g.arg8 = 0x12 then BitVec.ofNat 32 (fld b (4 * i) 4) else laneWord (decodeElem g.arg8 (fld b (w * i) w) 0)))

/-- The operation of a stage that changes the values (Table FUSE-5). -/
def State.stageValues (s : State) (c : Cmd) (p : Nat) (g : Stage) (m n0 : Nat) (vs : List Word) : Fed (List Word) :=
  match g.kind with
  | 1 => (s.stageVector c p g m n0 vs.length).map (fun f => List.zipWith (fmul .rne) vs f)
  | 2 => (s.stageVector c p g m n0 vs.length).map (fun f => List.zipWith (fadd c.strict .rne) vs f)
  | 3 => .ok (vs.map (actEval c.strict g.arg8))
  | 4 =>
    match s.statsFault c g.addr g.arg8 m with
    | some r => .error r
    | none =>
      let st := s.statsOf (obsOf c p) c.part g.addr g.arg8 m
      .ok (vs.map (normWord c.strict (decide (g.sub = 1)) g.argA g.argB st))
  | 5 => (s.residRow c p g m n0 vs.length).map (fun f => List.zipWith (fadd c.strict .rne) vs f)
  | _ => .ok vs

/-- Issue CCLK per row of a stage, that of its STORE_FMT included (Table FUSE-5, R367). -/
def Stage.cost (g : Stage) (first : Bool) : Nat :=
  (match g.kind with
  | 1 | 2 => 1
  | 3 => actCost g.arg8
  | 4 => (if g.sub = 0 then 2 else 1) + (if first then 2 * g.arg8 + 8 else 0)
  | 5 => 2
  | 6 => if g.sub = 3 then 2 else 1
  | 7 => if g.arg8 = 0x22 then 2 else 1
  | _ => 0) + (if fp32Code g.storeFmt = 0x12 then 0 else 1)

/-- The addresses that a stage reads for row `m`. -/
def State.stageAddrs (s : State) (c : Cmd) (g : Stage) (m n0 n : Nat) : List Nat :=
  let at' (a k : Nat) : List Nat := if s.mayReach c a k then s.gaddrs c.part a k else []
  match g.kind with
  | 1 | 2 => if g.sub = 1 then at' (g.addr + 4 * n0) (4 * n) else if g.sub = 2 then at' (g.addr + 4 * m) 4 else []
  | 4 => at' (g.addr + m * g.arg8 * 8) (g.arg8 * 8)
  | 5 =>
    let w := elemBits g.arg8 / 8
    at' (g.addr + m * g.argA.toNat + n0 * w) (n * w)
  | _ => []

/-- A row of 128 elements as SEND carries it: the held elements, +0 beyond N (R113). -/
def Held.sendBytes (h : Held) : List Byte :=
  let es := if h.conv then h.bits else exactBits h.fmt h.vals
  packElems (elemBits h.fmt) (es ++ List.replicate (128 - es.length) 0)

/-- One stage on one row (R105–R107). -/
def Epi.stage (e : Epi) (p : Nat) (c : Cmd) (w : Work) (k : Nat) (g : Stage) (row : Nat) (h : Held) : EpiM (Epi × Held) :=
  let m := c.m0 w.tile + row
  let n0 := c.n0 w.tile
  let n := h.vals.length
  let h := if h.int then { h with int := false, vals := h.vals.map (cvtf .rne) } else h
  let e := { e with s := (e.s.touch (e.s.stageAddrs c g m n0 n)).busyOn p c.q c.t (g.cost (decide (row = 0))) }
  match e.s.stageValues c p g m n0 h.vals with
  | .error r => .error (e.s, r)
  | .ok vs =>
    -- REDUCE
    let red : EpiM Epi :=
      if g.kind = 6 then
        let parts := reduceParts c.strict g.sub
        let wd := 4 * parts.length
        if g.arg8 = 0 then
          let q := parts.map (fun f => redLanes f.1 f.2.1 (lanesBelow n) (vs.map f.2.2))
          match e.s.stageWrite c p (g.addr + (m * c.nTiles + w.tile % c.nTiles) * wd) (wordBytes (q.map (·.toNat))) with
          | .error r => .error (e.s, r)
          | .ok s => .ok { e with s := s }
        else
          let old := tget [] e.red k
          let idq := parts.map (·.2.1)
          let acc := (List.range n).map (fun i =>
            let o := old.getD i (idq.getD 0 0#32, idq.getD 1 0#32)
            let f (j : Nat) (a : Word) : Word := match parts[j]? with
              | some q => q.1 a (q.2.2 (vs.getD i 0#32))
              | none => a
            (f 0 o.1, f 1 o.2))
          .ok { e with red := tset [] e.red k acc }
      else .ok e
    match red with
    | .error r => .error r
    | .ok e =>
      if g.kind = 7 then
        let r := codeRow g.arg8 c.dOut.coarse c.satMode (c.convLanes w.tile e.gen) (vs.map fp32)
        .ok ({ e with gen := c.genAfter e.gen, s := e.s.modCmd c.q c.t fun x => x.count r.sat r.van },
          { vals := r.vals, fmt := g.arg8, conv := true, bits := r.bits, scales := r.scales, lo := r.lo })
      else if h.conv then
        let e := if g.kind = 8 then { e with out := tset [] e.out k (tget [] e.out k ++ h.sendBytes) } else e
        .ok (e, h)
      else
        let f := fp32Code g.storeFmt
        let r := codeRow f c.dOut.coarse c.satMode (c.convLanes w.tile e.gen) (vs.map fp32)
        let e := if f = 0x12 then e
          else { e with gen := c.genAfter e.gen, s := e.s.modCmd c.q c.t fun x => x.count r.sat r.van }
        let h := { h with vals := if f = 0x12 then vs else r.vals, fmt := f }
        let e := if g.kind = 8 then { e with out := tset [] e.out k (tget [] e.out k ++ h.sendBytes) } else e
        .ok (e, h)

/-- The stages of a list on one row, from the k-th on. -/
def Epi.stages (e : Epi) (p : Nat) (c : Cmd) (w : Work) (row : Nat) : Nat → List Stage → Held → EpiM (Epi × Held)
  | _, [], h => .ok (e, h)
  | k, g :: gs, h =>
    match e.stage p c w k g row h with
    | .error r => .error r
    | .ok r => Epi.stages r.1 p c w row (k + 1) gs r.2

/-- The row as the output format takes it: held bits unchanged, or the final conversion (R106). DEDUCED (log 113): values
held as INT8, INT4 or INT32 after a CONVERT are converted like any others. -/
def Epi.outRow (e : Epi) (c : Cmd) (w : Work) (h : Held) : Epi × Coded :=
  let f := c.dOut.format
  if f = h.fmt ∧ h.int = false then
    (e, { bits := if h.conv then h.bits else exactBits f h.vals, scales := h.scales, lo := h.lo, vals := h.vals })
  else if f = 0x13 ∧ h.int = true then (e, { bits := h.vals.map (·.toNat), vals := h.vals })
  else
    let r := codeRow f c.dOut.coarse c.satMode (c.convLanes w.tile e.gen) (h.vals.map (laneFp h.int))
    ({ e with gen := c.genAfter e.gen, s := e.s.modCmd c.q c.t fun x => x.count r.sat r.van }, r)

/-- The bytes of a coded row at row `m` and column `n0` of the output (R30, R32, R50). -/
def State.rowBytes (s : State) (c : Cmd) (o : Obs) (m n0 n : Nat) (r : Coded) : List (Nat × Byte) :=
  let d := c.dOut
  let a := d.addr + m * d.pitch + n0 * elemBits d.format / 8
  if isBlock d.format then
    s.placed c.part a (packElems (elemBits d.format) r.bits)
      ++ s.placed c.part (d.scalePlace c.cols m n0) (r.scales.map (BitVec.ofNat 8))
  else if d.format = 0x22 then
    s.placed c.part a (packElems 16 r.bits)
      ++ s.placed c.part (d.scaleAddr + m * d.pitch + n0 * 2) (packElems 16 r.lo)
  else s.laneBytes o c.part a d.format (lanesBelow n) r.bits

/-- A coded row written to the output, unless a slice of it was retired meanwhile (R274). -/
def State.writeRow (s : State) (c : Cmd) (o : Obs) (m n0 n : Nat) (r : Coded) : Fed State :=
  let bs := s.rowBytes c o m n0 n r
  match s.writeFault (bs.map (·.1)) with
  | some e => .error e
  | none => .ok (s.write o bs)

/-- Issue CCLK of writing a row of the output (R367). -/
def outCost (f : Nat) : Nat :=
  if f = 0 then 0 else writeCost (rowArray f) + (if isBlock f then writeCost (rowScales f) else 0)
    + (if f = 0x22 then writeCost (rowArray f) else 0)

/-- The values of a tile's row as the epilogue receives them (R36, R62). -/
def Cmd.tileRow (c : Cmd) (w : Work) (a : Tbl Word) (row : Nat) : Held :=
  let sl := c.slotOf w.tile w.j
  let r := c.row0 + row
  let n := c.tileCols w.tile
  let vs := if c.longsum ∧ c.opcode = 1 then
      List.zipWith (fadd c.strict .rne) (accRow a (sl + 1) r) (accRow a (sl + 1) (r + 64))
    else accRow a sl r
  { vals := vs.take n, int := c.intAcc }

/-- One row of the epilogue (R105, R106). -/
def Epi.row (e : Epi) (p : Nat) (c : Cmd) (w : Work) (row : Nat) : EpiM Epi :=
  let a := (e.s.crest p).acc
  match Epi.stages { e with s := e.s.busyOn p c.q c.t (1 + outCost c.dOut.format) } p c w row 0 c.fu.stages (c.tileRow w a row) with
  | .error r => .error r
  | .ok r =>
    if c.dOut.format = 0 then .ok r.1
    else
      let k := r.1.outRow c w r.2
      match k.1.s.writeRow c (obsOf c p) (c.m0 w.tile + row) (c.n0 w.tile) (c.tileCols w.tile) k.2 with
      | .error r => .error (k.1.s, r)
      | .ok s => .ok { k.1 with s := s }

/-- The rows of a tile in increasing order (R85). -/
def Epi.rows (p : Nat) (c : Cmd) (w : Work) : List Nat → Epi → EpiM Epi
  | [], e => .ok e
  | r :: rs, e =>
    match e.row p c w r with
    | .error x => .error x
    | .ok e => Epi.rows p c w rs e

/-- The records of the ROWS reductions, written when the tile's rows are done (R107). -/
def Epi.reductions (p : Nat) (c : Cmd) (w : Work) : List (Nat × Stage) → Epi → EpiM Epi
  | [], e => .ok e
  | (k, g) :: gs, e =>
    if g.kind = 6 ∧ g.arg8 = 1 then
      let wd := if g.sub = 3 then 8 else 4
      let q := (tget [] e.red k).flatMap (fun x => toBytes x.1.toNat 4 ++ (if g.sub = 3 then toBytes x.2.toNat 4 else []))
      let at' := g.addr + (w.tile / c.nTiles * c.cols + c.n0 w.tile) * wd
      match e.s.stageWrite c p at' q with
      | .error r => .error (e.s, r)
      | .ok s => Epi.reductions p c w gs { e with s := s }
    else Epi.reductions p c w gs e

/-! Sends. -/

/-- The format that a SEND stage carries: the held format at its place, or the output format of a tile program (R108,
R113). -/
def Cmd.sendFmt (c : Cmd) (k : Nat) : Nat :=
  if c.useProg then c.dOut.format
  else ((c.fu.stages.take (k + 1)).foldl (fun (h : Bool × Nat) g =>
    (h.1 || decide (g.kind = 7), heldNext h.1 h.2 g)) (false, 0x12)).2

/-- A tile leaves by a SEND stage: its rows to the destination's store or channel (R113). -/
def State.sendTile (s : State) (p : Nat) (c : Cmd) (k : Nat) (g : Stage) (tile : Nat) (bs : List Byte) : Fed State :=
  if s.wayTo g.arg8 = none then .error (sPeer, 0x60)
  else
    let f := c.sendFmt k
    match s.openStream c.q c.t k g.arg8 with
    | (s, none) => .ok s
    | (s, some sid) =>
      if g.sub = 0 then .ok (s.sendStore ((s.logicalOf p).getD 0) g.arg8 sid (g.addr + tile * 128 * rowArray f) bs)
      else
        let s := s.modCmd c.q c.t fun x => { x with
          streams := x.streams.map (fun y => if y.stage = k then { y with kept := y.kept ++ [(tile, fmtCode f, bs)] } else y) }
        .ok (s.sendChannel ((s.logicalOf p).getD 0) g.arg8 sid g.arg16 tile (fmtCode f) bs)

/-- Every SEND stage of the list sends its tile (R113). -/
def sendAll (p : Nat) (c : Cmd) (w : Work) : List (Nat × Stage) → Epi → EpiM Epi
  | [], e => .ok e
  | (k, g) :: gs, e =>
    if g.kind = 8 then
      match e.s.sendTile p c k g (c.seedTile w.tile) (tget [] e.out k) with
      | .error r => .error (e.s, r)
      | .ok s => sendAll p c w gs { e with s := s }
    else sendAll p c w gs e

/-- The stages with their places. -/
def Cmd.placedStages (c : Cmd) : List (Nat × Stage) := (List.range c.fu.stages.length).zip c.fu.stages

/-- The rows that a tile program wrote to the output region, 128 elements each, +0 beyond N (R108, R113). -/
def State.programRows (s : State) (c : Cmd) (p : Nat) (w : Work) : List Byte :=
  let wd := elemBits c.dOut.format / 8
  let n := c.tileCols w.tile
  (List.range (c.tileRows w.tile)).flatMap (fun r =>
    s.readAt (obsOf c p) c.part (c.dOut.addr + (c.m0 w.tile + r) * c.dOut.pitch + c.n0 w.tile * wd) (n * wd)
      ++ List.replicate ((128 - n) * wd) 0#8)

/-- The addresses of those rows. -/
def State.programAddrs (s : State) (c : Cmd) (w : Work) : List Nat :=
  let wd := elemBits c.dOut.format / 8
  (List.range (c.tileRows w.tile)).flatMap (fun r =>
    s.gaddrs c.part (c.dOut.addr + (c.m0 w.tile + r) * c.dOut.pitch + c.n0 w.tile * wd) (c.tileCols w.tile * wd))

/-- The addresses that the stages of a tile read. -/
def State.epilogueAddrs (s : State) (c : Cmd) (w : Work) : List Nat :=
  if c.useProg then s.programAddrs c w
  else (List.range (c.tileRows w.tile)).flatMap (fun r => c.fu.stages.flatMap (fun g =>
    s.stageAddrs c g (c.m0 w.tile + r) (c.n0 w.tile) (c.tileCols w.tile)))

/-- The addresses of `n` columns of row `m` of the output, from column `n0` on: elements, scales, lo elements (R30, R50). -/
def State.outAddrs (s : State) (c : Cmd) (m n0 n : Nat) : List Nat :=
  let d := c.dOut
  if d.format = 0 then []
  else s.gaddrs c.part (d.addr + m * d.pitch + n0 * elemBits d.format / 8) (Sys2Proof.Machine.rowBytes d.format n)
    ++ (if isBlock d.format then s.gaddrs c.part (d.scalePlace c.cols m n0) (scaleBytes d.format n)
      else if d.format = 0x22 then s.gaddrs c.part (d.scaleAddr + m * d.pitch + n0 * 2) (Sys2Proof.Machine.rowBytes d.format n) else [])

/-- The addresses that a tile's epilogue writes: its output and the records of its REDUCE stages. -/
def State.epilogueWrites (s : State) (c : Cmd) (w : Work) : List Nat :=
  if c.useProg then []
  else
    let ms := (List.range (c.tileRows w.tile)).map (c.m0 w.tile + ·)
    ms.flatMap (fun m => s.outAddrs c m (c.n0 w.tile) (c.tileCols w.tile))
      ++ c.fu.stages.flatMap (fun g =>
        let wd := if g.sub = 3 then 8 else 4
        if g.kind ≠ 6 then []
        else if g.arg8 = 0 then ms.flatMap (fun m => s.gaddrs c.part (g.addr + (m * c.nTiles + w.tile % c.nTiles) * wd) wd)
        else s.gaddrs c.part (g.addr + (w.tile / c.nTiles * c.cols + c.n0 w.tile) * wd) (c.tileCols w.tile * wd))

/-- What holds a step of a crest's work on its lines: those that it reads, or those that it writes. -/
def State.workHeld (s : State) (rs ws : List Nat) : Option WaitFor := (s.heldBy false rs).orElse (fun _ => s.heldBy true ws)

/-- Do a command's sends wait on a crest: a destination with 256 streams in flight, or whose port takes nothing new (R192,
R194, R196, R203)? -/
def State.peerHeld (s : State) (c : Cmd) (ss : List (Nat × Nat)) : Bool :=
  !s.sidsFree c ss || ss.any (fun e => s.sendHeld e.2)

/-- The whole epilogue of a tile: stage list and write, or the sends of a tile program. -/
def State.epilogue (s : State) (p : Nat) (c : Cmd) (w : Work) : EpiM Epi :=
  let e : Epi := { s := s, gen := w.gen }
  if c.useProg then
    match s.accessFault (s.programAddrs c w) with
    | some r => .error (s, r)
    | none =>
      let bs := s.programRows c p w
      sendAll p c w c.placedStages { e with out := c.placedStages.foldl (fun o g => tset [] o g.1 bs) [] }
  else
    match Epi.rows p c w (List.range (c.tileRows w.tile)) e with
    | .error r => .error r
    | .ok e =>
      match Epi.reductions p c w c.placedStages e with
      | .error r => .error r
      | .ok e => sendAll p c w c.placedStages e

/-- TILE_EPILOGUE: the tile's stage list runs and the tile is written; the crest goes on with its next (R105, R367). A
tile whose SEND stages cannot send yet waits as PEER (R192, R196), one whose lines may not be reached yet as STORE. An
accumulator element read with bad parity ends the command (R61). -/
def execTileEpilogue (p : Nat) (ecc : List Ecc) (parityBad : Bool) (s : State) : Host.Outcome State Fault Refusal :=
  let s := s.turn p
  let x := s.crest p
  match x.work with
  | [] => .next s
  | w :: _ =>
    match s.cmd? w.q w.t with
    | none => .next s
    | some c =>
      if !(x.works && x.inv.isNone && s.runnable p (w.q, w.t) && decide (w.phase = 3)) then .next s
      else if s.peerHeld c (c.fu.sends.map (fun g => (g.1, g.2.arg8))) then .next (s.setHold w.q w.t p wPeer true)
      else match s.workHeld (s.epilogueAddrs c w) (s.epilogueWrites c w) with
        | some h => .next (s.stall w.q w.t h)
        | none =>
          let s := s.setHold w.q w.t p wPeer false
          if parityBad && !c.useProg then .next (s.parityFails p c)
          else
            let s := s.crestReads w.q w.t (s.epilogueAddrs c w) ecc
            match s.epilogue p c w with
            | .error r => .next (r.1.abort w.q w.t r.2.1 r.2.2)
            | .ok e => .next (e.s.tileDone p)

end Sys2Proof.Machine
end

