-- ==== Sys2Proof/Machine/Move.lean ====
section
/-!
DEFINITION. The units of MOVE (R129), CONVERT (R85, Table CMD-5) and SEND (R128, R113), each carried out whole by one
crest.
-/
namespace Sys2Proof.Machine

/-! MOVE. -/

/-- Do two intervals of bytes meet? -/
def meets (a n b m : Nat) : Bool := decide (0 < n ∧ 0 < m ∧ a < b + m ∧ b < a + n)

/-- Does a range of rows meet another? -/
def Rng.meets (x y : Rng) : Bool :=
  (List.range x.rows).any (fun i => (List.range y.rows).any (fun j =>
    Sys2Proof.Machine.meets (x.a + i * x.pitch) x.n (y.a + j * y.pitch) y.n))

/-- Does the destination of a MOVE overlap its source or its index list (R129)? -/
def Cmd.moveOverlap (c : Cmd) : Bool :=
  let gather := decide (c.f8 0x38 = 1)
  let src : Rng := { a := c.f64 0x10, n := c.f32 0x2C, pitch := c.f32 0x30
                     rows := if gather then c.f32 0x3C else c.f32 0x28 }
  let idx : Rng := { a := c.f64 0x20, n := 4 * c.f32 0x28 }
  c.outRanges.any (fun d => d.meets src || (gather && d.meets idx))

/-- Bytes written by a MOVE: free where its ranges overlap (R129); a slice retired meanwhile takes none (R274). -/
def State.moveWrite (s : State) (c : Cmd) (p a : Nat) (bs : List Byte) : EpiM State :=
  let m := s.placed c.part a bs
  match s.writeFault (m.map (·.1)) with
  | some e => .error (s, e)
  | none =>
    .ok (s.write (obsOf c p) (if c.moveOverlap then m.map (fun e => (e.1, Config.freeByte s.freeCtr e.1)) else m))

/-- One row of COPY or GATHER (R129). -/
def State.moveRow (s : State) (c : Cmd) (p r : Nat) : EpiM State :=
  let rb := c.f32 0x2C
  let dst := c.f64 0x18 + r * c.f32 0x34
  let ia := c.f64 0x20 + 4 * r
  let gather := decide (c.f8 0x38 = 1)
  let s := if gather then s.reads c.q c.t (s.gaddrs c.part ia 4) else s
  match if gather then s.accessFault (s.gaddrs c.part ia 4) else none with
  | some e => .error (s, e)
  | none =>
    let i := if gather then ofBytes (s.readAt (obsOf c p) c.part ia 4) else r
    if gather ∧ i = 0xFFFFFFFF then s.moveWrite c p dst (List.replicate rb 0#8)
    else if gather ∧ i ≥ c.f32 0x3C then .error (s, (sFault, 0x45))
    else
      let a := c.f64 0x10 + i * c.f32 0x30
      let gs := s.gaddrs c.part a rb
      let s := s.reads c.q c.t gs
      match s.accessFault gs with
      | some e => .error (s, e)
      | none => s.moveWrite c p dst (s.readAt (obsOf c p) c.part a rb)

/-- The rows of a COPY or GATHER unit, in order. -/
def moveRows (c : Cmd) (p : Nat) : List Nat → State → EpiM State
  | [], s => .ok s
  | r :: rs, s =>
    match s.moveRow c p r with
    | .error e => .error e
    | .ok s => moveRows c p rs s

/-- A TRANSPOSE unit: a block of up to 128 source rows by 128 elements (R129). -/
def State.moveBlock (s : State) (c : Cmd) (p u : Nat) : EpiM State :=
  let el := max 1 (c.f8 0x39)
  let E := c.f32 0x2C / el
  let eb := max 1 (ceilDiv E 128)
  let r0 := u / eb * 128
  let c0 := u % eb * 128
  let nr := min 128 (c.f32 0x28 - r0)
  let nc := min 128 (E - c0)
  let src (r : Nat) : Nat := c.f64 0x10 + (r0 + r) * c.f32 0x30 + c0 * el
  let gs := (List.range nr).flatMap (fun r => s.gaddrs c.part (src r) (nc * el))
  let s := s.reads c.q c.t gs
  match s.accessFault gs with
  | some e => .error (s, e)
  | none =>
    let rows := (List.range nr).map (fun r => s.readAt (obsOf c p) c.part (src r) (nc * el))
    (List.range nc).foldlM (fun s k =>
      State.moveWrite s c p (c.f64 0x18 + (c0 + k) * c.f32 0x34 + r0 * el)
        (rows.flatMap (fun b => (b.drop (k * el)).take el))) s

/-- The busy CCLK of a TRANSPOSE unit's own bytes (R129). -/
def Cmd.blockCost (c : Cmd) (u : Nat) : Nat :=
  let el := max 1 (c.f8 0x39)
  let E := c.f32 0x2C / el
  let eb := max 1 (ceilDiv E 128)
  ceilDiv (min 128 (c.f32 0x28 - u / eb * 128) * min 128 (E - u % eb * 128) * el) 256 + 130

/-- The rows of a COPY or GATHER unit. -/
def Cmd.unitRows (c : Cmd) (u : Nat) : List Nat := (List.range (min 128 (c.f32 0x28 - 128 * u))).map (128 * u + ·)

/-- The index of row `r` of a GATHER, as the crest reads it; a COPY takes row r itself. -/
def State.moveIndex (s : State) (c : Cmd) (p r : Nat) : Nat :=
  if c.f8 0x38 = 1 then ofBytes (s.readAt (obsOf c p) c.part (c.f64 0x20 + 4 * r) 4) else r

/-- The rows of a unit that read a source row: not those of zeroes. -/
def State.sourceRows (s : State) (c : Cmd) (p u : Nat) : List Nat :=
  (c.unitRows u).filter (fun r => decide (c.f8 0x38 ≠ 1 ∨ s.moveIndex c p r ≠ 0xFFFFFFFF))

/-- The larger of a COPY or GATHER unit's bytes read, index bytes included, and its bytes written (R129). -/
def State.unitBytes (s : State) (c : Cmd) (p u : Nat) : Nat :=
  let n := (c.unitRows u).length
  max ((s.sourceRows c p u).length * c.f32 0x2C + (if c.f8 0x38 = 1 then 4 * n else 0)) (n * c.f32 0x2C)

/-- One unit of a MOVE, and its busy CCLK (R129). -/
def State.moveUnit (s : State) (c : Cmd) (p u : Nat) : EpiM (State × Nat) :=
  if c.f8 0x38 = 2 then
    (s.moveBlock c p u).map (fun s => (s, c.blockCost u))
  else
    (moveRows c p (c.unitRows u) s).map (fun t => (t.bump, ceilDiv (s.unitBytes c p u) 256))

/-! CONVERT. -/

/-- A source element of CONVERT with its coarse scale (R33). -/
def Cmd.srcValue (c : Cmd) (v : Fp) : Fp := if c.dA.format = 0x0B then mulEx v (fp32 c.dA.coarse) else v

/-- The addresses of one source row. -/
def State.convertAddrs (s : State) (c : Cmd) (r : Nat) : List Nat :=
  (List.range (c.f32 0x24)).flatMap (fun k => s.elemAddrs c.part c.dA (c.f32 0x24) r k)

/-- One row of CONVERT, in groups of 128 columns (R85), nothing written where the output format is 0x00 (Table CMD-3); answers the generators' steps. -/
def State.convertRow (s : State) (c : Cmd) (p u gen r : Nat) : EpiM (State × Nat) :=
  let gs := s.convertAddrs c r
  let s := s.reads c.q c.t gs
  match s.accessFault gs with
  | some e => .error (s, e)
  | none =>
    let n := c.f32 0x24
    let vs := (List.range n).map (fun k => c.srcValue (s.elem (obsOf c p) c.part c.dA n r k))
    let groups := chunks 128 (n + 1) vs
    (List.range groups.length).foldlM (fun (x : State × Nat) g =>
      let v := groups.getD g []
      if c.dOut.format = 0 then .ok x else
      let k := codeRow c.dOut.format c.dOut.coarse c.satMode (c.convLanes u x.2) v
      match x.1.writeRow c (obsOf c p) r (128 * g) v.length k with
      | .error e => .error (x.1, e)
      | .ok s => .ok (s.modCmd c.q c.t fun d => d.count k.sat k.van, c.genAfter x.2)) (s, gen)

/-- The rows of a CONVERT unit, in order. -/
def convertRows (c : Cmd) (p u : Nat) : List Nat → State × Nat → EpiM (State × Nat)
  | [], x => .ok x
  | r :: rs, x =>
    match x.1.convertRow c p u x.2 r with
    | .error e => .error e
    | .ok x => convertRows c p u rs x

/-- One unit of a CONVERT: a segment of up to 128 rows. The spec gives its busy time nowhere: a free value. -/
def State.convertUnit (s : State) (c : Cmd) (p u : Nat) : EpiM (State × Nat) :=
  (convertRows c p u ((List.range (min 128 (c.f32 0x20 - 128 * u))).map (128 * u + ·)) (s, 0)).map
    (fun x => (x.1.bump, Config.freeNat x.1.freeCtr))

/-! SEND. -/

/-- One unit of a SEND: up to 128 rows of 64 bytes to the destination's store (R113, R128). The spec gives its busy time
nowhere: a free value. -/
def State.sendUnit (s : State) (c : Cmd) (p u : Nat) : EpiM (State × Nat) :=
  let n := min 8192 (c.f32 0x30 - 8192 * u)
  let a := c.f64 0x10 + 8192 * u
  let gs := s.gaddrs c.part a n
  let s := s.reads c.q c.t gs
  let dst := c.f8 0x34
  match s.accessFault gs with
  | some e => .error (s, e)
  | none =>
    if s.wayTo dst = none then .error (s, (sPeer, 0x60))
    else
      let bs := s.readAt (obsOf c p) c.part a n
      match s.openStream c.q c.t 8 dst with
      | (s, none) => .ok (s, 0)
      | (s, some sid) => .ok ((s.sendStore ((s.logicalOf p).getD 0) dst sid (c.f64 0x18 + 8192 * u) bs).bump, Config.freeNat s.freeCtr)

/-- The addresses that a unit reads and those that it writes. -/
def State.unitAddrs (s : State) (c : Cmd) (p u : Nat) : List Nat × List Nat :=
  let g := s.gaddrs c.part
  let rb := c.f32 0x2C
  match c.opcode with
  | 3 =>
    if c.f8 0x38 = 2 then
      let el := max 1 (c.f8 0x39)
      let eb := max 1 (ceilDiv (rb / el) 128)
      let r0 := u / eb * 128
      let c0 := u % eb * 128
      let nr := min 128 (c.f32 0x28 - r0)
      let nc := min 128 (rb / el - c0)
      ((List.range nr).flatMap (fun r => g (c.f64 0x10 + (r0 + r) * c.f32 0x30 + c0 * el) (nc * el)),
        (List.range nc).flatMap (fun k => g (c.f64 0x18 + (c0 + k) * c.f32 0x34 + r0 * el) (nr * el)))
    else
      ((if c.f8 0x38 = 1 then (c.unitRows u).flatMap (fun r => g (c.f64 0x20 + 4 * r) 4) else [])
        ++ (s.sourceRows c p u).flatMap (fun r => g (c.f64 0x10 + s.moveIndex c p r * c.f32 0x30) rb),
        (c.unitRows u).flatMap (fun r => g (c.f64 0x18 + r * c.f32 0x34) rb))
  | 4 =>
    let rs := (List.range (min 128 (c.f32 0x20 - 128 * u))).map (128 * u + ·)
    (rs.flatMap (s.convertAddrs c), rs.flatMap (fun r => s.outAddrs c r 0 (c.f32 0x24)))
  | _ => (g (c.f64 0x10 + 8192 * u) (min 8192 (c.f32 0x30 - 8192 * u)), [])

/-- The crest carries out the unit at hand (R129), unless its lines may not be reached yet, or a SEND cannot send yet, which
waits as PEER (R192, R196). -/
def State.runUnit (s : State) (p : Nat) : State :=
  let s := s.turn p
  let x := s.crest p
  match x.work with
  | [] => s
  | w :: _ =>
    match s.cmd? w.q w.t with
    | none => s
    | some c =>
      if !(x.works && x.inv.isNone && s.runnable p (w.q, w.t) && decide (w.phase = 5)) then s
      else if decide (c.opcode = 5) && s.peerHeld c [(8, c.f8 0x34)] then s.setHold w.q w.t p wPeer true
      else match s.workHeld (s.unitAddrs c p w.tile).1 (s.unitAddrs c p w.tile).2 with
        | some h => s.stall w.q w.t h
        | none =>
          let s := s.setHold w.q w.t p wPeer false
          let r := match c.opcode with
            | 3 => s.moveUnit c p w.tile
            | 4 => s.convertUnit c p w.tile
            | _ => s.sendUnit c p w.tile
          match r with
          | .error e => e.1.abort w.q w.t e.2.1 e.2.2
          | .ok r => (r.1.busyOn p w.q w.t r.2).tileDone p

end Sys2Proof.Machine
end

