-- ==== Sys2Proof/Machine/Drive.lean ====
section
/-!
DEFINITION. Between dispatcher and crests: programs loaded and reloaded (R92, R94), wakes (R21), the streams and channels
of SEND and REDUCE_RECV (R113–R118), the polls of WAIT (R163, R164), and the step-by-step drive that carries a queue's
commands of one opcode to their ends.
-/
namespace Sys2Proof.Machine

/-! Wakes. -/

/-- A crest that wakes is awake; the time is charged as WAKE to the commands that it holds and the LOADPROGs that reach it:
2 µs from NAP, and from OFF 80 µs, or a measured wait where one is given (R21, R92, Table SUP-6; log 118). -/
def State.crestAwake (s : State) (p : Nat) (waited : Option Nat) : State :=
  if !(s.crest p).waking || s.crestRetired p || !s.canWake p then s
  else
    let off := decide ((s.crest p).pw = .off)
    let hs := (s.crest p).held ++ s.loadsOn p
    let s := s.crestOn p
    let w := if off then waited.getD (s.cclkOf p 80000) else s.cclkOf p 2000
    (hs.foldl (fun s k => s.modCmd k.1 k.2 fun c => c.charge wWake w) s).kick p

/-! Programs. -/

/-- A LOADPROG whose crests have all taken their instructions ends (R92). -/
def State.loadsDone (s : State) : State :=
  (s.cmds.filter (fun c => decide (c.opcode = 9) && c.started && c.fin.isNone
    && c.named.all (fun l => !s.crestPresent l || s.crestRetired (s.physOf l)
      || !(s.handle (s.physOf l) (c.f8 0x1A)).loading))).foldl
    (fun s c => s.endCmd c.q c.t c.okStatus 0) s

/-- The commands on a crest that name a handle. -/
def State.namers (s : State) (p h : Nat) : List (Nat × Nat) :=
  (s.crest p).held.filter (fun k => (s.cmd? k.1 k.2).any (fun c => c.namesProg && decide (c.handle = h)))

/-- The instruction writes of a LOADPROG end on a crest; the commands that waited for them have waited as QUEUE (R92). -/
def State.loadDone (s : State) (p h : Nat) : State :=
  if (s.crest p).waking then s
  else
    let s := s.modCrest p fun x => { x with handles := tmod {} x.handles h (fun k => { k with loading := false }) }
    (s.loadsDone.requeue p).kick p

/-- A load that goes by within a queue command's row: one CCLK an instruction (R92). -/
def State.loadThrough (s : State) (p h : Nat) : State :=
  if !(s.handle p h).loading || (s.crest p).waking then s
  else ((s.namers p h).foldl (fun s k => s.modCmd k.1 k.2 fun c => c.charge wQueue (s.handle p h).count) s).loadDone p h

/-- Why the reload of a handle fails (R94): DETAIL of its log entry, and what its waiting commands end with. -/
def State.reloadFault (s : State) (part : Option Nat) (x : Handle) : Option (Nat × Nat × Nat) :=
  match part with
  | none => some (2, sFault, 0x48)
  | some q =>
    let m := (s.part q).slices
    let gs := s.gaddrs q x.image 64
    if isHostAddr x.image && decide (s.hostConfig = 0) then some (4, sFault, 0x48)
    else if !rangeIn m x.image 64 then some (2, sFault, 0x48)
    else match s.poisonOf gs with
      | some sub => some (3, sPoison, sub)
      | none =>
        let n := 64 + 8 * imgCount (s.readAt .disp q x.image 64)
        if !rangeIn m x.image n then some (2, sFault, 0x48)
        else match s.poisonOf (s.gaddrs q x.image n) with
          | some sub => some (3, sPoison, sub)
          | none =>
            let b := s.imageAt q x.image
            if !imageOk b || decide (x.off + imgCount b > 1024) then some (1, sFault, 0x48) else none

/-- One bound handle of a crest is loaded again from its recorded image (R94). DESIGN CHOICE (log 114): an image that has
grown since its LOADPROG is bound as LOADPROG would bind it, so that the handles that its range now overlaps are unbound. -/
def State.reloadOne (s : State) (p h : Nat) : State :=
  let x := s.handle p h
  let part := match s.logicalOf p with | some l => s.crestOwner l | none => none
  match s.reloadFault part x with
  | some r =>
    let s := (s.modCrest p fun k => k.unbind h).addLog
      { code := 0x0F, cls := 3, kind := kCrest, unit := p, part := part, count := s.errsIn kCrest p, detail := r.1
        addr := x.image }
    (s.namers p h).foldl (fun s k => s.abort k.1 k.2 r.2.1 r.2.2) s
  | none =>
    let q := part.getD 0
    let b := s.imageAt q x.image
    (s.touch (s.gaddrs q x.image b.length)).modCrest p fun k => k.bind h x.off x.image b false

/-- The handles of a crest that wait for their reload. -/
def Crest.staleHandles (x : Crest) : List Nat := (List.range 8).filter (fun h => (tget {} x.handles h).stale)

/-- Every stale handle of a crest is loaded again; the time is charged as WAKE to the commands that wait (R94). -/
def State.reload (s : State) (p waited : Nat) : State :=
  let hs := (s.crest p).staleHandles
  let s := (hs.flatMap (s.namers p)).foldl (fun s k => s.modCmd k.1 k.2 fun c => c.charge wWake waited) s
  ((hs.foldl (fun s h => if (s.handle p h).stale then s.reloadOne p h else s) s).loadsDone).kick p

/-- PROG_LOAD_DONE. -/
def execProgLoadDone (p handle : Nat) (s : State) : Host.Outcome State Fault Refusal := .next (s.loadDone p handle)

/-- What holds the reads of a reload: the images' lines (R170, R181, R184, R272). -/
def State.reloadHeld (s : State) (p : Nat) : Bool :=
  match (s.logicalOf p).bind s.crestOwner with
  | none => false
  | some q => (s.crest p).staleHandles.any (fun h =>
      let x := s.handle p h
      rangeIn (s.part q).slices x.image 64 && (s.heldBy false (s.gaddrs q x.image 64)).isSome)

/-- May the stale handles of a crest be loaded again now: there are some, and it is awake? -/
def State.reloads (s : State) (p : Nat) : Bool :=
  let x := s.crest p
  !x.staleHandles.isEmpty && !x.waking && decide (x.pw ≠ .off) && !s.reloadHeld p

/-- PROG_RELOAD: once the crest is awake, its stale handles are loaded again (R94). -/
def execProgReload (p waited : Nat) (s : State) : Host.Outcome State Fault Refusal :=
  if s.reloads p then .next (s.reload p waited) else .next s

/-! The end of streams (R114, R115, R198). -/

/-- The FLAG flit of a stream: address, value, channel, and whether it writes, names a channel, aborts (R191). -/
def State.sendFlagFlit (s : State) (dst sid addr value channel : Nat) (noWrite chan abort : Bool) : State :=
  s.enqueue { s.newFlit 3 dst (toBytes addr 8 ++ toBytes value 8 ++ toBytes channel 1
    ++ toBytes (b2n noWrite + 2 * b2n chan + 4 * b2n abort) 1) with sid := sid }

/-- The flag of a command's stream (Tables CMD-5, FUSE-2): value, address, channel, NOWRITE, CHANNEL_VALID. -/
def Cmd.flagOf (c : Cmd) (stage : Nat) : Nat × Nat × Nat × Bool × Bool :=
  if stage = 8 then (c.f64 0x28, c.f64 0x20, 0, (c.f8 0x35).testBit 0, false)
  else
    let g := c.fu.stages.getD stage {}
    (g.argA.toNat + g.argB.toNat * 2 ^ 32, g.addr2, g.arg16, false, decide (g.sub = 1))

/-- Does data of a stream still wait in an egress for its SEQ (R196)? -/
def State.streamQueued (s : State) (dst sid : Nat) : Bool :=
  (List.range 3).any (fun k => (s.port k).qData.any (fun f => f.2.dst = dst && f.2.sid = sid))

/-- A SEND of no bytes has no unit that opens its stream: the flag does (R114). -/
def State.openEmpty (s : State) (q t stage : Nat) : State :=
  match s.cmd? q t with
  | none => s
  | some c =>
    if decide (c.opcode = 5 ∧ c.total = 0 ∧ stage = 8) && c.started && c.fin.isNone then
      (s.openStream q t 8 (c.f8 0x34)).1 else s

/-- SEND_FLAG: every tile of the command has left by the stage and taken its SEQ: its flag follows (R114, R196). -/
def execSendFlag (q t stage : Nat) (s : State) : Host.Outcome State Fault Refusal :=
  let s := s.openEmpty q t stage
  match s.cmd? q t with
  | none => .next s
  | some c =>
    match c.streams.find? (fun x => x.stage = stage) with
    | none => .next s
    | some x =>
      if c.fin.isSome || x.flagSent || decide (c.doneTiles ≠ c.total) || s.streamQueued x.dst x.sid
          || s.retries.any (fun r => r.1 = q && r.2.1 = t && r.2.2.1 = x.sid) then .next s
      else
        let f := c.flagOf stage
        let s := s.modCmd q t fun c => { c with
          streams := c.streams.map (fun y => if y.stage = stage then { y with flagSent := true } else y) }
        .next (s.sendFlagFlit x.dst x.sid f.2.1 f.1 f.2.2.1 f.2.2.2.1 f.2.2.2.2 false)

/-- Every unfinished stream of an aborted command ends with a FLAG flit that has ABORT set (R198). -/
def State.abortStreams (s : State) (c : Cmd) : State :=
  (c.streams.filter (fun x => !x.flagSent && decide (x.answer = 0))).foldl
    (fun s x => (s.modCmd c.q c.t fun d => { d with
      streams := d.streams.map (fun y => if y.stage = x.stage then { y with flagSent := true } else y) }).sendFlagFlit
        x.dst x.sid 0 0 0 false false true) s

/-- CHANNEL_TILE_RETRY: 2 µs after CH_CLOSED named it a tile is sent again; the wait is charged as PEER (R115, R199). A
halted crest sends nothing (R204), and a port that takes nothing new holds the tile (R192, R194, R203). -/
def execChannelTileRetry (q t sid tile : Nat) (s : State) : Host.Outcome State Fault Refusal :=
  match s.cmd? q t with
  | none => .next s
  | some c =>
    match c.streams.find? (fun x => x.sid = sid && x.kept.any (fun k => k.1 = tile)) with
    | none => .next s
    | some x =>
      let p := (c.crests.head?.map s.physOf).getD 0
      if c.fin.isSome || !s.retries.contains (q, t, sid, tile) || (s.crest p).halted || s.sendHeld x.dst then .next s
      else
        let k := (x.kept.find? (fun k => k.1 = tile)).getD (0, 0, [])
        let s := { s with retries := s.retries.filter (· != (q, t, sid, tile)) }
        let s := s.modCmd q t fun c => c.charge wPeer (s.cclkOf p 2000)
        .next (s.sendChannel (c.crests.headD 0) x.dst sid (c.fu.stages.getD x.stage {}).arg16 tile k.2.1 k.2.2)

/-- SEND_TMO: a tile that no receiver has taken reaches its TMO (R115). -/
def execSendTmo (q t : Nat) (s : State) : Host.Outcome State Fault Refusal :=
  match s.cmd? q t with
  | none => .next s
  | some c =>
    if c.fin.isSome || !s.retries.any (fun r => r.1 = q && r.2.1 = t) then .next s
    else
      let s := { s with retries := s.retries.filter (fun r => !(r.1 = q && r.2.1 = t)) }
      .next (s.abort q t sPeer 0x62)

/-! REDUCE_RECV (R116–R118). -/

/-- Where row `r` of a source's tile lies in staging (R199). -/
def Cmd.stageRow (c : Cmd) (k rank r : Nat) : Nat :=
  let b := 128 * recvWidth c.rFmt
  c.f64 0x10 + (rank * c.rNtile + k) * 128 * b + r * b

/-- One element of a contribution added to an accumulator element (R117, R58). -/
def Cmd.addRecv (c : Cmd) (old : Word) (bits : Nat) : Word × Bool × Nat :=
  if c.rFmt = 0x13 then
    let r := intAccum c.intSat old (BitVec.ofNat 32 bits).toInt
    (r.1, false, b2n r.2)
  else
    let a := addFp c.strict .rne (fp32 old) (decodeElem c.rFmt bits 0)
    (a, isInf a, 0)

/-- The accumulator before a source's addition: with ACC_INIT ZERO a tile's rows are cleared just before its first (R59). -/
def Cmd.recvInit (c : Cmd) (k rank : Nat) (acc : Tbl Word) : Tbl Word :=
  if rank = 0 ∧ c.keep = false then clearRows acc (c.rSlot0 + k) c.rRow0 c.rRows (c.tileCols k) else acc

/-- A source's tile is added into its accumulator rows, the columns below N; rows that were not sent contribute free values
(R62, R117). -/
def State.addTile (s : State) (p : Nat) (c : Cmd) (k rank n : Nat) : State :=
  let w := recvWidth c.rFmt
  let o : RowOut := (List.range c.rRows).foldl (fun o r =>
    let b := s.readAt (obsOf c p) c.part (c.stageRow k rank r) (128 * w)
    (List.range (c.tileCols k)).foldl (fun (o : RowOut) e =>
      let key := accKey (c.rSlot0 + k) (c.rRow0 + r) e
      let bits := if r < n then fld b (w * e) w else (Config.freeWord s.freeCtr key).toNat % 2 ^ (8 * w)
      let x := c.addRecv (tget 0#32 o.acc key) bits
      { acc := tset 0#32 o.acc key x.1, inf := o.inf || x.2.1, clamps := o.clamps + x.2.2 }) o)
    { acc := c.recvInit k rank (s.crest p).acc }
  ((s.bump.modCrest p fun x => { x with acc := o.acc }).busyOn p c.q c.t (4 * c.rRows)).modCmd c.q c.t fun d =>
    let d := d.count o.clamps 0
    { d with accInf := d.accInf || o.inf, added := d.added ++ [(k, rank)] }

/-- A REDUCE_RECV awaits its peers on a crest while additions are left and none is ready (Table CMD-11). -/
def State.recvWaits (s : State) (q t p : Nat) : State :=
  match s.cmd? q t with
  | none => s
  | some c => s.setHold q t p wPeer (c.fin.isNone && (s.readyAdd c).isNone
      && (List.range c.rNtile).any (fun k => decide (c.addedTo k < c.sources.length)))

/-- Every REDUCE_RECV at a crest awaits its peers or goes on, as tiles land. -/
def State.recvAll (s : State) : State :=
  (s.cmds.filter (fun c => decide (c.opcode = 11) && c.fin.isNone)).foldl (fun s c =>
    match s.holders c.q c.t with | p :: _ => s.recvWaits c.q c.t p | [] => s) s

/-- The last addition of a tile is made: it is due for its epilogue or its invocation (R75, R117). -/
def State.recvWhole (s : State) (p q t k : Nat) : State :=
  let s := s.modCmd q t fun d => { d with redo := d.redo ++ [k] }
  if (s.cmd? q t).any Cmd.useProg then s.modCrest p fun x => { x with ready := x.ready ++ [(q, t, k)] } else s

/-- RECV_TILE_ADD: the next ready addition runs; a tile with every source added becomes ready for its epilogue (R117). At a
candidate of a higher class it stops, which waits as QUEUE (R136). An accumulator element read with bad parity ends the command (R61); staging that may not be read yet holds it. -/
def execRecvTileAdd (q : Nat) (e : Checked Nat) (s : State) : Host.Outcome State Fault Refusal :=
  let t := e.it
  match s.cmd? q t with
  | none => .next s
  | some c =>
    match s.readyAdd c, s.holders q t with
    | some (k, rank, _, n), p :: _ =>
      if !((s.crest p).works && s.runnable p (q, t) && decide (c.opcode = 11)) then .next s
      else if (s.above p c).isSome then .next ((s.setHold q t p wPeer false).requeue p)
      else
        let gs := (List.range c.rRows).flatMap (fun r => s.gaddrs c.part (c.stageRow k rank r) (128 * recvWidth c.rFmt))
        match s.heldBy false gs with
        | some h => .next (s.stall q t h)
        | none =>
          let s := s.setHold q t p wPeer false
          let s := s.reads q t gs
          match s.accessFault gs with
          | some r => .next (s.abort q t r.1 r.2)
          | none =>
            if e.parityBad && (c.keep || decide (rank ≠ 0)) then .next (s.parityFails p c)
            else
              let s := s.addTile p c k rank n
              let whole := decide (rank + 1 = c.sources.length)
              let s := if whole then s.recvWhole p q t k else s
              .next (((s.recvWaits q t p).turn p).requeue p)
    | _, _ => .next s

/-- RECV_TMO: the timer, which runs from acceptance, expires before every tile has been added and every flag has arrived
(R118, Table MEM-6); what has arrived wins (R164). -/
def execRecvTmo (q t : Nat) (s : State) : Host.Outcome State Fault Refusal :=
  match s.cmd? q t with
  | none => .next s
  | some c =>
    let all := c.flagsDone && (List.range c.rNtile).all (fun k => decide (c.addedTo k = c.sources.length))
    if decide (c.opcode ≠ 11 ∨ c.total = 0) || c.fin.isSome || all then .next s
    else .next (s.abort q t sTimeout 0x81)

/-! WAIT. -/

/-- WAIT_POLL: the word is read again after 256 MCLK, which are charged as PEER (R163). -/
def execWaitPoll (q t : Nat) (h : HostUpd) (s : State) : Host.Outcome State Fault Refusal :=
  let s := s.hostWrites h
  match s.cmd? q t with
  | none => .next s
  | some c =>
    if decide (c.opcode ≠ 8) || !c.started || c.fin.isSome then .next s
    else .next ((s.modCmd q t fun c => c.charge wPeer 256).readWait c)

/-- The wait of a WAIT that reaches its timer, in MCLK (R163). -/
def Cmd.waitTmo (c : Cmd) : Nat := (if c.f32 0x2C = 0 then 1000 else c.f32 0x2C) * 1600

/-- WAIT_TMO: the final read; without a satisfying value the WAIT ends WAIT_TIMEOUT (R163, R164). -/
def execWaitTmo (q t : Nat) (h : HostUpd) (s : State) : Host.Outcome State Fault Refusal :=
  let s := s.hostWrites h
  match s.cmd? q t with
  | none => .next s
  | some c =>
    if decide (c.opcode ≠ 8) || !c.started || c.fin.isSome then .next s
    else .next ((s.modCmd q t fun c => { c with waits := tset 0 c.waits wPeer c.waitTmo }).finalRead c)

/-- ATOMIC_WRITEBACK: a buffered word that no SIGNAL has touched for 1,024 MCLK goes back to its line (R159), once it may be
written (R170, R181, R184, R272). -/
def execAtomicWriteback (addr : Nat) (s : State) : Host.Outcome State Fault Refusal :=
  match s.abuf.find? (fun w => w.addr = addr) with
  | some w => if (s.flushHeld (· = w)).isSome then .next s else .next (s.abufBack w)
  | none => .next s

/-! The drive. -/

/-- The instruction at the PC of the running invocation is carried out, no fault being met. -/
def vecAt (op p : Nat) (i : VInst) (s : State) : Host.Outcome State Fault Refusal :=
  match op with
  | 0x00 => execVNop p i s
  | 0x01 => execVEnd p ⟨i, false⟩ s
  | 0x02 => execVBr p i s
  | 0x03 => execVLoop p i s
  | 0x08 => execVSalu p i s
  | 0x09 => execVVget p i s
  | 0x0A => execVBcast p i s
  | 0x0B => execVLaneid p i s
  | 0x10 => execVFadd p i s
  | 0x11 => execVFsub p i s
  | 0x12 => execVFmul p i s
  | 0x13 => execVFma p i s
  | 0x14 => execVFmax p i s
  | 0x15 => execVFmin p i s
  | 0x16 => execVFun p i s
  | 0x17 => execVFcmp p i s
  | 0x20 => execVIalu p i s
  | 0x21 => execVIcmp p i s
  | 0x22 => execVSel p i s
  | 0x28 => execVCvt p i s
  | 0x29 => execVCvtf p i s
  | 0x30 => execVLda p i false s
  | 0x31 => execVSta p i s
  | 0x32 => execVLds p i [] s
  | 0x33 => execVStc p i s
  | 0x34 => execVStp p i s
  | 0x38 => execVRed p i s
  | 0x40 => execVFn p i s
  | _ => .next s

/-- The state that a step answers, or the one before it where it answers none. -/
def orStay (s : State) (o : Host.Outcome State Fault Refusal) : State :=
  match o with
  | .next t => t
  | _ => s

/-- What lies before a crest's next step: its return to its owner, its wake, its reloads and loads, the release of what the
scoreboard held (R70, R92, R94, R137). -/
def State.crestReady (s : State) (p : Nat) : State :=
  let s := if s.mayReturn p then s.recall p none else s
  let s := if (s.crest p).waking then s.crestAwake p none else s
  let s := if s.reloads p then s.reload p (((s.crest p).staleHandles.map (fun h => (s.handle p h).count)).sum) else s
  let s := (List.range 8).foldl (fun s h => s.loadThrough p h) s
  (if (s.crest p).stopped.isEmpty then s else s.unblock p none).turn p

/-- What a crest does next with its tile in hand. -/
def State.crestTick (s : State) (p : Nat) : State :=
  let s := s.crestReady p
  let x := s.crest p
  match x.work with
  | [] => s
  | w :: _ =>
    match s.cmd? w.q w.t with
    | none => s
    | some c =>
      let s := s.slicesAwake c.need none
      if x.inv.isSome then
        let i := tget 0#64 x.prog x.pc
        orStay s (vecAt (vOp i) p (vDec i) s)
      else if w.phase = 5 then s.runUnit p
      else if w.phase = 3 then orStay s (execTileEpilogue p [] false s)
      else if w.phase = 1 ∨ w.phase = 4 then orStay s (execInvocationStart p s)
      else if (x.withBank w (c.blockOf w)).isNone then s.fillBank p (x.fillHold c w) []
      else orStay s (execRowPass p .clean [] s)

/-- The commands of a queue with an opcode that have not ended. -/
def State.running (s : State) (q op : Nat) : List (Nat × Nat) :=
  (s.cmds.filter (fun c => c.q = q && decide (c.opcode = op) && c.fin.isNone)).map (fun c => (c.q, c.t))

/-- The first crest holding one of these commands that gets on, and the state after its step. -/
def State.anyTick (s : State) (ks : List (Nat × Nat)) : Option State :=
  (List.range 17).findSome? (fun p =>
    if (s.crest p).held.any (fun k => ks.contains k) then
      let t := s.crestTick p
      if t = s then none else some t
    else none)

/-- The crests of a queue's commands of one opcode step on until those commands have ended or none gets on: they wait
for a peer, for the host, or for another command. -/
def State.drive (q op : Nat) : Nat → State → State
  | 0, s => s
  | n + 1, s =>
    let ks := s.running q op
    if ks.isEmpty then s
    else
      let s := s.adoptAll
      match s.anyTick ks with
      | some t => State.drive q op n t
      | none => s

/-- More steps than any command takes. -/
def driveFuel : Nat := 2 ^ 64

/-- A LOADPROG of the queue ends: its crests wake and take their instructions. -/
def State.driveLoads (s : State) (q : Nat) : State :=
  (s.cmds.filter (fun c => c.q = q && decide (c.opcode = 9) && c.fin.isNone && c.started)).foldl (fun s c =>
    c.named.foldl (fun s l => (s.crestAwake (s.physOf l) none).loadThrough (s.physOf l) (c.f8 0x1A)) s) s

/-- A queue command's row: the host's writes are in its memory; the dispatcher fetches and accepts the queue's next entry
if it is its turn and has this opcode (R125, R130, R134); what waits for a line in the dispatcher tries again, and the
queue's commands of this opcode are carried on as far as they get. -/
def State.command (s : State) (q op : Nat) (h : HostUpd) : State :=
  let s := s.hostWrites h
  let s := if s.nextQueue = some q ∧ fld (s.nextEntry q) 0 1 = op ∧ s.fetchable q = true then s.fetch q 0 else s
  (s.retrySignals.driveLoads q).drive q op driveFuel

/-- GEMM (R128). -/
def execGemm (q : Nat) (h : HostUpd) (s : State) : Host.Outcome State Fault Refusal := .next (s.command q opGemm h)
/-- CHAIN (R110). -/
def execChain (q : Nat) (h : HostUpd) (s : State) : Host.Outcome State Fault Refusal := .next (s.command q opChain h)
/-- MOVE (R129). -/
def execMove (q : Nat) (h : HostUpd) (s : State) : Host.Outcome State Fault Refusal := .next (s.command q opMove h)
/-- CONVERT (R128). -/
def execConvert (q : Nat) (h : HostUpd) (s : State) : Host.Outcome State Fault Refusal := .next (s.command q opConvert h)
/-- SEND (R162). -/
def execSend (q : Nat) (h : HostUpd) (s : State) : Host.Outcome State Fault Refusal := .next (s.command q opSend h)
/-- FENCE (R155). -/
def execFence (q : Nat) (h : HostUpd) (s : State) : Host.Outcome State Fault Refusal := .next (s.command q opFence h)
/-- SIGNAL (R158). -/
def execSignal (q : Nat) (h : HostUpd) (s : State) : Host.Outcome State Fault Refusal := .next (s.command q opSignal h)
/-- WAIT (R163). -/
def execWait (q : Nat) (h : HostUpd) (s : State) : Host.Outcome State Fault Refusal := .next (s.command q opWait h)

/-- Does the next entry of a queue carry the UNLOAD flag of LOADPROG (R92)? -/
def State.nextUnloads (s : State) (q : Nat) : Bool := (fld (s.nextEntry q) 0x1B 1).testBit 0

/-- LOADPROG: an entry without UNLOAD (R92). -/
def execLoadprog (q : Nat) (h : HostUpd) (s : State) : Host.Outcome State Fault Refusal :=
  let s := s.hostWrites h
  if s.nextUnloads q && decide (s.nextQueue = some q) then .next s else .next (s.command q opLoadprog ⟨[], [], []⟩)

/-- LOADPROG with UNLOAD (R92). -/
def execLoadprogUnload (q : Nat) (h : HostUpd) (s : State) : Host.Outcome State Fault Refusal :=
  let s := s.hostWrites h
  if s.nextUnloads q then .next (s.command q opLoadprog ⟨[], [], []⟩) else .next s

/-- MARKER (R133). -/
def execMarker (q : Nat) (h : HostUpd) (s : State) : Host.Outcome State Fault Refusal := .next (s.command q opMarker h)
/-- REDUCE_RECV (R116). -/
def execReduceRecv (q : Nat) (h : HostUpd) (s : State) : Host.Outcome State Fault Refusal := .next (s.command q opRecv h)

/-! The dispatcher. -/

/-- ENTRY_FETCH: the queue's next entry, whatever it is, if it is the queue's turn (R125, R130, R134). -/
def execEntryFetch (q : Nat) (h : HostUpd) (waited : Nat) (s : State) : Host.Outcome State Fault Refusal :=
  let s := s.hostWrites h
  if decide (s.nextQueue = some q) && s.fetchable q then .next (s.fetch q waited) else .next s

/-- A command's record takes effect: what it wrote is released, the record is written, and it leaves its queue (R139, R154). -/
def State.record (s : State) (c : Cmd) (st sub waited : Nat) : State :=
  let c := if isRefusal st then c else c.charge wStore waited
  let s := s.abortStreams c
  let s := s.release c.q c.t c.scope
  let k := s.queue c.q
  let s := s.putRecord c.q (c.recordWords st sub k.cqTail k.cqLog (decide (s.mg.taint ≠ 0))) st c.t c.irqFlag
  let s := if isRefusal st then s
    else s.modQueue c.q fun k => { k with energy := (k.energy + min 0xFFFFFFFF c.energy) % 2 ^ 64 }
  let l := match c.crests with | l :: _ => l | [] => 0
  let s := s.addTrace 5 l c.q c.part st c.t
  s.leaveQueue ((s.cmd? c.q c.t).getD c) st

/-- COMPLETION_RECORD: the queue's first ended command has its writes released at its scope and its record written; what
waited for the record goes on (R139, R154, R133). `waited` is charged as STORE. -/
def execCompletionRecord (q t waited : Nat) (s : State) : Host.Outcome State Fault Refusal :=
  match s.cmd? q t with
  | none => .next s
  | some c =>
    match c.fin with
    | none => .next s
    | some (st, sub) =>
      if !s.ringReachable q || (s.heldBy true (s.recordLine q)).isSome || decide (s.ends.find? (fun e => e.1 = q) ≠ some (q, t)) then .next s
      else .next ((s.record c st sub waited).putOverflow q |>.startWaiting q |>.adoptAll)

/-- OVERFLOW_RECORD_POST: the pending overflow record of a queue is written once a record is free (R123). -/
def execOverflowRecordPost (q : Nat) (s : State) : Host.Outcome State Fault Refusal :=
  if s.ringReachable q then .next (s.putOverflow q) else .next s

/-- IRQ_TIMER: TIMER µs after the first record not yet signalled the queue's message is sent (R144). -/
def execIrqTimer (q : Nat) (s : State) : Host.Outcome State Fault Refusal :=
  let k := s.queue q
  if k.irqEn && decide (k.unsig ≠ 0 ∧ k.irqTimer ≠ 0) then .next (s.signalQueue q) else .next s

end Sys2Proof.Machine
end

