-- ==== Sys2Proof/Machine/Host.lean ====
section
/-!
DEFINITION. The host port: CXL.mem accesses (R177, R178), bias changes (R179–R181), snoops and evictions of the device
coherent cache (R182–R184), the training of the host modules (R168–R172), and the rows of the queue pages (R119–R145).
-/
namespace Sys2Proof.Machine

/-! CXL.mem. -/

/-- Is a CXL.mem access held: its page changes bias (R181), its row is being copied (R272), or the link retrains (R170)? -/
def State.hostHeld (s : State) (a : Nat) : Bool :=
  s.hostRetraining || (match s.heldBy false [s.hdmAddr a] with | some .bias => true | some (.sparing _) => true | _ => false)

/-- An access is held. -/
def State.holdHost (s : State) (x : HostAcc) : State :=
  { s with bias := { s.bias with heldHost := s.bias.heldHost ++ [x] } }

/-- A log entry of a dropped write or a poisoned read: its slice is that of the address after translation (R178, R281). -/
def State.hostDrop (s : State) (a detail : Nat) : State :=
  let n := s.hdmAddr a / 2 ^ 24
  s.addLog { code := 0x16, cls := 3, kind := kSlice, unit := n, part := s.sliceOwner n, count := s.errsIn kSlice n
             detail := detail, addr := a }

/-- Does a slice serve the host, once it has woken: no access reaches one that cannot be switched on (R178, R235)? -/
def State.hostServes (s : State) (n : Nat) : Bool := s.sliceServes n && (decide ((s.slice n).pw = .on) || s.tierOn n)

/-- A host read of the line at decoder base + addr (R178, R186). -/
def State.hostRead (s : State) (addr : Nat) (ecc : Option EccKind) (word : Nat) : State :=
  let a := addr / 64 * 64
  let g := s.hdmAddr a
  let n := g / 2 ^ 24
  if !s.hostServes n then
    ((s.hostDrop a 2).emit (.hostData ((List.range 64).map (fun i => Config.freeByte s.freeCtr (g + i))) true)).bump
  else
    let s := s.reachSlice n
    let bs := s.read .host ((List.range 64).map (g + ·))
    let s := match ecc with
      | some k => s.storeError { addr := g, word := word, kind := k } none
      | none => s
    (s.emit (.hostData bs (decide (ecc = some .ue) || s.linePoison (g / 64)))).bump

/-- The device coherent cache gives a line up: a modified line goes back where it lives. -/
def State.giveUp (s : State) (l : Nat) : State :=
  let c := tget {} s.cache l
  let s := if c.st = .M then s.backLine l c.data c.poison else s
  { s with cache := tset {} s.cache l {} }

/-- A write by the host to one line of the store (R178, R186). -/
def State.hostLine (s : State) (l : Nat) (m : List (Nat × Byte)) (poison : Bool) : State :=
  let s := (s.settle l).giveUp l
  let old := s.newestLine l
  let whole := (List.range 64).all (fun i => m.any (fun e => e.1 % 64 = i))
  (s.pendLine .host l m).backLine l (putBytes old m) (poison || (!whole && s.linePoison l))

/-- A host write of the listed bytes of a line (R178, R186). -/
def State.hostWrite (s : State) (addr : Nat) (bytes : List (Option Byte)) (poison : Bool) : State :=
  let a := addr / 64 * 64
  let g := s.hdmAddr a
  let n := g / 2 ^ 24
  if !s.hostServes n then s.hostDrop a 1
  else
    let m := ((List.range 64).zip bytes).filterMap (fun e => match e.2 with | some b => some (g + e.1, b) | none => none)
    (s.reachSlice n).hostLine (g / 64) m poison

/-- HOST_MEM_READ: a read is held or served. A die in STANDBY answers on the Icpiven port only (R23), here and on the queue
pages. -/
def execHostMemRead (addr : Nat) (ecc : Option EccKind) (word : Nat) (s : State) : Host.Outcome State Fault Refusal :=
  if addr ≥ 0x60000000 || !s.serving then .next s
  else if s.hostHeld (addr / 64 * 64) then .next (s.holdHost (.read addr ecc word))
  else .next (s.hostRead addr ecc word)

/-- HOST_MEM_WRITE: a write is held or served. -/
def execHostMemWrite (addr : Nat) (bytes : List (Option Byte)) (poison : Bool) (s : State) :
    Host.Outcome State Fault Refusal :=
  if addr ≥ 0x60000000 || !s.serving then .next s
  else if s.hostHeld (addr / 64 * 64) then .next (s.holdHost (.write addr bytes poison))
  else .next (s.hostWrite addr bytes poison)

/-- The held accesses are served, in their order, but for those that something still holds (R170, R181, R272). A die that has
left READY and RUN answers none (R23). -/
def State.serveHeld (s : State) : State :=
  let xs := if s.serving then s.bias.heldHost else []
  xs.foldl (fun s x =>
    match x with
    | .read a ecc w => if s.hostHeld (a / 64 * 64) then s.holdHost x else s.hostRead a ecc w
    | .write a bs po => if s.hostHeld (a / 64 * 64) then s.holdHost x else s.hostWrite a bs po)
    { s with bias := { s.bias with heldHost := [] } }

/-- What held accesses is over: commands are charged their wait as STORE and try again, the host's are served (R170, R181,
R184, R272). -/
def State.resumeHeld (s : State) (w : WaitFor) (waited : Nat) : State := (s.unstall w waited).serveHeld.retrySignals

/-! Snoops (Table HOST-8). -/

/-- A snoop's answer out of the eviction buffer (R183, R184). -/
def State.snoopEvict (s : State) (e : Evict) : State :=
  let gone := e.pulled || e.snooped
  let resp := if gone then "RspIHitI" else if e.modified then "RspIFwdM" else "RspIHitSE"
  let s := if e.modified && !gone then s.backLine e.line e.data e.poison else s
  let mark (x : Evict) : Evict := if x.line = e.line then { x with snooped := true } else x
  let s := { s with evict := s.evict.map mark }
  s.emit (.snoop resp (if e.modified && !gone then e.data else []))

/-- The eviction entry that answers for a line: one that still has its data, else one that no snoop has met (R184). -/
def State.evictOf (s : State) (l : Nat) : Option Evict :=
  (s.liveEvict l).orElse fun _ => s.evict.find? (fun x => decide (x.line = l) && !x.snooped && !x.pulled)

/-- A snoop's answer: response, data, and the line's new state by its old one (R183). A line that the cache holds answers
from there, though an older eviction of it may still await its grant. -/
def State.snoop (s : State) (l : Nat) (m e sh : String × Mesi) (keepM : Bool) : State :=
  let c := tget {} s.cache l
  let set (s : State) (st : Mesi) : State :=
    { s with cache := tset {} s.cache l (if st = .I then {} else { c with st := st }) }
  match c.st with
  | .M =>
    let s := if keepM then s else s.backLine l c.data c.poison
    (set s m.2).emit (.snoop m.1 c.data)
  | .E => (set s e.2).emit (.snoop e.1 [])
  | .S => (set s sh.2).emit (.snoop sh.1 [])
  | .I => match s.evictOf l with
    | some x => s.snoopEvict x
    | none => s.emit (.snoop "RspIHitI" [])

/-- Does the die answer its host: not below the minimum service set (R23)? -/
def State.hostAnswers (s : State) : Bool := !decide (s.mg.device = 1 ∧ s.mg.cause = 3)

/-- SNPDATA (R183). -/
def execSnpdata (line : Nat) (s : State) : Host.Outcome State Fault Refusal :=
  .next (if s.hostAnswers then s.snoop line ("RspSFwdM", .S) ("RspSHitSE", .S) ("RspSHitSE", .S) false else s)
/-- SNPINV (R183). -/
def execSnpinv (line : Nat) (s : State) : Host.Outcome State Fault Refusal :=
  .next (if s.hostAnswers then s.snoop line ("RspIFwdM", .I) ("RspIHitSE", .I) ("RspIHitSE", .I) false else s)
/-- SNPCUR (R183). -/
def execSnpcur (line : Nat) (s : State) : Host.Outcome State Fault Refusal :=
  .next (if s.hostAnswers then s.snoop line ("RspVFwdV", .M) ("RspVHitV", .E) ("RspVHitV", .S) true else s)

/-- EVICTION_GRANT: the eviction completes; a snooped entry sends no data; a miss that waited for the entry goes on, its
wait charged as STORE (R184). -/
def execEvictionGrant (line : Ended Nat) (s : State) : Host.Outcome State Fault Refusal :=
  .next (if s.evict.any (fun x => x.line = line.it) then (s.grantEvict line.it).resumeHeld .evictRoom line.waited else s)

/-! Bias (R180, R181). -/

/-- Does a bias command fit: not busy, its pages in the 1,536 MiB and in owned slices (R180)? -/
def State.biasOk (s : State) : Bool :=
  !s.bias.busy && decide (s.bias.page + 4096 * s.bias.count ≤ 0x60000000) && decide (s.bias.count ≠ 0)
    && (List.range s.bias.count).all (fun i => (s.sliceOwner (sliceField (s.bias.page + 4096 * i))).isSome)

/-- A bias command starts, or sets ERR (R180). -/
def State.biasStart (s : State) (toHost : Bool) : State :=
  if s.biasOk then { s with bias := { s.bias with busy := true, toHost := toHost, cur := s.bias.page, left := s.bias.count } }
  else { s with bias := { s.bias with err := true } }

/-- TO_HOST: a write of 1 to HB_CMD (R180, R181). -/
def execToHost (s : State) : Host.Outcome State Fault Refusal :=
  .next (if s.serving then s.biasStart true else s)
/-- TO_DEVICE: a write of 2 to HB_CMD (R180, R181). -/
def execToDevice (s : State) : Host.Outcome State Fault Refusal :=
  .next (if s.serving then s.biasStart false else s)

/-- One line of a page goes to device bias: the die asks for its ownership, and what the cache holds modified goes into the
slice; then what the host returns, a poisoned line poisoned, a whole clean one clearing poison (R181, R186, Table HOST-7). -/
def State.lineToDevice (s : State) (r : Returned) (l : Nat) : State :=
  let s := ((s.emit (.cxl .rdOwn l)).settle l).giveUp l
  match r.it.filter (fun e => e.1 / 64 = l) with
  | [] => { s with hostPoison := tset false s.hostPoison (2 ^ 47 + l) false }
  | m :: ms =>
    let whole := coversLine l ((m :: ms).map (·.1))
    let old := s.newestLine l
    (s.pendLine .host l (m :: ms)).backLine l (putBytes old (m :: ms)) (r.poison.contains l || (!whole && tget false s.poison l))

/-- A page goes to device bias, line by line (R181). -/
def State.pageToDevice (s : State) (g : Nat) (r : Returned) : State :=
  let s := ((List.range 64).map (g / 64 + ·)).foldl (fun s l => s.lineToDevice r l) s
  { s with bias := { s.bias with hostPages := tset false s.bias.hostPages (g / 4096) false } }

/-- A page's writes are performed at DIE scope and it goes to host bias (R181). -/
def State.pageToHost (s : State) (g : Nat) : State :=
  let s := s.perform (fun e => decide (e.line / 64 = g / 4096)) 1
  { s with bias := { s.bias with hostPages := tset false s.bias.hostPages (g / 4096) true } }

/-- BIAS_PAGE_DONE: the page's bias has changed. What was held is served under the new bias (R181). -/
def execBiasPageDone (returned : Returned) (s : State) : Host.Outcome State Fault Refusal :=
  if !s.bias.busy then .next s
  else
    let g := s.hdmAddr s.bias.cur
    let s := if s.bias.toHost then s.pageToHost g else s.pageToDevice g returned
    let done := decide (s.bias.left ≤ 1)
    .next ({ s with bias := { s.bias with
      cur := s.bias.cur + 4096, left := s.bias.left - 1, busy := !done, done := s.bias.done || done } }.resumeHeld .bias returned.waited)

/-! Training of the host modules. -/

/-- A retrain or lane repair of a module counts; its errors may retire it (R171). -/
def State.hostEvent (s : State) (m detail : Nat) : State :=
  let s := s.countErr kHost m
  let s := s.addLog { code := 0x10, cls := 1, kind := kHost, unit := m, count := s.errsIn kHost m, detail := detail }
  if s.atThresh kHost m then s.retireModule m 1 else s

/-- Modules in service but module `m` join a retrain of the link: the ACTIVE ones, and the IDLE ones that are tried again
(R168); which modules are ACTIVE has changed (R344). -/
def State.joinRetrain (s : State) (m : Nat) : State :=
  (List.range 4).foldl (fun s k =>
    if k ≠ m ∧ ((s.hmod k).st = 2 ∨ (s.hmod k).st = 3) ∧ s.rep.retMod.testBit k = false then
      s.modHmod k fun h => { h with st := 4, attempt := 0 } else s) s.liveChange

/-- The link retrains on an event of a module: that module counts it (R170, R171). An event of a retired module is logged
and not counted (R284). -/
def State.hostRetrainOne (s : State) (m : Nat) : State :=
  let h := s.hmod m
  if m ≥ 4 then s
  else if s.rep.retMod.testBit m then
    s.addLog { code := 0x10, cls := 2, kind := kHost, unit := m, count := s.errsIn kHost m, detail := 1 }
  else if !(decide (h.st = 2 ∨ h.st = 3)) then s
  else
    let s := s.modHmod m fun h => { h with st := 4, attempt := 0, retrains := min 255 (h.retrains + 1) }
    (s.joinRetrain m).hostEvent m 1

/-- HOST_RETRAIN: the adapter of module `e.m` fails four consecutive replays, its valid or clock tracking is lost, or the host
asks (R170). `e.retries`: the adapter's CRC retries since it last trained, which telemetry counts (R171). -/
def execHostRetrain (e : ModEvent) (s : State) : Host.Outcome State Fault Refusal :=
  .next ((if e.m < 4 then s.modHmod e.m fun h => { h with crcRetries := h.crcRetries + e.retries } else s).hostRetrainOne e.m)

/-- BEST: the best configuration of Table HOST-2 among those reached, the first of them; 0 where none is (Table REG-9). -/
def bestOf (reach : Nat) : Nat := ((List.range 6).find? (fun c => reach.testBit c)).elim 0 (· + 1)

/-- The link has ended its retrain, or its training: what it held goes on (R170, R321). -/
def State.hostUp (s : State) (waited : Nat) : State :=
  if s.hostTraining then s else (s.resumeHeld .hostLink waited).linkDone

/-- HOST_RETRAIN_DONE: an attempt of a module ends: it has trained, or the attempt repeats, or the third failure retires the
module; after the last module the configuration is chosen again (R168, R170, R171). It ends a module's first training too.
The time that commands were held for host memory is charged as STORE. -/
def execHostRetrainDone (m : Nat) (ok : Bool) (reach : Nat) (repaired : Ended Bool) (s : State) :
    Host.Outcome State Fault Refusal :=
  let h := s.hmod m
  if m ≥ 4 || !(decide (h.st = 1 ∨ h.st = 4)) || s.rep.retMod.testBit m then .next s
  else
    let s := if repaired.it then (s.modHmod m fun h => { h with repairs := min 255 (h.repairs + 1) }).hostEvent m 2 else s
    if s.rep.retMod.testBit m then .next (s.hostUp repaired.waited)
    else if ok then
      .next ((s.modHmod m fun h => { h with
        st := 3, reach := reach % 64, best := bestOf (reach % 64), attempt := 0 }).hostReconfig.hostUp repaired.waited)
    else if h.attempt ≥ 2 then .next ((s.retireModule m 2).hostUp repaired.waited)
    else .next (s.modHmod m fun h => { h with attempt := h.attempt + 1 })

/-! Queue pages. -/

/-- Q_DOORBELL (R123). -/
def execQDoorbell (q tail : Nat) (h : HostUpd) (s : State) : Host.Outcome State Fault Refusal :=
  let s := s.hostWrites h
  .next (if s.serving && decide (q < 64) then s.doorbell q (tail % m32) else s)
/-- QUEUE_ENABLE: ENABLE = 1 (R120). -/
def execQueueEnable (q : Nat) (s : State) : Host.Outcome State Fault Refusal :=
  .next (if s.serving then s.enableQueue q else s)
/-- QUEUE_DISABLE: ENABLE = 0 (R145). -/
def execQueueDisable (q : Nat) (s : State) : Host.Outcome State Fault Refusal :=
  .next (if s.serving && (s.queueOwner q).isSome then s.stopQueue q else s)
/-- RESUME (R133). -/
def execResume (q : Nat) (s : State) : Host.Outcome State Fault Refusal :=
  .next (if s.serving then s.resumeQueue q else s)
/-- Q_CQ_HEAD (R139, R123). -/
def execQCqHead (q v : Nat) (s : State) : Host.Outcome State Fault Refusal :=
  .next (if s.serving then s.setCqHead q v else s)

end Sys2Proof.Machine
end

