-- ==== Sys2Proof/Machine/Peer.lean ====
section
/-!
DEFINITION. Trelkai: flits, sequence numbers, replay and credits (R190–R196), what an accepted flit does (R197–R200), the
training and loss of ports (R194, R201), and routes (R202–R204).
-/
namespace Sys2Proof
open Sys2Proof.Machine

/-! Flits. -/

/-- Tag bits 95:0 as a number (Table PEER-3). -/
def Flit.tag (f : Flit) : Nat :=
  f.typ % 16 + f.seq % 4096 * 2 ^ 4 + f.ack % 4096 * 2 ^ 16 + b2n f.nak * 2 ^ 28 + b2n f.fwd * 2 ^ 29
    + f.src % 4 * 2 ^ 30 + f.dst % 4 * 2 ^ 32 + f.lines % 4 * 2 ^ 34 + f.crData % 4 * 2 ^ 36 + b2n f.crFlag * 2 ^ 38
    + b2n f.crMgmt * 2 ^ 39 + f.crRelay % 4 * 2 ^ 40 + f.sid % 256 * 2 ^ 42 + f.place % 2 ^ 46 * 2 ^ 50
/-- The CRC of a flit: over its body, then tag bytes 0 to 11 (R190). -/
def Flit.crcOf (f : Flit) : Word := crc32 (f.body ++ toBytes f.tag 12)
/-- Is a flit good: its CRC matches and its TYPE is not reserved (R190, R191)? -/
def Flit.good (f : Flit) : Bool := decide (f.crc = f.crcOf) && decide (f.typ ≤ 6)

/-- Credit classes of Table PEER-5: 0 data, 1 flag, 2 management, 3 relay, 4 none. -/
def Flit.cls (f : Flit) (relayed : Bool) : Nat :=
  if relayed then 3
  else match f.typ with | 1 | 2 => 0 | 3 | 4 => 1 | 5 => 2 | _ => 4

/-- PLACE of a DATA_CHANNEL flit (Table PEER-3). -/
def Flit.chan (f : Flit) : Nat := bits f.place 3 0
def Flit.half (f : Flit) : Nat := bits f.place 4 4
def Flit.row (f : Flit) : Nat := bits f.place 11 5
def Flit.tile (f : Flit) : Nat := bits f.place 40 12
def Flit.fmt (f : Flit) : Nat := bits f.place 43 41

end Sys2Proof

namespace Sys2Proof.Machine

/-- Credits of a class to send with; what spends none never lacks any. -/
def PPort.credits (x : PPort) (c : Nat) : Nat :=
  match c with | 0 => x.crData | 1 => x.crFlag | 2 => x.crMgmt | 3 => x.crRelay | _ => 1
/-- One credit of a class spent (R195). -/
def PPort.spend (x : PPort) (c : Nat) : PPort :=
  match c with
  | 0 => { x with crData := x.crData - 1 }
  | 1 => { x with crFlag := x.crFlag - 1 }
  | 2 => { x with crMgmt := x.crMgmt - 1 }
  | 3 => { x with crRelay := x.crRelay - 1 }
  | _ => x
/-- A buffer entry of a class freed: one more credit owed to the other side (R195). -/
def PPort.owe (x : PPort) (c : Nat) : PPort :=
  match c with
  | 0 => { x with oweData := x.oweData + 1 }
  | 1 => { x with oweFlag := x.oweFlag + 1 }
  | 2 => { x with oweMgmt := x.oweMgmt + 1 }
  | 3 => { x with oweRelay := x.oweRelay + 1 }
  | _ => x
/-- Does a port owe credits? -/
def PPort.owes (x : PPort) : Bool := decide (x.oweData + x.oweFlag + x.oweMgmt + x.oweRelay ≠ 0)

/-! Egress (R192, R196). -/

/-- A flit leaves with what ACK and NAK are due: a NAK is sent, and unanswered (R192). -/
def PPort.sentNak (x : PPort) : PPort := { x with nakSent := x.nakSent || x.sendNak, sendNak := false }

/-- The present ACK and NAK and the CRC put on a flit that leaves. -/
def PPort.stamp (x : PPort) (f : Flit) : Flit :=
  let g := { f with ack := (x.expect + 4095) % 4096, nak := x.sendNak }
  { g with crc := g.crcOf }

/-- The first flit of a list that has credit; the neighbour is at position `peer`. -/
def PPort.ready (x : PPort) (peer : Nat) (ok : Flit → Bool) (fs : List Flit) : Option Flit :=
  fs.find? (fun f => ok f && decide (x.credits (f.cls (decide (f.dst ≠ peer))) ≠ 0))

/-- Does a flit wait for none of those that go again to its destination (R203)? -/
def PPort.free (x : PPort) (f : Flit) : Bool := !x.again.any (fun g => g.dst = f.dst)

/-- The first of the flits that go again for a lost link, in their order (R203). -/
def PPort.takeAgain (x : PPort) (peer : Nat) : Option (Flit × PPort) :=
  match x.again with
  | [] => none
  | f :: fs => if x.credits (f.cls (decide (f.dst ≠ peer))) ≠ 0 then some (f, { x with again := fs }) else none

/-- Own data that may leave next: the crests' first flits, in round-robin order of logical crest. -/
def PPort.readyData (x : PPort) (peer : Nat) : Option (Nat × Flit) :=
  ((List.range 16).map (fun i => (x.lastCrest + 1 + i) % 16)).findSome? (fun c =>
    match x.qData.find? (fun e => e.1 = c && x.free e.2) with
    | some e => if x.credits (e.2.cls (decide (e.2.dst ≠ peer))) ≠ 0 then some e else none
    | none => none)

/-- A relayed flit leaves, those of one SRC in their order of arrival (R202). -/
def PPort.takeRelay (x : PPort) (peer : Nat) : Option (Flit × PPort) :=
  (x.ready peer (fun f => decide (x.qRelay.find? (fun g => g.src = f.src) = some f)) x.qRelay).map
    (fun f => (f, { x with qRelay := x.qRelay.erase f, relayTurn := true }))
/-- An own data flit leaves. -/
def PPort.takeData (x : PPort) (peer : Nat) : Option (Flit × PPort) :=
  (x.readyData peer).map (fun e => (e.2, { x with qData := x.qData.erase e, lastCrest := e.1, relayTurn := false }))

/-- The next new flit: what goes again for a lost link, then by priority MGMT, FLAG_ACK, FLAG, then relayed flits and own
data by turns; a FLAG waits for the data of its SID (R196, R203). -/
def PPort.nextNew (x : PPort) (peer : Nat) : Option (Flit × PPort) :=
  match x.takeAgain peer with
  | some r => some r
  | none =>
    match x.ready peer x.free x.qMgmt with
    | some f => some (f, { x with qMgmt := x.qMgmt.erase f })
    | none =>
      match x.ready peer x.free x.qFlagAck with
      | some f => some (f, { x with qFlagAck := x.qFlagAck.erase f })
      | none =>
        match x.ready peer (fun f => x.free f && !x.qData.any (fun e => e.2.sid = f.sid && e.2.dst = f.dst)) x.qFlag with
        | some f => some (f, { x with qFlag := x.qFlag.erase f })
        | none =>
          if x.relayTurn then (x.takeData peer).orElse (fun _ => x.takeRelay peer)
          else (x.takeRelay peer).orElse (fun _ => x.takeData peer)

/-- A sequenced flit leaves for the first time: SEQ, credits returned, its credit spent, a copy held (R192, R195). -/
def PPort.sendNew (x : PPort) (peer : Nat) (f : Flit) : Flit × PPort :=
  let g := x.stamp { f with seq := x.nextSeq, crData := min 3 x.oweData, crFlag := decide (x.oweFlag ≠ 0)
                            crMgmt := decide (x.oweMgmt ≠ 0), crRelay := min 3 x.oweRelay }
  let y := (x.spend (f.cls (decide (f.dst ≠ peer)))).sentNak
  (g, { y with nextSeq := (x.nextSeq + 1) % 4096, held := x.held ++ [g]
               oweData := x.oweData - min 3 x.oweData, oweFlag := x.oweFlag - 1, oweMgmt := x.oweMgmt - 1
               oweRelay := x.oweRelay - min 3 x.oweRelay })

/-- An IDLE flit: ACK and NAK only (R192). -/
def State.idleFlit (s : State) (k : Nat) : State :=
  let x := s.port k
  let f := x.stamp { s.newFlit 0 (s.peerOf k) [] with fwd := false }
  (s.modPort k PPort.sentNak).emit (.flit k f)

/-- A stream has sent a flit through a relay (R204). -/
def State.markVia (s : State) (f : Flit) (m : Nat) : State :=
  if f.src = s.position ∧ f.dst ≠ m ∧ f.typ ≤ 3 then
    { s with cmds := s.cmds.map (fun c => { c with streams := c.streams.map (fun x =>
        if x.dst = f.dst ∧ x.sid = f.sid ∧ x.answer = 0 then { x with via := if x.via.contains m then x.via else m :: x.via }
        else x) }) }
  else s

/-- FLIT_SEND: a held flit goes again, or the next new flit leaves, or a CREDIT flit, or IDLE (R192, R195, R196). -/
def execFlitSend (k : Nat) (s : State) : Host.Outcome State Fault Refusal :=
  let x := s.port k
  let m := s.peerOf k
  if k ≥ 3 ∨ x.st ≠ 2 then .next s
  else if x.resend ≠ 0 then
    let i := x.held.length - x.resend
    match x.held[i]? with
    | none => .next (s.modPort k fun x => { x with resend := 0 })
    | some f =>
      let g := x.stamp f
      .next ((s.modPort k fun x => { x.sentNak with
        resend := x.resend - 1, held := x.held.set i g
        resends := if i = 0 then x.resends + 1 else x.resends }).emit (.flit k g))
  else if x.held.length ≥ 256 then .next (s.idleFlit k)
  else match x.nextNew m with
    | some (f, y) =>
      let r := y.sendNew m f
      .next (((s.modPort k fun _ => r.2).markVia f m).emit (.flit k r.1))
    | none =>
      if x.owes then
        let r := x.sendNew m { s.newFlit 6 m [] with fwd := false }
        .next ((s.modPort k fun _ => r.2).emit (.flit k r.1))
      else .next (s.idleFlit k)

/-! Routes lost (R202–R204). -/

/-- The streams of a command that have lost their way: no route, or a relay that they used has lost a link (R204). -/
def State.strayed (s : State) (c : Cmd) : Bool :=
  c.streams.any (fun x => decide (x.answer = 0)
    && (decide (s.wayTo x.dst = none) || x.via.any (fun m => !(s.linkUp m && s.mapUp m x.dst))))

/-- Relayed flits that can no longer go on are dropped, their buffer entries freed. -/
def State.dropRelayed (s : State) : State :=
  (List.range 3).foldl (fun s k =>
    let gone := (s.port k).relayIn.filter (fun f => !s.linkUp f.dst)
    if gone.isEmpty then s
    else s.modPort k fun x => { x with
      relayIn := x.relayIn.filter (fun f => !gone.contains f), oweRelay := x.oweRelay + gone.length }) s

/-- The unfinished streams of a command whose way is lost get no answer, and no flag is sent for them (R115, R204). -/
def State.dropStreams (s : State) (c : Cmd) : State :=
  s.modCmd c.q c.t fun d => { d with streams := d.streams.map (fun x =>
    if x.answer = 0 ∧ s.wayTo x.dst = none then { x with answer := 3 } else x) }

/-- Commands whose streams have lost their way end, and REDUCE_RECV commands with a lost source (R118, R204, R321); what was
unanswered there is over (R196). -/
def State.routesChanged (s : State) (st sub : Nat) : State :=
  let s := s.dropRelayed
  let s := { s with closing := s.closing.filter (fun e => (s.wayTo e.1).isSome) }
  (s.cmds.filter (fun c => c.fin.isNone)).foldl (fun s c =>
    if s.strayed c then (s.abort c.q c.t st sub).dropStreams c
    else if c.opcode = 11 ∧ (maskList c.rSrcMask 4).any (fun q => !s.member q) then s.abort c.q c.t sPeer 0x60
    else s) s

/-- FWD of a flit of this die by its route (R202). -/
def State.fwdOf (s : State) (f : Flit) : Flit :=
  { f with fwd := match s.route f.dst with | .relay _ => true | _ => false }

/-- The flits that wait in a port's egress for other positions than its peer take their new way, if any (R202). -/
def State.reroute (s : State) (k : Nat) : State :=
  let x := s.port k
  let q := s.peerOf k
  let own (f : Flit) : Bool := decide (f.dst = q)
  let s := s.modPort k fun x => { x with
    again := x.again.filter own, qMgmt := x.qMgmt.filter own, qFlagAck := x.qFlagAck.filter own, qFlag := x.qFlag.filter own
    qData := x.qData.filter (fun e => own e.2) }
  let s := (x.again.filter (fun f => !own f)).foldl (fun s f =>
    match s.wayTo f.dst with
    | some r => s.modPort r fun y => { y with again := y.again ++ [s.fwdOf f] }
    | none => s) s
  let s := ((x.qMgmt ++ x.qFlagAck ++ x.qFlag).filter (fun f => !own f)).foldl (fun s f => s.enqueue (s.fwdOf f)) s
  (x.qData.filter (fun e => !own e.2)).foldl (fun s e => s.enqueue (s.fwdOf e.2) e.1) s

/-- A link is no longer in use: where a relay remains the sender asks for a resynchronisation, else what waits in the egress
is dropped, the flits held staying for the replay of a later training (R194); what only went this way takes its new one
(R203, R204). -/
def State.loseLink (s : State) (k : Nat) : State :=
  let q := s.peerOf k
  let s := (s.modPort k fun x => { x with qRelay := [], resend := 0, resends := 0 }).reroute k
  match s.wayTo q with
  | some r =>
    let s := s.modPort k fun x => { x with resync := true }
    s.putEgress r { s.newFlit 5 q (toBytes 3 1 ++ toBytes k 1) with fwd := true } 0
  | none => s.modPort k fun x => { x with
      again := [], qMgmt := [], qFlagAck := [], qFlag := [], qData := [], resync := false }

/-- A lost link: the members hear of it, and streams that lose their way end (R200, R204). -/
def State.linkLost (s : State) (k st sub : Nat) : State := (s.loseLink k).sendLinkmap.routesChanged st sub

/-- After a step that may have moved ports: lost links are dealt with, and the members hear of every change of a port's
state (R200, R204). -/
def State.peersFollow (s old : State) : State :=
  let gone := (List.range 3).filter (fun k => old.linkUp (old.peerOf k) && !s.linkUp (s.peerOf k))
  let moved := (List.range 3).any (fun k => decide ((old.port k).st ≠ (s.port k).st))
  let s := gone.foldl State.loseLink s
  let s := if moved then s.sendLinkmap else s
  if gone.isEmpty then s else s.routesChanged sPeer 0x60

/-- A port is disabled (R201). -/
def State.disablePort (s : State) (k cause : Nat) : State :=
  let s := s.modPort k fun x => { x with st := 4, disCause := cause, helloSeen := false }
  (s.addLog { code := 0x14, cls := 3, kind := kPort, unit := k, count := s.errsIn kPort k, detail := cause }).linkLost k sPeer 0x60

/-! Retrains (R194). -/

/-- A retrain or lane repair of a port counts; its errors may retire it (R194). An event of a retired port is logged and
not counted (R284). -/
def State.peerEvent (s : State) (k detail : Nat) : State :=
  let ent : LogEntry := { code := 0x12, cls := 1, kind := kPort, unit := k, detail := detail }
  if s.rep.retPort.testBit k then s.addLog { ent with cls := 2, count := s.errsIn kPort k }
  else
    let s := s.countErr kPort k
    let s := s.addLog { ent with count := s.errsIn kPort k }
    if s.atThresh kPort k then (s.retirePort k 1).peersFollow s else s

/-- A port in use starts a retrain (R194). -/
def State.peerRetrainOne (s : State) (k : Nat) : State :=
  if k ≥ 3 then s
  else if s.rep.retPort.testBit k then s.peerEvent k 1
  else if (s.port k).st ≠ 2 then s
  else
    let s := s.modPort k fun x => { x with st := 3, attempt := 0, retrains := min 255 (x.retrains + 1) }
    s.sendLinkmap.peerEvent k 1

/-- Every held flit goes again from the oldest, which telemetry counts; after eight times without progress the port retrains
(R193). -/
def State.replay (s : State) (k : Nat) : State :=
  if (s.port k).held.isEmpty then s
  else if (s.port k).resends ≥ 8 then s.peerRetrainOne k
  else s.modPort k fun x => { x with resend := x.held.length, replays := x.replays + 1 }

/-- REPLAY_TIMEOUT (R193). -/
def execReplayTimeout (k : Nat) (s : State) : Host.Outcome State Fault Refusal :=
  if k ≥ 3 ∨ (s.port k).st ≠ 2 then .next s else .next (s.replay k)

/-- PEER_RETRAIN (R194). -/
def execPeerRetrain (k : Nat) (s : State) : Host.Outcome State Fault Refusal := .next (s.peerRetrainOne k)

/-- HELLO of this die (Table PEER-4). -/
def State.sendHello (s : State) (k : Nat) : State :=
  s.putEgress k { s.newFlit 5 (s.peerOf k) (toBytes 1 1 ++ toBytes s.position 1 ++ toBytes 0x4F111620 4
    ++ toBytes Config.serial.toNat 8 ++ toBytes s.fw.version 4) with fwd := false } 0

/-- PEER_RETRAIN_DONE: an attempt ends: the port is ACTIVE in the mode reached and replays from ACK + 1, or the attempt
repeats, or the port is retired: at the third failure, or below x16 (R189, R194). It ends a first training too. Each of its
`repairs` lane repairs counts. -/
def execPeerRetrainDone (k : Nat) (ok : Bool) (mode : Nat) (repairs : Nat) (s : State) :
    Host.Outcome State Fault Refusal :=
  let x := s.port k
  if k ≥ 3 || !(decide (x.st = 1 ∨ x.st = 3)) || s.rep.retPort.testBit k then .next s
  else
    let s := (List.range repairs).foldl (fun s _ => s.peerEvent k 2) s
    if s.rep.retPort.testBit k then .next s.linkDone
    else if ok && decide (mode < 4) then
      let s := s.modPort k fun x => { x with
        st := 2, mode := mode, attempt := 0, helloSeen := false, resync := false, resend := x.held.length, resends := 0 }
      .next ((s.sendHello k).sendLinkmap).linkDone
    else if ok || decide (x.attempt ≥ 2) then .next ((s.retirePort k 2).peersFollow s).linkDone
    else .next (s.modPort k fun x => { x with attempt := x.attempt + 1 })

/-- NO_HELLO (R201). -/
def execNoHello (k : Nat) (s : State) : Host.Outcome State Fault Refusal :=
  if k ≥ 3 ∨ (s.port k).st ≠ 2 ∨ (s.port k).helloSeen = true then .next s else .next (s.disablePort k 3)

/-- PEER_LINK_LOST: the link is gone; the port trains for it anew (R203, R204). -/
def execPeerLinkLost (k : Nat) (s : State) : Host.Outcome State Fault Refusal :=
  if k ≥ 3 || !(decide ((s.port k).st = 2 ∨ (s.port k).st = 3)) then .next s
  else .next ((s.modPort k fun x => { x with st := 1, attempt := 0, helloSeen := false }).linkLost k sPeer 0x60)

/-! Ingress (R192, R195). -/

/-- ACK and NAK of the other side are acted on (R192): acknowledged flits are let go, a NAK starts a replay. -/
def State.takeAck (s : State) (k : Nat) (f : Flit) : State :=
  let x := s.port k
  let left := x.held.dropWhile (fun h => decide ((f.ack + 4096 - h.seq) % 4096 < 2048))
  let s := s.modPort k fun x => { x with
    held := left, resend := min x.resend left.length
    resends := if left.length = x.held.length then x.resends else 0 }
  if f.nak then s.replay k else s

/-- A bad flit: discarded; a NAK is due unless one has been sent that is still unanswered (R192). -/
def State.badFlit (s : State) (k : Nat) : State :=
  s.modPort k fun x => if x.nakSent then x else { x with sendNak := true }

/-- A sequenced flit in order is accepted: E advances, its credits are taken (R192). -/
def State.accept (s : State) (k : Nat) (f : Flit) : State :=
  (s.modPort k fun x => { x with
    expect := (x.expect + 1) % 4096, nakSent := false, crData := x.crData + f.crData % 4
    crFlag := x.crFlag + b2n f.crFlag, crMgmt := x.crMgmt + b2n f.crMgmt
    crRelay := x.crRelay + f.crRelay % 4 }).takeAck k f

/-- A sequenced flit arrives: discarded when bad or out of order; kept for relaying, or discarded and logged, when it is
for another die; else, or where `any` says that its destination does not matter, `act` is carried out and its buffer entry
freed (R192, R195, R202). The log entry's DETAIL of a stray flit is a free value. -/
def State.receive (s : State) (k : Nat) (f : Flit) (any : Bool) (act : State → State) : State :=
  if k ≥ 3 ∨ (s.port k).st ≠ 2 then s
  else if !f.good then s.badFlit k
  else if f.seq ≠ (s.port k).expect then s
  else
    let s := s.accept k f
    if f.dst ≠ s.position ∧ f.fwd = true then s.modPort k fun x => { x with relayIn := x.relayIn ++ [f] }
    else if f.dst ≠ s.position ∧ any = false then
      let d := Config.freeNat s.freeCtr % 256
      (s.bump.addLog { code := 0x15, cls := 3, kind := kPort, unit := k, count := s.errsIn kPort k, detail := d }).modPort k fun x =>
        x.owe (f.cls false)
    else (act s).modPort k fun x => x.owe (f.cls false)

/-- A row for one TYPE of flit. -/
def State.receiveType (s : State) (k : Nat) (f : Flit) (typ : Nat) (act : State → State) : Host.Outcome State Fault Refusal :=
  if f.typ = typ then .next (s.receive k f false act) else .next s

/-- A row for one management message; a HELLO is checked whatever its destination, which a wrong wiring makes another
(R201). -/
def State.receiveMsg (s : State) (k : Nat) (f : Flit) (msg : Nat) (act : State → State) : Host.Outcome State Fault Refusal :=
  if f.typ = 5 ∧ fld f.body 0 1 = msg then .next (s.receive k f (decide (msg = 1)) act) else .next s

/-- CREDIT (R195). -/
def execCredit (k : Nat) (f : Flit) (s : State) : Host.Outcome State Fault Refusal := s.receiveType k f 6 id

/-- BAD_FLIT (R191, R192). -/
def execBadFlit (k : Nat) (f : Flit) (s : State) : Host.Outcome State Fault Refusal :=
  if k ≥ 3 ∨ (s.port k).st ≠ 2 ∨ f.good = true then .next s else .next (s.badFlit k)

/-- RELAY_FORWARD: the first flit of its SRC that waits at this ingress and has credit goes to its destination's egress,
and its buffer entry is freed (R202). -/
def execRelayForward (k : Nat) (s : State) : Host.Outcome State Fault Refusal :=
  let fs := (s.port k).relayIn
  let can (f : Flit) : Bool := s.linkUp f.dst && decide ((s.port (s.portTo f.dst)).credits (f.cls false) ≠ 0)
    && decide (fs.find? (fun g => g.src = f.src) = some f)
  match fs.find? can with
  | none => .next s
  | some f =>
    let s := s.modPort k fun x => { x with relayIn := x.relayIn.erase f, oweRelay := x.oweRelay + 1 }
    .next (s.modPort (s.portTo f.dst) fun x => { x with qRelay := x.qRelay ++ [{ f with fwd := false }] })

/-! Data (R197–R199). -/

/-- May peer writes reach a store address (R197)? A die below the minimum service set serves none (R23). -/
def State.peerServes (s : State) (a : Nat) : Bool :=
  s.serving && decide (a < 2 ^ 31) && decide (sliceField a < 96)
    && (match s.sliceOwner (sliceField a) with
        | some p => (s.part p).peerIngress && s.hostServes (s.xlate p a / 2 ^ 24)
        | none => false)

/-- A stream is marked refused (R197). -/
def State.markRefused (s : State) (src sid : Nat) : State :=
  if s.refused.contains (src, sid) then s else { s with refused := (src, sid) :: s.refused }

/-- A peer write is refused and logged (R197). -/
def State.peerDrop (s : State) (k detail a : Nat) : State :=
  s.addLog { code := 0x15, cls := 3, kind := kPort, unit := k, count := s.errsIn kPort k, detail := detail, addr := a
             part := if a < 2 ^ 31 then s.sliceOwner (sliceField a) else none }

/-- A peer write at a store address: the slice wakes, zeroised where it was OFF, and takes the bytes (R197). -/
def State.peerWrite (s : State) (a : Nat) (bs : List Byte) : State :=
  let g := s.hdmAddr a
  let s := s.wakeSlice (g / 2 ^ 24)
  s.write .ingress ((List.range bs.length).map (fun i => (s.hdmAddr (a + i), bs.getD i 0#8)))

/-- The lines of a DATA_STORE flit are written, each refused or not (R197). -/
def State.dataStore (s : State) (k : Nat) (f : Flit) : State :=
  (List.range (f.lines % 4 + 1)).foldl (fun s i =>
    let a := 64 * (f.place % 2 ^ 25) + 64 * i
    if s.peerServes a then s.peerWrite a ((f.body.drop (64 * i)).take 64)
    else (s.markRefused f.src f.sid).peerDrop k 1 a) s

/-- The open REDUCE_RECV that holds a pair and names a source (R116, R199). -/
def State.openPair (s : State) (chan tile src : Nat) : Option Cmd :=
  s.cmds.find? (fun c => decide (c.opcode = 11) && c.fin.isNone && decide (c.total ≠ 0) && decide (c.rChannel = chan)
    && c.rSrcMask.testBit src && decide (c.rTile0 ≤ tile ∧ tile < c.rTile0 + c.rNtile))

/-- Has a tile landed from a source for a command's pair? -/
def State.hasLanded (s : State) (c : Cmd) (tile src : Nat) : Bool :=
  s.landing.any (fun e => e.1.1 = src && e.1.2.2 = tile && decide (e.2.1 = (c.q, c.t)))

/-- The fate of a tile at its first flit (R199). -/
def State.decideTile (s : State) (k : Nat) (f : Flit) : State :=
  let key := (f.src, f.sid, f.tile)
  let drop (s : State) : State := { s with tiles := (key, none) :: s.tiles }
  match (s.openPair f.chan f.tile f.src).filter (fun c => !s.hasLanded c f.tile f.src) with
  | none => (drop s).sendMgmt f.src 5 (toBytes f.chan 1 ++ toBytes f.sid 1 ++ toBytes f.tile 4)
  | some c =>
    if f.fmt = fmtCode c.rFmt ∧ f.fmt ≤ 5 then
      { s with tiles := (key, some (c.q, c.t)) :: s.tiles, landing := (key, (c.q, c.t), 0, false) :: s.landing }
    else
      let s := (drop s).markRefused f.src f.sid
      (s.addLog { code := 0x15, cls := 3, kind := kPort, unit := k, count := s.errsIn kPort k, detail := 3, part := some c.part
                  cmd := some (c.q, c.t) }).abort c.q c.t sPeer 0x61

/-- The rows of a landing flit go to staging; rows at or beyond ROWS are discarded (R199). -/
def State.landRows (s : State) (c : Cmd) (f : Flit) : State :=
  let w := recvWidth c.rFmt
  let rank := rankIn c.rSrcMask f.src
  let t := f.tile - c.rTile0
  let put (s : State) (r off : Nat) (bs : List Byte) : State :=
    if r < c.rRows then s.writeAt .ingress c.part (c.stageRow t rank r + off) bs else s
  if w = 1 then put (put s f.row 0 (f.body.take 128)) (f.row + 1) 0 (f.body.drop 128)
  else if w = 2 then put s f.row 0 f.body
  else put s f.row (256 * f.half) f.body

/-- A tile's landing goes on: rows received, and whether it is whole. -/
def State.landed (s : State) (c : Cmd) (f : Flit) : State :=
  let w := recvWidth c.rFmt
  let n := if w = 1 then f.row + 2 else f.row + 1
  let whole := decide (n ≥ c.rRows) && (decide (w ≠ 4) || decide (f.half = 1))
  { s with landing := s.landing.map (fun e =>
      if e.1 = (f.src, f.sid, f.tile) ∧ e.2.1 = (c.q, c.t) then
        (e.1, e.2.1, max e.2.2.1 (min n c.rRows), e.2.2.2 || whole) else e) }

/-- A DATA_CHANNEL flit of a tile that lands goes to staging (R199). -/
def State.landFlit (s : State) (f : Flit) : State :=
  match s.tiles.find? (fun e => decide (e.1 = (f.src, f.sid, f.tile))) with
  | some (_, some (q, t)) =>
    match s.cmd? q t with
    | some c => ((s.landRows c f).landed c f).recvAll
    | none => s
  | _ => s

/-- STATUS of the answer to a FLAG flit (R198): 0 DONE, 1 REFUSED, 2 ABORTED. -/
def State.flagStatus (s : State) (f : Flit) : Nat :=
  let a := fld f.body 0 8
  let fl := fld f.body 0x11 1
  if fl.testBit 2 then 2
  else if s.refused.contains (f.src, f.sid) || !s.peerServes a || decide (a % 8 ≠ 0) then 1
  else 0

/-- A stream has ended: its marks and decisions go, and its landed tiles have all the rows they get. -/
def State.endStream (s : State) (src sid : Nat) : State :=
  { s with
    refused := s.refused.filter (· != (src, sid))
    tiles := s.tiles.filter (fun e => !(decide (e.1.1 = src) && decide (e.1.2.1 = sid)))
    landing := s.landing.map (fun e => if e.1.1 = src ∧ e.1.2.1 = sid then (e.1, e.2.1, e.2.2.1, true) else e) }

/-- SRC's flag has arrived for the open REDUCE_RECV commands on a channel (R198, R118). -/
def State.flagArrives (s : State) (src chan : Nat) : State :=
  (s.cmds.filter (fun c => decide (c.opcode = 11) && c.fin.isNone && decide (c.total ≠ 0) && decide (c.rChannel = chan)
    && c.rSrcMask.testBit src)).foldl (fun s c =>
      (s.modCmd c.q c.t fun c => { c with flagsIn := if c.flagsIn.contains src then c.flagsIn else src :: c.flagsIn }).tryComplete
        c.q c.t) s

/-- A FLAG flit is performed and answered; every data flit accepted before it has been performed (R198). -/
def State.flagFlit (s : State) (k : Nat) (f : Flit) : State :=
  let a := fld f.body 0 8
  let fl := fld f.body 0x11 1
  let st := s.flagStatus f
  let write := !fl.testBit 0 && !fl.testBit 2 && !s.refused.contains (f.src, f.sid)
  let s := if write && !s.peerServes a then s.peerDrop k 1 a else s
  let s := if st = 0 ∧ fl.testBit 0 = false then s.peerWrite a (toBytes (fld f.body 8 8) 8) else s
  let s := (s.endStream f.src f.sid).recvAll
  let s := if st = 0 ∧ fl.testBit 1 = true then s.flagArrives f.src (fld f.body 0x10 1) else s
  s.enqueue (s.newFlit 4 f.src (toBytes f.sid 1 ++ toBytes st 1))

/-! Held writes (R272). -/

/-- The store addresses that an accepted flit may write, after translation. -/
def State.flitAddrs (s : State) (f : Flit) : List Nat :=
  match f.typ with
  | 1 => (List.range (f.lines % 4 + 1)).map (fun i => s.hdmAddr (64 * (f.place % 2 ^ 25) + 64 * i))
  | 2 =>
    match s.tiles.find? (fun e => decide (e.1 = (f.src, f.sid, f.tile))) with
    | some (_, some (q, t)) =>
      match s.cmd? q t with
      | some c => (List.range 256).map (fun i =>
          s.gaddr c.part (c.stageRow (f.tile - c.rTile0) (rankIn c.rSrcMask f.src) f.row + 256 * f.half + i))
      | none => []
    | _ => []
  | _ => [s.hdmAddr (fld f.body 0 8)]

/-- Does an accepted flit wait: a row that it writes is being copied to a spare (R272), or a flit of its source waits before
it (R197, R198)? -/
def State.flitHeld (s : State) (f : Flit) : Bool :=
  s.ingress.any (fun e => e.2.src = f.src)
    || (s.flitAddrs f).any (fun g => decide (g < hostBase)
      && (s.slice (g / 2 ^ 24)).sparing.any (fun r => !r.2 && decide (r.1 = g % 2 ^ 24 / 4096)))

/-- An accepted data or flag flit is performed. -/
def State.performFlit (s : State) (k : Nat) (f : Flit) : State :=
  match f.typ with
  | 1 => s.dataStore k f
  | 2 => s.landFlit f
  | _ => s.flagFlit k f

/-- An accepted data or flag flit is performed, or waits (R272; log 139). -/
def State.ingest (s : State) (k : Nat) (f : Flit) : State :=
  if s.flitHeld f then { s with ingress := s.ingress ++ [(k, f)] } else s.performFlit k f

/-- The flits that waited are performed in their order, but for those that still wait (R272). -/
def State.serveIngress (s : State) : State :=
  s.ingress.foldl (fun s e => s.ingest e.1 e.2) { s with ingress := [] }

/-- DATA_STORE. -/
def execDataStore (k : Nat) (f : Flit) (s : State) : Host.Outcome State Fault Refusal :=
  s.receiveType k f 1 (fun s => s.serveIngress.ingest k f)

/-- DATA_CHANNEL: its tile's fate is decided at the tile's first flit (R199). -/
def execDataChannel (k : Nat) (f : Flit) (s : State) : Host.Outcome State Fault Refusal :=
  s.receiveType k f 2 (fun s =>
    let s := if f.row = 0 ∧ f.half = 0 then s.decideTile k f else s
    s.serveIngress.ingest k f)

/-- FLAG. -/
def execFlag (k : Nat) (f : Flit) (s : State) : Host.Outcome State Fault Refusal :=
  s.receiveType k f 3 (fun s => s.serveIngress.ingest k f)

/-- IDLE: ACK and NAK only; it has no SEQ (R192). -/
def execIdle (k : Nat) (f : Flit) (s : State) : Host.Outcome State Fault Refusal :=
  if k ≥ 3 ∨ (s.port k).st ≠ 2 ∨ f.typ ≠ 0 then .next s
  else if f.good then .next (s.serveIngress.takeAck k f)
  else .next (s.badFlit k)

/-- A FLAG_ACK flit: DONE acknowledges the stream's flag, REFUSED ends the command PEER_REFUSED (R114, R198); one for a
stream whose command has gone frees its SID (R196). -/
def State.flagAck (s : State) (f : Flit) : State :=
  let sid := fld f.body 0 1
  let st := fld f.body 1 1
  match s.cmds.find? (fun c => c.streams.any (fun x => x.dst = f.src && x.sid = sid && decide (x.answer = 0))) with
  | none => { s with closing := s.closing.erase (f.src, sid) }
  | some c =>
    let s := s.modCmd c.q c.t fun c => { c with streams := c.streams.map (fun x =>
      if x.dst = f.src ∧ x.sid = sid ∧ x.answer = 0 then { x with answer := st + 1 } else x) }
    if st = 0 then s.tryComplete c.q c.t
    else if st = 1 then s.abort c.q c.t sPeer 0x61
    else s

/-- FLAG_ACK. -/
def execFlagAck (k : Nat) (f : Flit) (s : State) : Host.Outcome State Fault Refusal :=
  s.receiveType k f 4 (fun s => s.flagAck f)

/-! Management messages (R200–R203). -/

/-- HELLO: the position that it carries is checked (R201). -/
def execHello (k : Nat) (f : Flit) (s : State) : Host.Outcome State Fault Refusal :=
  s.receiveMsg k f 1 (fun s =>
    let p := fld f.body 1 1
    if p = s.position then s.disablePort k 1
    else if p ≠ s.peerOf k then s.disablePort k 2
    else s.modPort k fun x => { x with helloSeen := true })

/-- LINKMAP: routes and group follow; streams that lose their way end (R202, R204). -/
def execLinkmap (k : Nat) (f : Flit) (s : State) : Host.Outcome State Fault Refusal :=
  s.receiveMsg k f 2 (fun s =>
    ({ s with linkmaps := tset 0 s.linkmaps f.src (fld f.body 5 1 % 16) }.regroup.liveChange).routesChanged sPeer 0x60)

/-- RESYNC_REQ: the receiver's E on the lost link goes back (R203). -/
def execResyncReq (k : Nat) (f : Flit) (s : State) : Host.Outcome State Fault Refusal :=
  s.receiveMsg k f 3 (fun s =>
    let j := fld f.body 1 1
    s.sendMgmt f.src 4 (toBytes j 1 ++ toBytes (s.port (2 - j)).expect 2))

/-- RESYNC_RSP: what the lost link held from NEXT on goes again through the relay, in order; what queued behind it follows
(R203). The lost link's own numbers go on at NEXT, which its other end expects there. DEDUCED (log 47). -/
def State.resynced (s : State) (j next : Nat) : State :=
  let x := s.port j
  let q := s.peerOf j
  match s.wayTo q with
  | none => s
  | some r =>
    let own := x.again.filter (fun f => f.dst = q) ++ x.held.filter (fun f =>
      decide (f.src = s.position ∧ f.dst = q ∧ f.typ ≠ 6) && decide ((f.seq + 4096 - next) % 4096 < 2048))
    let mine (f : Flit) : Bool := decide (f.dst = q)
    let s := s.modPort j fun x => { x with
      held := [], again := [], resend := 0, resends := 0, qMgmt := [], qFlagAck := [], qFlag := [], qData := [], resync := false
      nextSeq := next % 4096 }
    let s := s.modPort r fun y => { y with again := y.again ++ own.map s.fwdOf }
    let s := ((x.qMgmt ++ x.qFlagAck ++ x.qFlag).filter mine).foldl (fun s f => s.putEgress r (s.fwdOf f) 0) s
    (x.qData.filter (fun e => mine e.2)).foldl (fun s e => s.putEgress r (s.fwdOf e.2) e.1) s

/-- RESYNC_RSP. -/
def execResyncRsp (k : Nat) (f : Flit) (s : State) : Host.Outcome State Fault Refusal :=
  s.receiveMsg k f 4 (fun s =>
    let j := fld f.body 1 1
    if j < 3 ∧ (s.port j).resync = true then s.resynced j (fld f.body 2 2) else s)

/-- CH_CLOSED: the named tile is to be sent again (R199, R115). -/
def execChClosed (k : Nat) (f : Flit) (s : State) : Host.Outcome State Fault Refusal :=
  s.receiveMsg k f 5 (fun s =>
    let sid := fld f.body 2 1
    let tile := fld f.body 3 4
    match s.cmds.find? (fun c => c.fin.isNone && c.streams.any (fun x =>
        x.dst = f.src && x.sid = sid && x.kept.any (fun e => e.1 = tile))) with
    | some c => if s.retries.contains (c.q, c.t, sid, tile) then s
        else { s with retries := s.retries ++ [(c.q, c.t, sid, tile)] }
    | none => s)

/-- SLACK: a member's report (R263). -/
def execSlack (k : Nat) (f : Flit) (s : State) : Host.Outcome State Fault Refusal :=
  s.receiveMsg k f 6 (fun s => s.modPwr fun p => { p with
    slackOf := tset none p.slackOf f.src (some (sext 32 (fld f.body 5 4), fld f.body 9 2, fld f.body 0xB 2, s.time)) })

/-- GROUP_CAP: this member's entry becomes its effective cap (R263). -/
def execGroupCap (k : Nat) (f : Flit) (s : State) : Host.Outcome State Fault Refusal :=
  s.receiveMsg k f 7 (fun s => s.modPwr fun p => { p with effCap := some (fld f.body (5 + 2 * s.position) 2) })

/-- UNLISTED_MSG (R200). -/
def execUnlistedMsg (k : Nat) (f : Flit) (s : State) : Host.Outcome State Fault Refusal :=
  let m := fld f.body 0 1
  if f.typ ≠ 5 ∨ (1 ≤ m ∧ m ≤ 7) then .next s
  else .next (s.receive k f false (fun s => s.addLog { code := 0x15, cls := 3, kind := kPort, unit := k, count := s.errsIn kPort k, detail := 2 }))

end Sys2Proof.Machine
end

