-- ==== Sys2Proof/Machine/Part.lean ====
section
/-!
DEFINITION. Partitions: creation, reshape, destruction and reset with their checks and phases (R206–R214, R319), and the
zeroisation of units that change hands (R217).
-/
namespace Sys2Proof.Machine

/-- A path's staging copy. -/
def State.staging (s : State) (p : Path) : Staging := match p with | .port => s.stPort | .bar0 => s.stBar0

/-- A partition command ends: MG_CMDSTAT, and LAST_RESULT and LAST_DETAIL of its partition (R209). -/
def State.ptResult (s : State) (part status detail : Nat) : State :=
  (s.mgResult status detail).modPart part fun x => { x with lastResult := status, lastDetail := detail }

/-! Checks (R210, R211). -/

/-- Is a named unit owned by a partition? -/
def State.unitOwned (s : State) (c sl q : Nat) : Bool :=
  (List.range 8).any (fun p => let x := s.part p
    decide (x.st ≠ 0) && (decide (x.crests &&& c ≠ 0) || decide (x.slices &&& sl ≠ 0) || decide (x.queues &&& q ≠ 0)))

/-- Rows 3 to 5 of R210 on the units that a partition gains: STATUS and DETAIL of the first failure. -/
def State.gainChecks (s : State) (c sl q : Nat) : Option (Nat × Nat) :=
  if s.unitOwned c sl q then some (csState, dOwned)
  else if (maskList sl 96).any (fun n => (s.slice n).transit) then some (csState, dTransit)
  else if (maskList c 16).any (fun l => !s.crestPresent l) || (maskList sl 96).any s.sliceRetired then
    some (csState, dRetired)
  else none

/-! PT_CREATE (R210). -/

/-- A queue that a partition gains is DISABLED at its reset configuration. -/
def State.freshQueues (s : State) (m : Nat) : State :=
  (maskList m 64).foldl (fun s q => s.modQueue q fun _ => {}) s

/-- The partition's trace entries read 0 (R210, R213, R341). -/
def State.zeroTrace (s : State) (p : Nat) : State := { s with trace := s.trace.filter (fun e => e.2.part ≠ p) }

/-- The partition's energy counter moves to the released counter (R264). -/
def State.releaseEnergy (s : State) (p : Nat) : State :=
  { s.modPart p (fun x => { x with energy := 0 }) with releasedE := (s.releasedE + (s.part p).energy) % 2 ^ 64 }

/-- A slice that a WARM reset left in transit is zeroised and free (R214). -/
def State.freeTransit (s : State) : State :=
  if s.journal.isSome then s
  else (List.range 96).foldl (fun s n =>
    if (s.slice n).transit then (s.zeroSlice n).modSlice n fun x => { x with transit := false } else s) s

/-- PT_CREATE on a path's staging copy (R210, R327), slices that a WARM reset left in transit being zeroised before their
check (R214). -/
def State.ptCreate (s : State) (path : Path) (p : Nat) : State :=
  let g := s.staging path
  if g.sel ≠ p then s.ptResult p csArg dSel
  else if (s.part p).st ≠ 0 then s.ptResult p csState dNotFree
  else if g.crests = 0 ∨ g.slices = 0 ∨ g.queues = 0 then s.ptResult p csArg dEmpty
  else
    let s := s.freeTransit
    match s.gainChecks g.crests g.slices g.queues with
    | some r => s.ptResult p r.1 r.2
    | none =>
      let s := ((s.freshQueues g.queues).zeroTrace p).releaseEnergy p
      let s := s.modPart p fun x => { x with
        crests := g.crests, slices := g.slices, queues := g.queues, ctl := andNot g.ctl 4 ||| (x.ctl &&& 4), guar := g.guar
        st := 1, lastQ := 63 }
      s.liveChange.ptResult p csOk 0

/-! PT_RESHAPE and PT_DESTROY (R211–R214). -/

/-- The refusals of R211 beside those of R210. -/
def State.reshapeChecks (s : State) (p newSl remSl remQ : Nat) : Option (Nat × Nat) :=
  if (maskList remQ 64).any (fun q => decide ((s.queue q).st ≠ .disabled)) then some (csState, dQueues)
  else if (maskList remSl 96).any (fun n => (List.range 64).any (fun q =>
      decide ((s.queue q).st ≠ .disabled) && s.ringIn q n)) then some (csState, dRing)
  else if (s.part p).interleave && decide (newSl ≠ (s.part p).slices) then some (csArg, dInterleave)
  else none

/-- QUIESCE starts: the journal entry is written and fetch stops (R212, R214). -/
def State.reshapeStart (s : State) (op p newC newSl newQ ctl guar : Nat) : State :=
  let x := s.part p
  let s := s.modPart p fun x => { x with st := if op = 0x12 then 4 else 2 }
  { s.mgRuns op with journal := some {
      opcode := op, part := p, phase := 1, remCrests := andNot x.crests newC, remSlices := andNot x.slices newSl
      remQueues := andNot x.queues newQ, newCrests := newC, newSlices := newSl, newQueues := newQ
      newCtl := ctl, newGuar := guar } }

/-- PT_RESHAPE on a path's staging copy (R211, R327). A staged INTERLEAVE and DBG_OPTIN are not taken (R208). -/
def State.ptReshape (s : State) (path : Path) (p : Nat) : State :=
  let g := s.staging path
  let x := s.part p
  if g.sel ≠ p then s.ptResult p csArg dSel
  else if x.st ≠ 1 then s.ptResult p csState dNotActive
  else if g.crests = 0 ∨ g.slices = 0 ∨ g.queues = 0 then s.ptResult p csArg dEmpty
  else
    match s.gainChecks (andNot g.crests x.crests) (andNot g.slices x.slices) (andNot g.queues x.queues) with
    | some r => s.ptResult p r.1 r.2
    | none =>
      match s.reshapeChecks p g.slices (andNot x.slices g.slices) (andNot x.queues g.queues) with
      | some r => s.ptResult p r.1 r.2
      | none => s.reshapeStart 0x11 p g.crests g.slices g.queues (andNot g.ctl 5 ||| (x.ctl &&& 5)) g.guar

/-- PT_DESTROY (R213). -/
def State.ptDestroy (s : State) (p : Nat) : State :=
  let x := s.part p
  if x.st ≠ 1 then s.ptResult p csState dNotActive
  else if (maskList x.queues 64).any (fun q => decide ((s.queue q).st ≠ .disabled)) then s.ptResult p csState dQueues
  else s.reshapeStart 0x12 p 0 0 0 0 3

/-! PT_RESET (R319). -/

/-- A command's record is written where its ring can be reached; else it stays due. -/
def State.recordNow (s : State) (q t : Nat) : State := orStay s (execCompletionRecord q t 0 s)

/-- Every command that `sel` picks ends with a status, and its record is written in the order of ends (R319, R320). -/
def State.endAll (s : State) (sel : Cmd → Bool) (st sub : Nat) : State :=
  let s := (s.cmds.filter (fun c => sel c && c.fin.isNone)).foldl (fun s c => s.endCmd c.q c.t st sub) s
  s.ends.foldl (fun s k => match s.cmd? k.1 k.2 with
    | some c => if sel c then s.recordNow k.1 k.2 else s
    | none => s) s

/-- Accumulators, vector state, program memory and handles of a crest are zeroised (R59, R89). -/
def Crest.scrub (c : Crest) : Crest := { c.zeroise with prog := [], handles := [] }

/-- PT_RESET, a PARTITION reset (R319). It ends at once where no crest of the partition is lent; else PT_STATE reads
RESETTING until each has returned at its boundary (R137). -/
def State.ptReset (s : State) (p : Nat) : State :=
  let x := s.part p
  if x.st ≠ 1 then s.ptResult p csState dNotActive
  else
    let s := (maskList x.queues 64).foldl State.stopQueue s
    let s := s.endAll (fun c => c.part = p) sReset 0x72
    let s := (maskList x.crests 16).foldl (fun s l => s.modCrest (s.physOf l) fun c =>
      if c.lentTo.isSome then { c with prog := [], handles := [] } else c.scrub) s
    let s := (s.modPart p fun x => { x with st := 3 }).mgRuns 0x13
    let s := (maskList x.crests 16).foldl (fun s l =>
      if s.mayReturn (s.physOf l) then s.recall (s.physOf l) none else s) s
    s.resetEnds.adoptAll

/-- The held PT_RESETs run once the reshape or destroy has ended (R209): they all name its partition, and one after the other
they leave what one leaves. -/
def State.heldReset (s : State) : State :=
  match s.mg.running, s.mg.pending with
  | none, x :: _ => (s.modMg fun m => { m with pending := [] }).ptReset x.2
  | _, _ => s

/-! The phases. -/

/-- REMAP and WAKE: the new sets stand, zeroised slices are free and OFF, removed crests and their regulators OFF (R228, Table
SUP-6), fetch resumes (Table PART-4). A retired slice does not come back into a set without interleave (R274). -/
def State.remap (s : State) (j : Journal) : State :=
  let p := j.part
  let il := (s.part p).interleave
  let sl := if il then j.newSlices else andNot j.newSlices s.rep.retSlice
  let s := (maskList j.remSlices 96).foldl (fun s n =>
    s.modSlice n fun x =>
      { x with transit := false, pw := if s.sliceRetired n then x.pw else .off, waking := false, scrub := 0 }) s
  let s := (maskList j.remCrests 16).foldl (fun s l => (s.modCrest (s.physOf l) fun c =>
    { c.scrub.powerLoss with lastPart := none, handles := [] }).modReg (s.physOf l) fun r => r.turnOff s.time 4) s
  let s := s.freshQueues (andNot j.newQueues (s.part p).queues)
  let s := s.modPart p fun x => { x with
    crests := j.newCrests, slices := sl, queues := j.newQueues, guar := j.newGuar
    ctl := if j.opcode = 0x12 then 0 else andNot j.newCtl 4 ||| (x.ctl &&& 4)
    st := if j.opcode = 0x12 then 0 else 1 }
  let s := if j.opcode = 0x12 then (s.zeroTrace p).releaseEnergy p else s
  ({ s with journal := none }.liveChange.readyOrRun.ptResult p csOk 0).heldReset.adoptAll

/-- Does a reshape still quiesce: commands of its partition in flight, or crests of it lent out (R212)? -/
def State.quiescing (s : State) (p : Nat) : Bool :=
  s.cmds.any (fun c => c.part = p) || (maskList (s.part p).crests 16).any (fun l => !(s.crest (s.physOf l)).held.isEmpty)

/-- QUIESCE_DONE: nothing of the partition is in flight and none of its crests is lent (R212). -/
def execQuiesceDone (s : State) : Host.Outcome State Fault Refusal :=
  match s.journal with
  | none => .next s
  | some j =>
    if j.phase ≠ 1 ∨ s.quiescing j.part = true then .next s
    else .next { s with journal := some { j with phase := 2 } }

/-- QUIESCE_TMO: 1 ms has passed with commands in flight: nothing has changed, fetch resumes (R212). -/
def execQuiesceTmo (s : State) : Host.Outcome State Fault Refusal :=
  match s.journal with
  | none => .next s
  | some j =>
    if j.phase ≠ 1 ∨ s.quiescing j.part = false then .next s
    else
      let s := s.modPart j.part fun x => { x with st := 1 }
      .next ({ s with journal := none }.ptResult j.part csQuiesce 0).heldReset

/-- DRAIN_DONE: drain writes are performed, host-bias pages of the removed slices go to device bias under R181 (what the host
returns of them is zeroised next, and no command reads it before); ZEROISE starts: the slices are in transit, the removed crests zeroised. With no slice to zeroise REMAP follows (R212). -/
def execDrainDone (s : State) : Host.Outcome State Fault Refusal :=
  match s.journal with
  | none => .next s
  | some j =>
    if j.phase ≠ 2 then .next s
    else
      let ns := (maskList j.remSlices 96).filter (fun n => !s.sliceRetired n)
      let m := (ns.map (fun n => 2 ^ n)).sum
      let pages := (tkeys s.bias.hostPages).filter (fun k => tget false s.bias.hostPages k && j.remSlices.testBit (k / 4096))
      let s := pages.foldl (fun s k => s.pageToDevice (k * 4096) { it := [], poison := [], waited := 0 }) s
      let s := ns.foldl (fun s n => s.modSlice n fun x => { x with transit := true }) s
      let s := s.modPart j.part fun x => { x with slices := andNot x.slices j.remSlices }
      let s := (maskList j.remCrests 16).foldl (fun s l => s.modCrest (s.physOf l) Crest.scrub) s
      let j := { j with phase := 3, transit := m, marked := 0 }
      let s := { s with journal := some j }
      if m = 0 then .next (s.remap j) else .next s

/-- SLICE_ZEROISE_DONE: the lowest slice in transit is zeroised, OFF and marked (R228); after the last, REMAP follows (R214). -/
def execSliceZeroiseDone (s : State) : Host.Outcome State Fault Refusal :=
  match s.journal with
  | none => .next s
  | some j =>
    if j.phase ≠ 3 then .next s
    else
      let s1 := match maskList j.transit 96 with
        | [] => s
        | n :: _ => { (s.zeroSlice n).modSlice n fun x => { x with pw := .off, waking := false, scrub := 0 } with
            journal := some { j with transit := clrBit j.transit n, marked := orBit j.marked n } }
      match s1.journal with
      | some j => if j.transit = 0 then .next (s1.remap j) else .next s1
      | none => .next s1

end Sys2Proof.Machine
end

