-- ==== Sys2Proof/Machine/Supply.lean ====
section
/-!
DEFINITION. The supply: the VIN monitor (R230), regulators with their soft starts, retries and stops (R233, R237–R239),
open phases and failed sense (R240–R242), the power sequencer (R243), and the power states of crests and slices (R21,
R228, R235).
-/
namespace Sys2Proof.Machine

/-! VIN (R230). -/

/-- VIN_LOW: every crest goes to P15 at once. -/
def execVinLow (s : State) : Host.Outcome State Fault Refusal :=
  if !s.mg.released || s.pwr.vinLow then .next s
  else
    let s := (s.modPwr fun p => { p with vinLow := true }).alert aVinLow
    .next (s.addLog { code := 0x1C, cls := 3, kind := kDie, detail := 1 }).applyHw

/-- VIN_LOW_CLEAR: power control resumes from P15. -/
def execVinLowClear (s : State) : Host.Outcome State Fault Refusal :=
  .next (s.modPwr fun p => { p with vinLow := false })

/-- VIN_HIGH: reported only. -/
def execVinHigh (s : State) : Host.Outcome State Fault Refusal :=
  if !s.mg.released then .next s
  else .next ((s.alert aVinHigh).addLog { code := 0x1C, cls := 3, kind := kDie, detail := 2 })

/-! The sequencer (R243). -/

/-- SEQ_RESTART: the sequencer resets with outputs on; the cap loop freezes. -/
def execSeqRestart (s : State) : Host.Outcome State Fault Refusal :=
  if !s.mg.released then .next s
  else .next (((s.modPwr fun p => { p with seqPresent := false }).alert aSeqRestart).addLog
    { code := 0x1D, cls := 3, kind := kDie, detail := 1 })

/-- SEQ_TIMEOUT: the sequencer has been absent for 10 ms; hardware steps every crest to P15. -/
def execSeqTimeout (s : State) : Host.Outcome State Fault Refusal :=
  if s.pwr.seqPresent || s.pwr.seqTimeout then .next s
  else .next (((s.modPwr fun p => { p with seqTimeout := true }).alert aSeqTimeout).addLog
    { code := 0x1D, cls := 3, kind := kDie, detail := 2 }).applyHw

/-- SEQUENCER_ADOPTS_STATE: the sequencer is back; it adopts every regulator and domain as it stands. -/
def execSequencerAdoptsState (s : State) : Host.Outcome State Fault Refusal :=
  .next (s.modPwr fun p => { p with seqPresent := true, seqTimeout := false })

/-! Regulators. -/

/-- Rating of a regulator in mA (Table SUP-2). -/
def regRating (r : Nat) : Nat := if r ≤ 16 then 20000 else if r ≤ 22 then 10000 else 30000
/-- Setpoint of a regulator that is ON, in mV (Table SUP-2). -/
def State.regSet (s : State) (r : Nat) : Nat :=
  if r ≤ 16 then levelMv (s.startLevel r) else if r ≤ 22 then 780 else 750
/-- The slices of a tier. -/
def tierSlices (t : Nat) : List Nat := (List.range 16).map (16 * t + ·)

/-- What waited for slices that can no longer be reached goes on, and meets that (R239, R272, R274). -/
def State.goOn (s : State) : State := s.serveHeld.retrySignals.serveIngress

/-- IVR23 is lost (R238, R239): FATAL_SUPPLY, STANDBY, and every command in flight ends ABORT_FAULT. The spec does not say
with which of that status's sub-codes (Table CMD-10): a free choice among them. -/
def State.ivr23Lost (s : State) : State :=
  let sub := faultSubs.getD (Config.freeChoice s.freeCtr 23 % faultSubs.length) 0
  let s := s.bump.modMg fun m => { m with fatalSupply := true }
  ((s.cmds.filter (fun c => c.fin.isNone)).foldl (fun s c => s.endCmd c.q c.t sFault sub) s).checkMin kReg

/-- An event of a regulator that is permanently faulted is logged and not counted (R284). -/
def State.regDead (s : State) (r code detail : Nat) : State :=
  s.addLog { code := code, cls := 2, kind := kReg, unit := r, count := s.errsIn kReg r, detail := detail }

/-- A crest that fails at boot, before any command, is retired with cause BIST; the spare is given out after its own test
(R307, R309). -/
def State.bistRetire (s : State) (p : Nat) : State :=
  if s.crestRetired p then s
  else
    let s := s.modRep fun r => { r with retCrest := orBit r.retCrest p, spareSt := if p = 16 then 2 else r.spareSt }
    (s.addLog { code := 0x0A, cls := 2, kind := kCrest, unit := p, detail := 5 }).notice [aUnitRetired] []

/-- A permanently faulted regulator (R238): its crest or slices are retired, with cause BIST at boot (R307), or the die
cannot serve. -/
def State.regFault (s : State) (r cause : Nat) : State :=
  let n := s.errsIn kReg r
  let s := s.modReg r fun x => { x with st := 5, permanent := true, setpoint := 0 }
  let s := (s.alert aRegFault).addLog { code := 0x19, cls := 2, kind := kReg, unit := r, count := n, detail := cause }
  let why := if s.mg.stage < 6 then 5 else 3
  let s := s.notice [aUnitRetired] []
  if r ≤ 16 then (if s.mg.stage < 6 then s.bistRetire r else s.retireCrest r why)
  else if r ≤ 22 then ((tierSlices (r - 17)).foldl (fun s n => s.retireSlice n why) s).goOn
  else s.ivr23Lost

/-- A detected error of a regulator: counted, logged; permanent at RP_THRESH (R267), or at once where `now` says so
(R368). -/
def State.regError (s : State) (r code cls alert detail : Nat) (now : Bool) : State :=
  let s := s.countErr kReg r
  let s := (s.alert alert).addLog { code := code, cls := cls, kind := kReg, unit := r, count := s.errsIn kReg r, detail := detail }
  if now then s.regFault r 2 else if s.atThresh kReg r then s.regFault r 1 else s

/-- A soft-start attempt fails: the regulator stops and waits, or is permanently faulted at the third (R237, R238). -/
def State.regFail (s : State) (r : Nat) : State :=
  let third := decide ((s.reg r).tries ≥ 3)
  (s.modReg r fun x => { x with st := 4, setpoint := 0, lowOnce := 0, pulse := 0 }).regError r 0x18 1 aRegRetry 1 third

/-- The crests of a group of CREST_BIST (R309). -/
def bistGroup (g : Nat) : List Nat := if g < 4 then [g, 4 + g, 8 + g, 12 + g] else if g = 4 then [16] else []
/-- Has a physical crest ended its test? -/
def State.bistDone (s : State) (p : Nat) : Bool := s.rep.bistPassed.testBit p || s.crestRetired p
/-- Does CREST_BIST run, and is a crest's group the one under test? -/
def State.bistTurn (s : State) (p : Nat) : Bool :=
  decide (2 ≤ s.mg.stage ∧ s.mg.stage ≤ 5 ∧ (s.reg 23).st = 2) && !s.bistDone p
    && (List.range (if p = 16 then 4 else p % 4)).all (fun g => (bistGroup g).all s.bistDone)

/-- Is a regulator's soft start ordered now: of a crest in service, its boot test is due (R309), it wakes from OFF or the spare
is to bind; or the die boots or has a tier to supply (R235, R268, R276, Table BOOT-1)? -/
def State.regWanted (s : State) (r : Nat) : Bool :=
  if r ≤ 16 then s.pwr.seqPresent && !s.pwr.tripped && !s.crestRetired r &&
    (((s.crest r).waking && decide ((s.crest r).pw = .off)) || (decide (r = 16) && s.rep.bindDue.isSome) || s.bistTurn r)
  else if r ≤ 22 then decide ((s.reg 23).st = 2)
  else decide (r = 23) && s.mg.released && s.sb.service

/-- May a domain of IVR23 be switched on: the regulator is ON, within 3 % of its setpoint (R235)? -/
def State.linkSupply (s : State) : Bool := decide ((s.reg 23).st = 2) && (s.reg 23).inBand

/-- The host modules in service that are OFF start to train, once their supply is there (Table BOOT-1, R235, R318). -/
def State.trainHost (s : State) : State :=
  if s.linkSupply then
    (List.range 4).foldl (fun s m =>
      if s.rep.retMod.testBit m then s else s.modHmod m fun h => if h.st = 0 then { h with st := 1, attempt := 0 } else h) s
  else s

/-- The ports in OFF of a die in READY or RUN that has another behind them start to train, once their supply is there (R188,
R235, Table BOOT-1). -/
def State.trainPorts (s : State) : State :=
  if s.serving && s.linkSupply then
    (List.range 3).foldl (fun s k =>
      if (s.port k).st = 0 ∧ s.rep.retPort.testBit k = false ∧ s.peerOf k < Config.groupDies then
        s.modPort k fun x => { x with st := 1, attempt := 0 } else s) s
  else s

/-- The links whose training waited for their supply start it: the host's from TIERS on and while firmware runs, the peers' in
READY (R235, Table BOOT-1). -/
def State.linksUp (s : State) : State :=
  (if decide (3 ≤ s.mg.stage ∧ s.mg.stage ≤ 5) || s.mg.fwRunning then s.trainHost else s).trainPorts

/-- SOFTSTART: a regulator starts its ramp (R237); at boot the stage follows, and with the tiers the
host link starts to train (Table BOOT-1). -/
def execSoftstart (r : Nat) (s : State) : Host.Outcome State Fault Refusal :=
  let x := s.reg r
  if r > 23 || decide (x.st ≠ 0) || x.permanent || !s.regWanted r then .next s
  else
    let set := s.regSet r
    let s := s.modReg r fun x => { x with st := 1, attempt := 1, tries := 1, setpoint := set }
    .next (if s.mg.stage < 4 then
      if r = 23 then s.modMg fun m => { m with stage := 2 }
      else if r ≥ 17 then (s.modMg fun m => { m with stage := 3 }).trainHost else s
    else s)

/-- The slices of a tier whose regulator is ON and at its setpoint serve again, zeroised where a stop had lost their contents:
owned ones ON, with the sparing that was kept carried out, the others OFF (R228, R239, R272); at boot every slice is switched
on (R235, Table BOOT-1). -/
def State.tierUp (s : State) (r : Nat) : State :=
  if 17 ≤ r ∧ r ≤ 22 ∧ s.tierOn (16 * (r - 17)) = true then
    (tierSlices (r - 17)).foldl (fun s n =>
      if s.sliceRetired n then s
      else if (s.slice n).unavailable then
        let owned := (s.sliceOwner n).isSome
        (s.zeroSlice n).modSlice n fun x =>
          { (if owned then x.wakeSparing else x) with
            unavailable := false, pw := if owned then .on else .off, waking := false, scrub := 0 }
      else if s.mg.stage < 4 then s.modSlice n fun x => { x with pw := .on, scrub := 0 }
      else s) s
  else s

/-- CREST_BIST begins with the factory's spare binding from the fuses (R309); the crest that it replaces is out of service. -/
def State.factoryBind (s : State) : State :=
  match Config.factoryRepair with
  | some p =>
    if p < 16 ∧ s.rep.factory = false then s.modRep fun r => { r with
      crestMap := tset 32 r.crestMap p 16, spareSt := 1, replaces := p, factory := true, retCrest := orBit r.retCrest p }
    else s
  | none => s

/-- A regulator has come ON. A crest that a stop took down goes on to wake, its memories lost and its programs to be
reloaded (R236, R239, R94); one under its boot test is in RUN (R309). With IVR23 CREST_BIST begins at boot, and the links
train whose supply was awaited. -/
def State.regUp (s : State) (r : Nat) : State :=
  let s := (s.modReg r fun x => { x with st := 2 }).tierUp r
  let boot := decide (s.mg.stage < 6)
  if r ≤ 16 then
    if (s.crest r).pw ≠ .off ∨ s.crestRetired r = true then s
    else if boot then s.modCrest r fun c => { c with pw := .run }
    else if (s.logicalOf r).isSome then s.modCrest r fun c => { c with waking := true } else s
  else if r = 23 then (if boot then s.factoryBind else s).linksUp
  else s

/-- At boot, once no tier regulator is starting any more, the stage moves to STORE_BIST (Table BOOT-1). -/
def State.bootTiers (s : State) : State :=
  if s.mg.stage = 3 ∧ ([17, 18, 19, 20, 21, 22].all (fun r => decide ((s.reg r).st = 2 ∨ (s.reg r).st = 5))) = true then
    s.modMg fun m => { m with stage := 5 } else s

/-- SOFTSTART_END: the attempt succeeds, or fails below 30 % of the setpoint (R237). -/
def execSoftstartEnd (r vout : Nat) (s : State) : Host.Outcome State Fault Refusal :=
  if (s.reg r).st ≠ 1 then .next s
  else
    let bad := decide (vout * 100 < 30 * (s.reg r).setpoint)
    let s := s.modReg r fun x => { x with vout := vout }
    .next (if bad then s.regFail r else s.regUp r).bootTiers

/-- SOFTSTART_LIMIT_FAIL: a phase hits its limit in 16 consecutive cycles (R237). -/
def execSoftstartLimitFail (r : Nat) (s : State) : Host.Outcome State Fault Refusal :=
  if r ≤ 23 ∧ (s.reg r).permanent = true then .next (s.regDead r 0x18 1)
  else if (s.reg r).st ≠ 1 then .next s else .next (s.regFail r).bootTiers

/-- RETRY_WAIT_END: the next attempt starts (R238). IVR00 to IVR16 stay stopped through a thermal trip (R256). -/
def execRetryWaitEnd (r : Nat) (s : State) : Host.Outcome State Fault Refusal :=
  if (s.reg r).st ≠ 4 || (decide (r ≤ 16) && s.pwr.tripped) then .next s
  else
    let set := s.regSet r
    .next (s.modReg r fun x => { x with st := 1, attempt := x.tries + 1, tries := x.tries + 1, setpoint := set })

/-- A crest loses what its domains held; its commands have ended. -/
def State.crestLost (s : State) (p : Nat) : State :=
  let s := s.endHeld p sFault 0x46
  s.modCrest p fun c => { c.powerLoss with lentTo := none, lastPart := none }

/-- What a stopped tier does to one of its slices (R239): its contents are lost, and the row that it spares is spared at its
next wake. DESIGN CHOICE (log 128). -/
def Slice.lose (x : Slice) : Slice :=
  { x with
    unavailable := true
    sparing := none
    spareQ := (match x.sparing with | some r => r.1 :: x.spareQ | none => x.spareQ)
    copied := (match x.sparing with | some r => r.1 :: x.copied | none => x.copied) }

/-- The load of a stopped regulator (R239): a crest's commands end CREST_LOST; a tier's slices lose their contents; IVR23
takes the die to STANDBY and ends every command. -/
def State.loadLost (s : State) (r : Nat) : State :=
  if r ≤ 16 then s.crestLost r
  else if r ≤ 22 then
    (((tierSlices (r - 17)).foldl (fun s n =>
      if s.sliceRetired n then s
      else ((s.zeroSlice n).modSlice n Slice.lose).unstall (.sparing n) 0) s).alert aStoreLost).goOn
  else s.ivr23Lost

/-- REG_STOP: an ON regulator stops (R239); its retries begin with the wait of 1 ms. -/
def execRegStop (r : Nat) (overVoltage : Bool) (s : State) : Host.Outcome State Fault Refusal :=
  if r ≤ 23 ∧ (s.reg r).permanent = true then .next (s.regDead r 0x18 (if overVoltage then 3 else 2))
  else if r > 23 || !(decide ((s.reg r).st = 2 ∨ (s.reg r).st = 3)) then .next s
  else
    let s := s.modReg r fun x => { x with st := 4, tries := 0, setpoint := 0, lowOnce := 0, pulse := 0 }
    let s := ((s.loadLost r).regError r 0x18 1 aRegRetry (if overVoltage then 3 else 2) false).bootTiers.adoptAll
    .next ((List.range 17).foldl (fun s p => if (s.crest p).held.isEmpty then s else s.kick p) s)

/-! Samples and phases. -/

/-- What control takes for a regulator's input energy of 1 µs, in pJ: measured, or from the estimate with its guard bands
where the sense has failed (R242, R259). A failed sense of a tier or of IVR23 leaves a value that the spec does not give. -/
def State.ctrlEnergy (s : State) (r iin vin : Nat) : Nat :=
  if (s.reg r).senseFail then
    if r ≤ 16 then ((s.crest r).pEst * s.guard r * 1000000).floor.toNat
    else Config.freeNat (s.freeCtr + r)
  else iin * vin

/-- One regulator's sample (R233). -/
def State.sampleOne (s : State) (vin : Nat) (m : RegMeas) : State :=
  let e := m.iin * vin
  let c := s.ctrlEnergy m.r m.iin vin
  let s := (s.modReg m.r fun x => { x with
    iin := m.iin, vout := m.vout
    phI := (List.range (regPhases m.r)).foldl (fun t k => tset 0 t k (m.ph.getD k 0)) x.phI }).tierUp m.r
  let s := if m.r = 23 then s.linksUp else s
  s.modPwr fun p => { p with
    accW := p.accW + e, acc10 := p.acc10 + c
    accWin := if m.r ≤ 16 then tmod 0 p.accWin m.r (· + e) else p.accWin
    accCrest := if m.r ≤ 16 then tmod 0 p.accCrest m.r (· + c) else p.accCrest }

/-- A LINK reset of the host link suspends R24 for 1 ms: a link that is still down then does not return (R321, R172). -/
def State.linkTimer (s : State) : State :=
  match s.mg.linkSince with
  | none => s
  | some t =>
    if s.time < t + 1000 then s
    else
      let s := s.modMg fun m => { m with linkSince := none }
      if (List.range 4).any (fun m => decide ((s.hmod m).st = 2)) then s else { s with hostConfig := 0 }.liveChange.linkGone

/-- REG_SAMPLE: the samples of one µs; the always-on time base counts it (R233). -/
def execRegSample (ms : List RegMeas) (vin : Nat) (s : State) : Host.Outcome State Fault Refusal :=
  if !s.mg.released then .next s
  else
    let s := (ms.filter (fun m => m.r ≤ 24)).foldl (fun s m => s.sampleOne vin m) s
    .next { s.bump with time := s.time + 1 }.linkTimer

/-- The load of a regulator by its last samples, in mA. -/
def Reg.load (x : Reg) : Nat := (x.phI.map (·.2)).sum

/-- Working phases of a regulator. -/
def Reg.working (x : Reg) (n : Nat) : Nat := ((List.range n).filter (fun k => !x.openMask.testBit k)).length

/-- Phase `k` is found open (R240); after the regulator has become permanent such an event is only logged (R284). -/
def State.phaseOpen (s : State) (r k : Nat) : State :=
  if (s.reg r).openMask.testBit k then s
  else if (s.reg r).permanent then
    s.addLog { code := 0x1A, cls := 2, kind := kPhase, unit := 4 * r + k, count := s.errsIn kReg r }
  else
    let n := regPhases r
    let s := s.modReg r fun x =>
      let m := orBit x.openMask k
      { x with openMask := m, phStat := tset 0 x.phStat k 2, limit := 100 * { x with openMask := m }.working n / n }
    let s := s.countErr kReg r
    let s := (s.alert aPhaseOpen).addLog
      { code := 0x1A, cls := 2, kind := kPhase, unit := 4 * r + k, count := s.errsIn kReg r }
    let s := s.notice [aUnitRetired] []
    if (s.reg r).working n = 0 then s.regFault r 2 else if s.atThresh kReg r then s.regFault r 1 else s

/-- The phase under its diagnostic pulse: of those that the cycle has still to visit, the first (R241). -/
def Reg.pulsed (x : Reg) : Option Nat := (List.range 4).find? (fun k => x.pulse.testBit k)

/-- The check of one phase at a window's end: found open, verified, or not measured (R240); one window decides for the
phase under a pulse, `pulsed` (R241). -/
def State.phaseCheck (s : State) (r k on cur : Nat) (pulsed : Option Nat) : State :=
  let x := s.reg r
  if x.openMask.testBit k then s
  else if on < 200 then s.modReg r fun x => { x with lowOnce := clrBit x.lowOnce k }
  else if cur ≥ 250 then s.modReg r fun x => { x with
    lowOnce := clrBit x.lowOnce k, phVerify := tset 0 x.phVerify k s.time, phStat := tset 0 x.phStat k 0 }
  else if x.lowOnce.testBit k ∨ pulsed = some k then s.phaseOpen r k
  else s.modReg r fun x => { x with lowOnce := orBit x.lowOnce k }

/-- Of the phases that a cycle has still to visit, those that have not been verified in the past 10 ms (R241). -/
def Reg.stillDue (x : Reg) (time : Nat) : Nat :=
  (((List.range 4).filter (fun k => x.pulse.testBit k && decide (time > tget 0 x.phVerify k + 10000))).map (2 ^ ·)).sum

/-- The ceilings that follow a change of limits: all of them by the sequencer, those of hardware alone while it is absent
and the levels are frozen (R243, Table PWR-3). -/
def State.limitLevels (s : State) : State := if s.pwr.seqPresent then s.applyCeilings else s.applyHw

/-- PHASE_WINDOW: a regulator's 2 µs window ends (R240); the phase that had its pulse in it gives way to the next. The
diagnostic cycle pauses while the sequencer is absent (R243); its pulses are abandoned where the load has risen above 20 % of
the rating or DIAG_PULSE is 0 (R241). -/
def execPhaseWindow (r : Nat) (onTime current : List Nat) (s : State) : Host.Outcome State Fault Refusal :=
  let x := s.reg r
  if r > 23 || !(decide (x.st = 1 ∨ x.st = 2)) || x.senseFail then .next s
  else
    let off := decide (current.sum * 100 > 20 * regRating r) || !s.mg.diag.testBit 0
    let t := s.time
    let s := s.modReg r fun x => { x with pulse := if off then 0 else x.stillDue t }
    let now := if s.pwr.seqPresent then (s.reg r).pulsed else none
    let s := (List.range (regPhases r)).foldl (fun s k => s.phaseCheck r k (onTime.getD k 0) (current.getD k 0) now) s
    let s := match now with
      | some k => s.modReg r fun x => { x with pulse := clrBit x.pulse k }
      | none => s
    .next s.bootTiers.limitLevels

/-- DIAG_CYCLE: lightly loaded ON regulators get pulses on the phases not verified in the past 10 ms (R241). -/
def execDiagCycle (s : State) : Host.Outcome State Fault Refusal :=
  if !s.pwr.seqPresent || !s.mg.diag.testBit 0 then .next s
  else .next ((List.range 24).foldl (fun s r =>
    let x := s.reg r
    if decide (x.st ≠ 2) || x.senseFail || decide (x.load * 100 ≥ 20 * regRating r) then s
    else s.modReg r fun x => { x with pulse := (((List.range (regPhases r)).filter (fun k =>
      !x.openMask.testBit k && decide (s.time > tget 0 x.phVerify k + 10000))).map (2 ^ ·)).sum }) s)

/-- SENSE_FAIL: expected and measured input current of a regulator that is not OFF disagree (R242); `suspect` marks the phases whose own sense is
implicated. R240 and R241 are suspended with what they had begun. -/
def execSenseFail (r suspect : Nat) (s : State) : Host.Outcome State Fault Refusal :=
  if r ≤ 23 ∧ (s.reg r).permanent = true then .next (s.regDead r 0x1B 0)
  else if r > 23 || !(decide (1 ≤ (s.reg r).st ∧ (s.reg r).st ≤ 3)) || (s.reg r).senseFail || !s.pwr.seqPresent then .next s
  else
    let s := s.modReg r fun x => { x with
      senseFail := true, lowOnce := 0, pulse := 0
      phStat := (maskList suspect (regPhases r)).foldl (fun t k => if x.openMask.testBit k then t else tset 0 t k 3) x.phStat }
    .next (s.regError r 0x1B 1 aSenseFail 0 false)

/-! Power domains (R234, Table SUP-5). -/

/-- State of a power domain. -/
inductive Domain where
  | off
  | retain
  | on
deriving DecidableEq, Repr

/-- The col that a peer port attaches to (Table DIE-1). -/
def portCol (k : Nat) : Nat := k + 1

/-- Is anything behind a col not OFF (R236)? -/
def State.colUsed (s : State) (c : Nat) : Bool :=
  (List.range 17).any (fun p => s.crestCol p = c && decide ((s.crest p).pw ≠ .off))
    || (List.range 96).any (fun n => sliceCol n = c && decide ((s.slice n).pw ≠ .off))
    || (List.range 3).any (fun k => portCol k = c && !decide ((s.port k).st = 0 ∨ (s.port k).st = 5))

/-- The state of a domain by its unit's (Tables SUP-5, SUP-6, R236): under FULL debug a vector engine in NAP is in RETAIN
(R235). A retired col is switched off (R278); at boot the host modules' domains come on with col 0 in FABRIC, the other cols in
TIERS (Table BOOT-1). -/
def State.domain (s : State) (n : Nat) : Domain :=
  let sw (b : Bool) : Domain := if b && decide ((s.reg 23).st = 2) then .on else .off
  if n = 0 then .on
  else if n ≤ 68 then
    match (s.crest ((n - 1) / 4)).pw with
    | .off => .off
    | .nap => if (n - 1) % 4 = 3 ∨ ((n - 1) % 4 = 2 ∧ s.mg.debugLevel = 2) then .retain else .off
    | _ => .on
  else if n ≤ 164 then match (s.slice (n - 69)).pw with | .off => .off | .retain => .retain | .on => .on
  else if n = 165 then sw (!s.colRetired 0)
  else if n ≤ 168 then sw (!s.colRetired (n - 165) && (s.colUsed (n - 165) || decide (s.mg.stage = 3)))
  else if n ≤ 172 then sw (decide (s.mg.stage = 2) || !decide ((s.hmod (n - 169)).st = 0 ∨ (s.hmod (n - 169)).st = 5))
  else sw (decide (n ≤ 175) && !decide ((s.port (n - 173)).st = 0 ∨ (s.port (n - 173)).st = 5))

/-! Power states. -/

/-- CREST_WAKE_DONE (R21). -/
def execCrestWakeDone (p waited : Nat) (s : State) : Host.Outcome State Fault Refusal := .next (s.crestAwake p (some waited))
/-- SLICE_WAKE_DONE (R21, R178). -/
def execSliceWakeDone (n waited : Nat) (s : State) : Host.Outcome State Fault Refusal := .next (s.slicesAwake (2 ^ n) (some waited))

/-- A crest goes to NAP: weight banks and vector state are lost, except at level FULL; accumulators, program memory and
feeder buffers stay (R226, Table SUP-6). -/
def State.nap (s : State) (p : Nat) : State :=
  let full := decide (s.mg.debugLevel = 2)
  let s := s.modCrest p fun c =>
    let c := { c with pw := .nap, waking := false }
    if full then c else c.unkept
  s.modReg p fun r => { r with st := 3, setpoint := 550, lowOnce := 0, pulse := 0 }

/-- May a crest go OFF: free, or its partition allows it and the level is below FULL (R228)? -/
def State.mayOff (s : State) (p : Nat) : Bool :=
  match s.logicalOf p with
  | some l => match s.crestOwner l with
    | some o => (s.part o).crestOff && decide (s.mg.debugLevel < 2)
    | none => true
  | none => true

/-- A slice goes to RETAIN, keeping its contents; it wakes at once where a command that has not ended names it (R21,
R226). -/
def State.toRetain (s : State) (n : Nat) : State :=
  let need := s.cmds.any (fun c => c.fin.isNone && c.need.testBit n)
  s.modSlice n fun x => { x with pw := .retain, waking := need, scrub := 0 }

/-- POWER_GATING: an idle guaranteed crest moves to NAP, an idle crest that is free, an unused spare or allowed to moves to
OFF, an owned slice to RETAIN; a free slice that something woke goes back to OFF (R228). -/
def execPowerGating (u : GateUnit) (s : State) : Host.Outcome State Fault Refusal :=
  match u with
  | .crestNap p =>
    let c := s.crest p
    if p > 16 || !c.held.isEmpty || c.quiet || c.waking || !(decide (c.pw = .run ∨ c.pw = .idle))
        || ((s.logicalOf p).bind s.crestOwner).isNone then .next s
    else .next (s.nap p)
  | .crestOff p =>
    let c := s.crest p
    if p > 16 || !c.held.isEmpty || c.quiet || c.waking || decide (c.pw = .off) || !s.mayOff p then .next s
    else
      let t := s.time
      .next ((s.modCrest p fun c => { c.powerLoss with lentTo := none, lastPart := none }).modReg p fun r => r.turnOff t 4)
  | .sliceRetain n =>
    let x := s.slice n
    if decide (n ≥ 96) || (s.sliceOwner n).isNone || s.sliceRetired n || x.waking || x.sparing.isSome
        || decide (x.pw ≠ .on) then .next s
    else .next (s.toRetain n)
  | .sliceOff n =>
    let x := s.slice n
    if decide (n ≥ 96) || (s.sliceOwner n).isSome || x.transit || s.sliceRetired n || x.sparing.isSome then .next s
    else .next (s.modSlice n fun x => { x with pw := .off, waking := false, scrub := 0 })

end Sys2Proof.Machine
end

