-- ==== Sys2Proof/Machine/Power.lean ====
section
/-!
DEFINITION. Power control: the cap loop (R250, R251, R261, R262), level switches (R247), the estimator and the division of
energy (R257, R260, R264), quiet slots (R259), heat (R255, R256), droop (R254) and the critical path of a group (R263).
-/
namespace Sys2Proof.Machine

/-! The cap loop. Budgets are in pJ per period of 10 µs: 1 W is 10^7. -/

/-- A cap of 1/16 W over `len` µs, in pJ. -/
def capEnergy (cap len : Nat) : Nat := cap * 62500 * len

/-- Energy of the newest bins that cover a window less one period (R250): `bp` periods a bin, `lp` periods a window, the
full bins newest first, and the open bin with its periods. -/
def windowEnergy (bp lp : Nat) (full : List Nat) (openE openN : Nat) : Nat :=
  openE + (full.take (ceilDiv (lp - 1 - openN) bp)).sum

/-- The period's energy enters the bins (R250). -/
def Pwr.push (w : Pwr) (e : Nat) : Pwr :=
  let n := (w.periods + 1) % 100
  let o100 := w.open100 + e
  let o1000 := w.open1000 + e
  { w with
    bins10 := (e :: w.bins10).take 100
    bins100 := if n % 10 = 0 then (o100 :: w.bins100).take 200 else w.bins100
    open100 := if n % 10 = 0 then 0 else o100
    bins1000 := if n = 0 then (o1000 :: w.bins1000).take 1000 else w.bins1000
    open1000 := if n = 0 then 0 else o1000
    periods := n }

/-- B_PK1, B_PK2, B_SUST and the term Cap_PK1, in pJ (R250). -/
def Pwr.budgets (w : Pwr) (sust : Nat) : Int × Int × Int × Int :=
  ( (capEnergy w.capPk1 1000 : Int) - windowEnergy 1 100 w.bins10 0 0,
    (capEnergy w.capPk2 20000 : Int) - windowEnergy 10 2000 w.bins100 w.open100 (w.periods % 10),
    (capEnergy sust 1000000 : Int) - windowEnergy 100 100000 w.bins1000 w.open1000 w.periods,
    (capEnergy w.capPk1 10 : Int))

/-- The sustained cap in force: in CRITICAL_PATH the lesser of the die's and its entry of GROUP_CAP (R263). -/
def State.sustNow (s : State) : Nat :=
  if s.pwr.modeNow = 3 ∧ s.alone = false then min s.pwr.capSust (s.pwr.effCap.getD s.pwr.capSust) else s.pwr.capSust

/-- need(c, L) of R260, in pJ. -/
def State.need (s : State) (p l : Nat) : Rat :=
  let c := s.crest p
  let bound : Rat := ((levelWatt l * 1000000 : Nat) : Rat)
  let k := tget (1, 0) c.learn c.cls
  if k.2 < 64 || !s.pwr.learnEn then bound else min bound (k.1 * bound * s.guard p)

/-- The order in which a crest is served: rank and number of the partition whose command it runs, its highest class,
its logical number (R251). -/
def State.serveKey (s : State) (p : Nat) : Nat :=
  let c := s.crest p
  let now := match c.work with
    | w :: _ => some (w.q, w.t)
    | [] => c.held.head?
  let part := match now with | some k => (s.cmd? k.1 k.2).elim 0 (·.part) | none => 0
  let cls := (c.held.map s.clsOf).foldl min 3
  ((bits s.pwr.prio (4 * part + 3) (4 * part) * 8 + part) * 4 + cls) * 32 + (s.logicalOf p).getD 31

/-- `p` put into a list that rises by key. -/
def State.serveInsert (s : State) (p : Nat) : List Nat → List Nat
  | [] => [p]
  | q :: qs => if s.serveKey p < s.serveKey q then p :: q :: qs else q :: s.serveInsert p qs

/-- The crests that hold a command, in the order of R251. -/
def State.served (s : State) : List Nat :=
  ((List.range 17).filter (fun p => !(s.crest p).held.isEmpty)).foldl (fun l p => s.serveInsert p l) []

/-- allocate(C): each served crest's level (R251). -/
def State.allocate (s : State) : Rat → Rat → List Nat → List (Nat × Nat)
  | _, _, [] => []
  | c, reserve, p :: ps =>
    let r := reserve - s.need p 15
    let l := fastest (s.ceiling p) (fun l => decide (s.need p l ≤ c - r))
    (p, l) :: s.allocate (c - s.need p l) r ps

/-- The uniform level of LOCKSTEP: the fastest at which the served crests' needs fit C (R262). -/
def State.uniformLevel (s : State) (c : Rat) (ps : List Nat) : Nat :=
  fastest 0 (fun l => decide ((ps.map (fun p => s.need p l)).sum ≤ c))

/-- A crest is to run at a level: a slower one at once; for a faster one its regulator goes to the new voltage, and the
synthesiser switches after the slew (R247). -/
def State.setTarget (s : State) (p l : Nat) : State :=
  if (s.crest p).level < l then s.toLevel p l
  else
    let s := s.modCrest p fun x => { x with pendLevel := if l < x.level then some l else none }
    if (s.reg p).st = 2 then s.modReg p fun r => { r with setpoint := levelMv l } else s

/-- The levels of FIXED and LOCKSTEP: every crest in RUN or IDLE at one level, unless a ceiling is slower (R261, R262). -/
def State.setAll (s : State) (l : Nat) : State :=
  (List.range 17).foldl (fun s p =>
    match (s.crest p).pw with
    | .run | .idle => s.setTarget p (max l (s.ceiling p))
    | _ => s) s

/-- The period's levels by the mode in force (R251, R261, R262); answers whether some crest was set below its ceiling. -/
def State.capLevels (s : State) (c : Rat) : State × Bool :=
  if s.pwr.modeNow = 1 then (s.setAll s.pwr.fixedLevel, false)
  else if s.lockstep then
    let s := s.modPwr fun w => { w with uniform := s.uniformLevel c s.served }
    (s.setAll 0, false)
  else
    let ps := s.served
    let ls := s.allocate c ((ps.map (fun p => s.need p 15)).sum) ps
    (ls.foldl (fun s e => s.setTarget e.1 e.2) s, ls.any (fun e => decide (e.2 > s.ceiling e.1)))

/-- LOCKSTEP_LAG: a follower's own level is slower than the epoch (R262). -/
def State.lagCheck (s : State) : State :=
  let lag := s.lockstep && decide (s.leader ≠ s.position) && decide (s.pwr.uniform > s.sb.epoch)
  s.modPwr fun w => { w with lag := lag }

/-- PW_POWER_EST of a period, in 1/16 W: the crests' estimates over its windows, and the measured power of all that the
estimator does not estimate (R248, R257). DEDUCED (log 60). -/
def State.powerEst (s : State) : Nat :=
  let w := s.pwr
  let est : Rat := if w.estN = 0 then ((List.range 17).map (fun p => (s.crest p).pEst)).sum else w.est10 / ((w.estN : Nat) : Rat)
  let rest := w.acc10 - ((List.range 17).map (tget 0 w.accCrest)).sum
  ((est * 16).floor.toNat + rest * 16 / 10000000) % 65536

/-- CAP_LOOP: one period, while the sequencer runs (R250). Each crest gets one target; one that gets none goes to its
ceiling (R247, R252). -/
def execCapLoop (s : State) : Host.Outcome State Fault Refusal :=
  if !s.mg.released || !s.pwr.seqPresent then .next s
  else
    let e := s.pwr.acc10
    let crests := (((List.range 17).filter (fun p => !(s.crest p).held.isEmpty)).map (tget 0 s.pwr.accCrest)).sum
    let mode := s.pwr.mode
    let est := s.powerEst
    let s := s.modPwr fun w => { w.push e with
      acc10 := 0, accCrest := [], modeNow := mode, est10 := 0, estN := 0
      capsSet := if mode = w.modeNow then w.capsSet else none
      meas := e * 16 / 10000000 % 65536, est := est }
    let b := s.pwr.budgets s.sustNow
    let least := min (min b.1 b.2.1) (min b.2.2.1 b.2.2.2)
    let r := s.capLevels ((least - ((e : Int) - (crests : Int)) : Int) : Rat)
    .next ((r.1.applyCeilings.modPwr fun w => { w with
      sust := r.2 && decide (b.2.2.1 = least)
      pk1 := r.2 && decide (b.1 = least ∨ b.2.2.2 = least)
      pk2 := r.2 && decide (b.2.1 = least) }).lagCheck.fixedCheck)

/-- LEVEL_SWITCH: the synthesiser switches, never past the crest's ceiling (R247, R252). -/
def execLevelSwitch (p : Nat) (s : State) : Host.Outcome State Fault Refusal :=
  match (s.crest p).pendLevel with
  | none => .next s
  | some l => .next (s.toLevel p (max l (s.ceilNow p)))

/-! The estimator (R257). -/

/-- The sensors of a region, by its first (R255). -/
def regionSensors (f : Nat) : List Nat := if f < 51 then [f, f + 1, f + 2] else [f]
/-- The first sensors of the regions. -/
def regionList : List Nat := (List.range 17).map (3 * ·) ++ (List.range 13).map (51 + ·)
/-- The region of a sensor. -/
def regionOf (i : Nat) : Nat := if i < 51 then i / 3 * 3 else i

/-- The valid sensors of a region. -/
def State.validSensors (s : State) (f : Nat) : List Nat :=
  (regionSensors f).filter (fun i => !tget false s.pwr.excluded i)
/-- The hottest reading of a region with the 5 °C added where a sensor is excluded; none where no sensor is valid (R255). -/
def State.regionTemp (s : State) (f : Nat) : Option Int :=
  match s.validSensors f with
  | [] => none
  | v :: vs =>
    let t := vs.foldl (fun t i => max t (tget 0 s.pwr.temps i)) (tget 0 s.pwr.temps v)
    some (t + if (s.validSensors f).length < (regionSensors f).length then 20 else 0)

/-- The temperature band of a crest, by its own region (R257); the last where no sensor is valid. -/
def State.band (s : State) (p : Nat) : Nat :=
  match s.regionTemp (3 * p) with
  | none => 7
  | some t => ((List.range 7).find? (fun (b : Nat) => decide (t ≤ 4 * (45 + 10 * (b : Int))))).getD 7

/-- A factor of 2 per 20 °C over a number of bands (R257). -/
def bandScale (n : Nat) : Rat := (2 : Rat) ^ (n / 2) * (if n % 2 = 1 then Config.halfStep else 1)

/-- offset(level, band): measured, or scaled from the nearest measured band of the level (R257). Two bands equally near
leave the choice open; a level with no measured band has its factory value. -/
def Crest.offset (c : Crest) (level band : Nat) : Rat :=
  let at? (b : Nat) : Option Rat := (tget none c.offs (level * 8 + b)).map (·.1)
  let down (d : Nat) : Option Rat := if d ≤ band then (at? (band - d)).map (· * bandScale d) else none
  let up (d : Nat) : Option Rat := if band + d ≤ 7 then (at? (band + d)).map (· / bandScale d) else none
  let near (d : Nat) : Option Rat := match down d, up d with
    | some a, some b => some (if Config.freeChoice (level * 8 + band) d % 2 = 0 then a else b)
    | some a, none => some a
    | none, b => b
  ((List.range 8).findSome? near).getD (Config.factoryOffset level band)

/-- f × V² at a level: f in MHz, V in V. -/
def fv2 (l : Nat) : Rat := (levelMhz l : Rat) * ((levelMv l : Rat) / 1000) * ((levelMv l : Rat) / 1000)

/-- A weight as refined. -/
def Crest.weight (c : Crest) (p i : Nat) : Rat := Config.factoryWeight p i + tget 0 c.wAdj i

/-- Counters of a window: 16 fraction bits each. -/
def winRat (a : List Nat) (i : Nat) : Rat := ((a.getD i 0 : Nat) : Rat) / 65536

/-- P_est of a crest over a window (R257). A crest that is OFF has no power to estimate. -/
def State.estimate (s : State) (p : Nat) (a : List Nat) : Rat :=
  let c := s.crest p
  if c.pw = .off then 0
  else fv2 c.level * ((List.range 8).map (fun i => c.weight p i * winRat a i)).sum + c.offset c.level (s.band p)

/-- The weights refined against the regulator's measured energy (R257); not where its sense has failed. -/
def State.refine (s : State) (p : Nat) (a : List Nat) (est : Rat) : Tbl Rat :=
  let c := s.crest p
  if c.pw = .off ∨ (s.reg p).senseFail = true then c.wAdj
  else
    let err := ((tget 0 s.pwr.accWin p : Nat) : Rat) / 2000000 - est
    let sq := ((List.range 8).map (fun i => winRat a i * winRat a i)).sum
    (List.range 8).foldl (fun t i =>
      tset 0 t i (tget 0 t i + err * winRat a i / (64 * fv2 c.level * (sq + 1 / 1048576)))) c.wAdj

/-- occ of R260, in 1/65536. -/
def occIndex (a0 : Nat) : Nat := if a0 < 16384 then 0 else if a0 < 32768 then 1 else if a0 < 49152 then 2 else 3
/-- mem of R260, in 1/65536. -/
def memIndex (m : Nat) : Nat := if m < 8192 then 0 else if m < 16384 then 1 else if m < 32768 then 2 else 3

/-- A crest's window: estimate, class, weights and, of a crest that runs, the class's learned ratio (R257, R260). -/
def State.crestWindow (s : State) (p : Nat) (a : List Nat) : State :=
  let c := s.crest p
  let est := s.estimate p a
  let cls := 4 * occIndex (a.getD 0 0) + memIndex (a.getD 4 0 + a.getD 5 0)
  let bound : Rat := ((levelWatt c.level : Nat) : Rat) / 10
  let k := tget (1, 0) c.learn cls
  let r := min 1 (max (1 / 64) (k.1 + (est / bound - k.1) / 16))
  let adj := s.refine p a est
  let learn := if c.pw = .run then tset (1, 0) c.learn cls (r, k.2 + 1) else c.learn
  s.modCrest p fun c => { c with
    pEst := est, cls := cls, sig := (List.range 8).map (fun i => a.getD i 0), wAdj := adj, learn := learn }

/-! Energy (R264), in units of 2^−6 µJ: 15,625 pJ. -/

/-- A command's share; it belongs to the partition of the command. -/
def State.giveCmd (s : State) (k : Nat × Nat) (n : Nat) : State × Nat :=
  match s.cmd? k.1 k.2 with
  | none => (s, 0)
  | some c => ((s.modCmd k.1 k.2 fun c => { c with energy := c.energy + n }).modPart c.part fun x =>
      { x with energy := (x.energy + n) % 2 ^ 64 }, n)

/-- `n` divided among commands in proportion to their weights; answers what was given. -/
def State.giveShares (s : State) (ws : List ((Nat × Nat) × Nat)) (n : Nat) : State × Nat :=
  let tot := (ws.map (·.2)).sum
  if tot = 0 then (s, 0)
  else ws.foldl (fun r e =>
    let g := r.1.giveCmd e.1 (n * e.2 / tot)
    (g.1, r.2 + g.2)) (s, 0)

/-- A crest's energy of a window: to the commands that were busy, else to those held, else to the idle account of the
partition that guarantees it (R264). -/
def State.giveCrest (s : State) (p n : Nat) (busy : List ((Nat × Nat) × Nat)) : State × Nat :=
  if (busy.map (·.2)).sum ≠ 0 then s.giveShares busy n
  else if (s.crest p).held ≠ [] then s.giveShares ((s.crest p).held.map (fun k => (k, 1))) n
  else match (s.logicalOf p).bind s.crestOwner with
    | some o => (s.modPart o fun x => { x with energy := (x.energy + n) % 2 ^ 64 }, n)
    | none => (s, 0)

/-- A crest's estimated energy of a 2 µs window, in units, without guard bands. -/
def State.winUnits (s : State) (p : Nat) : Nat := ((s.crest p).pEst * 128).floor.toNat

/-- A window's measured energy divided among commands, idle accounts and the unattributed account (R264). -/
def State.divide (s : State) (total : Nat) (ws : List WinMeas) (moved : List ((Nat × Nat) × Nat)) : State :=
  let sum := ((List.range 17).map s.winUnits).sum
  let scaled (p : Nat) : Nat := if sum > total then s.winUnits p * total / sum else s.winUnits p
  let busy (p : Nat) : List ((Nat × Nat) × Nat) := ((ws.find? (fun w => w.p = p)).map (·.busy)).getD []
  let r := (List.range 17).foldl (fun (r : State × Nat) p =>
    let g := r.1.giveCrest p (scaled p) (busy p)
    (g.1, r.2 + g.2)) (s, 0)
  let g := r.1.giveShares moved (total - ((List.range 17).map scaled).sum)
  { g.1 with unattr := (g.1.unattr + (total - (r.2 + g.2))) % 2 ^ 64 }

/-- ESTIMATOR_WINDOW: 2 µs have passed (R257, R260, R264). A crest that `ws` does not list counted nothing. -/
def execEstimatorWindow (ws : List WinMeas) (moved : List ((Nat × Nat) × Nat)) (s : State) :
    Host.Outcome State Fault Refusal :=
  if !s.mg.released then .next s
  else
    let a (p : Nat) : List Nat := ((ws.find? (fun w => w.p = p)).map (·.a)).getD []
    let s := (List.range 17).foldl (fun s p => s.crestWindow p (a p)) s
    let total := s.pwr.accW / 15625
    let est := ((List.range 17).map (fun p => (s.crest p).pEst)).sum
    let s := s.modPwr fun w => { w with
      est10 := w.est10 + est, estN := w.estN + 1, accW := w.accW % 15625, accWin := [], energy := (w.energy + total) % 2 ^ 64 }
    .next (s.divide total ws moved)

/-! Quiet measurements (R257, R259). -/

/-- May a crest be held in a quiet slot: it runs, and was not held in the last 20 ms? -/
def State.quietOk (s : State) (p : Nat) : Bool :=
  let c := s.crest p
  decide (p < 17) && decide (c.pw = .run) && !c.waking && !c.quiet
    && (match c.quietAt with | some t => decide (t + 20000 ≤ s.time) | none => true)

/-- The age of a crest's offset entry for its present level and band: 0 where never measured, else its time plus 1. -/
def State.entryTime (s : State) (p : Nat) : Nat :=
  let c := s.crest p
  match tget none c.offs (c.level * 8 + s.band p) with | some e => e.2 + 1 | none => 0

/-- QUIET_SLOT: no quiet measurement for 1 s; the crest with the oldest entry is held at its next segment boundary. -/
def execQuietSlot (p : Nat) (s : State) : Host.Outcome State Fault Refusal :=
  let c := s.crest p
  let rest := match c.work with
    | w :: _ => (s.cmd? w.q w.t).any (fun d => d.atBoundary w)
    | [] => true
  if !s.pwr.seqPresent || !s.pwr.quietEn || decide (s.pwr.modeNow = 1) || decide (s.quietAge < 1000000)
      || (List.range 17).any (fun k => (s.crest k).quiet) || !s.quietOk p || c.inv.isSome || !rest
      || (List.range 17).any (fun k => s.quietOk k && decide (s.entryTime k < s.entryTime p)) then .next s
  else
    let t := s.time
    .next (s.modCrest p fun x => { x with quiet := true, quietAt := some t })

/-- QUIET_SLOT_END: the entry is measured, in 1/16 W, the crest released and the hold charged as POWER. A crest that holds
no command gives a quiet measurement with no slot (R257). -/
def execQuietSlotEnd (p watts16 : Nat) (s : State) : Host.Outcome State Fault Refusal :=
  let c := s.crest p
  let idle := c.held.isEmpty && !c.waking && decide (c.pw = .run ∨ c.pw = .idle)
  if p > 16 || !(c.quiet || idle) then .next s
  else
    let t := s.time
    let b := s.band p
    let s := s.modCrest p fun x => { x with
      quiet := false, offs := tset none x.offs (x.level * 8 + b) (some (((watts16 : Nat) : Rat) / 16, t)) }
    let s := s.modPwr fun w => { w with quietTime := t, stale := false }
    let s := if c.quiet then c.held.foldl (fun s k => s.modCmd k.1 k.2 fun d => d.charge wPower (20 * levelMhz c.level)) s
      else s
    .next (s.kick p)

/-- CALIB_STALE: AGE reaches 10 s. -/
def execCalibStale (s : State) : Host.Outcome State Fault Refusal :=
  if s.quietAge < 10000000 then .next s else .next (s.modPwr fun w => { w with stale := true })

/-! Heat (R255, R256). -/

/-- A thermal trip (R256): IVR00 to IVR16 stop and every crest goes OFF, its commands and the LOADPROGs under way on it
ending CREST_LOST; every halt is released; owned slices move to RETAIN. -/
def State.trip (s : State) (i : Nat) : State :=
  let t := s.time
  let s := s.modPwr fun w => { w with tripped := true, tripBit := true }
  let s := s.modMg fun m => { m with haltReq := 0, haltStat := 0 }
  let s := (List.range 17).foldl (fun s p =>
    ((s.endHeld p sFault 0x46).modCrest p fun c =>
      { c.powerLoss with halted := false, lentTo := none, lastPart := none }).modReg p fun r => r.turnOff t 4) s
  let s := (List.range 96).foldl (fun s n =>
    if (s.sliceOwner n).isSome && decide ((s.slice n).pw = .on) then s.toRetain n else s) s
  ((s.alert aThermalTrip).addLog { code := 0x21, cls := 3, kind := kSensor, unit := i, detail := i }).adoptAll

/-- SENSOR_READ: sensor `i` reads `v` quarter degrees, which stays its last reading (R340). A reading out of range excludes it at
once, which retires it (R255, R266, R280); on an excluded sensor such an event is only logged (R284). -/
def execSensorRead (i : Nat) (v : Int) (s : State) : Host.Outcome State Fault Refusal :=
  let bad := decide (v < -160 ∨ v > 600)
  let ent : LogEntry := { code := 0x20, cls := 2, kind := kSensor, unit := i }
  if !s.mg.released || decide (i > 63) then .next s
  else
  let s := s.modPwr fun w => { w with temps := tset 0 w.temps i v }
  if tget false s.pwr.excluded i then .next (if bad then s.addLog ent else s)
  else if bad then
    let s := s.modPwr fun w => { w with excluded := tset false w.excluded i true, hotOnce := tset false w.hotOnce i false }
    .next (((s.alert aSensorFault).addLog ent).notice [aUnitRetired] [])
  else
    let twice := decide (v ≥ 460) && tget false s.pwr.hotOnce i
    let s := s.modPwr fun w => { w with hotOnce := tset false w.hotOnce i (decide (v ≥ 460)) }
    let f := regionOf i
    let s := match s.regionTemp f with
      | some t => if t ≥ 388 then s.modPwr fun w => { w with coolSince := tset none w.coolSince f none } else s
      | none => s
    if twice && !s.pwr.tripped then .next (s.trip i) else .next s

/-- One region's ceiling after 10 µs (R255). -/
def State.regionStep (s : State) (f : Nat) : State :=
  let c := tget 0 s.pwr.thermal f
  let now := s.time
  match s.regionTemp f with
  | none => s.modPwr fun w => { w with thermal := tset 0 w.thermal f 6 }
  | some t =>
    if t ≥ 400 then s.modPwr fun w => { w with
      thermal := tset 0 w.thermal f (min 15 (c + 1)), coolSince := tset none w.coolSince f none }
    else if t ≥ 388 then s.modPwr fun w => { w with coolSince := tset none w.coolSince f none }
    else match tget none s.pwr.coolSince f with
      | none => s.modPwr fun w => { w with coolSince := tset none w.coolSince f (some now) }
      | some t0 =>
        if c > 0 ∧ t0 + 1000 ≤ now then s.modPwr fun w => { w with
          thermal := tset 0 w.thermal f (c - 1), coolSince := tset none w.coolSince f (some now) }
        else s

/-- THERMAL_STEP: every 10 µs the sequencer moves the regions' ceilings. -/
def execThermalStep (s : State) : Host.Outcome State Fault Refusal :=
  if !s.mg.released || !s.pwr.seqPresent then .next s
  else .next (regionList.foldl State.regionStep s).applyCeilings

/-- TRIP_RECOVER: every valid sensor has read below 95 °C for 10 ms: crests soft-start with every thermal ceiling at P15.
`waited` CCLK of the trip are charged as POWER to the commands that waited (R256). -/
def execTripRecover (waited : Nat) (s : State) : Host.Outcome State Fault Refusal :=
  let cool := (List.range 64).all (fun i => tget false s.pwr.excluded i || decide (tget 0 s.pwr.temps i < 380))
  if !s.pwr.tripped || !s.pwr.seqPresent || !cool then .next s
  else
    let s := s.modPwr fun w => { w with
      tripped := false, coolSince := [], thermal := regionList.foldl (fun t f => tset 0 t f 15) w.thermal }
    let s := (List.range 17).foldl (fun s p =>
      let s := ((s.crest p).held ++ s.loadsOn p).foldl (fun s k => s.modCmd k.1 k.2 fun c => c.charge wPower waited) s
      if s.crestRetired p || ((s.logicalOf p).bind s.crestOwner).isNone then s
      else s.modCrest p fun x => { x with waking := true }) s
    .next s.applyCeilings

/-! Droop (R254). -/

/-- DROOP: the clock period of the crest doubles; the level stays. -/
def execDroop (p : Nat) (s : State) : Host.Outcome State Fault Refusal :=
  if p > 16 || decide ((s.crest p).pw = .off) then .next s
  else .next ((s.modCrest p fun c => { c with droop := true }).modPwr fun w => { w with droopCnt := (w.droopCnt + 1) % 65536 })

/-- DROOP_RELEASE: the normal period returns. -/
def execDroopRelease (p : Nat) (s : State) : Host.Outcome State Fault Refusal :=
  .next (s.modCrest p fun c => { c with droop := false })

/-! The critical path (R263). -/

/-- Is CRITICAL_PATH in force? -/
def State.critical (s : State) : Bool := decide (s.pwr.modeNow = 3) && !s.alone

/-- Whole µs of an interval that lie in the last 100. -/
def State.lastPart100 (s : State) (a b : Nat) : Nat := b - max a (s.time - 100)

/-- The wait for peers of the last 100 µs over the die's crests, in ns: what has ended, and what stands (R143, R263). -/
def State.peerWait (s : State) : Nat :=
  1000 * ((s.peerPast.map (fun e => s.lastPart100 e.1 e.2)).sum
    + ((s.holds.filter (fun h => decide (h.p < 17 ∧ h.cause = some wPeer))).map (fun h => s.lastPart100 h.since s.time)).sum)

/-- The crests that held commands in the last 100 µs (R263). -/
def State.heldCrests (s : State) : Nat :=
  ((List.range 17).filter (fun p => !(s.crest p).held.isEmpty || (s.crest p).heldAt.any (fun t => decide (s.time ≤ t + 100)))).length

/-- SLACK (R263): the wait for peers per crest that held commands, in ns. The holds are known to the µs of the time base; `fine`
is what the sum differs by from that. DESIGN CHOICE (log 130): 0 where no crest held a command. -/
def State.slack (s : State) (fine : Int) : Int :=
  if s.heldCrests = 0 then 0 else ((s.peerWait : Int) + fine) / (s.heldCrests : Int)

/-- SLACK_REPORT: this die's SLACK, POWER and CAP go to the leader. -/
def execSlackReport (fine : Int) (s : State) : Host.Outcome State Fault Refusal :=
  if !s.critical then .next s
  else
    let slack := s.slack fine
    let power := (s.pwr.bins10.take 10).sum * 16 / 100000000 % 65536
    let i := s.pwr.slackIdx
    let cap := s.pwr.capSust
    let s := { s with peerPast := s.peerPast.filter (fun e => decide (s.time ≤ e.2 + 100)) }.modPwr fun w =>
      { w with slackIdx := (i + 1) % 2 ^ 32 }
    if s.leader = s.position then
      let me := s.position
      let now := s.time
      .next (s.modPwr fun w => { w with slackOf := tset none w.slackOf me (some (slack, power, cap, now)) })
    else .next (s.sendMgmt s.leader 6 (toBytes i 4 ++ toBytes (wrap 32 slack) 4 ++ toBytes power 2 ++ toBytes cap 2))

/-- CAP_d of a member: what it last reported, this die's own, or a free value before its first report. -/
def State.capOf (s : State) (d : Nat) : Nat :=
  if d = s.position then s.pwr.capSust
  else match tget none s.pwr.slackOf d with
    | some r => r.2.2.1
    | none => Config.freeNat (s.freeCtr + d) % 65536

/-- The leader's caps at mode entry and at a change of membership: G × CAP_d / ΣCAP (R263). -/
def State.splitCaps (s : State) (ms : List Nat) : Tbl Rat :=
  let sum := (ms.map s.capOf).sum
  let g := if s.pwr.groupCap = 0 then sum else s.pwr.groupCap
  ms.foldl (fun t d => tset 0 t d (((g * s.capOf d : Nat) : Rat) / ((sum : Nat) : Rat))) []

/-- The leader's redistribution (R263); 4 W are 64 units. -/
def State.redistribute (s : State) (ms : List Nat) (caps : Tbl Rat) : Tbl Rat :=
  let slackOf (d : Nat) : Option Int := match tget none s.pwr.slackOf d with
    | some r => if s.time ≤ r.2.2.2 + 300 then some r.1 else none
    | none => none
  let donors := ms.filter (fun d => (slackOf d).any (fun x => decide (x > 5000)) && decide (tget 0 caps d ≥ 1984))
  let recs := ms.filter (fun d => (slackOf d).any (fun x => decide (x ≤ 1000))
    && decide (tget 0 caps d < ((s.capOf d : Nat) : Rat)))
  if donors.isEmpty || recs.isEmpty then caps
  else
    let pool : Rat := ((64 * donors.length : Nat) : Rat)
    let share := pool / ((recs.length : Nat) : Rat)
    let take (d : Nat) : Rat := min share (((s.capOf d : Nat) : Rat) - tget 0 caps d)
    let back := (pool - (recs.map take).sum) / ((donors.length : Nat) : Rat)
    let caps1 := donors.foldl (fun t d => tset 0 t d (tget 0 caps d - 64 + back)) caps
    recs.foldl (fun t d => tset 0 t d (tget 0 caps d + take d)) caps1

/-- GROUP_CAP_REDISTRIBUTE: the leader moves cap and sends GROUP_CAP to every member; its own entry stands at once. -/
def execGroupCapRedistribute (s : State) : Host.Outcome State Fault Refusal :=
  if !s.critical || decide (s.leader ≠ s.position) then .next s
  else
    let ms := maskList s.members 4
    let caps := s.redistribute ms (if s.pwr.capsSet = some s.members then s.pwr.caps else s.splitCaps ms)
    let mem := s.members
    let ep := (s.pwr.epochSent + 1) % 2 ^ 32
    let entry (d : Nat) : Nat := (tget 0 caps d).floor.toNat % 65536
    let me := s.position
    let s := s.bump.modPwr fun w => { w with caps := caps, capsSet := some mem, epochSent := ep, effCap := some (entry me) }
    let body := toBytes ep 4 ++ (List.range 4).flatMap (fun d => toBytes (entry d) 2)
    .next ((ms.filter (· ≠ me)).foldl (fun s d => s.sendMgmt d 7 body) s)

end Sys2Proof.Machine
end

