-- ==== Sys2Proof/Machine/Faults.lean ====
section
/-!
DEFINITION. Repair in service: the binding of the spare crest (R276), row sparing with its copy and test (R272), scrub reads
(R273) and replayed col transfers (R278).
-/
namespace Sys2Proof.Machine

/-! The spare crest. -/

/-- A CREST reset (R320). A crest that leaves OFF with its regulator on goes on to wake (R236). -/
def State.crestReset (s : State) (l : Nat) : State :=
  let p := s.physOf l
  let ks := (s.crest p).held
  let s := s.endAll (fun c => ks.contains (c.q, c.t)) sReset 0x73
  let s := s.unhalt l
  let on := decide ((s.crest p).pw = .off ∧ (s.reg p).st ≠ 0)
  let s := s.modCrest p fun c => { c.zeroise with
    w0 := {}, w1 := {}, rowBuf := [], feed := [], pc := 0, steps := 0, redWait := [], inv := none, work := []
    waking := c.waking && on
    lentTo := none, lastPart := none, pw := if c.pw = .off ∨ c.pw = .nap then c.pw else .idle }
  (s.wakeIdle p).adoptAll

/-- A RESET_CREST that waited for the spare acts on it once it is bound (R322). -/
def State.resetBound (s : State) : State :=
  match s.mg.resetDue with
  | none => s
  | some l => ((s.modMg fun m => { m with resetDue := none }).crestReset l).mgResult csOk 0

/-- The spare takes a retired crest's place behind its col: its logical number, what waited for it, and its program
handles, whose instructions are to be reloaded; its own memories are zeroised (R276, R94). -/
def State.bindSpare (s : State) (l p : Nat) : State :=
  let x := s.crest p
  let o := s.crestOwner l
  let s := s.modRep fun r => { r with
    crestMap := tset 32 r.crestMap l 16, spareSt := 1, replaces := p, bindDue := none }
  let s := s.modCrest 16 fun c => { c.powerLoss with
    waking := true, held := x.held, stopped := x.stopped, counts := x.counts, work := x.work, ready := x.ready
    lentTo := x.lentTo, lastPart := none
    handles := x.handles.map (fun h => (h.1, { h.2 with stale := true, loading := false })) }
  let s := s.modCrest p fun c => { c with
    held := [], stopped := [], counts := [], work := [], ready := [], lentTo := none, handles := [], waking := false }
  let s := { s with holds := s.holds.map (fun (h : Hold) => if h.p = p then { h with p := 16 } else h) }
  let s := s.addLog { code := 0x0B, cls := 3, kind := kCrest, unit := 16, part := o, count := s.errsIn kCrest 16, detail := l }
  (s.notice [aUnitRetired, aSpareUsed] o.toList).retireDone.resetBound.adoptAll

/-- SPARE_BIND: the spare is bound to the logical crest that waits for it: once IVR16 is ON, or at once during a thermal
trip or while the sequencer is absent, its power coming later (R276, R284). The commands that waited are charged as WAKE
when the crest is awake. -/
def execSpareBind (s : State) : Host.Outcome State Fault Refusal :=
  match s.rep.bindDue with
  | none => .next s
  | some l =>
    if s.colRetired (s.crestCol (s.physOf l)) then .next s.bindFails
    else if s.pwr.tripped || !s.pwr.seqPresent || decide ((s.reg 16).st = 0 ∨ (s.reg 16).st = 2) then
      .next (s.bindSpare l (s.physOf l))
    else .next s

/-! Row sparing (R272). -/

/-- ROW_SPARE: the slice's next queued request starts, in a slice that holds its contents; with no spare row left the slice
is permanent. A row whose spare has stood in its place since the slice woke has no copy, only its test. -/
def execRowSpare (n : Nat) (s : State) : Host.Outcome State Fault Refusal :=
  let x := s.slice n
  match x.sparing, x.spareQ with
  | none, r :: rs =>
    if n ≥ 96 || s.sliceRetired n || decide (x.pw ≠ .on) then .next s
    else if x.spares = 0 then .next (s.retireSlice n 2).goOn
    else .next (s.modSlice n fun x => { x with
      sparing := some (r, x.copied.contains r), spareQ := rs, copied := x.copied.filter (· ≠ r) })
  | _, _ => .next s

/-- ROW_COPY_END: the spare row takes the row's place with the row's contents; the held accesses resume, their wait
charged as STORE; the test of the old row begins. -/
def execRowCopyEnd (e : Ended Nat) (s : State) : Host.Outcome State Fault Refusal :=
  match (s.slice e.it).sparing with
  | some (r, false) =>
    .next ((s.modSlice e.it fun x => { x with sparing := some (r, true) }).resumeHeld (.sparing e.it) e.waited).serveIngress
  | _ => .next s

/-- ROW_TEST_DONE: a row that passes becomes a spare; one that fails is retired, with one spare fewer. -/
def execRowTestDone (n : Nat) (pass : Bool) (s : State) : Host.Outcome State Fault Refusal :=
  match (s.slice n).sparing with
  | some (r, true) =>
    let s := s.modSlice n fun x => { x with sparing := none, spares := if pass then x.spares else x.spares - 1 }
    .next (s.addLog { code := 0x04, cls := 3, kind := kSlice, unit := n, part := s.sliceOwner n, count := s.errsIn kSlice n
                      detail := if pass then 0 else 1, addr := n * 2 ^ 24 + r * 4096 })
  | _ => .next s

/-! Scrubbing (R273). -/

/-- SCRUB_READ: slice `n` in ON reads its next line, line `line`, and the error rules act as for a read with no consumer. -/
def execScrubRead (n line : Nat) (ecc : Option EccKind) (word : Nat) (s : State) : Host.Outcome State Fault Refusal :=
  let x := s.slice n
  if n ≥ 96 || !s.mg.diag.testBit 1 || s.sliceRetired n || x.unavailable || decide (x.pw ≠ .on) || decide (x.scrub ≠ line)
  then .next s
  else
    let s := s.modSlice n fun x => { x with scrub := (line + 1) % 2 ^ 18 }
    match ecc with
    | none => .next s
    | some k => .next ((s.storeError { addr := n * 2 ^ 24 + line * 64, word := word, kind := k } none).peersFollow s)

/-! Cols (R278). -/

/-- Where a transfer delivers its line, and what a bad replay does there (R278, Table HOST-10): a crest's command ends
ABORT_POISON, STORE_POISON; a slice stores the line poisoned; the host gets its data with poison. -/
def State.deliverBad (s : State) (d : Delivery) (addr : Nat) : State :=
  match d with
  | .crest q t => s.endCmd q t sPoison 0x50
  | .slice =>
    if decide (addr / 2 ^ 24 ≥ 96) || s.sliceRetired (addr / 2 ^ 24) then s
    else { s with poison := tset false s.poison (addr / 64) true }
  | .host => s.emit (.hostData (s.read .host ((List.range 64).map (addr / 64 * 64 + ·))) true)

/-- COL_REPLAY: a transfer into col `c` had an uncorrectable error; its replay is clean, or the line at `x.addr` is delivered
poisoned. One detected error either way; the replay's latency is charged as STORE to the command that waits for it. -/
def execColReplay (c : Nat) (clean : Bool) (x : Transfer) (s : State) :
    Host.Outcome State Fault Refusal :=
  let ent : LogEntry := { code := 0x0D, kind := kCol, unit := c, detail := if clean then 0 else 1, addr := r121 x.addr }
  if c > 3 || !s.mg.released then .next s
  else if s.colRetired c then .next (s.addLog { ent with cls := 2, count := s.errsIn kCol c })
  else
    let s := (s.countErr kCol c).modRep fun r => { r with xfer := tmod 0 r.xfer c (fun n => min 65535 (n + 1)) }
    let s := s.addLog { ent with cls := 1, count := s.errsIn kCol c }
    let s := match x.dest with
      | .crest q t => s.modCmd q t fun c => c.charge wStore x.waited
      | _ => s
    let s := if clean then s else s.deliverBad x.dest x.addr
    if s.atThresh kCol c then .next ((s.retireCol c 1).peersFollow s) else .next s

end Sys2Proof.Machine
end

