-- ==== Sys2Proof/Machine/Boot.lean ====
section
/-!
DEFINITION. From VIN to READY and back: the always-on reset and the straps (R230, R286–R289, R306), boot tests (R308,
R309), firmware images and their verification (R219, R311–R313), taint and measurement (R221), and the resets (R315–R321).
-/
namespace Sys2Proof.Machine

/-! The always-on reset. -/

/-- The die under the always-on reset, a COLD reset with LAST_RESET `cause` (R316, Table BOOT-4): fuses keep what was
blown, host memory what the host holds. Without VIN the die is OFF, else in STANDBY (Table DIE-3). -/
def State.cold (s : State) (cause : Nat) : State :=
  { pending := s.pending, freeCtr := s.freeCtr, out := s.out, hostMem := s.hostMem
    hostPoison := tclear s.hostPoison (2 ^ 47) (2 ^ 48)
    mg := { lastReset := cause, rollback := s.mg.rollback, device := if cause = 0 then 0 else 1, released := false } }

/-- ALWAYS_ON_RESET: VIN below 1.60 V (R230). -/
def execAlwaysOnReset (s : State) : Host.Outcome State Fault Refusal := .next (s.cold 0)
/-- REFCLK_INVALID: no edge for 1 µs (R306). A die that VIN has left stays OFF under the reset that VIN asserts (R20). -/
def execRefclkInvalid (s : State) : Host.Outcome State Fault Refusal :=
  if s.mg.device = 0 then .next (s.cold 0) else .next (s.cold 1)
/-- ALWAYS_ON_RELEASE: the reset is released and STRAP phase starts (R306, R286). -/
def execAlwaysOnRelease (s : State) : Host.Outcome State Fault Refusal :=
  if s.mg.released then .next s else .next (s.modMg fun m => { m with released := true, device := 1 })

/-! Taint and measurement (R221). -/

/-- M extended by a taint bit. -/
def extendM (m : List Byte) (b : Nat) : List Byte := (Config.sha384 (m ++ toBytes b 4)).take 32
/-- A taint bit is set; its first setting extends the measurement. -/
def State.setTaint (s : State) (b : Nat) : State :=
  if s.mg.taint.testBit b then s
  else (s.modMg fun m => { m with taint := orBit m.taint b, measure := extendM m.measure b }).liveChange

/-! Straps (R287, R288). -/

/-- A pin's eight samples under one pull, as a mask (R287): 0 low, 1 high, 2 mixed. -/
def strapRead (samples : Nat) : Nat := if samples % 256 = 0 then 0 else if samples % 256 = 255 then 1 else 2
/-- Level of a strap pin read 0 low, 1 high or 2 mixed under each pull: 0 L, 1 H, 2 F. -/
def strapLevel (up down : Nat) : Nat := if up = 0 ∧ down = 0 then 0 else if up = 1 ∧ down = 1 then 1 else 2
/-- Position and debug strap (Table SB-3); none in strap hold. -/
def strapDecode (ick ida : Nat) : Option (Nat × Nat) :=
  match ick, ida with
  | 2, 2 => none
  | 2, d => some (d, 1)
  | c, 2 => some (2 + c, 1)
  | c, d => some (2 * c + d, 0)

/-- STRAP_DECODE: the operands are the samples of each pin under each pull. At 256 AOCLK the straps decode; SERVICE phase begins, or strap hold (R289). -/
def execStrapDecode (ickUp ickDown idaUp idaDown : Nat) (s : State) : Host.Outcome State Fault Refusal :=
  if !s.mg.released || s.sb.service || s.sb.strapHold then .next s
  else
    let ick := strapLevel (strapRead ickUp) (strapRead ickDown)
    let ida := strapLevel (strapRead idaUp) (strapRead idaDown)
    let base := ick + 4 * ida
      + 2 ^ 8 * (strapRead ickUp + 4 * strapRead ickDown + 16 * strapRead idaUp + 64 * strapRead idaDown)
    match strapDecode ick ida with
    | none => .next (s.modSb fun b => { b with straps := base, strapHold := true })
    | some (pos, dbg) =>
      let s := s.modSb fun b => { b with straps := base + 2 ^ 4 * pos + 2 ^ 6 * dbg, service := true }
      let s := s.modMg fun m => { m with stage := 1 }
      .next (if dbg = 1 then s.setTaint 0 else s)

/-! Boot tests. -/

/-- A row that failed the store test is spared; the slice is retired once no spare row is left (R308, R272). -/
def State.bistRow (s : State) (n row : Nat) : State :=
  if n ≥ 96 ∨ row ≥ 4096 ∨ s.sliceRetired n = true then s
  else if (s.slice n).spares = 0 then s.retireSlice n 5
  else
    (s.modSlice n fun x => { x with spares := x.spares - 1 }).addLog
      { code := 0x04, cls := 3, kind := kSlice, unit := n, detail := 1, addr := n * 2 ^ 24 + row * 4096 }

/-- STORE_BIST_DONE: failing rows are spared, every slice holds zeros and moves to OFF (R308). While CREST_BIST goes on, the
stage is CREST_BIST (Table BOOT-1). -/
def execStoreBistDone (failedRows : List (Nat × Nat)) (s : State) : Host.Outcome State Fault Refusal :=
  if s.mg.stage ≠ 5 then .next s
  else
    let s := failedRows.foldl (fun s e => s.bistRow e.1 e.2) s
    let s := { s with store := [], poison := [] }
    let s := (List.range 96).foldl (fun s n => s.modSlice n fun x => { x with pw := .off }) s
    .next (if (List.range 17).all s.bistDone then s else s.modMg fun m => { m with stage := 4 })

/-- After the spare's own test: the lowest logical crest that it may replace gets it, the others are absent (R309, R276). -/
def State.bistSettle (s : State) : State :=
  (List.range 16).foldl (fun s l =>
    let p := s.physOf l
    if p = 31 ∨ s.crestRetired p = false then s
    else if p < 16 && s.spareReady p then
      let s := s.modRep fun r => { r with crestMap := tset 32 r.crestMap l 16, spareSt := 1, replaces := p }
      (s.addLog { code := 0x0B, cls := 3, kind := kCrest, unit := 16, detail := l }).notice [aUnitRetired, aSpareUsed] []
    else s.makeAbsent l []) s

/-- CREST_BIST_GROUP_DONE: the groups end in their order; the regulators of the group, which have come up or, where no row
told of it, are taken to have come up at the first attempt, go OFF again, and its crests with them (R309). -/
def execCrestBistGroupDone (group : Nat) (failed : List Nat) (s : State) : Host.Outcome State Fault Refusal :=
  let before := (List.range group).all (fun g => (bistGroup g).all s.bistDone)
  if group > 4 || decide ((s.reg 23).st ≠ 2) || !(decide (2 ≤ s.mg.stage ∧ s.mg.stage ≤ 5)) || !before
      || (bistGroup group).any (fun p => s.rep.bistPassed.testBit p)
      || (bistGroup group).any (fun p => !s.crestRetired p && decide ((s.reg p).st = 1 ∨ (s.reg p).st = 4)) then .next s
  else
    let s := (bistGroup group).foldl (fun s p =>
      if s.crestRetired p then s
      else if failed.contains p then s.bistRetire p
      else s.modRep fun r => { r with bistPassed := orBit r.bistPassed p }) s
    let t := s.time
    let s := (bistGroup group).foldl (fun s p => s.modReg p fun r =>
      if r.permanent then r else { r.softStarted t with st := 2 }.turnOff t 4) s
    let s := (bistGroup group).foldl (fun s p => s.modCrest p fun c => { c with pw := .off }) s
    .next (if group = 4 then s.bistSettle else s)

/-! Firmware (R310–R313). -/

/-- A command of the mailbox ends: RESULT, OUT_LEN, GO cleared, and the message (R175). -/
def State.mbEnd (s : State) (result outLen : Nat) : State :=
  let irq := s.fw.irq
  let v := s.fw.vector
  let s := s.modFw fun f => { f with go := false, result := result, outLen := outLen }
  if irq then s.sendMsix v else s

/-- The image in RUN starts: it zeroises the slices that a WARM reset left in transit, then has the host link trained (R313,
R318). -/
def State.fwStart (s : State) : State :=
  let v := ofBytes (tgetFrom 0#8 s.fw.run 0x10 4)
  let s := s.modFw fun f => { f with handover := false, version := v }
  let c := if s.mg.minLost then 3 else 1
  (s.modMg fun m => { m with stage := 8, fwRunning := true, cause := c }).freeTransit.trainHost

/-- FW_WAIT begins: the minimum service set is checked, and an image that was accepted before starts (R310). -/
def State.fwWait (s : State) : State :=
  let s := s.modMg fun m => { m with stage := 6, cause := 2 }
  let s := match s.minMissing with
    | some k => (s.modMg fun m => { m with cause := 3, minLost := true, lostKind := k }).addLog
        { code := 0x30, cls := 2, kind := kDie, detail := k }
    | none => s.modMg fun m => { m with minLost := false }
  if s.fw.handover then s.fwStart else s

/-- FW_WAIT: the boot tests have ended, or IVR23 is permanently faulted so that none can run (R307, R310). -/
def execFwWait (s : State) : Host.Outcome State Fault Refusal :=
  let tested := decide (s.mg.stage = 4 ∨ s.mg.stage = 5) && (List.range 96).all (fun n => decide ((s.slice n).pw ≠ .on))
    && (List.range 17).all s.bistDone
  if tested || ((s.reg 23).permanent && decide (2 ≤ s.mg.stage ∧ s.mg.stage ≤ 5)) then .next s.fwWait else .next s

/-- The header checks of R311, on the first 0x200 bytes and the length transferred. -/
def headerOk (h : List Byte) (len : Nat) : Bool :=
  decide (fld h 0 4 = 0x4F46574B) && decide (fld h 4 2 = 1) && decide (fld h 6 2 < 2) && decide (fld h 8 4 = len)
    && decide (4096 ≤ len ∧ len ≤ 2 ^ 22 ∧ len % 64 = 0) && decide (fld h 0xC 4 ≤ 64)
    && decide (0x200 ≤ fld h 0x14 4 ∧ fld h 0x14 4 < len) && decide (fld h 0x18 8 = 0) && decide (fld h 0x81 31 = 0)
    && decide (fld h 0x100 256 = 0)

/-- Blown anti-rollback bits. -/
def State.blown (s : State) : Nat := max Config.fuseRollback s.mg.rollback
/-- PUBKEY of an image (Table BOOT-2). -/
def imgKey (img : List Byte) : List Byte := (img.drop 0x20).take 97
/-- SIGNATURE of an image (Table BOOT-2). -/
def imgSig (img : List Byte) : List Byte := (img.drop 0xA0).take 96
/-- What the signature of an image is taken over: header bytes 0x000–0x09F, then bytes 0x100 to the end (R311). -/
def imgSigned (img : List Byte) : List Byte := img.take 0xA0 ++ img.drop 0x100
/-- The key-hash slot that verifies an image: it holds the digest of the image's key, its revoke fuse is not blown, and the
signature verifies under that key (R219, R311). -/
def keySlotOf (img : List Byte) : Option Nat :=
  if Config.ecdsaOk (imgKey img) (imgSig img) (imgSigned img) then
    (List.range 2).find? (fun k => !Config.fuseRevoked.testBit k && decide (Config.sha384 (imgKey img) = Config.keyHash k))
  else none

/-- An image is accepted: measurement and taint (R221), the anti-rollback fuses (R313), SE_FUSE (Table REG-7). -/
def State.acceptImage (s : State) (img : List Byte) (slot : Option Nat) (unsigned : Bool) : State :=
  let sec := fld img 0xC 4
  let blow := decide (fld img 6 2 = 1) && slot.isSome && decide (sec > s.blown)
  let taint := if unsigned then orBit s.mg.taint 1 else s.mg.taint
  let m := (maskList taint 4).foldl extendM ((Config.sha384 img).take 32)
  s.modMg fun g => { g with
    taint := taint, measure := m, rollback := if blow then sec else g.rollback
    keySlot := if unsigned then 0 else slot.getD 0, unsignedRun := unsigned }

/-- Verification ends with the image refused: nothing changes (R311, R313). -/
def State.imageRefused (s : State) (who : Nat) : State :=
  let s := s.modFw fun f => { f with verifying := none }
  let s := if s.mg.stage = 7 then s.fwWait else s
  match who with
  | 0 => s.mbEnd 5 0
  | 1 => s.mgResult csArg dImage
  | _ => s

/-- Verification ends with the image accepted: STAGE becomes RUN, and the image starts, hands over later, or waits for
FW_WAIT (R313). -/
def State.imageAccepted (s : State) (who len : Nat) (img : List Byte) (slot : Option Nat) (unsigned : Bool) : State :=
  let s := s.acceptImage img slot unsigned
  let s := s.modFw fun f => if who = 2 then { f with verifying := none }
    else { f with verifying := none, run := f.stage, stage := f.run, runLen := len, stageOpen := false }
  let s := match who with
    | 0 => s.mbEnd 0 0
    | 1 => s.mgResult csOk 0
    | _ => s
  if s.mg.fwRunning || decide (s.mg.stage < 6) then s.modFw fun f => { f with handover := true } else s.fwStart

/-- FW_VERIFY_DONE (R311, R219). -/
def execFwVerifyDone (s : State) : Host.Outcome State Fault Refusal :=
  match s.fw.verifying with
  | none => .next s
  | some (len, who) =>
    let bank := if who = 2 then s.fw.run else s.fw.stage
    if !headerOk (tgetFrom 0#8 bank 0 0x200) len then .next (s.imageRefused who)
    else
      let img := tgetFrom 0#8 bank 0 len
      let slot := keySlotOf img
      let good := slot.isSome && decide (fld img 0xC 4 ≥ s.blown)
      if good || s.debugStrap then .next (s.imageAccepted who len img slot (!good)) else .next (s.imageRefused who)

/-- FW_HANDOVER: the running firmware hands over; nothing is disturbed (R313). -/
def execFwHandover (s : State) : Host.Outcome State Fault Refusal :=
  if s.fw.handover && s.mg.fwRunning then
    let v := ofBytes (tgetFrom 0#8 s.fw.run 0x10 4)
    .next (s.modFw fun f => { f with handover := false, version := v })
  else .next s

/-- FW_RUN_READY: the firmware builds the capability list and live values, and enters READY where the minimum service set is
complete; peer ports with a die behind them train. Firmware that was accepted with the set incomplete never enters READY
(R310, R188). -/
def execFwRunReady (s : State) : Host.Outcome State Fault Refusal :=
  let training := (List.range 4).any (fun m => decide ((s.hmod m).st = 1 ∨ (s.hmod m).st = 4))
  if !s.mg.fwRunning || decide (s.mg.stage ≠ 8) || s.mg.capBuilt || training then .next s
  else
    let s := s.modMg fun m => { m with capBuilt := true }
    if s.mg.minLost then .next (s.modMg fun m => { m with cause := 3 })
    else match s.minMissing with
    | some k =>
      let s := s.modMg fun m => { m with cause := 3, minLost := true, lostKind := k }
      .next (s.addLog { code := 0x30, cls := 2, kind := kDie, detail := k })
    | none => .next (s.modMg fun m => { m with device := 2, cause := 0 }).trainPorts

/-! WARM (R318). -/

/-- The device coherent cache writes back every modified line, its eviction buffer included, and is empty (R182, Table
HOST-7). -/
def State.writeBack (s : State) : State :=
  let s := s.evict.foldl (fun s e => if e.modified && !e.snooped && !e.pulled then s.backLine e.line e.data e.poison else s) s
  let s : State := { s with evict := [] }
  let s := (tkeys s.cache).foldl (fun s l =>
    let c := tget {} s.cache l
    if c.st = .M then (s.backLine l c.data c.poison).emit (.cxl .dirtyEvict l) else s) s
  { s with cache := [] }.emit (.cxl .cacheFlushed 0)

/-- A crest after a WARM reset: OFF and empty, its learned ratios cleared; offsets and weights stay (Table BOOT-4). -/
def Crest.warm (c : Crest) : Crest :=
  { offs := c.offs, wAdj := c.wAdj, quietAt := c.quietAt, resCount := c.resCount, parCount := c.parCount }

/-- A slice after a WARM reset: OFF; a row being spared is replaced, its old row retired untested (Table BOOT-5). A slice
whose zeroisation had not ended stays in transit. -/
def Slice.warm (x : Slice) (retired transit : Bool) : Slice :=
  { x with
    pw := .off, waking := false, transit := transit, scrub := 0
    spares := if x.sparing.isSome && !retired then x.spares - 1 else x.spares, sparing := none }

/-- Power control after a WARM reset: its registers and learned state at reset, its measurements and ceilings kept. -/
def Pwr.warm (w : Pwr) : Pwr :=
  { energy := w.energy, stale := w.stale, quietTime := w.quietTime, vinLow := w.vinLow, supplyAlarm := w.supplyAlarm
    capDrop := w.capDrop, seqTimeout := w.seqTimeout, seqPresent := w.seqPresent, tripped := w.tripped, accW := w.accW
    accWin := w.accWin, acc10 := w.acc10, bins10 := w.bins10, bins100 := w.bins100, bins1000 := w.bins1000
    open100 := w.open100, open1000 := w.open1000, periods := w.periods, temps := w.temps, excluded := w.excluded
    hotOnce := w.hotOnce, thermal := w.thermal, coolSince := w.coolSince }

/-- The sideband after a WARM reset: straps, alignment and the frame on the port stay, with the slots that power control's
kept alarms count; the other registers are at reset (Table BOOT-4). -/
def Sb.warm (b : Sb) : Sb :=
  { service := b.service, strapHold := b.strapHold, straps := b.straps, aligned := b.aligned, armed := b.armed
    alarmOn := b.alarmOn, alarmClear := b.alarmClear, dropClear := b.dropClear, frameBusy := b.frameBusy }

/-- Every fetched command ends ABORT_RESET, WARM; records, overflow records among them, go to rings in host memory only
(R138, R318), whatever else holds accesses to their lines. -/
def State.warmEnds (s : State) : State :=
  let s := (s.cmds.filter (fun c => c.fin.isNone)).foldl (fun s c => s.endCmd c.q c.t sReset 0x71) s
  let due (s : State) (q : Nat) : Bool := isHostAddr (s.queue q).cqBase && s.ringReachable q
  let s := s.ends.foldl (fun s k => match s.cmd? k.1 k.2 with
    | some c => if due s k.1 then s.record c (c.fin.getD (0, 0)).1 (c.fin.getD (0, 0)).2 0 else s
    | none => s) s
  let s := (tkeys s.queues).foldl (fun s q => match (s.queue q).ovf with
    | some o => if due s q && decide (s.freeRecords q ≥ 1) then s.overflow q o else s
    | none => s) s
  { s with cmds := [], ends := [], stalled := [], holds := [] }

/-- A regulator's sense is trusted again, its suspect phases unverified until their next check (R242). -/
def Reg.senseReset (r : Reg) : Reg :=
  if r.senseFail then { r with
    senseFail := false, lowOnce := 0
    phStat := (List.range 4).foldl (fun t k => if tget 0 t k = 3 then tset 0 t k 1 else t) r.phStat }
  else r

/-- Units after a WARM reset: crests, slices, regulators, host modules, peer ports; a disabled port stays disabled
(R201). -/
def State.warmUnits (s : State) : State :=
  let t := s.time
  let s := match s.rep.bindDue with | some l => s.bindSpare l (s.physOf l) | none => s
  let s := (List.range 24).foldl (fun s r => s.modReg r Reg.senseReset) s
  let s := (List.range 17).foldl (fun s p => (s.modCrest p Crest.warm).modReg p fun r => r.turnOff t 4) s
  let left := match s.journal with | some j => if j.phase ≥ 3 then j.transit else 0 | none => 0
  let s := (List.range 96).foldl (fun s n =>
    let r := s.sliceRetired n
    let sp := (s.slice n).sparing
    let s := s.modSlice n fun x => x.warm r (left.testBit n)
    match sp with
    | some (row, _) => if r then s else s.addLog { code := 0x04, cls := 3, kind := kSlice, unit := n, detail := 1
                                                   count := s.errsIn kSlice n, addr := n * 2 ^ 24 + row * 4096 }
    | none => s) s
  let s := (List.range 4).foldl (fun s m => s.modHmod m fun h =>
    { repairs := h.repairs, retrains := h.retrains, crcRetries := h.crcRetries, st := if h.st = 5 then 5 else 0 }) s
  (List.range 3).foldl (fun s k => s.modPort k fun x =>
    { retrains := x.retrains, replays := x.replays, disCause := x.disCause
      st := if x.st = 4 ∨ x.st = 5 then x.st else 0 }) s

/-- A WARM reset with LAST_RESET `cause` (R318, Table BOOT-4, Table BOOT-5). -/
def State.warm (s : State) (cause : Nat) : State :=
  let s := s.warmEnds
  let s := (s.abufFlush (fun _ => true)).writeBack
  let s := (List.range 8).foldl State.releaseEnergy s.warmUnits
  let go := s.fw.runLen ≠ 0
  let s : State := { s with
    store := [], poison := [], pend := [], abuf := [], cache := [], evict := [], journal := none, parts := [], queues := []
    hostConfig := 0, bias := {}, stPort := {}, stBar0 := {}, lastPart := 7, linkmaps := [], refused := [], tiles := []
    landing := [], ingress := [], peerPast := [], closing := [], retries := [], msixMask := [], msixPend := []
    hostPoison := tclear s.hostPoison (2 ^ 47) (2 ^ 48)
    pwr := s.pwr.warm
    sb := s.sb.warm
    fw := { run := s.fw.run, runLen := s.fw.runLen, verifying := if go then some (s.fw.runLen, 2) else none }
    mg := { lastReset := cause, rollback := s.mg.rollback, taint := s.mg.taint, stage := 7
            fatalSupply := decide ((s.reg 23).st ≠ 2) } }
  let s := match s.unitMissing ((List.range 4).any (fun m => !s.rep.retMod.testBit m)) with
    | some k => s.modMg fun m => { m with minLost := true, lostKind := k }
    | none => s
  (if go then s else s.fwWait).applyHw

/-- WATCHDOG: firmware has not serviced it for 1 s (R314). -/
def execWatchdog (s : State) : Host.Outcome State Fault Refusal :=
  if s.mg.fwRunning then .next (s.warm 4) else .next s

/-! CREST and LINK resets. -/

/-- RESET_CREST of a logical crest (R315, R320); where a spare is to be bound to it, it acts on the spare once bound (R322). -/
def State.doResetCrest (s : State) (l : Nat) : State :=
  if s.crestPresent l && decide (s.rep.bindDue = some l) then
    (s.mgRuns 0x42).modMg fun m => { m with resetDue := some l }
  else if !s.crestPresent l || s.crestRetired (s.physOf l) then s.mgResult csState dRetired
  else (s.crestReset l).mgResult csOk 0

/-- The mailbox command in hand ends with the host link (R322): an activation that it began ends too, with the image not
loaded. The spec gives it no RESULT: a free value. DESIGN CHOICE (log 129). -/
def State.mailboxCut (s : State) : State :=
  if !s.fw.go then s
  else
    let r := Config.freeNat s.freeCtr % 6
    let mine := s.fw.verifying.any (fun v => decide (v.2 = 0))
    let s := if mine then s.modFw fun f => { f with verifying := none } else s
    let s := if mine && decide (s.mg.stage = 7) then s.fwWait else s
    s.bump.mbEnd r 0

/-- A LINK reset of the host link: the mailbox command in hand ends, every module that is not RETIRED retrains, and each counts
its retrain (R171, R321, R322). R24 is suspended from here (`linkSince`). -/
def State.hostLinkReset (s : State) : State :=
  let ms := (List.range 4).filter (fun m => decide ((s.hmod m).st ≠ 5))
  let t := s.time
  let s := ms.foldl (fun s m =>
    s.modHmod m fun h => { h with st := 4, attempt := 0, retrains := min 255 (h.retrains + 1) }) s.mailboxCut.writeBack
  let s := (s.modMg fun m => { m with linkSince := some t }).liveChange
  ms.foldl (fun s m => s.hostEvent m 1) s

/-- A LINK reset of port Tk: it trains anew under R194, which counts, and a disabled status is cleared; streams reroute or end
LINK (R321). A die that is not in READY or RUN leaves the port OFF (Table BOOT-1). -/
def State.portReset (s : State) (k : Nat) : State :=
  let up := decide ((s.port k).st = 2 ∨ (s.port k).st = 3)
  if s.serving then
    let s := s.modPort k fun x => { x with
      st := 1, attempt := 0, disCause := 0, helloSeen := false, retrains := min 255 (x.retrains + 1) }
    (if up then s.linkLost k sReset 0x74 else s.sendLinkmap).peerEvent k 1
  else (s.modPort k fun x => { x with st := 0, disCause := 0 }).liveChange

/-- RESET_LINK of a target: 0 the host link, k + 1 port Tk (R315, R321). A port with no die behind it is absent (R188). -/
def State.doResetLink (s : State) (target : Nat) : State :=
  let runs := (s.mgRuns 0x43).modMg fun m => { m with linkTarget := target }
  if target = 0 then
    if (List.range 4).all (fun m => decide ((s.hmod m).st = 5)) then s.mgResult csState dRetired
    else runs.hostLinkReset.linkDone
  else if (s.port (target - 1)).st = 5 then s.mgResult csState dRetired
  else if (s.port (target - 1)).st = 0 ∧ ¬s.peerOf (target - 1) < Config.groupDies then s.mgResult csState dRetired
  else (runs.portReset (target - 1)).linkDone

/-- HOST_LINK_RESET: a hot reset or link disable from the host (Table BOOT-3). -/
def execHostLinkReset (s : State) : Host.Outcome State Fault Refusal :=
  if s.hostConfig = 0 then .next s else .next s.hostLinkReset

end Sys2Proof.Machine
end

