-- ==== Sys2Proof/Machine/Mgmt.lean ====
section
/-!
DEFINITION. Management commands (R209, R326–R329) with the retirement of a unit (R279) and firmware over the register port
(R312), staging (R207), debug levels (R223), halts (R225, R337), and the firmware mailbox (R175, R176).
-/
namespace Sys2Proof.Machine

/-! Who is heard. -/

/-- Does a path reach the management file: the register port in SERVICE phase, BAR0 while the die serves (R23, R286)? -/
def State.pathLive (s : State) (p : Path) : Bool :=
  match p with
  | .port => s.mg.released && s.sb.service
  | .bar0 => s.serving
/-- Does an access of a row reach a path: over the register port only a frame that finds it idle (R291)? -/
def State.pathReady (s : State) (p : Path) : Bool :=
  s.pathLive p && (match p with | .port => !s.sb.frameBusy | .bar0 => true)

/-- CRC-8 of R294 over bits: one bit. -/
def crc8Bit (c : Nat) (b : Bool) : Nat :=
  let d := c * 2 % 256
  if c.testBit 7 != b then d ^^^ 7 else d
/-- The `n` low bits of a number, most significant first. -/
def bitsOf (v n : Nat) : List Bool := (List.range n).map (fun i => v.testBit (n - 1 - i))
/-- CRC-8 of R294. -/
def crc8 (bs : List Bool) : Nat := bs.foldl crc8Bit 0

/-- The register port answers (R293, R294). -/
def State.sbReply (s : State) (status data : Nat) : State :=
  s.emit (.sb status (BitVec.ofNat 32 data) (crc8 (bitsOf status 2 ++ bitsOf data 32)))
/-- The frame ends with a response, which occupies the port until it is idle again; under the always-on reset no pin is
driven (R286, R291, R293). -/
def State.answer (s : State) (status data : Nat) : State :=
  if s.mg.released then (s.modSb fun b => { b with frameBusy := true }).sbReply status data else s

/-- An access of a row on a path: over the register port a frame with its response, through BAR0 a write, which is posted,
or a read with its word. `f` gives the state after, the status and the word. -/
def State.access (s : State) (p : Path) (write : Bool) (f : State → State × Nat × Nat) : State :=
  if !s.pathReady p then s
  else
    let r := f s
    match p with
    | .port => r.1.answer r.2.1 r.2.2
    | .bar0 => if write then r.1 else r.1.emit (.bar0 (BitVec.ofNat 32 r.2.2))
/-- A write of a row on a path, acknowledged over the register port. -/
def State.written (s : State) (p : Path) (f : State → State) : State := s.access p true fun s => (f s, 0, 0)

/-- Bit `i` of SE_POLICY for a BAR0 write; the register port is never gated (R222, R296). -/
def State.allows (s : State) (p : Path) (i : Nat) : Bool :=
  match p with | .port => true | .bar0 => s.mg.policy.testBit i
/-- HOST_PT, HOST_FW, HOST_PW and HOST_DBG of Table PART-9. -/
def polPt : Nat := 0
def polFw : Nat := 1
def polPw : Nat := 2
def polDbg : Nat := 3
/-- A register of the management file got an unlisted encoding (R10). -/
def State.badEnc (s : State) : State := s.modMg fun m => { m with badEnc := true }

/-! RP_RETIRE (R279). -/

/-- Numbers of units of a KIND; 0 for a KIND that is out of range. -/
def kindCount (kind : Nat) : Nat :=
  match kind with | 1 => 17 | 2 => 96 | 3 => 4 | 4 => 4 | 5 => 3 | _ => 0

/-- Is a unit retired? -/
def State.unitRetired (s : State) (kind unit : Nat) : Bool :=
  match kind with
  | 1 => s.crestRetired unit
  | 2 => s.sliceRetired unit
  | 3 => s.colRetired unit
  | 4 => s.rep.retMod.testBit unit
  | _ => s.rep.retPort.testBit unit

/-- A unit is retired with cause 6. -/
def State.retireUnit (s : State) (kind unit : Nat) : State :=
  match kind with
  | 1 => s.retireCrest unit 6
  | 2 => (s.retireSlice unit 6).goOn
  | 3 => (s.retireCol unit 6).peersFollow s
  | 4 => s.retireModule unit 6
  | _ => (s.retirePort unit 6).peersFollow s

/-- RP_RETIRE: it ends once the retirement and any spare binding have ended. -/
def State.doRetire (s : State) (kind unit : Nat) : State :=
  if unit ≥ kindCount kind then s.mgResult csArg 0
  else if s.unitRetired kind unit then s.mgResult csState dRetired
  else
    let s := s.retireUnit kind unit
    if s.rep.bindDue.isSome then s.mgRuns 0x20 else s.mgResult csOk 0

/-! Firmware over the register port (R312). -/

/-- FW_SB_OPEN: STAGE is cleared and open. -/
def State.doSbOpen (s : State) : State :=
  (s.modFw fun f => { f with stage := [], stageOpen := true }).mgResult csOk 0

/-- FW_SB_ACTIVATE: STAGE is closed and IA × 4 bytes of it are verified. -/
def State.doSbActivate (s : State) : State :=
  if !s.fw.stageOpen then s.mgResult csArg dNotOpen
  else
    let len := s.mg.iaPort * 4
    let s := (s.modFw fun f => { f with stageOpen := false, verifying := some (len, 1) }).mgRuns 0x31
    s.modMg fun m => { m with stage := if m.stage = 6 then 7 else m.stage }

/-! MG_CMD. -/

/-- Is an opcode marked for BAR0 (Table REG-5)? -/
def opBar0 (op : Nat) : Bool := [0x10, 0x11, 0x12, 0x13, 0x41, 0x42, 0x43].contains op

/-- A management command that may start does (Table REG-5). -/
def State.mgStart (s : State) (path : Path) (v : Nat) : State :=
  let part := bits v 10 8
  match v % 256 with
  | 0x10 => s.ptCreate path part
  | 0x11 => s.ptReshape path part
  | 0x12 => s.ptDestroy part
  | 0x13 => s.ptReset part
  | 0x20 => s.doRetire (bits v 11 8) (bits v 23 16)
  | 0x30 => s.doSbOpen
  | 0x31 => s.doSbActivate
  | 0x40 => s.cold 2
  | 0x41 => s.warm 3
  | 0x42 => s.doResetCrest (bits v 19 16)
  | 0x43 => s.doResetLink (bits v 17 16)
  | _ => s.mgResult csArg dOpcode

/-- Is a command held: a PT_RESET of the partition under a running reshape or destroy (R209)? -/
def State.mayHold (s : State) (v : Nat) : Bool :=
  match s.journal with
  | some j => decide (v % 256 = 0x13) && decide (bits v 10 8 = j.part)
  | none => false

/-- Does a command hold the management core: a management command, or a mailbox activation that verifies (R176, R209)? -/
def State.coreBusy (s : State) : Bool := s.mg.running.isSome || s.fw.verifying.any (fun v => v.2 = 0)

/-- A write of MG_CMD (R209, R324, R328): management and mailbox commands run one at a time (R176), and FW_SB_ACTIVATE waits
for no other verification either. -/
def State.mgCmd (s : State) (path : Path) (v : Nat) : State :=
  if !s.pathLive path || (decide (path = .bar0) && !(s.allows path polPt && opBar0 (v % 256))) then s
  else if s.coreBusy || (decide (v % 256 = 0x31) && s.fw.verifying.isSome) then
    if s.mayHold v then s.modMg fun m => { m with pending := m.pending ++ [(path, bits v 10 8)] }
    else s.modMg fun m => { m with dropped := true }
  else s.mgStart path v

/-- PT_CREATE (R210). -/
def execPtCreate (path : Path) (part : Nat) (s : State) : Host.Outcome State Fault Refusal :=
  .next (s.written path fun s => s.mgCmd path (0x10 + 2 ^ 8 * (part % 8)))
/-- PT_RESHAPE (R211, R212). -/
def execPtReshape (path : Path) (part : Nat) (s : State) : Host.Outcome State Fault Refusal :=
  .next (s.written path fun s => s.mgCmd path (0x11 + 2 ^ 8 * (part % 8)))
/-- PT_DESTROY (R213). -/
def execPtDestroy (path : Path) (part : Nat) (s : State) : Host.Outcome State Fault Refusal :=
  .next (s.written path fun s => s.mgCmd path (0x12 + 2 ^ 8 * (part % 8)))
/-- PT_RESET (R319). -/
def execPtReset (path : Path) (part : Nat) (s : State) : Host.Outcome State Fault Refusal :=
  .next (s.written path fun s => s.mgCmd path (0x13 + 2 ^ 8 * (part % 8)))
/-- RP_RETIRE (R279). -/
def execRpRetire (path : Path) (kind unit : Nat) (s : State) : Host.Outcome State Fault Refusal :=
  .next (s.written path fun s => s.mgCmd path (0x20 + 2 ^ 8 * (kind % 16) + 2 ^ 16 * (unit % 256)))
/-- FW_SB_OPEN (R312). -/
def execFwSbOpen (path : Path) (s : State) : Host.Outcome State Fault Refusal := .next (s.written path fun s => s.mgCmd path 0x30)
/-- FW_SB_ACTIVATE (R312). -/
def execFwSbActivate (path : Path) (s : State) : Host.Outcome State Fault Refusal := .next (s.written path fun s => s.mgCmd path 0x31)
/-- RESET_COLD (R315, R317). -/
def execResetCold (path : Path) (s : State) : Host.Outcome State Fault Refusal := .next (s.written path fun s => s.mgCmd path 0x40)
/-- RESET_WARM (R315, R318). -/
def execResetWarm (path : Path) (s : State) : Host.Outcome State Fault Refusal := .next (s.written path fun s => s.mgCmd path 0x41)
/-- RESET_CREST (R315, R320). -/
def execResetCrest (path : Path) (l : Nat) (s : State) : Host.Outcome State Fault Refusal :=
  .next (s.written path fun s => s.mgCmd path (0x42 + 2 ^ 16 * (l % 16)))
/-- RESET_LINK (R315, R321). -/
def execResetLink (path : Path) (target : Nat) (s : State) : Host.Outcome State Fault Refusal :=
  .next (s.written path fun s => s.mgCmd path (0x43 + 2 ^ 16 * (target % 4)))

/-! Staging (R207). -/

/-- `s` with a path's staging copy changed by `f`. -/
def State.modStaging (s : State) (p : Path) (f : Staging → Staging) : State :=
  match p with
  | .port => { s with stPort := f s.stPort }
  | .bar0 => { s with stBar0 := f s.stBar0 }

/-- A write of PT_SEL loads the path's staging copy from the partition's live values. -/
def State.loadStaging (s : State) (p : Path) (v : Nat) : State :=
  let x := s.part (v % 8)
  s.modStaging p fun _ =>
    { sel := v % 8, crests := x.crests, slices := x.slices, queues := x.queues, ctl := x.ctl, guar := x.guar }

/-- PT_SEL (R207, R327). -/
def execPtSel (path : Path) (v : Nat) (s : State) : Host.Outcome State Fault Refusal :=
  .next (s.written path fun s => if s.allows path polPt then s.loadStaging path v else s)

/-- A write of PT_CTL, each field under its own policy row: DBG_OPTIN acts at once (R208, R324). -/
def State.writePtCtl (s : State) (p : Path) (v : Nat) : State :=
  let s := if s.allows p polPt then s.modStaging p fun g => { g with ctl := (v &&& 0xB) ||| (g.ctl &&& 4) } else s
  if s.allows p polDbg then
    let sel := (s.staging p).sel
    (s.modStaging p fun g => { g with ctl := (g.ctl &&& 0xB) ||| (v &&& 4) }).modPart sel fun x =>
      { x with ctl := (x.ctl &&& 0xB) ||| (v &&& 4) }
  else s

/-! Debug levels and halts (R223, R225). -/

/-- A halt on a logical crest is released: the crest goes on where it stopped; the halt's length is charged as QUEUE to what
it holds (R225). -/
def State.releaseHalt (s : State) (l : Nat) : State :=
  let p := s.physOf l
  let s := s.modMg fun m => { m with haltReq := clrBit m.haltReq l }
  if !(s.crest p).halted then s
  else
    let s := (s.modMg fun m => { m with haltStat := clrBit m.haltStat l }).modCrest p fun c => { c with halted := false }
    let s := (s.crest p).held.foldl (fun s k => s.setHold k.1 k.2 p wHalt false) s
    let s := match (s.crest p).work with
      | v :: _ => s.addTrace 8 l v.q ((s.cmd? v.q v.t).elim 0 (·.part)) 0 v.t
      | [] => s
    s.kick p

/-- The debug level changes; leaving FULL releases every halt, and what only FULL keeps in NAP is lost; entering it is a taint
(R223, R221, R226). -/
def State.toDebug (s : State) (lvl : Nat) : State :=
  if s.mg.debugLevel = lvl then s
  else
    let s := if s.mg.debugLevel = 2 then (List.range 16).foldl State.releaseHalt s else s
    let s := if s.mg.debugLevel = 2 then (List.range 17).foldl (fun s p => s.modCrest p Crest.unkept) s else s
    let s := (s.modMg fun m => { m with debugLevel := lvl }).liveChange
    if lvl = 2 then s.setTaint 2 else s

/-- A level written to SE_DEBUG_REQ (R223, R10). -/
def State.debugReq (s : State) (p : Path) (lvl : Nat) : State :=
  let now := s.mg.debugLevel
  let ok := if lvl = 2 then decide (p = .port) && s.debugStrap
    else decide (lvl ≤ now) || s.serving
  if lvl = 3 then s.badEnc
  else if ok then s.toDebug lvl
  else s.modMg fun m => { m with debugDenied := true }

/-- SE_DEBUG_REQ: a level is requested (R223, R324). -/
def execSeDebugReq (path : Path) (level : Nat) (s : State) : Host.Outcome State Fault Refusal :=
  .next (s.written path fun s => if s.allows path polDbg then s.debugReq path (level % 4) else s)

/-- A write of DBG_HALT_REQ over the register port at FULL: halts are requested and released (R337). -/
def State.haltReq (s : State) (v : Nat) : State :=
  let want := (((List.range 16).filter (fun l => v.testBit l && s.crestPresent l && !s.crestRetired (s.physOf l))).map
    (2 ^ ·)).sum
  let s := (maskList (andNot s.mg.haltReq want) 16).foldl State.releaseHalt s
  s.modMg fun m => { m with haltReq := want }

/-- DBG_HALT_REQ: below level FULL the port answers NAK_PERM, and through BAR0 nothing is written (R296, R337). -/
def execDbgHaltReq (path : Path) (v : Nat) (s : State) : Host.Outcome State Fault Refusal :=
  .next (s.access path true fun s =>
    if path = .bar0 then (s, 0, 0) else if s.mg.debugLevel = 2 then (s.haltReq v, 0, 0) else (s, 2, 0))

/-- CREST_HALT: a crest whose halt is requested stops at a boundary of R136 (R225); a crest halted under FULL is a taint.
What it holds waits as QUEUE. -/
def execCrestHalt (p : Nat) (s : State) : Host.Outcome State Fault Refusal :=
  let c := s.crest p
  let rest := c.inv.isNone && (match c.work with
    | w :: _ => (s.cmd? w.q w.t).any (fun d => d.atBoundary w)
    | [] => true)
  match s.logicalOf p with
  | none => .next s
  | some l =>
    if !s.mg.haltReq.testBit l || decide (s.mg.debugLevel ≠ 2) || c.halted || !rest then .next s
    else
      let s := (s.modCrest p fun c => { c with halted := true }).modMg fun m => { m with haltStat := orBit m.haltStat l }
      let s := c.held.foldl (fun s k => s.setHold k.1 k.2 p wHalt true) s
      let s := match c.work with
        | w :: _ => s.addTrace 7 l w.q ((s.cmd? w.q w.t).elim 0 (·.part)) 0 w.t
        | [] => s
      .next (s.setTaint 3)

/-! The firmware mailbox (R175, R176). -/

/-- The mailbox is served: the host link is up, and the die serves or waits for firmware (R312), unless it has moved below
the minimum service set (R23). -/
def State.mailboxLive (s : State) : Bool :=
  decide (s.hostConfig ≠ 0) && s.hostAnswers && (s.serving || decide (s.mg.stage ≥ 6))

/-- Is an opcode of Table HOST-5? -/
def mbListed (op : Nat) : Bool := decide (op = 1 ∨ op = 0x10 ∨ op = 0x11 ∨ op = 0x20)

/-- A write of a mailbox word (Table HOST-4). DEDUCED (log 115): MB_CMD takes any OPCODE and LEN, and what is unlisted is
refused at GO, with BAD_OPCODE at once or BAD_LENGTH (R176), not at the write (R10). -/
def State.writeMailbox (s : State) (off v : Nat) : State :=
  if !s.mailboxLive then s
  else if off = 0 then
    let s := s.modFw fun f => { f with go := v.testBit 0, irq := v.testBit 1, vector := bits v 8 2 }
    if s.fw.go && !mbListed s.fw.opcode then s.mbEnd 1 0 else s
  else if s.fw.go then s
  else if off = 4 then s.modFw fun f => { f with opcode := bits v 15 0, len := bits v 27 16 }
  else if 0x100 ≤ off ∧ off < 0x1000 ∧ off % 4 = 0 then
    s.modFw fun f => { f with payload := tsetFrom 0#8 f.payload (off - 0x100) (toBytes v 4) }
  else s

/-- A read of a mailbox word. -/
def State.readMailbox (s : State) (off : Nat) : Nat :=
  let f := s.fw
  if off = 0 then b2n f.go + 2 * b2n f.irq + 4 * f.vector
  else if off = 4 then f.opcode + 2 ^ 16 * f.len
  else if off = 8 then f.result + 2 ^ 8 * f.outLen
  else if 0x100 ≤ off ∧ off < 0x1000 ∧ off % 4 = 0 then ofBytes (tgetFrom 0#8 f.payload (off - 0x100) 4)
  else 0

/-- `n` bytes of the payload as a number. -/
def State.mbArg (s : State) (n : Nat) : Nat := ofBytes (tgetFrom 0#8 s.fw.payload 0 n)
/-- Is a mailbox command of an opcode due? -/
def State.mbDue (s : State) (op : Nat) : Bool :=
  s.mailboxLive && s.fw.go && decide (s.fw.opcode = op) && s.fw.verifying.all (fun v => v.2 ≠ 0)
/-- The first check of R176 that a command fails, past its opcode: LEN, BUSY, policy. -/
def State.mbCheck (s : State) (lenOk firmware : Bool) : Option Nat :=
  if !lenOk then some 2
  else if s.mg.running.isSome || s.fw.verifying.isSome then some 3
  else if firmware && !s.mg.policy.testBit polFw then some 4
  else none

/-- IDENTIFY: MG_ID, the firmware version and SE_TAINT. -/
def execIdentify (s : State) : Host.Outcome State Fault Refusal :=
  if !s.mbDue 1 then .next s
  else match s.mbCheck (decide (s.fw.len = 0)) false with
    | some r => .next (s.mbEnd r 0)
    | none =>
      let out := toBytes 0x4F111620 4 ++ toBytes s.fw.version 4 ++ toBytes s.mg.taint 4
      .next ((s.modFw fun f => { f with payload := tsetFrom 0#8 f.payload 0 out }).mbEnd 0 12)

/-- FW_TRANSFER: image bytes go to STAGE (R312). -/
def execFwTransfer (s : State) : Host.Outcome State Fault Refusal :=
  if !s.mbDue 0x10 then .next s
  else
    let len := s.fw.len
    let o := s.mbArg 4
    match s.mbCheck (decide (4 ≤ len ∧ len ≤ 3840 ∧ o + (len - 4) ≤ 2 ^ 22)) true with
    | some r => .next (s.mbEnd r 0)
    | none =>
      let bs := tgetFrom 0#8 s.fw.payload 4 (len - 4)
      .next ((s.modFw fun f => { f with stage := tsetFrom 0#8 f.stage o bs }).mbEnd 0 0)

/-- FW_ACTIVATE: verification starts (R313). -/
def execFwActivate (s : State) : Host.Outcome State Fault Refusal :=
  if !s.mbDue 0x11 then .next s
  else
    let n := s.mbArg 4
    match s.mbCheck (decide (s.fw.len = 4 ∧ 0 < n ∧ n ≤ 2 ^ 22)) true with
    | some r => .next (s.mbEnd r 0)
    | none =>
      let s := s.modFw fun f => { f with verifying := some (n, 0) }
      .next (s.modMg fun m => { m with stage := if m.stage = 6 then 7 else m.stage })

/-- The words of a log entry (Table FLT-4). -/
def LogEntry.words (e : LogEntry) : List Nat :=
  let pt := match e.part with | some p => p * 2 ^ 24 + 2 ^ 27 | none => 0
  let q := match e.cmd with | some c => c.1 + 2 ^ 7 | none => 0
  let tag := match e.cmd with | some c => c.2 | none => 0
  [ e.code + e.cls * 2 ^ 8 + e.kind * 2 ^ 12 + e.unit * 2 ^ 16 + pt, e.time % 2 ^ 32, e.time / 2 ^ 32,
    q + e.count * 2 ^ 8 + e.detail * 2 ^ 24, tag, e.addr % 2 ^ 32, e.addr / 2 ^ 32, e.seq ]

/-- LOG_READ: entries from the greater of the index and LOG_NEXT − 1,024, in sequence order, up to 3,840 bytes (R281). -/
def execLogRead (s : State) : Host.Outcome State Fault Refusal :=
  if !s.mbDue 0x20 then .next s
  else match s.mbCheck (decide (s.fw.len = 4)) false with
    | some r => .next (s.mbEnd r 0)
    | none =>
      let es := ((s.log.reverse).filter (fun e => decide (s.mbArg 4 ≤ e.seq))).take 120
      let out := es.flatMap (fun e => e.words.flatMap (fun w => toBytes w 4))
      .next ((s.modFw fun f => { f with payload := tsetFrom 0#8 f.payload 0 out }).mbEnd 0 out.length)

end Sys2Proof.Machine
end

