-- ==== Sys2Proof/Machine/Banks.lean ====
section
/-!
DEFINITION. What the indirect banks hold (Table REG-6, Table SUP-4, Table FLT-4, R264, R282, R339–R341), with the capability
list (R342–R346).
-/
namespace Sys2Proof.Machine

/-- A flag at a bit. -/
def flagAt (b : Bool) (i : Nat) : Nat := if b then 2 ^ i else 0
/-- How many of a list satisfy a test. -/
def countIf {α : Type} (l : List α) (f : α → Bool) : Nat := (l.filter f).length

/-! Live values (R3, R344). -/

/-- Logical crests present, as a mask. -/
def State.presentMask (s : State) : Nat := (((List.range 16).filter s.crestPresent).map (2 ^ ·)).sum
/-- Logical crests that are present and owned by none (Table REG-8). -/
def State.freeCrests (s : State) : Nat :=
  (((List.range 16).filter (fun l => s.crestPresent l && (s.crestOwner l).isNone)).map (2 ^ ·)).sum
/-- Slices neither owned, in transit nor retired (Table REG-8). -/
def State.freeSlices (s : State) : Nat :=
  (((List.range 96).filter (fun n => (s.sliceOwner n).isNone && !(s.slice n).transit && !s.sliceRetired n)).map (2 ^ ·)).sum
/-- Partitions that are not FREE. -/
def State.activeParts (s : State) : Nat :=
  (((List.range 8).filter (fun p => decide ((s.part p).st ≠ 0))).map (2 ^ ·)).sum
/-- ACTIVE host modules. -/
def State.hostActive (s : State) : Nat :=
  (((List.range 4).filter (fun m => decide ((s.hmod m).st = 2))).map (2 ^ ·)).sum
/-- Peer ports in a state, as a mask. -/
def State.portsIn (s : State) (st : Nat) : Nat :=
  (((List.range 3).filter (fun k => decide ((s.port k).st = st))).map (2 ^ ·)).sum

/-! The capability list. -/

/-- The entries of Table REG-11: ID and the words after the header. -/
def State.capEntries (s : State) : List (Nat × List Nat) :=
  let usable := countIf (List.range 16) s.crestPresent
  let slices := countIf (List.range 96) (fun n => !s.sliceRetired n)
  let pos := s.position
  [ (0x01, [ usable + 17 * 2 ^ 5 + s.rep.spareSt * 2 ^ 10 + s.presentMask * 2 ^ 16
           , 16 * slices + slices * 2 ^ 16
           , 64 + 8 * 2 ^ 8 + 4 * 2 ^ 12 + 12 * 2 ^ 16 + 12 * 2 ^ 20
           , 8 + 128 * 2 ^ 4 + 32 * 2 ^ 12 + 1024 * 2 ^ 18
           , pos + flagAt s.debugStrap 2 + s.hostActive * 2 ^ 4 + s.hostConfig * 2 ^ 8 + 0x11 * 2 ^ 16 ])
  , (0x02, [ 0x00000FFE, 0x00000003, 0x000F0FFE, 0x00000004, 0x00070000, 0
           , 1 + 2 + 4 + 8 * 2 ^ 4 + 16 * 2 ^ 8 + 12 * 2 ^ 16 + 32 * 2 ^ 24 ])
  , (0x03, [ 0x03 + 2 * 2 ^ 8 + 3 * 2 ^ 12 + 3 * 2 ^ 16 + 6 * 2 ^ 20 + 7 * 2 ^ 24 ])
  , (0x04, [ 32 + 2 ^ 8 + 2 ^ 9 ])
  , (0x05, [ 128 + 128 * 2 ^ 8 + 3 * 2 ^ 16, 65536 ])
  , (0x06, [ 8 + 3 * 2 ^ 4 + 0xFF * 2 ^ 8 + 0x7F * 2 ^ 16 + 0x1F * 2 ^ 24 ])
  , (0x07, [ 1024 + 8 * 2 ^ 11 + 2 ^ 16 + 0x3F * 2 ^ 24, 0x00100000 ])
  , (0x08, [ 3 + pos * 2 ^ 4 + s.members * 2 ^ 8 + s.leader * 2 ^ 12 + s.portsIn 2 * 2 ^ 16 + s.portsIn 5 * 2 ^ 24 + 4 * 2 ^ 28 ])
  , (0x09, [ 0x0780 + 0x1900 * 2 ^ 16, 0x1CC0 + 0x1A40 * 2 ^ 16, 16 + 6 * 2 ^ 8 + 100 * 2 ^ 12 + 115 * 2 ^ 20 ])
  , (0x0A, [ usable + s.rep.spareSt * 2 ^ 5 + (96 - slices) * 2 ^ 16 + 64 * 2 ^ 24
           , s.mg.threshCount + s.mg.threshWindow * 2 ^ 8 ])
  , (0x0B, [ s.mg.debugLevel + flagAt s.debugStrap 2 + flagAt (decide (s.mg.taint ≠ 0)) 3 + 0x1F * 2 ^ 4 ])
  , (0x0C, [ 8 + s.activeParts * 2 ^ 8 + countIf (maskList s.freeCrests 16) (fun _ => true) * 2 ^ 16
             + countIf (maskList s.freeSlices 96) (fun _ => true) * 2 ^ 24 ])
  , (0x0D, [ 13 + 7 * 2 ^ 8 + 17 * 2 ^ 16 + 2 ^ 24 ]) ]

/-- The list laid out from word `at` on, entry after entry (R342). -/
def layCaps : Nat → List (Nat × List Nat) → List Nat
  | _, [] => []
  | at_, e :: es =>
    let n := e.2.length + 1
    (e.1 + 2 ^ 8 + n * 2 ^ 12 + (if es.isEmpty then 0 else at_ + n) * 2 ^ 16) :: e.2 ++ layCaps (at_ + n) es

/-- The word of the first entry; this model lays the list out from here on. -/
def capFirst : Nat := 0x10

/-- A word of bank 0x00. -/
def State.capWord (s : State) (w : Nat) : Nat :=
  if !s.mg.capBuilt || decide (w < capFirst) then 0 else (layCaps capFirst s.capEntries).getD (w - capFirst) 0

/-! The other banks. -/

/-- Is the path at level FULL over the register port? -/
def State.atFull (s : State) (p : Path) : Bool := decide (p = .port) && decide (s.mg.debugLevel = 2)
/-- May a path see a partition's trace and counters (R224, R225)? -/
def State.sees (s : State) (p : Path) (part : Nat) : Bool :=
  s.atFull p || (decide (s.mg.debugLevel ≥ 1) && (s.part part).dbgOptin)

/-- STATE of bank 0x01. -/
def State.crestState (s : State) (p : Nat) : Nat :=
  if s.crestRetired p then 4
  else match (s.crest p).pw with | .run => 0 | .idle => 1 | .nap => 2 | .off => 3

/-- A word of bank 0x01 (R339). -/
def State.crestWord (s : State) (path : Path) (w : Nat) : Nat :=
  let p := w / 16
  let c := s.crest p
  let l := s.logicalOf p
  let o := l.bind s.crestOwner
  if p > 16 then 0
  else if w % 16 = 0 then
    s.crestState p + c.level * 2 ^ 4 + s.ceiling p * 2 ^ 8 + s.ceilSrc p * 2 ^ 12 + l.getD 31 * 2 ^ 16
      + o.getD 0 * 2 ^ 21 + flagAt o.isSome 24 + c.held.length * 2 ^ 25 + flagAt c.halted 28
  else if !s.atFull path then 0
  else if w % 16 = 1 then c.cls
  else if w % 16 ≤ 9 then c.sig.getD (w % 16 - 2) 0 % 2 ^ 32
  else 0

/-- A word of bank 0x02 (Table SUP-4); regulator 24 is the LDO, ON at its fixed 0.75 V whenever the die is
powered (Table SUP-2). -/
def State.regWord (s : State) (w : Nat) : Nat :=
  let r := w / 16
  let x := s.reg r
  let k := w % 4
  let has := decide (k < regPhases r)
  if r > 24 then 0
  else match w % 16 / 4, k with
    | 0, 0 => (if r = 24 then 2 else x.st) + min 3 x.attempt * 2 ^ 3 + flagAt x.senseFail 5 + flagAt x.permanent 6
        + x.openMask * 2 ^ 7 + x.limit * 2 ^ 11
    | 0, 1 => if r = 24 then 750 else x.setpoint % 4096
    | 0, 2 => x.vout % 4096
    | 0, _ => x.iin % 65536
    | 1, _ => if has then x.phNow s.time k else 0
    | 2, _ => if has then tget 0 x.phI k % 65536 else 0
    | _, _ => if has then tget 0 x.phVerify k % 2 ^ 32 else 0

/-- A word of bank 0x03 (R281). -/
def State.logWord (s : State) (w : Nat) : Nat :=
  if w ≥ 0x2000 then 0
  else match s.log.find? (fun e => e.seq % 1024 = w / 8) with
    | some e => e.words.getD (w % 8) 0
    | none => 0

/-- A word of bank 0x04 (R340). -/
def State.thermalWord (s : State) (w : Nat) : Nat :=
  if w < 64 then wrap 12 (tget 0 s.pwr.temps w) + flagAt (tget false s.pwr.excluded w) 12
  else if w ≤ 0x50 then s.thermalCeil (w - 0x40)
  else 0

/-- A word of bank 0x05 (R264, R224). -/
def State.energyWord (s : State) (path : Path) (w : Nat) : Nat :=
  let half (v : Nat) : Nat := if w % 2 = 0 then v % 2 ^ 32 else v / 2 ^ 32
  if w < 0x80 then
    match s.queueOwner (w / 2) with
    | some p => if s.sees path p then half (s.queue (w / 2)).energy else 0
    | none => 0
  else if w < 0x90 then (if s.sees path ((w - 0x80) / 2) then half (s.part ((w - 0x80) / 2)).energy else 0)
  else if w < 0x94 ∧ s.atFull path = true then half (if w < 0x92 then s.unattr else s.releasedE)
  else 0

/-- A word of bank 0x06 (Table FLT-6). -/
def State.repairWord (s : State) (w : Nat) : Nat :=
  if w < 96 then
    let x := s.slice w
    x.spares + flagAt (s.sliceRetired w) 7 + x.ce * 2 ^ 8 + x.ue * 2 ^ 16
  else if w ≤ 0x70 then
    let c := s.crest (w - 0x60)
    c.resCount + c.parCount * 2 ^ 8 + flagAt (s.crestRetired (w - 0x60)) 16
  else if 0x80 ≤ w ∧ w < 0x84 then tget 0 s.rep.xfer (w - 0x80) + flagAt (s.colRetired (w - 0x80)) 16
  else 0

/-- A word of bank 0x07 (R341). -/
def State.traceWord (s : State) (path : Path) (w : Nat) : Nat :=
  if w = 0x4000 then (if s.atFull path || decide (s.mg.debugLevel ≥ 1) then s.traceNext else 0)
  else if w > 0x4000 then 0
  else
    let e := tget {} s.trace (w / 4)
    if e.zeroed || !s.sees path e.part then 0
    else match w % 4 with
      | 0 => e.event + e.crest * 2 ^ 4 + e.q * 2 ^ 8 + e.part * 2 ^ 16 + e.status * 2 ^ 24
      | 1 => e.tag
      | 2 => e.mclk.toNat
      | _ => e.seq

/-- A read of a word of a bank (Table REG-6). -/
def State.bankRead (s : State) (path : Path) (bank w : Nat) : Nat :=
  match bank with
  | 0 => s.capWord w
  | 1 => s.crestWord path w
  | 2 => s.regWord w
  | 3 => s.logWord w
  | 4 => s.thermalWord w
  | 5 => s.energyWord path w
  | 6 => s.repairWord w
  | 7 => s.traceWord path w
  | _ => 0

/-- A write of a word of a bank: STAGE alone is writable, over the register port while it is open (R312, R332). -/
def State.bankWrite (s : State) (path : Path) (bank w v : Nat) : State :=
  if bank = 0x10 ∧ path = .port ∧ s.fw.stageOpen = true ∧ w < 2 ^ 20 then
    s.modFw fun f => { f with stage := tsetFrom 0#8 f.stage (4 * w) (toBytes v 4) }
  else s

end Sys2Proof.Machine
end

