-- ==== Sys2Proof/Machine/Regs.lean ====
section
/-!
DEFINITION. The management register file (Table REG-1): what each register reads, what a write to it does by path and
policy (R8–R10, R324), the debug spaces (R338), and the rows of register access.
-/
namespace Sys2Proof.Machine

/-! Reads. -/

/-- MG_STATE (Table REG-3). -/
def State.readMgState (s : State) : Nat :=
  s.mg.device + s.mg.stage * 2 ^ 4 + s.mg.cause * 2 ^ 8 + s.mg.lastReset * 2 ^ 12 + flagAt s.mg.fwRunning 15
/-- MG_CMDSTAT (Table PART-3): BUSY with PENDING while a PT_RESET is held. -/
def State.readCmdStat (s : State) : Nat :=
  (if s.mg.pending.isEmpty then s.mg.cmdStatus else csBusy) + s.mg.cmdDetail * 2 ^ 4 + flagAt (!s.mg.pending.isEmpty) 12
    + flagAt s.mg.dropped 13
/-- MG_ERR (Table REG-3). -/
def State.readErr (s : State) : Nat :=
  flagAt s.mg.badEnc 0 + flagAt s.mg.indBusy 1 + flagAt s.mg.fatalSupply 2 + flagAt s.mg.minLost 3 + s.mg.lostKind * 2 ^ 4

/-- PW_THROTTLE_STAT (Table PWR-2). -/
def State.readThrottle (s : State) : Nat :=
  let w := s.pwr
  flagAt w.sust 0 + flagAt w.pk1 1 + flagAt w.pk2 2
    + flagAt ((List.range 17).any (fun p => decide (s.thermalCeil p > 0))) 3 + flagAt w.vinLow 4 + flagAt w.supplyAlarm 5
    + flagAt (decide (s.dropCeil > 0)) 6 + flagAt w.seqTimeout 7
    + flagAt ((List.range 17).any (fun p => decide (s.openCeil p > 0))) 8 + flagAt w.fixedBroken 9 + flagAt w.lag 10
    + flagAt w.tripBit 11 + w.droopCnt * 2 ^ 16

/-- PW_TEMP_MAX: the highest valid reading and the lowest sensor that has it (Table PWR-2). -/
def State.readTempMax (s : State) : Nat :=
  match (List.range 64).filter (fun i => !tget false s.pwr.excluded i) with
  | [] => 0
  | v :: vs =>
    let i := vs.foldl (fun b i => if tget 0 s.pwr.temps i > tget 0 s.pwr.temps b then i else b) v
    wrap 12 (tget 0 s.pwr.temps i) + i * 2 ^ 16

/-- A PW_ register (Table PWR-2). -/
def State.readPw (s : State) (a : Nat) : Nat :=
  let w := s.pwr
  match a with
  | 0x10 => w.capSust
  | 0x11 => w.capPk1
  | 0x12 => w.capPk2
  | 0x13 => w.mode + w.dropLevel * 2 ^ 4
  | 0x14 => w.fixedLevel
  | 0x15 => w.prio
  | 0x16 => w.meas
  | 0x17 => w.est
  | 0x18 => w.energy % 2 ^ 32
  | 0x19 => w.hiLatch
  | 0x1A => s.readThrottle
  | 0x1B => s.readTempMax
  | 0x1C => flagAt w.stale 0 + s.guardPct * 2 + min 0xFFFF (s.quietAge / 100000) * 2 ^ 16
  | 0x1D => flagAt w.quietEn 0
  | 0x1E => flagAt w.learnEn 0
  | 0x1F => w.groupCap
  | _ => 0

/-- An SE_ register (Table PART-8, Table PART-9, Table REG-7). -/
def State.readSe (s : State) (a : Nat) : Nat :=
  let m := s.mg
  match a with
  | 0x20 => m.debugLevel
  | 0x21 => flagAt m.debugDenied 8
  | 0x22 => m.taint
  | 0x2B => m.policy
  | 0x2C => m.keySlot + Config.fuseRevoked % 4 * 2 + s.blown * 2 ^ 4 + flagAt m.unsignedRun 11
  | _ => if 0x23 ≤ a ∧ a ≤ 0x2A then fld m.measure (4 * (a - 0x23)) 4 else 0

/-- RP_CREST_MAP word w (Table FLT-2). -/
def State.readCrestMap (s : State) (w : Nat) : Nat :=
  ((List.range 6).map (fun j => if 6 * w + j < 16 then s.physOf (6 * w + j) * 2 ^ (5 * j) else 0)).sum

/-- An RP_ register (Table FLT-2). -/
def State.readRp (s : State) (a : Nat) : Nat :=
  match a with
  | 0x30 => s.logNext
  | 0x31 => s.readCrestMap 0
  | 0x32 => s.readCrestMap 1
  | 0x33 => s.readCrestMap 2
  | 0x34 => s.rep.spareSt + s.rep.replaces * 2 ^ 4 + flagAt s.rep.factory 12
  | 0x35 => s.rep.retCrest
  | 0x36 => s.rep.retSlice % 2 ^ 32
  | 0x37 => s.rep.retSlice / 2 ^ 32 % 2 ^ 32
  | 0x38 => s.rep.retSlice / 2 ^ 64
  | 0x39 => s.mg.threshCount + s.mg.threshWindow * 2 ^ 8
  | 0x3A => s.mg.diag
  | _ => 0

/-- A PT_ register: live values of the partition that the path's PT_SEL selects (R207, Table REG-8). -/
def State.readPt (s : State) (p : Path) (a : Nat) : Nat :=
  let sel := (s.staging p).sel
  let x := s.part sel
  let live (v : Nat) : Nat := if s.mg.capBuilt then v else 0
  match a with
  | 0x40 => sel
  | 0x41 => x.crests
  | 0x42 => x.slices % 2 ^ 32
  | 0x43 => x.slices / 2 ^ 32 % 2 ^ 32
  | 0x44 => x.slices / 2 ^ 64
  | 0x45 => x.queues % 2 ^ 32
  | 0x46 => x.queues / 2 ^ 32
  | 0x47 => x.st + x.lastResult * 2 ^ 4 + x.lastDetail * 2 ^ 8 + flagAt x.unitLost 16
  | 0x48 => x.ctl
  | 0x49 => x.guar
  | 0x4A => live s.freeCrests
  | 0x4B => live (s.freeSlices % 2 ^ 32)
  | 0x4C => live (s.freeSlices / 2 ^ 32 % 2 ^ 32)
  | 0x4D => live (s.freeSlices / 2 ^ 64)
  | 0x4E => live s.activeParts
  | _ => 0

/-- ROUTE code of a position, and its relay (Table REG-9). -/
def routeCode : Route → Nat × Nat
  | .none => (0, 0)
  | .direct => (1, 0)
  | .relay m => (2, m)
  | .self => (3, 0)

/-- An LK_ register (Table REG-9); the group's fields follow the group once firmware has built the live values. -/
def State.readLk (s : State) (a : Nat) : Nat :=
  if 0x50 ≤ a ∧ a ≤ 0x53 then
    let h := s.hmod (a - 0x50)
    h.st + h.best * 2 ^ 4 + h.repairs * 2 ^ 8 + h.retrains * 2 ^ 16
  else if a = 0x54 then s.hostConfig + s.hostActive * 2 ^ 4
  else if 0x55 ≤ a ∧ a ≤ 0x57 then
    let k := a - 0x55
    let x := s.port k
    x.st + x.mode * 2 ^ 4 + (if s.sb.service then s.peerOf k else 0) * 2 ^ 6 + x.disCause * 2 ^ 8 + x.retrains * 2 ^ 16
  else if a = 0x58 then
    let r (q : Nat) : Nat × Nat := routeCode (s.route q)
    s.position * 2 ^ 4 + (if s.mg.capBuilt then
      s.members + s.leader * 2 ^ 6 + ((List.range 4).map (fun q => (r q).1 * 2 ^ (8 + 2 * q) + (r q).2 * 2 ^ (16 + 2 * q))).sum
    else 0)
  else 0

/-- An SB_ register (Table SB-11). -/
def State.readSb (s : State) (a : Nat) : Nat :=
  let b := s.sb
  match a with
  | 0x60 => b.straps
  | 0x61 => flagAt b.aligned 0 + flagAt b.armed 1 + flagAt b.syncTmo 2 + flagAt b.ialStuck 3 + flagAt b.epochConflict 4
      + b.peerAlert * 2 ^ 8 + b.epoch * 2 ^ 12 + b.lastSlots * 2 ^ 16
  | 0x62 => b.slotEn
  | _ => 0

/-- A DBG_ register, DBG_DATA apart (Table REG-10); below PARTITION 0 through BAR0 (R337). -/
def State.readDbg (s : State) (a : Nat) : Nat :=
  if s.mg.debugLevel = 0 then 0
  else match a with
    | 0xE0 => s.mg.haltReq
    | 0xE1 => s.mg.haltStat
    | 0xE2 => s.mg.dbgSpace
    | 0xE3 => s.mg.dbgAddr
    | _ => 0

/-- The value of a register whose read changes nothing (Table REG-1). -/
def State.readReg (s : State) (p : Path) (a : Nat) : Nat :=
  match a with
  | 0x00 => 0x4F111620
  | 0x01 => if s.mg.capBuilt then capFirst + s.mg.capGen * 2 ^ 16 else 0
  | 0x02 => s.readMgState
  | 0x04 => s.readCmdStat
  | 0x05 => s.readErr
  | 0x06 => s.alertEn
  | 0x07 => s.alertStat
  | 0x08 => match p with | .port => s.mg.bankPort | .bar0 => s.mg.bankBar0
  | 0x09 => match p with | .port => s.mg.iaPort | .bar0 => s.mg.iaBar0
  | _ =>
    if 0x10 ≤ a ∧ a < 0x20 then s.readPw a
    else if 0x20 ≤ a ∧ a < 0x30 then s.readSe a
    else if 0x30 ≤ a ∧ a < 0x40 then s.readRp a
    else if 0x40 ≤ a ∧ a < 0x50 then s.readPt p a
    else if 0x50 ≤ a ∧ a < 0x60 then s.readLk a
    else if 0x60 ≤ a ∧ a < 0x70 then s.readSb a
    else if 0xE0 ≤ a ∧ a < 0x100 then s.readDbg a
    else 0

/-! Indirect access (R332, R333). -/

/-- A path's bank. -/
def State.indBank (s : State) (p : Path) : Nat := match p with | .port => s.mg.bankPort | .bar0 => s.mg.bankBar0
/-- A path's IA. -/
def State.indAddr (s : State) (p : Path) : Nat := match p with | .port => s.mg.iaPort | .bar0 => s.mg.iaBar0
/-- `s` with a path's IA set. -/
def State.setIndAddr (s : State) (p : Path) (v : Nat) : State :=
  s.modMg fun m => match p with
    | .port => { m with iaPort := v % 2 ^ 24 }
    | .bar0 => { m with iaBar0 := v % 2 ^ 24 }

/-- An access to MG_IND_DATA, or with `inc` to MG_IND_DATA_INC: the state, whether it was served, the word read. A word
that cannot be reached in time is not accessed, IA stays, and through BAR0 IND_BUSY is set (R333). -/
def State.indirect (s : State) (p : Path) (w : Option Word) (inc reachable : Bool) : State × Bool × Nat :=
  let ia := s.indAddr p
  if !reachable then
    (match p with | .port => s | .bar0 => s.modMg fun m => { m with indBusy := true }, false, 0)
  else
    let v := match w with | some _ => 0 | none => s.bankRead p (s.indBank p) ia
    let t := match w with | some x => s.bankWrite p (s.indBank p) ia x.toNat | none => s
    (if inc then t.setIndAddr p (ia + 1) else t, true, v)

/-! Debug spaces (R338). -/

/-- A learned ratio as FP32, to nearest. -/
def ratioWord (r : Rat) : Nat :=
  let e := ((List.range 7).find? (fun k => decide ((1 : Rat) / 2 ^ k ≤ r))).getD 6
  let m := (r * 2 ^ (23 + e) + 1 / 2).floor.toNat
  if m ≥ 2 ^ 24 then (127 - e + 1) * 2 ^ 23 else (127 - e) * 2 ^ 23 + (m - 2 ^ 23)

/-- The crest and word within it that an address of space 0 to 2 or 4 names; none for an absent logical crest. -/
def State.dbgCrest (s : State) (space a : Nat) : Option (Nat × Nat) :=
  let n := match space with | 0 => 17 | 1 => 13 | 2 => 11 | _ => 5
  let l := a / 2 ^ n
  if s.crestPresent l && !s.crestRetired (s.physOf l) then some (s.physOf l, a % 2 ^ n) else none

/-- A word of a crest's memories. -/
def Crest.dbgRead (c : Crest) (space o : Nat) : Nat :=
  match space with
  | 0 => (tget 0#32 c.acc o).toNat
  | 1 =>
    if o < 0x1000 then (tget 0#32 c.V o).toNat
    else if o < 0x1010 then (tget 0#32 c.S (o - 0x1000)).toNat
    else if o < 0x1030 then
      let k := (o - 0x1010) / 4
      let v := if k = 0 then 2 ^ 128 - 1 else (tget 0#128 c.M k).toNat
      v / 2 ^ (32 * ((o - 0x1010) % 4)) % 2 ^ 32
    else 0
  | 2 => (tget 0#64 c.prog (o / 2)).toNat / 2 ^ (32 * (o % 2)) % 2 ^ 32
  | _ =>
    let k := tget (1, 0) c.learn (o / 2)
    if o % 2 = 0 then ratioWord k.1 else k.2 % 2 ^ 32

/-- A word of a crest's memories written; the learned ratios are read-only. -/
def Crest.dbgWrite (c : Crest) (space o v : Nat) : Crest :=
  match space with
  | 0 => { c with acc := tset 0#32 c.acc o (BitVec.ofNat 32 v) }
  | 1 =>
    if o < 0x1000 then { c with V := tset 0#32 c.V o (BitVec.ofNat 32 v) }
    else if o < 0x1010 then { c with S := tset 0#32 c.S (o - 0x1000) (BitVec.ofNat 32 v) }
    else if 0x1014 ≤ o ∧ o < 0x1030 then
      let k := (o - 0x1010) / 4
      let h := 32 * ((o - 0x1010) % 4)
      { c with M := tset 0#128 c.M k (BitVec.ofNat 128 (setBits (tget 0#128 c.M k).toNat (h + 31) h v)) }
    else c
  | 2 =>
    let h := 32 * (o % 2)
    { c with prog := tset 0#64 c.prog (o / 2) (BitVec.ofNat 64 (setBits (tget 0#64 c.prog (o / 2)).toNat (h + 31) h v)) }
  | _ => c

/-- An access to the store space: a retired slice reads 0; one in OFF wakes with zeroisation, its first access not being
served; one in RETAIN wakes in time. A slice whose tier is stopped or not at its setpoint, and a row that is being copied to a
spare, are not reached in time (R235, R239, R272, R297). -/
def State.dbgStore (s : State) (a : Nat) (w : Option Word) : State × Bool × Nat :=
  let g := 4 * a
  let n := g / 2 ^ 24
  if n ≥ 96 ∨ s.sliceRetired n = true then (s, true, 0)
  else if (s.slice n).pw = .off then (s.modSlice n fun x => { x with waking := true }, false, 0)
  else if decide ((s.slice n).pw = .retain) && !s.tierOn n || (s.slice n).unavailable
      || (s.slice n).sparing.any (fun r => !r.2 && decide (r.1 = g % 2 ^ 24 / 4096)) then (s, false, 0)
  else
    let s := s.wakeSlice n
    match w with
    | none => (s, true, ofBytes (tgetFrom 0#8 s.store g 4))
    | some v => ({ s with store := tsetFrom 0#8 s.store g (toBytes v.toNat 4) }, true, 0)

/-- An access to the word that DBG_ADDR names, at level FULL: the state, whether it was served, the word read. A crest in OFF
reads 0; one in NAP wakes to IDLE. The learned ratios are read-only. A write to a crest that holds a command leaves that
command's results unspecified. -/
def State.dbgAccess (s : State) (w : Option Word) : State × Bool × Nat :=
  let sp := s.mg.dbgSpace
  let a := s.mg.dbgAddr
  if sp = 3 then s.dbgStore a w
  else match s.dbgCrest sp a with
    | none => (s, true, 0)
    | some (p, o) =>
      if (s.crest p).pw = .off ∨ (sp = 4 ∧ w.isSome = true) then (s, true, 0)
      else
        let s := s.wakeIdle p
        match w with
        | none => (s, true, (s.crest p).dbgRead sp o)
        | some v =>
          let hs := (s.crest p).held
          let s := s.modCrest p fun c => c.dbgWrite sp o v.toNat
          (hs.foldl (fun s k => s.modCmd k.1 k.2 fun c => { c with dbg := true }) s, true, 0)

/-- An access to DBG_DATA, or with `inc` to DBG_DATA_INC, over the register port: status of Table SB-6 and the word
(R296, R337). -/
def State.dbgPort (s : State) (w : Option Word) (inc : Bool) : State × Nat × Nat :=
  if s.mg.debugLevel = 0 ∨ (w.isSome = true ∧ s.mg.debugLevel ≠ 2) then (s, 2, 0)
  else if s.mg.debugLevel = 1 then (s, 0, 0)
  else
    let r := s.dbgAccess w
    if !r.2.1 then (r.1, 3, 0)
    else (if inc then r.1.modMg fun m => { m with dbgAddr := (m.dbgAddr + 1) % 2 ^ 32 } else r.1, 0, r.2.2)

/-! Writes. -/

/-- A write of a cap: its range and its order with the other caps, and in FIXED mode the die power bound (R249). -/
def State.capOk (s : State) (a v : Nat) : Bool :=
  let w := s.pwr
  match a with
  | 0x10 => decide (0x780 ≤ v ∧ v ≤ 0x1900 ∧ v ≤ w.capPk2)
      && (decide (w.mode ≠ 1) || decide (16 * levelDie w.fixedLevel ≤ v))
  | 0x11 => decide (w.capPk2 ≤ v ∧ v ≤ 0x1CC0)
  | _ => decide (w.capSust ≤ v ∧ v ≤ w.capPk1 ∧ v ≤ 0x1A40)

/-- A write of PW_MODE: each field on its own (R10, R249). -/
def State.writeMode (s : State) (v : Nat) : State :=
  let ok := decide (v % 4 ≠ 1) || decide (16 * levelDie s.pwr.fixedLevel ≤ s.pwr.capSust)
  let s := s.modPwr fun w => { w with mode := if ok then v % 4 else w.mode, dropLevel := bits v 7 4 }
  (if ok then s else s.badEnc).applyHw

/-- The learned needs are reset (R260). -/
def State.clearLearned (s : State) : State :=
  (List.range 17).foldl (fun s p => s.modCrest p fun c => { c with learn := [] }) s

/-- A write of a PW_ register (Table PWR-2). -/
def State.writePw (s : State) (a v : Nat) : State :=
  match a with
  | 0x10 => if s.capOk a (v % 65536) then s.modPwr fun w => { w with capSust := v % 65536 } else s.badEnc
  | 0x11 => if s.capOk a (v % 65536) then s.modPwr fun w => { w with capPk1 := v % 65536 } else s.badEnc
  | 0x12 => if s.capOk a (v % 65536) then s.modPwr fun w => { w with capPk2 := v % 65536 } else s.badEnc
  | 0x13 => s.writeMode v
  | 0x14 => if s.pwr.mode = 1 ∧ 16 * levelDie (v % 16) > s.pwr.capSust then s.badEnc
      else s.modPwr fun w => { w with fixedLevel := v % 16 }
  | 0x15 => s.modPwr fun w => { w with prio := v % 2 ^ 32 }
  | 0x1A => s.modPwr fun w => { w with fixedBroken := w.fixedBroken && !v.testBit 9, tripBit := w.tripBit && !v.testBit 11 }
  | 0x1D => s.modPwr fun w => { w with quietEn := v.testBit 0 }
  | 0x1E =>
    let s := s.modPwr fun w => { w with learnEn := v.testBit 0 }
    if v.testBit 1 then s.clearLearned else s
  | 0x1F => s.modPwr fun w => { w with groupCap := v % 65536 }
  | _ => s

/-- A write of SE_POLICY: each field takes its first write since the last WARM or COLD reset (R8, R222). -/
def State.writePolicy (s : State) (v : Nat) : State :=
  s.modMg fun m => { m with policy := (m.policy &&& m.policyLock) + andNot (v % 16) m.policyLock, policyLock := 15 }

/-- A write of RP_THRESH: a COUNT or WINDOW of 0 is unlisted (Table FLT-2). -/
def State.writeThresh (s : State) (v : Nat) : State :=
  let c := v % 16
  let w := bits v 15 8
  let s := if c = 0 ∨ w = 0 then s.badEnc else s
  (s.modMg fun m => { m with
    threshCount := if c = 0 then m.threshCount else c, threshWindow := if w = 0 then m.threshWindow else w }).liveChange

/-- A write of RP_DIAG_CTL: a SCRUB_PERIOD of 3 is unlisted. -/
def State.writeDiag (s : State) (v : Nat) : State :=
  let per := bits v 3 2
  let s := if per = 3 then s.badEnc else s
  s.modMg fun m => { m with diag := (v % 65536 &&& 0xFF03) + 4 * (if per = 3 then bits m.diag 3 2 else per) }

/-- A write of a PT_ register reaches the path's staging copy (R207, Table REG-8). -/
def State.writePt (s : State) (p : Path) (a v : Nat) : State :=
  let v := v % 2 ^ 32
  match a with
  | 0x40 => s.loadStaging p v
  | 0x41 => s.modStaging p fun g => { g with crests := v % 65536 }
  | 0x42 => s.modStaging p fun g => { g with slices := setBits g.slices 31 0 v }
  | 0x43 => s.modStaging p fun g => { g with slices := setBits g.slices 63 32 v }
  | 0x44 => s.modStaging p fun g => { g with slices := setBits g.slices 95 64 v }
  | 0x45 => s.modStaging p fun g => { g with queues := setBits g.queues 31 0 v }
  | 0x46 => s.modStaging p fun g => { g with queues := setBits g.queues 63 32 v }
  | 0x47 => if v.testBit 16 then s.modPart (s.staging p).sel fun x => { x with unitLost := false } else s
  | 0x49 => s.modStaging p fun g => { g with guar := v % 4 }
  | _ => s

/-- A write of SB_FRAME_CFG or SB_SLOT_EN (Table SB-11). -/
def State.writeSb (s : State) (a v : Nat) : State :=
  match a with
  | 0x61 => s.modSb fun b => { b with
      syncTmo := b.syncTmo && !v.testBit 2, ialStuck := b.ialStuck && !v.testBit 3
      epochConflict := b.epochConflict && !v.testBit 4, peerAlert := andNot b.peerAlert (bits v 11 8) }
  | 0x62 => s.modSb fun b => { b with slotEn := v % 16 }
  | _ => s

/-- A write of a DBG_ register at FULL, DBG_DATA apart (Table REG-10). -/
def State.writeDbg (s : State) (a v : Nat) : State :=
  match a with
  | 0xE0 => s.haltReq v
  | 0xE2 => if v % 8 ≥ 5 then s.badEnc else s.modMg fun m => { m with dbgSpace := v % 8 }
  | 0xE3 => s.modMg fun m => { m with dbgAddr := v % 2 ^ 32 }
  | _ => s

/-- Is a bank number listed for a path (Table REG-6, R332)? -/
def State.bankListed (s : State) (p : Path) (b : Nat) : Bool :=
  decide (b ≤ 7) || (decide (b = 0x10) && decide (p = .port) && s.fw.stageOpen)

/-- A write of MG_IND_BANK (R332, R10). -/
def State.writeBank (s : State) (p : Path) (v : Nat) : State :=
  if s.bankListed p (v % 256) then
    s.modMg fun m => match p with
      | .port => { m with bankPort := v % 256 }
      | .bar0 => { m with bankBar0 := v % 256 }
  else s.badEnc

/-- A write of SE_DEBUG_REQ: DENIED clears, and the LEVEL written is requested (Table REG-7). -/
def State.writeDebugReq (s : State) (p : Path) (v : Nat) : State :=
  let s := if v.testBit 8 then s.modMg fun m => { m with debugDenied := false } else s
  s.debugReq p (v % 4)

/-- A write of a word of the management file that is one access at once, by path and policy (R9, R323, R324, Table
REG-2); MG_IND_DATA is taken as reachable. -/
def State.regWrite (s : State) (p : Path) (a v : Nat) : State :=
  let port := decide (p = .port)
  if !s.pathLive p then s
  else if a = 0x03 then s.mgCmd p v
  else if a = 0x04 then s.modMg fun m => { m with dropped := m.dropped && !v.testBit 13 }
  else if a = 0x05 then s.modMg fun m => { m with badEnc := m.badEnc && !v.testBit 0, indBusy := m.indBusy && !v.testBit 1 }
  else if a = 0x06 then (if port then s.modMg fun m => { m with alertEn := v &&& 0x1FDFF } else s)
  else if a = 0x07 then (if port then s.modMg fun m => { m with alertStat := andNot m.alertStat (v &&& 0x1FDFF) } else s)
  else if a = 0x08 then s.writeBank p v
  else if a = 0x09 then s.setIndAddr p v
  else if a = 0x0A then (s.indirect p (some (BitVec.ofNat 32 v)) false true).1
  else if a = 0x0B then (s.indirect p (some (BitVec.ofNat 32 v)) true true).1
  else if 0x10 ≤ a ∧ a < 0x20 then (if s.allows p polPw then s.writePw a v else s)
  else if a = 0x21 then (if s.allows p polDbg then s.writeDebugReq p v else s)
  else if a = 0x2B then (if port then s.writePolicy v else s)
  else if a = 0x39 then (if port then s.writeThresh v else s)
  else if a = 0x3A then (if port then s.writeDiag v else s)
  else if a = 0x48 then s.writePtCtl p v
  else if 0x40 ≤ a ∧ a < 0x50 then (if s.allows p polPt then s.writePt p a v else s)
  else if 0x60 ≤ a ∧ a < 0x63 then (if port then s.writeSb a v else s)
  else if 0xE0 ≤ a ∧ a < 0x100 then
    if !(port && decide (s.mg.debugLevel = 2)) then s
    else if a = 0xE4 then (s.dbgPort (some (BitVec.ofNat 32 v)) false).1
    else if a = 0xE5 then (s.dbgPort (some (BitVec.ofNat 32 v)) true).1
    else s.writeDbg a v
  else s

/-! Registers of BAR2 and BAR4. -/

/-- A write of a bias control word (Table HOST-6): HB_PAGE by halves, HB_COUNT, HB_CMD, the W1C bits. -/
def State.writeBias (s : State) (off v : Nat) : State :=
  let bad : State := { s with bias := { s.bias with err := true } }
  if off = 0 then
    if v % 4096 ≠ 0 then bad else { s with bias := { s.bias with page := setBits s.bias.page 31 0 v } }
  else if off = 4 then { s with bias := { s.bias with page := setBits s.bias.page 63 32 v } }
  else if off = 8 then
    let n := v % 2 ^ 17
    if n = 0 ∨ n > 65536 then bad else { s with bias := { s.bias with count := n } }
  else if off = 0xC then
    if v % 4 = 1 then s.biasStart true else if v % 4 = 2 then s.biasStart false else bad
  else if off = 0x10 then
    { s with bias := { s.bias with done := s.bias.done && !v.testBit 1, err := s.bias.err && !v.testBit 2 } }
  else s

/-- A write of a word of the MSI-X table; clearing a vector's mask sends what is pending (R144). -/
def State.writeMsix (s : State) (vec w v : Nat) : State :=
  if vec ≥ 128 ∨ w ≥ 4 then s
  else
    let s := { s with msixMask := tset 0 s.msixMask (4 * vec + w) (if w = 3 then (v % 2 ^ 32) ^^^ 1 else v % 2 ^ 32) }
    if w = 3 && !v.testBit 0 && tget false s.msixPend vec then
      { s with msixPend := tset false s.msixPend vec false }.emit (.msix vec)
    else s

/-- Does a write of a word over the register port answer NAK_PERM: a debug word below level FULL (R296)? -/
def State.nakWrite (s : State) (a : Nat) : Bool := decide (0xE0 ≤ a) && decide (a < 0x100) && decide (s.mg.debugLevel ≠ 2)

/-- REGISTER_WRITE: a register is written, field by field as its access codes say (R8–R10). -/
def execRegisterWrite (r : RegTarget) (v : Nat) (s : State) : Host.Outcome State Fault Refusal :=
  match r with
  | .mgmt p a => .next (s.access p true fun s =>
      if decide (p = .port) && s.nakWrite a then (s, 2, 0) else (s.regWrite p a v, 0, 0))
  | .queue q off => .next (if s.serving && decide (q < 64) then s.writeQueue q off v else s)
  | .mailbox off => .next (s.writeMailbox off v)
  | .bias off => .next (if s.serving then s.writeBias off v else s)
  | .msix vec w => .next (if s.mailboxLive then s.writeMsix vec w v else s)

/-! The rows of indirect and debug access. -/

/-- An indirect access on a path, with its answer. -/
def State.indRow (s : State) (p : Path) (w : Option Word) (inc reachable : Bool) : State :=
  s.access p w.isSome fun s =>
    let r := s.indirect p w inc reachable
    (r.1, if r.2.1 then 0 else 3, r.2.2)

/-- MG_IND_DATA (R332, R333). -/
def execMgIndData (path : Path) (w : Option Word) (reachable : Bool) (s : State) : Host.Outcome State Fault Refusal :=
  .next (s.indRow path w false reachable)
/-- MG_IND_DATA_INC (R332, R333). -/
def execMgIndDataInc (path : Path) (w : Option Word) (reachable : Bool) (s : State) : Host.Outcome State Fault Refusal :=
  .next (s.indRow path w true reachable)

/-- A debug access on a path, with its answer; through BAR0 it reads 0 and writes nothing (R337). -/
def State.dbgRow (s : State) (p : Path) (w : Option Word) (inc : Bool) : State :=
  s.access p w.isSome fun s => match p with
    | .port => s.dbgPort w inc
    | .bar0 => (s, 0, 0)

/-- DBG_DATA (R337, R338). -/
def execDbgData (path : Path) (w : Option Word) (s : State) : Host.Outcome State Fault Refusal := .next (s.dbgRow path w false)
/-- DBG_DATA_INC (R337, R338). -/
def execDbgDataInc (path : Path) (w : Option Word) (s : State) : Host.Outcome State Fault Refusal := .next (s.dbgRow path w true)

/-- LEARN_CLEAR: PW_LEARN_CTL.CLEAR (R260). -/
def execLearnClear (path : Path) (s : State) : Host.Outcome State Fault Refusal :=
  .next (s.written path fun s => if s.allows path polPw then s.clearLearned else s)

/-- A read of PW_ENERGY_LO latches PW_ENERGY_HI (Table PWR-2). -/
def State.energyLo (s : State) : State × Nat :=
  (s.modPwr fun w => { w with hiLatch := w.energy / 2 ^ 32 }, s.pwr.energy % 2 ^ 32)

/-- PW_ENERGY_LO_READ. -/
def execPwEnergyLoRead (path : Path) (s : State) : Host.Outcome State Fault Refusal :=
  .next (s.access path false fun s =>
    let r := s.energyLo
    (r.1, 0, r.2))

/-! Reads of the BARs (R173, Table HOST-3): no row of the table reads one but the four of BAR0 above, so these are what a
register holds, with no effect. -/

/-- The PCIe identity (R173): device ID, revision ID, class code. -/
def pcieIdentity : Nat × Nat × Nat := (0x1620, 0x11, 0x120000)

/-- A word of the CXL DVSECs in configuration space (R173). -/
def readDvsec (off : Nat) : Nat := (Config.dvsec (off / 4)).toNat

/-- A bias control word (Table HOST-6). -/
def State.readBias (s : State) (off : Nat) : Nat :=
  let b := s.bias
  if off = 0 then b.page % 2 ^ 32
  else if off = 4 then b.page / 2 ^ 32
  else if off = 8 then b.count
  else if off = 0x10 then b2n b.busy + 2 * b2n b.done + 4 * b2n b.err
  else 0

/-- A word of the MSI-X table. -/
def State.readMsix (s : State) (vec w : Nat) : Nat :=
  let v := tget 0 s.msixMask (4 * vec + w)
  if w = 3 then v ^^^ 1 else v

/-- A word of the MSI-X pending-bit array: bit v of it is vector 32 × w + v. -/
def State.readMsixPend (s : State) (w : Nat) : Nat :=
  (List.range 32).foldl (fun a v => a + b2n (tget false s.msixPend (32 * w + v)) * 2 ^ v) 0

/-- The word at a byte offset of a BAR; what Table HOST-3 does not list reads 0, and the CXL component registers read what
their own layout gives. -/
def State.readBar (s : State) (bar off : Nat) : Nat :=
  if bar = 0 then (if off < 0x400 then s.readReg .bar0 (off / 4) else 0)
  else if bar = 2 then (if off < 0x40000 then s.readQueue (off / 0x1000) (off % 0x1000) else 0)
  else if bar ≠ 4 then 0
  else if off < 0x10000 then (Config.cxlComponent (off / 4)).toNat
  else if 0x10000 ≤ off ∧ off < 0x10800 then s.readMsix ((off - 0x10000) / 16) (off % 16 / 4)
  else if 0x10800 ≤ off ∧ off < 0x10810 then s.readMsixPend ((off - 0x10800) / 4)
  else if 0x11000 ≤ off ∧ off < 0x12000 then s.readMailbox (off - 0x11000)
  else if 0x12000 ≤ off ∧ off < 0x12014 then s.readBias (off - 0x12000)
  else 0

end Sys2Proof.Machine
end

