-- ==== Sys2Proof/Machine/Sideband.lean ====
section
/-!
DEFINITION. The Icpiven sideband in SERVICE phase: the frames of the register port (R291–R297), the IAL frame (R298–R301),
its alignment (R302, R303) and the release of SUPPLY_ALARM and CAP_DROP (R245, R252).
-/
namespace Sys2Proof.Machine

/-! The register port. -/

/-- The CRC of a request (R294): OP, ADDR, and DATA for a WRITE. -/
def reqCrc (op addr : Nat) (data : Option Nat) : Nat :=
  crc8 (bitsOf op 2 ++ bitsOf addr 8 ++ (data.elim [] (fun d => bitsOf d 32)))

/-- A frame: nothing where the port is not ready; NAK_CRC where its CRC mismatches; else what the access does (R294). -/
def State.sbFrame (s : State) (op addr : Nat) (data : Option Nat) (crc : Nat) (f : State → State × Nat × Nat) : State :=
  if !s.pathReady .port then s
  else if crc ≠ reqCrc op addr data then s.answer 1 0
  else
    let r := f s
    r.1.answer r.2.1 r.2.2

/-- READ of a word (R296). -/
def State.portRead (a : Nat) (reachable : Bool) (s : State) : State × Nat × Nat :=
  if 0xE0 ≤ a then
    if s.mg.debugLevel = 0 then (s, 2, 0)
    else if a = 0xE4 then s.dbgPort none false
    else if a = 0xE5 then s.dbgPort none true
    else (s, 0, s.readReg .port a)
  else if a = 0x0A ∨ a = 0x0B then
    let r := s.indirect .port none (decide (a = 0x0B)) reachable
    (r.1, if r.2.1 then 0 else 3, r.2.2)
  else if a = 0x18 then
    let r := s.energyLo
    (r.1, 0, r.2)
  else (s, 0, s.readReg .port a)

/-- WRITE of a word (R296). -/
def State.portWrite (a v : Nat) (reachable : Bool) (s : State) : State × Nat × Nat :=
  if 0xE0 ≤ a then
    if s.mg.debugLevel ≠ 2 then (s, 2, 0)
    else if a = 0xE4 ∨ a = 0xE5 then s.dbgPort (some (BitVec.ofNat 32 v)) (decide (a = 0xE5))
    else (s.regWrite .port a v, 0, 0)
  else if a = 0x0A ∨ a = 0x0B then
    let r := s.indirect .port (some (BitVec.ofNat 32 v)) (decide (a = 0x0B)) reachable
    (r.1, if r.2.1 then 0 else 3, 0)
  else (s.regWrite .port a v, 0, 0)

/-- READ_INC: ADDR names IA, which is read and advances, or IA − 1, which is read again (R296). -/
def State.portReadInc (a : Nat) (reachable : Bool) (s : State) : State × Nat × Nat :=
  let ia := s.indAddr .port
  let prev := (ia + 2 ^ 24 - 1) % 2 ^ 24
  if a = ia % 256 then
    let r := s.indirect .port none true reachable
    (r.1, if r.2.1 then 0 else 3, r.2.2)
  else if a = prev % 256 then
    let r := (s.setIndAddr .port prev).indirect .port none true reachable
    (r.1.setIndAddr .port ia, if r.2.1 then 0 else 3, r.2.2)
  else (s, 2, 0)

/-- SB_READ (R293–R297). -/
def execSbRead (addr crc : Nat) (reachable : Bool) (s : State) : Host.Outcome State Fault Refusal :=
  .next (s.sbFrame 0 (addr % 256) none crc (State.portRead (addr % 256) reachable))
/-- SB_WRITE (R293–R297). -/
def execSbWrite (addr data crc : Nat) (reachable : Bool) (s : State) : Host.Outcome State Fault Refusal :=
  .next (s.sbFrame 1 (addr % 256) (some (data % 2 ^ 32)) crc (State.portWrite (addr % 256) (data % 2 ^ 32) reachable))
/-- SB_READ_INC (R293–R297). -/
def execSbReadInc (addr crc : Nat) (reachable : Bool) (s : State) : Host.Outcome State Fault Refusal :=
  .next (s.sbFrame 2 (addr % 256) none crc (State.portReadInc (addr % 256) reachable))

/-- The epoch that the die drives through a frame: as leader in LOCKSTEP the one it latches at the frame's start (R301,
R262); else slots 8–11 are released (R299). -/
def State.nextEpoch (s : State) : Nat :=
  if s.lockstep && decide (s.leader = s.position) then s.pwr.uniform else 0xF
/-- A frame starts on the die's grid: the epoch is latched. -/
def State.latchEpoch (s : State) : State := s.modSb fun b => { b with driven := s.nextEpoch }
/-- The die arms: it drives no slot (R302). -/
def State.arm (s : State) : State := s.modSb fun b => { b with armed := true, driven := 0xF }
/-- The die disarms, keeps its alignment and drives its slots again (R302). -/
def State.disarm (s : State) : State :=
  if s.sb.armed then (s.modSb fun b => { b with armed := false }).latchEpoch else s
/-- A SYNC frame by its ADDR (R296): arm, disarm, NAK_PERM. -/
def State.sync (s : State) (addr : Nat) : State × Nat × Nat :=
  if addr = 0 then (s.arm, 0, 0) else if addr = 1 then (s.disarm, 0, 0) else (s, 2, 0)

/-- SYNC_ARM: the die is armed at its ACK (R302). -/
def execSyncArm (crc : Nat) (s : State) : Host.Outcome State Fault Refusal :=
  .next (s.sbFrame 3 0 none crc fun s => s.sync 0)
/-- SYNC_DISARM: the die is disarmed and keeps its alignment (R302). The row stands for every SYNC frame that does not arm:
any ADDR but 0x00 and 0x01 answers NAK_PERM (R296). -/
def execSyncDisarm (frame : SyncFrame) (s : State) : Host.Outcome State Fault Refusal :=
  .next (s.sbFrame 3 (frame.addr % 256) none frame.crc fun s => s.sync (frame.addr % 256))

/-- PORT_IDLE: the port is idle; a frame that had not ended is abandoned (R291). -/
def execPortIdle (s : State) : Host.Outcome State Fault Refusal :=
  .next (if s.pathLive .port then s.modSb fun b => { b with frameBusy := false } else s)

/-! Alignment (R302). -/

/-- ALIGN_PULSE: IAL reads low at `lowEdges` REFCLK edges in a row; four align an armed die, and frame 0 starts. -/
def execAlignPulse (lowEdges : Nat) (s : State) : Host.Outcome State Fault Refusal :=
  if s.pathLive .port && s.sb.armed && decide (4 ≤ lowEdges) then
    .next (s.modSb fun b => { b with aligned := true, armed := false }).latchEpoch
  else .next s

/-- SYNC_TMO: 10 ms armed without a pulse. -/
def execSyncTmo (s : State) : Host.Outcome State Fault Refusal :=
  if s.pathLive .port && s.sb.armed then .next (s.modSb fun b => { b with syncTmo := true }).disarm else .next s

/-! The frame (R298–R301). -/

/-- Does the die hold IAL low: all through STRAP phase, strap hold included (Table SB-2, R289)? -/
def State.ialLow (s : State) : Bool := s.mg.released && !s.sb.service
/-- Does the die drive and decode slots (R302, R303)? -/
def State.slotsLive (s : State) : Bool := s.pathLive .port && s.sb.aligned && !s.sb.armed
/-- The epoch slots that carry a level: slot 8 + i is released where bit 3 − i is 1 (R301). -/
def epochSlots (l : Nat) : Nat :=
  flagAt (l.testBit 3) 8 + flagAt (l.testBit 2) 9 + flagAt (l.testBit 1) 10 + flagAt (l.testBit 0) 11
/-- The level that slots 8–11 carry. -/
def epochOf (slots : Nat) : Nat :=
  flagAt (slots.testBit 8) 3 + flagAt (slots.testBit 9) 2 + flagAt (slots.testBit 10) 1 + flagAt (slots.testBit 11) 0
/-- The frame as this die drives it, bit n 0 where it pulls slot n low: its alert, and as leader in LOCKSTEP the epoch
that it latched (R244, R299, R301). -/
def State.ialDrive (s : State) : Nat :=
  (if s.slotAsserted then andNot 0xF0FF (2 ^ s.position) else 0xF0FF) + epochSlots s.sb.driven

/-- Slot 4, decoded in every frame: SUPPLY_ALARM_SEEN, one log entry at the onset, P15 (R245). -/
def State.slot4 (s : State) (asserted : Bool) : State :=
  if asserted then
    let onset := !s.sb.alarmOn
    let s := (s.modSb fun b => { b with alarmOn := true, alarmClear := 0 }).modPwr fun w => { w with supplyAlarm := true }
    let s := s.alert aSupplyAlarm
    if onset then s.addLog { code := 0x1E, cls := 3, kind := kDie } else s
  else s.modSb fun b => { b with alarmOn := false, alarmClear := min 4 (b.alarmClear + 1) }
/-- Slot 5, decoded in every frame: CAP_DROP (Table PWR-3). -/
def State.slot5 (s : State) (asserted : Bool) : State :=
  if asserted then
    (s.modSb fun b => { b with dropClear := 0 }).modPwr fun w => { w with capDrop := true }
  else s.modSb fun b => { b with dropClear := min 4 (b.dropClear + 1) }

/-- Slots 0–3 and 8–11 of a valid frame (R299, R301); a leader that reads another epoch than it drove is in conflict. -/
def State.validSlots (s : State) (r : Nat) : State :=
  let e := epochOf r
  let lead := s.lockstep && decide (s.leader = s.position)
  let conflict := lead && decide (e ≠ s.sb.driven)
  s.modSb fun b => { b with
    peerAlert := b.peerAlert ||| andNot b.slotEn (r % 16)
    epoch := e
    epochConflict := b.epochConflict || conflict
    ownLimit := if conflict then b.driven else 0 }

/-- IAL_FRAME: a frame ends; `slots` has bit n set where nobody else pulled slot n low, and the wire carries the AND of
that with what the die drove. The epoch is applied at this boundary, a slower one by hardware, a faster one by the sequencer
(R243, R252). A die in STRAP phase holds IAL low, so that every slot
reads low to the group; it decodes none (R289, R300). -/
def execIalFrame (slots : Nat) (s : State) : Host.Outcome State Fault Refusal :=
  if s.ialLow then .next (s.emit (.ial 0))
  else if !s.slotsLive then .next s
  else
    let d := s.ialDrive
    let r := slots % 2 ^ 16 &&& d
    let s := (s.emit (.ial d)).modSb fun b => { b with lastSlots := r }
    let s := (s.slot4 (!r.testBit 4)).slot5 (!r.testBit 5)
    let s := if r / 2 ^ 12 = 15 then s.validSlots r else s.modSb fun b => { b with ialStuck := true }
    let s := s.latchEpoch.applyHw
    .next ((if s.lockstep && s.pwr.seqPresent then s.setAll 0 else s).lagCheck)

/-- SUPPLY_ALARM_RELEASE: slot 4 has read released for four frames (R245). -/
def execSupplyAlarmRelease (s : State) : Host.Outcome State Fault Refusal :=
  .next (if 4 ≤ s.sb.alarmClear then s.modPwr fun w => { w with supplyAlarm := false } else s)
/-- CAP_DROP_RELEASE: slot 5 has read released for four frames (Table PWR-3). -/
def execCapDropRelease (s : State) : Host.Outcome State Fault Refusal :=
  .next (if 4 ≤ s.sb.dropClear then s.modPwr fun w => { w with capDrop := false } else s)

end Sys2Proof.Machine
end

