-- ==== Sys2Proof/Machine/Dispatch.lean ====
section
/-!
DEFINITION. The dispatch: one arm per command of the table, each a direct call of that command's meaning.
-/
namespace Sys2Proof.Machine

def exec (i : Instr) (s : State) : Host.Outcome State Fault Refusal :=
  match i with
  -- queue commands: the dispatcher takes queue q's next entry, of this opcode, and carries it out
  | .gemm q h => Sys2Proof.Machine.execGemm q h s
  | .chain q h => Sys2Proof.Machine.execChain q h s
  | .move q h => Sys2Proof.Machine.execMove q h s
  | .convert q h => Sys2Proof.Machine.execConvert q h s
  | .send q h => Sys2Proof.Machine.execSend q h s
  | .fence q h => Sys2Proof.Machine.execFence q h s
  | .signal q h => Sys2Proof.Machine.execSignal q h s
  | .wait q h => Sys2Proof.Machine.execWait q h s
  | .loadprog q h => Sys2Proof.Machine.execLoadprog q h s
  | .loadprogUnload q h => Sys2Proof.Machine.execLoadprogUnload q h s
  | .marker q h => Sys2Proof.Machine.execMarker q h s
  | .reduceRecv q h => Sys2Proof.Machine.execReduceRecv q h s
  -- the dispatcher
  | .entryFetch q h waited => Sys2Proof.Machine.execEntryFetch q h waited s
  | .completionRecord q t waited => Sys2Proof.Machine.execCompletionRecord q t waited s
  | .overflowRecordPost q => Sys2Proof.Machine.execOverflowRecordPost q s
  | .irqTimer q => Sys2Proof.Machine.execIrqTimer q s
  | .preempt p => Sys2Proof.Machine.execPreempt p s
  | .scoreboardRelease p waited => Sys2Proof.Machine.execScoreboardRelease p waited s
  | .lentCrestRecall p waited => Sys2Proof.Machine.execLentCrestRecall p waited s
  -- the crest
  | .rowPass p ev ecc => Sys2Proof.Machine.execRowPass p ev ecc s
  | .weightBankFill p waited ecc => Sys2Proof.Machine.execWeightBankFill p waited ecc s
  | .tileEpilogue p ecc parityBad => Sys2Proof.Machine.execTileEpilogue p ecc parityBad s
  | .invocationStart p => Sys2Proof.Machine.execInvocationStart p s
  -- the vector engine
  | .vNop p x => Sys2Proof.Machine.execVNop p x s
  | .vEnd p x => Sys2Proof.Machine.execVEnd p x s
  | .vBr p x => Sys2Proof.Machine.execVBr p x s
  | .vLoop p x => Sys2Proof.Machine.execVLoop p x s
  | .vSalu p x => Sys2Proof.Machine.execVSalu p x s
  | .vVget p x => Sys2Proof.Machine.execVVget p x s
  | .vBcast p x => Sys2Proof.Machine.execVBcast p x s
  | .vLaneid p x => Sys2Proof.Machine.execVLaneid p x s
  | .vFadd p x => Sys2Proof.Machine.execVFadd p x s
  | .vFsub p x => Sys2Proof.Machine.execVFsub p x s
  | .vFmul p x => Sys2Proof.Machine.execVFmul p x s
  | .vFma p x => Sys2Proof.Machine.execVFma p x s
  | .vFmax p x => Sys2Proof.Machine.execVFmax p x s
  | .vFmin p x => Sys2Proof.Machine.execVFmin p x s
  | .vFun p x => Sys2Proof.Machine.execVFun p x s
  | .vFcmp p x => Sys2Proof.Machine.execVFcmp p x s
  | .vIalu p x => Sys2Proof.Machine.execVIalu p x s
  | .vIcmp p x => Sys2Proof.Machine.execVIcmp p x s
  | .vSel p x => Sys2Proof.Machine.execVSel p x s
  | .vCvt p x => Sys2Proof.Machine.execVCvt p x s
  | .vCvtf p x => Sys2Proof.Machine.execVCvtf p x s
  | .vLda p x parityBad => Sys2Proof.Machine.execVLda p x parityBad s
  | .vSta p x => Sys2Proof.Machine.execVSta p x s
  | .vLds p x ecc => Sys2Proof.Machine.execVLds p x ecc s
  | .vStc p x => Sys2Proof.Machine.execVStc p x s
  | .vStp p x => Sys2Proof.Machine.execVStp p x s
  | .vRed p x => Sys2Proof.Machine.execVRed p x s
  | .vFn p x => Sys2Proof.Machine.execVFn p x s
  -- programs
  | .progLoadDone p handle => Sys2Proof.Machine.execProgLoadDone p handle s
  | .progReload p waited => Sys2Proof.Machine.execProgReload p waited s
  -- peers, waits and atomics
  | .sendFlag q t stage => Sys2Proof.Machine.execSendFlag q t stage s
  | .channelTileRetry q t sid tile => Sys2Proof.Machine.execChannelTileRetry q t sid tile s
  | .sendTmo q t => Sys2Proof.Machine.execSendTmo q t s
  | .recvTileAdd q t => Sys2Proof.Machine.execRecvTileAdd q t s
  | .recvTmo q t => Sys2Proof.Machine.execRecvTmo q t s
  | .waitPoll q t h => Sys2Proof.Machine.execWaitPoll q t h s
  | .waitTmo q t h => Sys2Proof.Machine.execWaitTmo q t h s
  | .atomicWriteback addr => Sys2Proof.Machine.execAtomicWriteback addr s
  -- queue pages and registers
  | .qDoorbell q tail h => Sys2Proof.Machine.execQDoorbell q tail h s
  | .queueEnable q => Sys2Proof.Machine.execQueueEnable q s
  | .queueDisable q => Sys2Proof.Machine.execQueueDisable q s
  | .resume q => Sys2Proof.Machine.execResume q s
  | .qCqHead q v => Sys2Proof.Machine.execQCqHead q v s
  | .registerWrite r v => Sys2Proof.Machine.execRegisterWrite r v s
  -- the firmware mailbox
  | .identify => Sys2Proof.Machine.execIdentify s
  | .fwTransfer => Sys2Proof.Machine.execFwTransfer s
  | .fwActivate => Sys2Proof.Machine.execFwActivate s
  | .logRead => Sys2Proof.Machine.execLogRead s
  -- bias control
  | .toHost => Sys2Proof.Machine.execToHost s
  | .toDevice => Sys2Proof.Machine.execToDevice s
  | .biasPageDone returned => Sys2Proof.Machine.execBiasPageDone returned s
  -- management commands
  | .ptCreate path part => Sys2Proof.Machine.execPtCreate path part s
  | .ptReshape path part => Sys2Proof.Machine.execPtReshape path part s
  | .ptDestroy path part => Sys2Proof.Machine.execPtDestroy path part s
  | .ptReset path part => Sys2Proof.Machine.execPtReset path part s
  | .quiesceDone => Sys2Proof.Machine.execQuiesceDone s
  | .quiesceTmo => Sys2Proof.Machine.execQuiesceTmo s
  | .drainDone => Sys2Proof.Machine.execDrainDone s
  | .sliceZeroiseDone => Sys2Proof.Machine.execSliceZeroiseDone s
  | .rpRetire path kind unit => Sys2Proof.Machine.execRpRetire path kind unit s
  | .fwSbOpen path => Sys2Proof.Machine.execFwSbOpen path s
  | .fwSbActivate path => Sys2Proof.Machine.execFwSbActivate path s
  | .resetCold path => Sys2Proof.Machine.execResetCold path s
  | .resetWarm path => Sys2Proof.Machine.execResetWarm path s
  | .resetCrest path l => Sys2Proof.Machine.execResetCrest path l s
  | .resetLink path target => Sys2Proof.Machine.execResetLink path target s
  | .hostLinkReset => Sys2Proof.Machine.execHostLinkReset s
  -- indirect and debug access; `w` is the word written, none for a read
  | .mgIndData path w reachable => Sys2Proof.Machine.execMgIndData path w reachable s
  | .mgIndDataInc path w reachable => Sys2Proof.Machine.execMgIndDataInc path w reachable s
  | .dbgData path w => Sys2Proof.Machine.execDbgData path w s
  | .dbgDataInc path w => Sys2Proof.Machine.execDbgDataInc path w s
  | .dbgHaltReq path v => Sys2Proof.Machine.execDbgHaltReq path v s
  | .crestHalt p => Sys2Proof.Machine.execCrestHalt p s
  | .seDebugReq path level => Sys2Proof.Machine.execSeDebugReq path level s
  | .ptSel path v => Sys2Proof.Machine.execPtSel path v s
  | .learnClear path => Sys2Proof.Machine.execLearnClear path s
  | .pwEnergyLoRead path => Sys2Proof.Machine.execPwEnergyLoRead path s
  -- the register port
  | .sbRead addr crc reachable => Sys2Proof.Machine.execSbRead addr crc reachable s
  | .sbWrite addr data crc reachable => Sys2Proof.Machine.execSbWrite addr data crc reachable s
  | .sbReadInc addr crc reachable => Sys2Proof.Machine.execSbReadInc addr crc reachable s
  | .syncArm crc => Sys2Proof.Machine.execSyncArm crc s
  | .syncDisarm frame => Sys2Proof.Machine.execSyncDisarm frame s
  | .portIdle => Sys2Proof.Machine.execPortIdle s
  | .alignPulse lowEdges => Sys2Proof.Machine.execAlignPulse lowEdges s
  | .syncTmo => Sys2Proof.Machine.execSyncTmo s
  -- IAL, supply and reset inputs
  | .ialFrame slots => Sys2Proof.Machine.execIalFrame slots s
  | .supplyAlarmRelease => Sys2Proof.Machine.execSupplyAlarmRelease s
  | .capDropRelease => Sys2Proof.Machine.execCapDropRelease s
  | .alwaysOnReset => Sys2Proof.Machine.execAlwaysOnReset s
  | .refclkInvalid => Sys2Proof.Machine.execRefclkInvalid s
  | .alwaysOnRelease => Sys2Proof.Machine.execAlwaysOnRelease s
  | .strapDecode ickUp ickDown idaUp idaDown => Sys2Proof.Machine.execStrapDecode ickUp ickDown idaUp idaDown s
  | .vinLow => Sys2Proof.Machine.execVinLow s
  | .vinLowClear => Sys2Proof.Machine.execVinLowClear s
  | .vinHigh => Sys2Proof.Machine.execVinHigh s
  -- boot
  | .storeBistDone failedRows => Sys2Proof.Machine.execStoreBistDone failedRows s
  | .crestBistGroupDone group failed => Sys2Proof.Machine.execCrestBistGroupDone group failed s
  | .fwWait => Sys2Proof.Machine.execFwWait s
  | .fwVerifyDone => Sys2Proof.Machine.execFwVerifyDone s
  | .fwHandover => Sys2Proof.Machine.execFwHandover s
  | .fwRunReady => Sys2Proof.Machine.execFwRunReady s
  | .watchdog => Sys2Proof.Machine.execWatchdog s
  -- the sequencer and power control
  | .seqRestart => Sys2Proof.Machine.execSeqRestart s
  | .seqTimeout => Sys2Proof.Machine.execSeqTimeout s
  | .capLoop => Sys2Proof.Machine.execCapLoop s
  | .levelSwitch p => Sys2Proof.Machine.execLevelSwitch p s
  | .estimatorWindow ws moved => Sys2Proof.Machine.execEstimatorWindow ws moved s
  | .quietSlot p => Sys2Proof.Machine.execQuietSlot p s
  | .quietSlotEnd p watts16 => Sys2Proof.Machine.execQuietSlotEnd p watts16 s
  | .calibStale => Sys2Proof.Machine.execCalibStale s
  | .sensorRead x v => Sys2Proof.Machine.execSensorRead x v s
  | .thermalStep => Sys2Proof.Machine.execThermalStep s
  | .tripRecover waited => Sys2Proof.Machine.execTripRecover waited s
  | .droop p => Sys2Proof.Machine.execDroop p s
  | .droopRelease p => Sys2Proof.Machine.execDroopRelease p s
  | .slackReport slack => Sys2Proof.Machine.execSlackReport slack s
  | .groupCapRedistribute => Sys2Proof.Machine.execGroupCapRedistribute s
  -- regulators
  | .regSample ms vin => Sys2Proof.Machine.execRegSample ms vin s
  | .phaseWindow r onTime current => Sys2Proof.Machine.execPhaseWindow r onTime current s
  | .senseFail r suspect => Sys2Proof.Machine.execSenseFail r suspect s
  | .diagCycle => Sys2Proof.Machine.execDiagCycle s
  | .softstart r => Sys2Proof.Machine.execSoftstart r s
  | .softstartEnd r vout => Sys2Proof.Machine.execSoftstartEnd r vout s
  | .softstartLimitFail r => Sys2Proof.Machine.execSoftstartLimitFail r s
  | .retryWaitEnd r => Sys2Proof.Machine.execRetryWaitEnd r s
  | .regStop r overVoltage => Sys2Proof.Machine.execRegStop r overVoltage s
  | .crestWakeDone p waited => Sys2Proof.Machine.execCrestWakeDone p waited s
  | .sliceWakeDone n waited => Sys2Proof.Machine.execSliceWakeDone n waited s
  -- faults and repair
  | .spareBind => Sys2Proof.Machine.execSpareBind s
  | .rowSpare n => Sys2Proof.Machine.execRowSpare n s
  | .rowTestDone n pass => Sys2Proof.Machine.execRowTestDone n pass s
  | .scrubRead n line ecc word => Sys2Proof.Machine.execScrubRead n line ecc word s
  | .colReplay c clean x => Sys2Proof.Machine.execColReplay c clean x s
  -- the host port
  | .hostMemRead addr ecc word => Sys2Proof.Machine.execHostMemRead addr ecc word s
  | .hostMemWrite addr bytes poison => Sys2Proof.Machine.execHostMemWrite addr bytes poison s
  | .snpdata line => Sys2Proof.Machine.execSnpdata line s
  | .snpinv line => Sys2Proof.Machine.execSnpinv line s
  | .snpcur line => Sys2Proof.Machine.execSnpcur line s
  | .evictionGrant line => Sys2Proof.Machine.execEvictionGrant line s
  | .hostRetrain e => Sys2Proof.Machine.execHostRetrain e s
  | .hostRetrainDone m ok reach repaired => Sys2Proof.Machine.execHostRetrainDone m ok reach repaired s
  -- Trelkai
  | .flitSend k => Sys2Proof.Machine.execFlitSend k s
  | .dataStore k f => Sys2Proof.Machine.execDataStore k f s
  | .dataChannel k f => Sys2Proof.Machine.execDataChannel k f s
  | .flag k f => Sys2Proof.Machine.execFlag k f s
  | .flagAck k f => Sys2Proof.Machine.execFlagAck k f s
  | .hello k f => Sys2Proof.Machine.execHello k f s
  | .noHello k => Sys2Proof.Machine.execNoHello k s
  | .linkmap k f => Sys2Proof.Machine.execLinkmap k f s
  | .resyncReq k f => Sys2Proof.Machine.execResyncReq k f s
  | .resyncRsp k f => Sys2Proof.Machine.execResyncRsp k f s
  | .chClosed k f => Sys2Proof.Machine.execChClosed k f s
  | .slack k f => Sys2Proof.Machine.execSlack k f s
  | .groupCap k f => Sys2Proof.Machine.execGroupCap k f s
  | .credit k f => Sys2Proof.Machine.execCredit k f s
  | .idle k f => Sys2Proof.Machine.execIdle k f s
  | .badFlit k f => Sys2Proof.Machine.execBadFlit k f s
  | .relayForward k => Sys2Proof.Machine.execRelayForward k s
  | .replayTimeout k => Sys2Proof.Machine.execReplayTimeout k s
  | .peerRetrain k => Sys2Proof.Machine.execPeerRetrain k s
  | .peerRetrainDone k ok mode repairs => Sys2Proof.Machine.execPeerRetrainDone k ok mode repairs s
  | .peerLinkLost k => Sys2Proof.Machine.execPeerLinkLost k s
  -- the rest of the table
  | .powerGating u => Sys2Proof.Machine.execPowerGating u s
  | .rowCopyEnd n => Sys2Proof.Machine.execRowCopyEnd n s
  | .sequencerAdoptsState => Sys2Proof.Machine.execSequencerAdoptsState s
  | .unlistedMsg k f => Sys2Proof.Machine.execUnlistedMsg k f s

end Sys2Proof.Machine
end

