-- ==== Sys2Proof/WellFormed.lean ====
section
/-!
DEFINITION. Which commands are well formed: every operand names a unit that the spec gives the die, or fits the field
that carries it. A command that is not well formed still has a meaning; no pin, port or register can deliver it.
-/
namespace Sys2Proof

/-- The word of a store line that a detector names. -/
def Ecc.wf (e : Ecc) : Bool := decide (e.word < 8 ∧ e.addr < 96 * 2 ^ 24)
/-- The host's own writes are to byte addresses of 52 bits (R167). -/
def HostUpd.wf (h : HostUpd) : Bool :=
  h.cells.all (fun c => decide (c.1 < 2 ^ 52 ∨ (2 ^ 53 ≤ c.1 ∧ c.1 < 2 ^ 53 + 96 * 2 ^ 24)))
    && h.poison.all (fun l => decide (l < 2 ^ 46 ∨ (2 ^ 47 ≤ l ∧ l < 2 ^ 47 + 96 * 2 ^ 18))) && h.flaws.all Ecc.wf
/-- The fields of an instruction fit Table VEC-3. -/
def VInst.wf (i : VInst) : Bool :=
  decide (i.vd < 32 ∧ i.va < 32 ∧ i.vb < 32 ∧ i.vc < 32 ∧ i.mask < 8 ∧ i.rm < 8 ∧ i.sub < 64 ∧ i.imm < 2 ^ 24)
/-- The mismatches that a row may meet: its pass and two replays (R61). -/
def PassEvent.wf : PassEvent → Bool
  | .residue n => decide (1 ≤ n ∧ n ≤ 3)
  | _ => true
/-- The fields of a flit fit Table PEER-3, and its body is 256 bytes. -/
def Flit.wf (f : Flit) : Bool :=
  decide (f.typ < 16 ∧ f.seq < 4096 ∧ f.ack < 4096 ∧ f.src < 4 ∧ f.dst < 4 ∧ f.lines < 4)
    && decide (f.crData < 4 ∧ f.crRelay < 4 ∧ f.sid < 256 ∧ f.place < 2 ^ 46 ∧ f.body.length = 256)
/-- The register named exists as an address (Tables REG-1, CMD-1, HOST-4, HOST-6). -/
def RegTarget.wf : RegTarget → Bool
  | .mgmt _ a => decide (a < 256)
  | .queue q off => decide (q < 64 ∧ off < 4096 ∧ off % 4 = 0)
  | .mailbox off => decide (off % 4 = 0)
  | .bias off => decide (off % 4 = 0)
  | .msix vec w => decide (vec < 128 ∧ w < 4)
/-- A regulator's sample names a regulator (Table SUP-2). -/
def RegMeas.wf (m : RegMeas) : Bool := decide (m.r < 24 ∧ m.ph.length ≤ 4)
/-- A window's signature is of a crest and has eight counters (R257). -/
def WinMeas.wf (w : WinMeas) : Bool := decide (w.p < 17 ∧ w.a.length = 8)
/-- The unit that power control gates. -/
def GateUnit.wf : GateUnit → Bool
  | .crestNap p => decide (p < 17)
  | .crestOff p => decide (p < 17)
  | .sliceRetain n => decide (n < 96)
  | .sliceOff n => decide (n < 96)

/-- Where a transfer delivers names a queue's command (R278). -/
def Delivery.wf : Delivery → Bool
  | .crest q t => decide (q < 64 ∧ t < 65536)
  | _ => true

/-- A physical crest. -/
def crestOk (p : Nat) : Bool := decide (p < 17)
/-- A queue. -/
def queueOk (q : Nat) : Bool := decide (q < 64)
/-- A queue and the tag of one of its entries. -/
def cmdOk (q t : Nat) : Bool := decide (q < 64 ∧ t < 65536)
/-- An instruction on a crest. -/
def vecOk (p : Nat) (i : VInst) : Bool := crestOk p && i.wf
/-- A peer port and what it received. -/
def flitOk (k : Nat) (f : Flit) : Bool := decide (k < 3) && f.wf
/-- A register-port request of 8 address bits and 8 CRC bits (Table SB-6). -/
def reqOk (addr crc : Nat) : Bool := decide (addr < 256 ∧ crc < 256)

/-- Is a command well formed? -/
def Instr.wf : Instr → Bool
  | .gemm q h | .chain q h | .move q h | .convert q h | .send q h | .fence q h | .signal q h | .wait q h
  | .loadprog q h | .loadprogUnload q h | .marker q h | .reduceRecv q h => queueOk q && h.wf
  | .entryFetch q h _ => queueOk q && h.wf
  | .completionRecord q t _ => cmdOk q t
  | .overflowRecordPost q | .irqTimer q => queueOk q
  | .preempt p => crestOk p
  | .scoreboardRelease p _ | .lentCrestRecall p _ => crestOk p
  | .rowPass p ev es => crestOk p && ev.wf && es.all Ecc.wf
  | .weightBankFill p _ es => crestOk p && es.all Ecc.wf
  | .tileEpilogue p es _ => crestOk p && es.all Ecc.wf
  | .invocationStart p => crestOk p
  | .vNop p i | .vBr p i | .vLoop p i | .vSalu p i | .vVget p i | .vBcast p i | .vLaneid p i | .vFadd p i
  | .vFsub p i | .vFmul p i | .vFma p i | .vFmax p i | .vFmin p i | .vFun p i | .vFcmp p i | .vIalu p i | .vIcmp p i
  | .vSel p i | .vCvt p i | .vCvtf p i | .vSta p i | .vStc p i | .vStp p i | .vRed p i | .vFn p i => vecOk p i
  | .vEnd p ⟨i, _⟩ | .vLda p i _ => vecOk p i
  | .vLds p i es => vecOk p i && es.all Ecc.wf
  | .progLoadDone p h => crestOk p && decide (h < 8)
  | .progReload p _ => crestOk p
  | .sendFlag q t st => cmdOk q t && decide (st ≤ 8)
  | .channelTileRetry q t sid tile => cmdOk q t && decide (sid < 256 ∧ tile < 2 ^ 29)
  | .sendTmo q t | .recvTileAdd q ⟨t, _⟩ | .recvTmo q t => cmdOk q t
  | .waitPoll q t h | .waitTmo q t h => cmdOk q t && h.wf
  | .atomicWriteback a => decide (a % 4 = 0)
  | .qDoorbell q tail h => queueOk q && decide (tail < 2 ^ 32) && h.wf
  | .queueEnable q | .queueDisable q | .resume q => queueOk q
  | .qCqHead q v => queueOk q && decide (v < 2 ^ 32)
  | .registerWrite r v => r.wf && decide (v < 2 ^ 64)
  | .identify | .fwTransfer | .fwActivate | .logRead | .toHost | .toDevice => true
  | .biasPageDone ret => ret.it.all (fun c => decide (c.1 < 2 ^ 52)) && ret.poison.all (fun l => decide (l < 2 ^ 46))
  | .ptCreate _ x | .ptReshape _ x | .ptDestroy _ x | .ptReset _ x => decide (x < 8)
  | .quiesceDone | .quiesceTmo | .drainDone | .sliceZeroiseDone => true
  | .rpRetire _ kind unit => decide (kind < 16 ∧ unit < 256)
  | .fwSbOpen _ | .fwSbActivate _ | .resetCold _ | .resetWarm _ => true
  | .resetCrest _ l => decide (l < 16)
  | .resetLink _ x => decide (x < 4)
  | .hostLinkReset => true
  | .mgIndData _ _ _ | .mgIndDataInc _ _ _ | .dbgData _ _ | .dbgDataInc _ _ => true
  | .dbgHaltReq _ v => decide (v < 2 ^ 32)
  | .crestHalt p => crestOk p
  | .seDebugReq _ l => decide (l < 4)
  | .ptSel _ v => decide (v < 2 ^ 32)
  | .learnClear _ | .pwEnergyLoRead _ => true
  | .sbRead a c _ | .sbReadInc a c _ => reqOk a c
  | .sbWrite a d c _ => reqOk a c && decide (d < 2 ^ 32)
  | .syncArm c => decide (c < 256)
  | .syncDisarm ⟨a, c⟩ => decide (0 < a) && reqOk a c
  | .portIdle | .alignPulse _ | .syncTmo => true
  | .ialFrame sl => decide (sl < 2 ^ 16)
  | .supplyAlarmRelease | .capDropRelease | .alwaysOnReset | .refclkInvalid | .alwaysOnRelease => true
  | .strapDecode a b c d => decide (a < 256 ∧ b < 256 ∧ c < 256 ∧ d < 256)
  | .vinLow | .vinLowClear | .vinHigh => true
  | .storeBistDone rows => rows.all (fun e => decide (e.1 < 96 ∧ e.2 < 4096))
  | .crestBistGroupDone g failed => decide (g ≤ 4) && failed.all crestOk
  | .fwWait | .fwVerifyDone | .fwHandover | .fwRunReady | .watchdog | .seqRestart | .seqTimeout | .capLoop => true
  | .levelSwitch p | .quietSlot p => crestOk p
  | .estimatorWindow ws moved => ws.all WinMeas.wf && moved.all (fun m => cmdOk m.1.1 m.1.2)
  | .quietSlotEnd p _ => crestOk p
  | .calibStale => true
  | .sensorRead i v => decide (i < 64) && decide (-2048 ≤ v ∧ v ≤ 2047)
  | .thermalStep => true
  | .tripRecover _ => true
  | .droop p | .droopRelease p => crestOk p
  | .slackReport _ => true
  | .groupCapRedistribute => true
  | .regSample ms _ => ms.all RegMeas.wf
  | .phaseWindow r on cur => decide (r < 24 ∧ on.length ≤ 4 ∧ cur.length ≤ 4)
  | .senseFail r k => decide (r < 24 ∧ k < 16)
  | .diagCycle => true
  | .softstart r | .softstartLimitFail r | .retryWaitEnd r => decide (r < 24)
  | .softstartEnd r _ | .regStop r _ => decide (r < 24)
  | .crestWakeDone p _ => crestOk p
  | .sliceWakeDone n _ => decide (n < 96)
  | .spareBind => true
  | .rowSpare n => decide (n < 96)
  | .rowTestDone n _ => decide (n < 96)
  | .scrubRead n line _ w => decide (n < 96 ∧ line < 2 ^ 18 ∧ w < 8)
  | .colReplay c _ ⟨a, d, _⟩ => decide (c < 4 ∧ a < 2 ^ 57) && d.wf
  | .hostMemRead a _ w => decide (a % 64 = 0 ∧ a < 0x60000000 ∧ w < 8)
  | .hostMemWrite a bs _ => decide (a % 64 = 0) && decide (bs.length = 64)
  | .snpdata _ | .snpinv _ | .snpcur _ | .evictionGrant _ => true
  | .hostRetrain e => decide (e.m < 4)
  | .hostRetrainDone m _ reach _ => decide (m < 4 ∧ reach < 64)
  | .flitSend k | .noHello k | .relayForward k | .replayTimeout k | .peerRetrain k | .peerLinkLost k => decide (k < 3)
  | .dataStore k f | .dataChannel k f | .flag k f | .flagAck k f | .hello k f | .linkmap k f | .resyncReq k f
  | .resyncRsp k f | .chClosed k f | .slack k f | .groupCap k f | .credit k f | .idle k f | .badFlit k f
  | .unlistedMsg k f => flitOk k f
  | .peerRetrainDone k _ m _ => decide (k < 3 ∧ m < 4)
  | .powerGating u => u.wf
  | .rowCopyEnd e => decide (e.it < 96)
  | .sequencerAdoptsState => true

end Sys2Proof
end

