-- ==== Sys2Proof/Safety.lean ====
section
/-!
DEFINITION. What counts as a safe state and a safe run of the die, in the terms that claims use: the tables that hold its
memories stay in canonical form, and the levels and the queue of waiting commands stay legal.
-/
namespace Sys2Proof.Machine

/-- Every table of bytes, words and flags that stands for a memory of the die is in canonical form. -/
def State.memWf (s : State) : Prop :=
  twf 0#8 s.store ∧ twf 0#8 s.hostMem ∧ twf false s.poison ∧ twf false s.hostPoison

/-- Every command that waits is well formed. -/
def State.queueWf (s : State) : Prop := ∀ c ∈ s.pending, Sys2Proof.Instr.wf c = true

/-- One step does not stop the die. -/
def goesOn (s : State) : Prop := ∃ t, step s = .next t

/-- Every one of the next `n` steps goes on. -/
def runsOn : Nat → State → Prop
  | 0, _ => True
  | n + 1, s => ∃ t, step s = .next t ∧ runsOn n t

end Sys2Proof.Machine
end

