-- ==== Sys2Proof/Certificates/Slice0/Obligations.lean ====
section
/-!
DEFINITION. The statements about the model, for the provers. The words that they share stand in `Sys2Proof.Claim`.
-/
namespace Sys2Proof.Claim
open Sys2Proof.Machine

/-! Words about the vector engine. -/

/-- Crest `p` works, an invocation of command `c` runs on it below its STEP_LIMIT, and the word at its PC is the
instruction `i` with opcode `op` (R74, R75, R95). -/
structure Runs (s : State) (p op : Nat) (i : VInst) (c : Cmd) : Prop where
  works : (s.crest p).works = true
  code : vOp (tget 0#64 (s.crest p).prog (s.crest p).pc) = op
  fields : vDec (tget 0#64 (s.crest p).prog (s.crest p).pc) = i
  inv : ∃ v, (s.crest p).inv = some v ∧ s.cmd? v.q v.t = some c ∧
    (s.crest p).steps < (tget {} (s.crest p).handles v.handle).limit

/-- Lane `k` of V[r]. -/
def lane (x : Crest) (r k : Nat) : Word := tget 0#32 x.V (r * 128 + k)

/-- `s` with instruction `i` of opcode `op` issued: PC past it, one step counted, and busy for its `n` issue CCLK and for what
it waits for the results in its S registers (R74, R75). -/
def issued (s : State) (p op : Nat) (i : VInst) (c : Cmd) (n : Nat) : State :=
  s.issue p c.q c.t ((s.crest p).waitFor op i + n)

/-- `t` differs from `u` in nothing but crest `p`, and there in nothing but what `w` lets change. -/
def OnlyIn (u t : State) (p : Nat) (w : Crest → Crest) : Prop :=
  t = { u with crests := t.crests } ∧ (∀ k, k ≠ p → t.crest k = u.crest k) ∧ w (t.crest p) = w (u.crest p)

/-- V[vd] alone has changed since `u`, and holds `f k` in the active lanes of `m`. -/
def VOut (u t : State) (p vd m : Nat) (f : Nat → Word) : Prop :=
  OnlyIn u t p (fun x => { x with V := [] }) ∧
  (∀ k, k < 128 → lane (t.crest p) vd k = if (u.crest p).lanes m k then f k else lane (u.crest p) vd k) ∧
  (∀ r k, r ≠ vd → k < 128 → lane (t.crest p) r k = lane (u.crest p) r k)

/-- S[vd] alone has changed since `u`, and holds `v`. -/
def SOut (u t : State) (p vd : Nat) (v : Word) : Prop :=
  OnlyIn u t p (fun x => { x with S := [] }) ∧
  (t.crest p).sreg vd = v ∧ (∀ r, r ≠ vd → (t.crest p).sreg r = (u.crest p).sreg r)

/-- M[vd] alone has changed since `u`, and holds `f k` in the active lanes of `m` and 0 in the others; M0 stays all ones. -/
def MOut (u t : State) (p vd m : Nat) (f : Nat → Bool) : Prop :=
  OnlyIn u t p (fun x => { x with M := [] }) ∧
  (∀ k, k < 128 → ((t.crest p).mreg vd).getLsbD k =
    if vd = 0 then true else (u.crest p).lanes m k && f k) ∧
  (∀ r, r ≠ vd → (t.crest p).mreg r = (u.crest p).mreg r)

/-- The words of an address range lie open to an access: in slices that are ON, of device bias, unpoisoned and in service,
with no write of theirs waiting for its release, no atomic word held and no eviction of theirs under way. -/
structure Plain (s : State) (gs : List Nat) : Prop where
  store : ∀ g ∈ gs, g < hostBase ∧ (s.slice (g / 2 ^ 24)).pw = .on ∧ (s.slice (g / 2 ^ 24)).unavailable = false ∧
    (s.slice (g / 2 ^ 24)).sparing = none ∧ s.sliceRetired (g / 2 ^ 24) = false
  lines : ∀ g ∈ gs, s.hostBias (g / 64) = false ∧ s.linePoison (g / 64) = false ∧ (∀ e ∈ s.pend, e.line ≠ g / 64) ∧
    s.inAbuf g = false ∧ (∀ e ∈ s.evict, e.line ≠ g / 64)
  sound : s.flaws = [] ∧ s.bias.busy = false

/-- The row of each vector instruction by its opcode, no fault being met. -/
def vecRow (p : Nat) (i : VInst) : List (Nat × Instr) :=
  [ (0x00, .vNop p i), (0x01, .vEnd p ⟨i, false⟩), (0x02, .vBr p i), (0x03, .vLoop p i), (0x08, .vSalu p i), (0x09, .vVget p i)
  , (0x0A, .vBcast p i), (0x0B, .vLaneid p i), (0x10, .vFadd p i), (0x11, .vFsub p i), (0x12, .vFmul p i)
  , (0x13, .vFma p i), (0x14, .vFmax p i), (0x15, .vFmin p i), (0x16, .vFun p i), (0x17, .vFcmp p i)
  , (0x20, .vIalu p i), (0x21, .vIcmp p i), (0x22, .vSel p i), (0x28, .vCvt p i), (0x29, .vCvtf p i)
  , (0x30, .vLda p i false), (0x31, .vSta p i), (0x32, .vLds p i []), (0x33, .vStc p i), (0x34, .vStp p i)
  , (0x38, .vRed p i), (0x40, .vFn p i) ]

/-- What FUN leaves in an active lane (Table VEC-5). -/
def funOf (sub : Nat) (a : Word) : Word := match sub with | 0 => fabs a | 1 => fnegN a | _ => a

/-- What FCMP compares (Table VEC-5). -/
def fcmpOf (sub : Nat) (a b : Word) : Bool :=
  match sub with | 0 => feq a b | 1 => flt a b | 2 => fle a b | _ => funord a b

/-- What ICMP compares (Table VEC-5). -/
def icmpOf (sub : Nat) (a b : Word) : Bool :=
  match sub with | 0 => decide (a = b) | 1 => decide (a.toInt < b.toInt) | _ => decide (a.toInt ≤ b.toInt)

/-! Words about the dispatcher and the crest. -/

/-- The submission entry that a row takes: queue `q` is next, its entry has this opcode, and nothing holds its reading. -/
def Due (s : State) (q op : Nat) : Prop :=
  s.nextQueue = some q ∧ fld (s.nextEntry q) 0 1 = op ∧ s.fetchable q = true

/-- The tile in hand on crest `p`, and its command, after the crest has turned to its best candidate (R135, R136). -/
def InHand (s : State) (p : Nat) (w : Work) (c : Cmd) : Prop :=
  (∃ ws, ((s.turn p).crest p).work = w :: ws) ∧ (s.turn p).cmd? w.q w.t = some c

/-! Words about management. -/

/-- A management command of opcode `op` is heard on a path and may start: the path is live, and over the register port idle;
SE_POLICY and Table REG-5 let BAR0 give it; and no other command holds the management core (R209, R176, R291, R324). -/
def Heard (s : State) (path : Path) (op : Nat) : Prop :=
  s.pathReady path = true ∧ (path = .bar0 → s.mg.policy.testBit 0 = true ∧ opBar0 op = true) ∧ s.coreBusy = false

/-- The register port answers the frame whose effect `t` is there, with a status of Table SB-6 and a word, and the frame occupies
it until it is idle again (R291, R293, R294). -/
def answered (t : State) (status d : Nat) : State :=
  (t.modSb fun b => { b with frameBusy := true }).emit (.sb status (BitVec.ofNat 32 d) (crc8 (bitsOf status 2 ++ bitsOf d 32)))

/-- What a write over a path leaves once its effect `t` is there: the register port acknowledges the frame; a write through
BAR0 is posted. -/
def acked (path : Path) (t : State) : State := match path with | .port => answered t 0 0 | .bar0 => t

/-- What a read over a path leaves once its effect `t` is there: the word is delivered. -/
def delivered (path : Path) (t : State) (v : Nat) : State :=
  match path with | .port => answered t 0 v | .bar0 => t.emit (.bar0 (BitVec.ofNat 32 v))

/-- The answer of a path to a read that delivers `v`. -/
def answerOf (path : Path) (v : Nat) : Out :=
  match path with
  | .port => .sb 0 (BitVec.ofNat 32 v) (crc8 (bitsOf 0 2 ++ bitsOf v 32))
  | .bar0 => .bar0 (BitVec.ofNat 32 v)

/-- The die right after a COLD reset: reset values, but the fuses, host memory with its own poison, and the model's own fields
(Table BOOT-4). -/
def coldState (s : State) (cause : Nat) : State :=
  let dev := if cause = 0 then 0 else 1
  { State.reset with
    pending := s.pending, freeCtr := s.freeCtr, out := s.out, hostMem := s.hostMem
    hostPoison := tclear s.hostPoison (2 ^ 47) (2 ^ 48)
    mg := { State.reset.mg with lastReset := cause, rollback := s.mg.rollback, device := dev, released := false } }

/-- What a WARM reset has left (Table BOOT-4). -/
def WarmLeft (s t : State) (cause : Nat) : Prop :=
  t.store = [] ∧ t.poison = [] ∧ t.queues = [] ∧ t.parts = [] ∧ t.cmds = [] ∧ t.ends = [] ∧ t.journal = none ∧ t.cache = [] ∧
  t.mg.lastReset = cause ∧ t.mg.taint = s.mg.taint ∧ t.mg.rollback = s.mg.rollback ∧ t.fw.run = s.fw.run ∧
  t.sb.straps = s.sb.straps ∧ t.rep.retSlice = s.rep.retSlice ∧ t.pwr.energy = s.pwr.energy

/-- The mailbox commands by OPCODE: the row, and what LEN, and the numbers that LEN bounds, must be (R176, R312). -/
def mailboxRows (s : State) : List (Nat × Instr × Prop) :=
  [ (0x01, .identify, s.fw.len = 0)
  , (0x10, .fwTransfer, 4 ≤ s.fw.len ∧ s.fw.len ≤ 3840 ∧ s.mbArg 4 + (s.fw.len - 4) ≤ 2 ^ 22)
  , (0x11, .fwActivate, s.fw.len = 4 ∧ 0 < s.mbArg 4 ∧ s.mbArg 4 ≤ 2 ^ 22)
  , (0x20, .logRead, s.fw.len = 4) ]

/-- A flit that port `k` accepts in order for this die (R192, R195). -/
def Accepted (s : State) (k : Nat) (f : Flit) : Prop :=
  k < 3 ∧ (s.port k).st = 2 ∧ f.good = true ∧ f.seq = (s.port k).expect ∧ f.dst = s.position

/-- The state after an accepted flit has done `act`: a buffer entry of its class is freed again (R195). -/
def received (s : State) (k : Nat) (f : Flit) (act : State → State) : State :=
  (act (s.accept k f)).modPort k fun x => x.owe (f.cls false)

/-- No access of the host and no SIGNAL waits, so that nothing but commands' own accesses goes on when a hold is over. -/
def NoneHeld (s : State) : Prop :=
  s.bias.heldHost = [] ∧ (∀ c ∈ s.cmds, c.opcode = 7 → c.started = true → c.fin.isSome = true)

/-- R249, Table PWR-2: the caps keep their ranges and their order, SUST at most PK2 and PK2 at most PK1. -/
def CapsOrdered (s : State) : Prop :=
  0x780 ≤ s.pwr.capSust ∧ s.pwr.capSust ≤ s.pwr.capPk2 ∧ s.pwr.capPk2 ≤ s.pwr.capPk1 ∧ s.pwr.capPk1 ≤ 0x1CC0 ∧
    s.pwr.capPk2 ≤ 0x1A40 ∧ s.pwr.capSust ≤ 0x1900

end Sys2Proof.Claim

open Sys2Proof Sys2Proof.Machine Sys2Proof.Claim

/-! The queue of waiting commands. -/

/-- A step takes the command at the front of the queue and runs it with the queue's rest. The queue is the model's own
(DESIGN CHOICE, log entry on the queue). With no command waiting a step leaves the die as it is (DESIGN CHOICE, log
entry on the idle step). -/
def Obligations.StepRunsTheFrontCommandOrIdles : Prop :=
  (∀ (c : Instr) (cs : List Instr) (s : State), s.pending = c :: cs → step s = exec c { s with pending := cs }) ∧
  (∀ s : State, s.pending = [] → step s = .next s)

/-- No command's effect reaches the queue of waiting commands: whichever of the 189 rows runs, the queue is what it was. -/
def Obligations.ExecLeavesTheQueueAlone : Prop :=
  ∀ (c : Instr) (s t : State), exec c s = .next t → t.pending = s.pending

/-! The vector engine. -/

/-- R79 and Table VEC-5: FADD, FSUB, FMUL, FMA, FMAX, FMIN and FUN complete, write their result in the active lanes of
V[VD], and change nothing else but PC, the step count and the command's busy count. -/
def Obligations.VectorFloatLanes : Prop :=
  ∀ (s : State) (p : Nat) (i : VInst) (c : Cmd),
    let a := lane (s.crest p) i.va
    let b := lane (s.crest p) i.vb
    let d := lane (s.crest p) i.vc
    (Runs s p 0x10 i c → ∃ t, exec (.vFadd p i) s = .next t ∧
      VOut (issued s p 0x10 i c 1) t p i.vd i.mask fun k => fadd c.strict (rmOf i.rm) (a k) (b k)) ∧
    (Runs s p 0x11 i c → ∃ t, exec (.vFsub p i) s = .next t ∧
      VOut (issued s p 0x11 i c 1) t p i.vd i.mask fun k => fsub c.strict (rmOf i.rm) (a k) (b k)) ∧
    (Runs s p 0x12 i c → ∃ t, exec (.vFmul p i) s = .next t ∧
      VOut (issued s p 0x12 i c 1) t p i.vd i.mask fun k => fmul (rmOf i.rm) (a k) (b k)) ∧
    (Runs s p 0x13 i c → ∃ t, exec (.vFma p i) s = .next t ∧
      VOut (issued s p 0x13 i c 1) t p i.vd i.mask fun k => ffma c.strict (rmOf i.rm) (a k) (b k) (d k)) ∧
    (Runs s p 0x14 i c → ∃ t, exec (.vFmax p i) s = .next t ∧
      VOut (issued s p 0x14 i c 1) t p i.vd i.mask fun k => fmax (a k) (b k)) ∧
    (Runs s p 0x15 i c → ∃ t, exec (.vFmin p i) s = .next t ∧
      VOut (issued s p 0x15 i c 1) t p i.vd i.mask fun k => fmin (a k) (b k)) ∧
    (Runs s p 0x16 i c → ∃ t, exec (.vFun p i) s = .next t ∧
      VOut (issued s p 0x16 i c 1) t p i.vd i.mask fun k => funOf i.sub (a k))

/-- Table VEC-5: IALU, BCAST, LANEID, SEL, CVTF and FN complete in the same way; SEL writes every lane, taking its mask
as the choice (R78), and FN takes 4 issue CCLK. -/
def Obligations.VectorIntegerAndMoveLanes : Prop :=
  ∀ (s : State) (p : Nat) (i : VInst) (c : Cmd),
    let a := lane (s.crest p) i.va
    let b := lane (s.crest p) i.vb
    (Runs s p 0x20 i c → ∃ t, exec (.vIalu p i) s = .next t ∧
      VOut (issued s p 0x20 i c 1) t p i.vd i.mask fun k => intOp i.sub (a k) (b k)) ∧
    (Runs s p 0x0A i c → ∃ t, exec (.vBcast p i) s = .next t ∧
      VOut (issued s p 0x0A i c 1) t p i.vd i.mask fun _ => (s.crest p).sreg i.va) ∧
    (Runs s p 0x0B i c → ∃ t, exec (.vLaneid p i) s = .next t ∧
      VOut (issued s p 0x0B i c 1) t p i.vd i.mask fun k => BitVec.ofNat 32 k) ∧
    (Runs s p 0x22 i c → ∃ t, exec (.vSel p i) s = .next t ∧
      VOut (issued s p 0x22 i c 1) t p i.vd 0 fun k => if (s.crest p).lanes i.mask k then a k else b k) ∧
    (Runs s p 0x29 i c → ∃ t, exec (.vCvtf p i) s = .next t ∧
      VOut (issued s p 0x29 i c 1) t p i.vd i.mask fun k => cvtf (rmOf i.rm) (a k)) ∧
    (Runs s p 0x40 i c → ∃ t, exec (.vFn p i) s = .next t ∧
      VOut (issued s p 0x40 i c 4) t p i.vd i.mask fun k => fnEval i.sub (a k))

/-- Table VEC-5, Table VEC-1: FCMP and ICMP complete and write M[VD mod 8], 0 in the inactive lanes; M0 stays all ones.
Table VEC-5, R80: SALU, VGET and RED complete and write S[VD] alone; RED folds the active lanes by its tree, an inactive
lane standing as the operation's identity, and an instruction that needs its result waits 7 CCLK more at most (R74,
Table VEC-5). -/
def Obligations.VectorMasksAndScalars : Prop :=
  (∀ (s : State) (p : Nat) (i : VInst) (c : Cmd),
    let a := lane (s.crest p) i.va
    let b := lane (s.crest p) i.vb
    (Runs s p 0x17 i c → ∃ t, exec (.vFcmp p i) s = .next t ∧
      MOut (issued s p 0x17 i c 1) t p (i.vd % 8) i.mask fun k => fcmpOf i.sub (a k) (b k)) ∧
    (Runs s p 0x21 i c → ∃ t, exec (.vIcmp p i) s = .next t ∧
      MOut (issued s p 0x21 i c 1) t p (i.vd % 8) i.mask fun k => icmpOf i.sub (a k) (b k))) ∧
  (∀ (s : State) (p : Nat) (i : VInst) (c : Cmd),
    (Runs s p 0x08 i c → ∃ t, exec (.vSalu p i) s = .next t ∧ SOut (issued s p 0x08 i c 1) t p i.vd (saluOp i (s.crest p))) ∧
    (Runs s p 0x09 i c → ∃ t, exec (.vVget p i) s = .next t ∧
      SOut (issued s p 0x09 i c 1) t p i.vd (lane (s.crest p) i.va (i.imm % 128))) ∧
    (Runs s p 0x38 i c →
      let u := (issued s p 0x38 i c 1).modCrest p fun x => { x with redWait := tset 0 x.redWait i.vd 7 }
      ∃ t, exec (.vRed p i) s = .next t ∧
      SOut u t p i.vd (redTree (redOf c.strict i.sub i.rm).1 7 ((List.range 128).map fun k =>
        if (s.crest p).lanes i.mask k then lane (s.crest p) i.va k else (redOf c.strict i.sub i.rm).2))))

/-- Table VEC-5: NOP and a BR that is not taken go on behind themselves; a BR that is taken goes to IMM of its image for
one more CCLK; LOOP counts S[VD] down and branches while it is not 0. -/
def Obligations.VectorBranches : Prop :=
  ∀ (s : State) (p : Nat) (i : VInst) (c : Cmd),
    let x := s.crest p
    (Runs s p 0x00 i c → exec (.vNop p i) s = .next (issued s p 0x00 i c 1)) ∧
    (Runs s p 0x02 i c → brTaken i x = false → exec (.vBr p i) s = .next (issued s p 0x02 i c 1)) ∧
    (Runs s p 0x02 i c → brTaken i x = true →
      let u := issued s p 0x02 i c 1
      ∃ t, exec (.vBr p i) s = .next t ∧ OnlyIn (u.busyOn p c.q c.t 1) t p (fun y => { y with pc := 0, redWait := [] }) ∧
        (t.crest p).pc = (x.base + i.imm % 1024) % 1024) ∧
    (Runs s p 0x03 i c → ∃ t, exec (.vLoop p i) s = .next t ∧
      (t.crest p).sreg i.vd = x.sreg i.vd - 1#32 ∧
      (∀ r, r ≠ i.vd → (t.crest p).sreg r = x.sreg r) ∧
      (t.crest p).pc = (if x.sreg i.vd = 1#32 then x.pc + 1 else x.base + i.imm % 1024) % 1024 ∧
      (let u := issued s p 0x03 i c 1
       OnlyIn (if x.sreg i.vd = 1#32 then u else u.busyOn p c.q c.t 1) t p
         (fun y => { y with S := [], pc := 0, redWait := [] })))

/-- R81: LDA writes the active lanes of V[VD] from row S[VA] + IMM of a slot, STA writes the row's active lanes from
V[VB]; a row outside 0 to 127 ends the command ABORT_FAULT, VEC_ROW. R61: a row that LDA reads with bad parity ends the command. -/
def Obligations.AccumulatorRowsMove : Prop :=
  ∀ (s : State) (p : Nat) (i : VInst) (c : Cmd),
    let x := s.crest p
    let row := (vRow i x).toNat
    (Runs s p 0x30 i c → vRowOk i x = true → ∃ t, exec (.vLda p i false) s = .next t ∧
      VOut (issued s p 0x30 i c 1) t p i.vd i.mask fun k => tget 0#32 x.acc (accKey (i.sub % 8) row k)) ∧
    (Runs s p 0x31 i c → vRowOk i x = true → ∃ t, exec (.vSta p i) s = .next t ∧
      OnlyIn (issued s p 0x31 i c 1) t p (fun y => { y with acc := [], sta := [] }) ∧
      (∀ k, k < 128 → tget 0#32 (t.crest p).acc (accKey (i.sub % 8) row k) =
        if x.lanes i.mask k then lane x i.vb k else tget 0#32 x.acc (accKey (i.sub % 8) row k)) ∧
      (∀ k, (∀ j, j < 128 → k ≠ accKey (i.sub % 8) row j) → tget 0#32 (t.crest p).acc k = tget 0#32 x.acc k)) ∧
    (Runs s p 0x30 i c → vRowOk i x = true →
      exec (.vLda p i true) s = .next ((issued s p 0x30 i c 1).parityFails p c)) ∧
    (∀ bad, Runs s p 0x30 i c → vRowOk i x = false →
      exec (.vLda p i bad) s = .next ((issued s p 0x30 i c 1).abort c.q c.t sFault 0x42)) ∧
    (Runs s p 0x31 i c → vRowOk i x = false →
      exec (.vSta p i) s = .next ((issued s p 0x31 i c 1).abort c.q c.t sFault 0x42))

/-- R82, R77: LDS reads 128 elements of owned store, bits 5:0 of its address taken as 0, and widens them into the active
lanes. R82, R83: STC checks both its ranges first, then writes the converted lanes and their scales and counts what clamped
and vanished. R50: STP writes the BF16 pairs of the active lanes. A range outside the slices that the partition owns, or owned
until they were retired under the command (R274), ends the command VEC_STORE with nothing accessed, and an access that R170,
R181, R184 or R272 holds waits. -/
def Obligations.VectorStoreAccesses : Prop :=
  (∀ (s : State) (p : Nat) (i : VInst) (c : Cmd), Runs s p 0x32 i c →
    let u := issued s p 0x32 i c 1
    let a := sAddr ((s.crest p).sreg i.va) (simmOf i) / 64 * 64
    let w := elemBits i.sub / 8
    let gs := s.gaddrs c.part a (128 * w)
    (s.mayReach c a (128 * w) = true → Plain s gs → ∃ t, exec (.vLds p i []) s = .next t ∧
      VOut u.bump t p i.vd i.mask fun k => ldsWord i.sub (fld (gs.map (tget 0#8 s.store)) (w * k) w)) ∧
    (∀ es, s.mayReach c a (128 * w) = true → s.heldBy false gs = none →
      let v := u.crestReads c.q c.t gs es
      (v.accessFault gs = none → exec (.vLds p i es) s = .next (v.modCrest p fun x => x.setV i.vd (x.lanes i.mask)
        ((List.range 128).map fun k => ldsWord i.sub (fld (v.readAt (.crest c.q c.t p) c.part a (128 * w)) (w * k) w)))) ∧
      (∀ r, v.accessFault gs = some r → exec (.vLds p i es) s = .next (v.abort c.q c.t r.1 r.2))) ∧
    (∀ es h, s.mayReach c a (128 * w) = true → s.heldBy false gs = some h →
      exec (.vLds p i es) s = .next (s.stall c.q c.t h)) ∧
    (∀ es, s.mayReach c a (128 * w) = false → w ≠ 0 →
      exec (.vLds p i es) s = .next (u.abort c.q c.t sFault 0x43))) ∧
  (∀ (s : State) (p : Nat) (i : VInst) (c : Cmd), Runs s p 0x33 i c →
    let x := s.crest p
    let n := rowArray i.sub
    let k := rowScales i.sub
    let a := sAddr (x.sreg i.vb) (simmOf i) / 64 * 64
    let al := if i.sub = 0x0B then 8 else 4
    let sa := (x.sreg i.vc).toNat / al * al
    let u := issued s p 0x33 i c (ceilDiv n 128 + ceilDiv k 128)
    let v := u.modCrest p fun x => x.vGen i.rm
    let r := v.storeRow (.crest c.q c.t p) c i.sub (decide (i.vd % 2 = 1)) (c.vRounding (u.crest p) i.rm)
      (x.lanes i.mask) a sa (x.vreg i.va)
    let gs := s.gaddrs c.part a n ++ s.gaddrs c.part sa k
    let inside := s.mayReach c a n = true ∧ (k ≠ 0 → s.mayReach c sa k = true)
    n ≠ 0 →
    (inside → Plain s gs →
      exec (.vStc p i) s = .next ((v.bump.write (.crest c.q c.t p) r.bytes).modCmd c.q c.t fun k => k.count r.sat r.van)) ∧
    (inside → ∀ h, s.heldBy true gs = some h → exec (.vStc p i) s = .next (s.stall c.q c.t h)) ∧
    (¬inside → exec (.vStc p i) s = .next (u.abort c.q c.t sFault 0x43))) ∧
  (∀ (s : State) (p : Nat) (i : VInst) (c : Cmd), Runs s p 0x34 i c →
    let x := s.crest p
    let a := sAddr (x.sreg i.vb) (simmOf i) / 64 * 64
    let b := (x.sreg i.vc).toNat / 64 * 64
    let u := issued s p 0x34 i c 2
    let rs := (x.vreg i.va).map fun v => bf16Pair (rmOf i.rm) c.satMode (fp32 v)
    let act := ((List.range 128).filter (x.lanes i.mask)).map fun k => rs.getD k (0, 0, false, false)
    let bs := u.laneBytes (.crest c.q c.t p) c.part a 0x10 (x.lanes i.mask) (rs.map (·.1))
      ++ u.laneBytes (.crest c.q c.t p) c.part b 0x10 (x.lanes i.mask) (rs.map (·.2.1))
    let gs := s.gaddrs c.part a 256 ++ s.gaddrs c.part b 256
    let inside := s.mayReach c a 256 = true ∧ s.mayReach c b 256 = true
    (inside → Plain s gs → exec (.vStp p i) s = .next ((u.write (.crest c.q c.t p) bs).modCmd c.q c.t fun k =>
      k.count (act.filter (·.2.2.1)).length (act.filter (·.2.2.2)).length)) ∧
    (inside → ∀ h, s.heldBy true gs = some h → exec (.vStp p i) s = .next (s.stall c.q c.t h)) ∧
    (¬inside → exec (.vStp p i) s = .next (u.abort c.q c.t sFault 0x43)))

/-- R83, R85: CVT converts the active lanes, holds them as FP32 or INT32, and counts the active lanes that clamped and
vanished; with SR the generators take a step; nothing else changes. -/
def Obligations.VectorConvertCounts : Prop :=
  ∀ (s : State) (p : Nat) (i : VInst) (c : Cmd), Runs s p 0x28 i c →
    let u := issued s p 0x28 i c 1
    let x := u.crest p
    let cs := (List.range 128).map fun k =>
      convScalar i.sub ((c.vRounding x i.rm).getD k .rne) c.satMode (fp32 (lane x i.va k))
    let act := ((List.range 128).filter (x.lanes i.mask)).map fun k => cs.getD k ⟨0, false, false⟩
    ∃ t, exec (.vCvt p i) s = .next t ∧
      VOut ((u.modCrest p fun x => x.vGen i.rm).modCmd c.q c.t fun k => k.count (satCountOf act) (vanCountOf act)) t p
        i.vd i.mask fun k => heldWord i.sub (cs.getD k ⟨0, false, false⟩).bits

/-- R75, R108: END ends the invocation: the crest has none, its tile is due no more, and the crest goes on to what follows it, the second product of a CHAIN, the
tile's SEND stages, or its end. R61: a parity mismatch of the rows that a CHAIN then reads ends its command. -/
def Obligations.VectorEndEndsTheInvocation : Prop :=
  ∀ (s : State) (p : Nat) (i : VInst) (c : Cmd), Runs s p 0x01 i c →
    let v := issued s p 0x01 i c 1
    let u := v.modCrest p fun x => { x with
      inv := none, ready := match x.inv with | some i => x.ready.erase (i.q, i.t, i.tile) | none => x.ready }
    (∀ w ws, (v.crest p).work = w :: ws → w.phase = 1 →
      exec (.vEnd p ⟨i, false⟩) s = .next (u.chainSecond p c w) ∧ exec (.vEnd p ⟨i, true⟩) s = .next (v.parityFails p c)) ∧
    (∀ w ws bad, (v.crest p).work = w :: ws → w.phase ≠ 1 → c.fu.stages = [] →
      exec (.vEnd p ⟨i, bad⟩) s = .next (u.tileDone p)) ∧
    (∀ w ws bad, (v.crest p).work = w :: ws → w.phase ≠ 1 → c.fu.stages ≠ [] →
      exec (.vEnd p ⟨i, bad⟩) s = .next (u.modCrest p fun x => x.modWork fun w => { w with phase := 3 }))

/-- R95: an invocation that would execute more than STEP_LIMIT instructions ends its command ABORT_FAULT, VEC_LIMIT,
whichever instruction comes next; no error is counted, and the crest turns to its next command. -/
def Obligations.VectorStepLimitEndsTheCommand : Prop :=
  ∀ (s : State) (p : Nat) (i : VInst) (c : Cmd) (v : Inv) (op : Nat) (row : Instr),
    (op, row) ∈ vecRow p i → (s.crest p).works = true → (s.crest p).inv = some v → s.cmd? v.q v.t = some c →
    vOp (tget 0#64 (s.crest p).prog (s.crest p).pc) = op → vDec (tget 0#64 (s.crest p).prog (s.crest p).pc) = i →
    (tget {} (s.crest p).handles v.handle).limit ≤ (s.crest p).steps →
    exec row s = .next ((s.holders v.q v.t).foldl State.kick (s.endCmd v.q v.t sFault 0x44)) ∧
    (∀ t, exec row s = .next t → t.rep.errs = s.rep.errs ∧
      (c.fin = none → ∀ d, t.cmd? v.q v.t = some d → d.fin = some (sFault, 0x44)))

/-! Queue pages. -/

/-- R123, R124: a doorbell value within the ring moves Q_TAIL to it; one that the ring has no room for moves nothing and
sets the overflow bit; a queue that is DISABLED or STOPPING ignores it and sets DB_DISABLED. -/
def Obligations.DoorbellMovesTheTailOrOverflows : Prop :=
  ∀ (s : State) (q tail : Nat) (h : HostUpd),
    let u := s.hostWrites h
    let k := u.queue q
    u.serving = true → q < 64 → (u.queueOwner q).isSome = true →
    ((k.st = .run ∨ k.st = .halted) → sub32 (tail % m32) k.tail ≤ 2 ^ k.sqLog - sub32 k.tail k.head →
      exec (.qDoorbell q tail h) s = .next (u.modQueue q fun k => { k with tail := tail % m32 })) ∧
    ((k.st = .run ∨ k.st = .halted) → 2 ^ k.sqLog - sub32 k.tail k.head < sub32 (tail % m32) k.tail →
      ∃ t, exec (.qDoorbell q tail h) s = .next t ∧ (t.queue q).tail = k.tail ∧ (t.queue q).head = k.head ∧
        (t.queue q).ovfBit = true ∧ (t.queue q).st = k.st ∧ (∀ r, r ≠ q → t.queue r = u.queue r) ∧
        t.crests = u.crests ∧ t.cmds = u.cmds ∧ t.parts = u.parts) ∧
    ((k.st = .disabled ∨ k.st = .stopping) →
      exec (.qDoorbell q tail h) s = .next (u.modQueue q fun k => { k with dbDisabled := true }))

/-- R120, R145, R133, R139: ENABLE sets a DISABLED queue to RUN with every index 0, or refuses it with CFG_BAD or
CFG_LOCKED; ENABLE = 0 makes it DISABLED, or STOPPING
while a command of its is in flight; RESUME returns a HALTED queue to RUN with every index kept; Q_CQ_HEAD is
taken where it moves forward and not past Q_CQ_TAIL. -/
def Obligations.QueueControlMovesItsState : Prop :=
  ∀ (s : State) (q p : Nat), s.serving = true → s.queueOwner q = some p →
    ((s.queue q).st = .disabled → s.canEnable q = true →
      ((s.queue q).ovf = none → ∃ t, exec (.queueEnable q) s = .next t ∧
        t.queue q = { s.queue q with st := .run, tail := 0, head := 0, cqHead := 0, cqTail := 0, unsig := 0
                                     hold := none, slicesAtRun := (s.part p).slices, energy := 0 } ∧
        (∀ r, r ≠ q → t.queue r = s.queue r) ∧ t.crests = s.crests ∧ t.store = s.store ∧ t.cmds = s.cmds) ∧
      ∃ t, exec (.queueEnable q) s = .next t ∧ (t.queue q).st = .run ∧ (t.queue q).tail = 0 ∧ (t.queue q).head = 0 ∧
        (t.queue q).cqHead = 0 ∧ (∀ r, r ≠ q → t.queue r = s.queue r) ∧ t.crests = s.crests ∧ t.cmds = s.cmds) ∧
    ((s.queue q).st = .disabled → s.canEnable q = false →
      exec (.queueEnable q) s = .next (s.modQueue q fun k => { k with cfgBad := true })) ∧
    ((s.queue q).st ≠ .disabled →
      exec (.queueEnable q) s = .next (s.modQueue q fun k => { k with cfgLocked := true })) ∧
    (((s.queue q).st = .run ∨ (s.queue q).st = .halted) →
      ∃ t, exec (.queueDisable q) s = .next t ∧
        t.queue q = { s.queue q with
          st := if s.cmds.any (fun c => c.q = q) then .stopping else .disabled, hold := none } ∧
        (∀ r, r ≠ q → t.queue r = s.queue r) ∧ t.crests = s.crests ∧ t.store = s.store ∧ t.cmds = s.cmds) ∧
    ((s.queue q).st = .halted →
      exec (.resume q) s = .next (s.modQueue q fun k =>
        { k with st := .run, hold := none, slicesAtRun := (s.part p).slices })) ∧
    (∀ v, v < m32 → exec (.qCqHead q v) s = .next (if sub32 v (s.queue q).cqHead ≤ sub32 (s.queue q).cqTail (s.queue q).cqHead
      then s.modQueue q fun k => { k with cqHead := v } else s))

/-- R119: the words of a queue page that Table CMD-1 does not list, and every word of a page whose queue no partition owns,
read 0 and ignore writes. -/
def Obligations.UnlistedQueueWordsReadZero : Prop :=
  ∀ (s : State) (q off v : Nat),
    ((s.queueOwner q = none ∨ off ∉ [0x000, 0x008, 0x010, 0x014, 0x018, 0x01C, 0x020, 0x024, 0x028, 0x02C, 0x030, 0x034, 0x038]) →
      s.readQueue q off = 0 ∧ exec (.registerWrite (.queue q off) v) s = .next s)

/-- R8, R9, Table CMD-1, Table HOST-6, R144: writes of one register of each place: Q_IRQ, HB_COUNT, a word of the MSI-X table,
RP_THRESH; and the mailbox's OPCODE and LEN, which take every value: that R10 refuses none of them, so that R176's checks can
meet them at GO, is the model's reading (DEDUCED, log 115). R249, Table PWR-2: a cap write is taken where it keeps
the range and the order of the caps; any other is refused with BAD_ENCODING and changes no cap. -/
def Obligations.RegisterWritesTakeTheirFields : Prop :=
  (∀ (s : State) (v : Nat),
    (∀ q, s.serving = true → q < 64 → (s.queueOwner q).isSome = true → (s.queue q).st = .disabled →
      exec (.registerWrite (.queue q 0x014) v) s = .next (s.modQueue q fun k => { k with irq := v % m32 })) ∧
    (∀ q, s.serving = true → q < 64 → (s.queueOwner q).isSome = true → (s.queue q).st ≠ .disabled →
      exec (.registerWrite (.queue q 0x014) v) s = .next (s.modQueue q fun k => { k with cfgLocked := true })) ∧
    (s.mailboxLive = true → s.fw.go = false →
      exec (.registerWrite (.mailbox 4) v) s = .next (s.modFw fun f => { f with opcode := bits v 15 0, len := bits v 27 16 })) ∧
    (s.serving = true → v % 2 ^ 17 ≠ 0 → v % 2 ^ 17 ≤ 65536 →
      exec (.registerWrite (.bias 8) v) s = .next { s with bias := { s.bias with count := v % 2 ^ 17 } }) ∧
    (∀ vec w, s.mailboxLive = true → vec < 128 → w < 3 →
      exec (.registerWrite (.msix vec w) v) s = .next { s with msixMask := tset 0 s.msixMask (4 * vec + w) (v % 2 ^ 32) }) ∧
    (s.pathReady .port = true → v % 16 ≠ 0 → bits v 15 8 ≠ 0 →
      exec (.registerWrite (.mgmt .port 0x39) v) s = .next (acked .port (s.modMg fun m => { m with
        threshCount := v % 16, threshWindow := bits v 15 8 }).liveChange))) ∧
  (∀ (s : State) (path : Path) (a v : Nat), s.pathReady path = true → s.allows path 2 = true → 0x10 ≤ a → a ≤ 0x12 →
    (s.capOk a (v % 65536) = true →
      exec (.registerWrite (.mgmt path a) v) s = .next (acked path (s.modPwr fun w =>
        if a = 0x10 then { w with capSust := v % 65536 } else if a = 0x11 then { w with capPk1 := v % 65536 }
        else { w with capPk2 := v % 65536 }))) ∧
    (s.capOk a (v % 65536) = false →
      exec (.registerWrite (.mgmt path a) v) s = .next (acked path (s.modMg fun m => { m with badEnc := true }))))

/-! The dispatcher and the queue commands. -/

/-- Table CMD-5, R125, R130, R134: each queue command's row takes its queue's entry when it is due, and its crests carry it on
until it has ended or none of them gets on. How far one row carries a command is the model's choice (log entry on rows). -/
def Obligations.QueueCommandsRunFromTheirQueue : Prop :=
  ∀ (s : State) (q : Nat) (h : HostUpd),
    let u := s.hostWrites h
    let after (op : Nat) : State := State.drive q op driveFuel ((u.fetch q 0).retrySignals.driveLoads q)
    (Due u q 1 → exec (.gemm q h) s = .next (after 1)) ∧
    (Due u q 2 → exec (.chain q h) s = .next (after 2)) ∧
    (Due u q 3 → exec (.move q h) s = .next (after 3)) ∧
    (Due u q 4 → exec (.convert q h) s = .next (after 4)) ∧
    (Due u q 5 → exec (.send q h) s = .next (after 5)) ∧
    (Due u q 6 → exec (.fence q h) s = .next (after 6)) ∧
    (Due u q 7 → exec (.signal q h) s = .next (after 7)) ∧
    (Due u q 8 → exec (.wait q h) s = .next (after 8)) ∧
    (Due u q 10 → exec (.marker q h) s = .next (after 10)) ∧
    (Due u q 11 → exec (.reduceRecv q h) s = .next (after 11))

/-- R92, R125, R134: an entry of LOADPROG is LOADPROG_UNLOAD where its UNLOAD flag is set, and each row takes its own kind
alone; ENTRY_FETCH takes the entry of the queue whose turn it is, and no other queue's. -/
def Obligations.RowsTakeTheirOwnEntry : Prop :=
  ∀ (s : State) (q waited : Nat) (h : HostUpd),
    let v := s.hostWrites h
    (Due v q 9 → v.nextUnloads q = false →
      exec (.loadprog q h) s = .next (State.drive q 9 driveFuel ((v.fetch q 0).retrySignals.driveLoads q))) ∧
    (Due v q 9 → v.nextUnloads q = true →
      exec (.loadprogUnload q h) s = .next (State.drive q 9 driveFuel ((v.fetch q 0).retrySignals.driveLoads q))) ∧
    (v.nextQueue = some q → v.nextUnloads q = true → exec (.loadprog q h) s = .next v) ∧
    (v.nextUnloads q = false → exec (.loadprogUnload q h) s = .next v) ∧
    (v.nextQueue = some q → v.fetchable q = true → exec (.entryFetch q h waited) s = .next (v.fetch q waited)) ∧
    (v.nextQueue ≠ some q ∨ v.fetchable q = false → exec (.entryFetch q h waited) s = .next v)

/-- R139, R154, R133: a completion record is written for the queue's first ended command: its unfinished streams end, its
writes are performed at its scope, its record takes the place at Q_CQ_TAIL, its energy is the queue's; then the command
leaves its queue and what waited for the record goes on. -/
def Obligations.CompletionRecordEndsTheCommand : Prop :=
  ∀ (s : State) (q t waited st sub : Nat) (c : Cmd), s.cmd? q t = some c → c.fin = some (st, sub) →
    s.ringReachable q = true → s.heldBy true (s.recordLine q) = none → s.ends.find? (fun e => e.1 = q) = some (q, t) →
    let c := if isRefusal st then c else c.charge wStore waited
    let u := (s.abortStreams c).release q t c.scope
    let k := u.queue q
    let v := u.putRecord q (c.recordWords st sub k.cqTail k.cqLog (decide (u.mg.taint ≠ 0))) st t c.irqFlag
    let w := if isRefusal st then v
      else v.modQueue q fun k => { k with energy := (k.energy + min 0xFFFFFFFF c.energy) % 2 ^ 64 }
    let x := w.addTrace 5 (c.crests.headD 0) q c.part st t
    exec (.completionRecord q t waited) s = .next
      ((((x.leaveQueue ((x.cmd? q t).getD c) st).putOverflow q).startWaiting q).adoptAll)

/-- R123, R138, R144: a pending overflow record is written at Q_CQ_TAIL of its ring once a record is free, Q_CQ_TAIL advances
by one and no other byte of the store changes; the timer of a queue with records not yet signalled sends its message, or
keeps it pending while its vector is masked. R139: Q_CQ_TAIL advances by one with each record. -/
def Obligations.RecordsAndInterruptTimers : Prop :=
  (∀ (s : State) (q status tag : Nat) (ws : List Nat) (irq : Bool),
    ((s.putRecord q ws status tag irq).queue q).cqTail = ((s.queue q).cqTail + 1) % m32 ∧
    ((s.putRecord q ws status tag irq).queue q).head = (s.queue q).head ∧
    (∀ r, r ≠ q → (s.putRecord q ws status tag irq).queue r = s.queue r)) ∧
  (∀ (s : State) (q p : Nat) (o : Ovf),
    let k := s.queue q
    let a := k.cqBase + k.cqTail % 2 ^ k.cqLog * 32
    let gs := s.gaddrs p a 32
    let ws := overflowWords q o k.cqTail k.cqLog (decide (s.mg.taint ≠ 0))
    s.queueOwner q = some p → isHostAddr k.cqBase = false → isHostAddr a = false → k.ovf = some o → 1 ≤ s.freeRecords q →
    a % 32 = 0 → (s.part p).interleave = false → s.ownsStore p a 32 = true → Plain s gs →
    ∃ t, exec (.overflowRecordPost q) s = .next t ∧ (t.queue q).ovf = none ∧ (t.queue q).cqTail = (k.cqTail + 1) % m32 ∧
      (∀ i, i < 32 → tget 0#8 t.store (gs.getD i 0) = (wordBytes ws).getD i 0#8) ∧
      (∀ g, g ∉ gs → tget 0#8 t.store g = tget 0#8 s.store g) ∧ (∀ r, r ≠ q → t.queue r = s.queue r) ∧
      t.crests = s.crests ∧ t.cmds = s.cmds ∧ t.hostMem = s.hostMem) ∧
  (∀ (s : State) (q : Nat), (s.queue q).irqEn = true → (s.queue q).unsig ≠ 0 → (s.queue q).irqTimer ≠ 0 →
    let v := (s.queue q).irqVec
    let u := s.modQueue q fun k => { k with unsig := 0 }
    ((s.msixWord v 3).testBit 0 = false → exec (.irqTimer q) s = .next (u.emit (.msix v))) ∧
    ((s.msixWord v 3).testBit 0 = true →
      exec (.irqTimer q) s = .next { u with msixPend := tset false u.msixPend v true }))

/-! The crest. -/

/-- R51, R53, R61, R69: a row streams through the array once its weight block is in a bank: its passes are added; a parity
mismatch of its accumulator rows ends the command PARITY; a residue that matches on the first or second replay counts an error,
costs 11 CCLK a replay, marks the command OK_RETRIED and lets the row through, unless the crest has now met its threshold; three
mismatched residues end it RESIDUE and retire the crest with cause 2. R53: the feeder fills the inactive bank with the next
block, unpoisoned, from operand memory, the banks swapping first where the inactive one holds the block at hand. A read that R170,
R181, R184 or R272 holds waits. -/
def Obligations.RowsAndBanksOfTheArray : Prop :=
  (∀ (s : State) (p : Nat) (w : Work) (c : Cmd) (es : List Ecc) (ev : PassEvent) (x : Crest),
    let u := (s.turn p).modCrest p fun _ => x
    let gs := u.actAddrs p c w
    let v := u.crestReads c.q c.t gs es
    InHand s p w c → (s.turn p).streams p w = true → ((s.turn p).crest p).withBank w (c.blockOf w) = some x →
    (∀ h, u.heldBy false gs = some h → exec (.rowPass p ev es) s = .next (u.stall c.q c.t h)) ∧
    (∀ r, u.heldBy false gs = none → v.actRow p c w = .error r →
      exec (.rowPass p ev es) s = .next (v.abort c.q c.t r.1 r.2)) ∧
    (∀ f, u.heldBy false gs = none → v.actRow p c w = .ok f →
      let y := v.processed p c w f
      let as := partOf (c.partsA w.phase) ((c.passes w.phase).getD w.pass (0, 0)).1 (padBlock f.elems)
      let b := (y.crest p).activeBank.data
      let z := y.modCrest p fun x => { x with rowBuf := as }
      exec (.rowPass p .clean es) s = .next (z.rowAdded p c w (c.rowPasses w b as (y.crest p).acc)) ∧
      exec (.rowPass p .parity es) s = .next (z.parityFails p c) ∧
      (c.checked w.phase b as = true →
        exec (.rowPass p (.residue 3) es) s =
          .next (((z.residueSeen p c 3).busyOn p c.q c.t 22).rowFails p c 0x40 (some 2))) ∧
      (∀ n, (n = 1 ∨ n = 2) → c.checked w.phase b as = true →
        let r := (z.residueSeen p c n).busyOn p c.q c.t (11 * n)
        (r.atThresh kCrest p = false → exec (.rowPass p (.residue n) es) s =
          .next ((r.modCmd c.q c.t fun k => { k with retried := true }).rowAdded p c w (c.rowPasses w b as (y.crest p).acc))) ∧
        (r.atThresh kCrest p = true → exec (.rowPass p (.residue n) es) s = .next (r.rowFails p c 0x40 (some 1)))) ∧
      (c.checked w.phase b as = false → ∀ n, exec (.rowPass p (.residue n) es) s = exec (.rowPass p .clean es) s))) ∧
  (∀ (s : State) (p waited : Nat) (w v : Work) (c : Cmd) (es : List Ecc),
    let u := match ((s.turn p).crest p).withBank w (c.blockOf w) with
      | some x => (s.turn p).modCrest p fun _ => x
      | none => s.turn p
    let gs := u.blockAddrs c v
    let r := (u.crestReads w.q w.t gs es).modCmd w.q w.t fun c => c.charge wStore waited
    InHand s p w c → (s.turn p).streams p w = true → (u.crest p).fillTarget c w = some v →
    let b : Bank := { q := w.q, t := w.t, tile := w.tile, kb := (c.blockOf v).1, part := (c.blockOf v).2, full := true
                      data := r.blockData (.crest w.q w.t p) c v }
    (u.heldBy false gs = none → r.accessFault gs = none → ∃ t, exec (.weightBankFill p waited es) s = .next t ∧
      (if (r.crest p).active = 0 then (t.crest p).w1 = b ∧ (t.crest p).w0 = (r.crest p).w0
        else (t.crest p).w0 = b ∧ (t.crest p).w1 = (r.crest p).w1) ∧
      (t.crest p).acc = (r.crest p).acc ∧ (∀ k, k ≠ p → t.crest k = r.crest k) ∧ t.store = r.store) ∧
    (∀ e, u.heldBy false gs = none → r.accessFault gs = some e →
      exec (.weightBankFill p waited es) s = .next (r.abort w.q w.t e.1 e.2)) ∧
    (∀ h, u.heldBy false gs = some h → exec (.weightBankFill p waited es) s = .next (u.stall w.q w.t h)))

/-- R105, R367: a tile's epilogue runs its stage list over its rows, writes and sends; the tile is done, or the command
ends with the abort that was met. R192, R196: a tile whose SEND stages cannot send yet waits as PEER, one whose lines may
not be reached yet as STORE. R61: an accumulator row read with bad parity ends the command. -/
def Obligations.TileEpilogueEndsTheTile : Prop :=
  ∀ (s : State) (p : Nat) (w : Work) (c : Cmd) (es : List Ecc) (bad : Bool),
    let u := s.turn p
    let x := u.setHold w.q w.t p wPeer false
    let v := x.crestReads w.q w.t (x.epilogueAddrs c w) es
    let held := u.workHeld (u.epilogueAddrs c w) (u.epilogueWrites c w)
    InHand s p w c → (u.crest p).works = true → (u.crest p).inv = none → u.runnable p (w.q, w.t) = true → w.phase = 3 →
    (u.peerHeld c (c.fu.sends.map (fun g => (g.1, g.2.arg8))) = false → held = none →
      (∀ e, v.epilogue p c w = .ok e → exec (.tileEpilogue p es false) s = .next (e.s.tileDone p)) ∧
      (∀ e, v.epilogue p c w = .error e → exec (.tileEpilogue p es false) s = .next (e.1.abort w.q w.t e.2.1 e.2.2)) ∧
      (c.useProg = false → exec (.tileEpilogue p es true) s = .next (x.parityFails p c))) ∧
    (u.peerHeld c (c.fu.sends.map (fun g => (g.1, g.2.arg8))) = true →
      exec (.tileEpilogue p es bad) s = .next (u.setHold w.q w.t p wPeer true)) ∧
    (u.peerHeld c (c.fu.sends.map (fun g => (g.1, g.2.arg8))) = false → ∀ h, held = some h →
      exec (.tileEpilogue p es bad) s = .next (u.stall w.q w.t h))

/-- R136, R341: at a boundary a candidate of a higher class takes the crest, trace event 3, and the tile that it leaves is
marked, to resume later; R71: between two commands that only accumulate with SHARED_ACC the crest may turn at any row.
R70: a command held for an accumulator conflict goes on once the conflict is gone, its wait charged as ACC_CONFLICT (R143).
R137, R218: a lent crest returns at a boundary when an owner waits for it or calls it back, zeroised, the owner's wait charged
with the 1,024 CCLK of that. -/
def Obligations.CrestPassesBetweenCommands : Prop :=
  ∀ (s : State) (p waited : Nat) (k : Nat × Nat) (w : Work) (ws : List Work) (c : Cmd),
    let higher := (List.range c.cls).findSome? (fun n =>
      ((s.candidates p).filter (· != (c.q, c.t))).find? (fun c => s.clsOf c = n))
    ((s.crest p).work = w :: ws → w.pre = false → s.runnable p (w.q, w.t) = true → s.cmd? w.q w.t = some c →
      (s.crest p).works = true → (s.crest p).inv = none →
      (c.atBoundary w = true → higher = some k →
        exec (.preempt p) s = .next (((s.modCrest p fun x => { x with work := { w with pre := true } :: ws }).addTrace 3
          ((s.logicalOf p).getD 0) c.q c.part 0 c.t).turnTo p k)) ∧
      ((c.atBoundary w = false ∨ higher = none) →
        (∀ j, (s.candidates p).find? (fun j => j != (w.q, w.t) && s.mayInterleave (w.q, w.t) j) = some j →
          exec (.preempt p) s = .next (s.turnTo p j)) ∧
        ((s.candidates p).find? (fun j => j != (w.q, w.t) && s.mayInterleave (w.q, w.t) j) = none →
          exec (.preempt p) s = .next s))) ∧
    ((s.crest p).stopped.find? (fun k => !s.blocked p k) = some k →
      exec (.scoreboardRelease p waited) s = .next
        (((s.modCrest p fun x => { x with stopped := x.stopped.filter (· != k) }).measured k.1 k.2 p wAcc waited).kick p)) ∧
    (∀ b, (s.crest p).lentTo = some b → (s.ownersOn p b ≠ [] ∨ s.calledBack p = true) → (s.crest p).inv = none →
      (∀ w ws, (s.crest p).work = w :: ws → ∃ c, s.cmd? w.q w.t = some c ∧ c.atBoundary w = true) →
      exec (.lentCrestRecall p waited) s = .next (s.recall p (some waited)))

/-- R94, R92: the instruction writes of a handle end; a crest that is awake loads its stale handles again. R75, Table
VEC-1, Table VEC-2: of the commands with a tile in hand whose invocation is due the crest turns to the first that became ready; an invocation starts at its entry
with PC there, no step counted, V and M cleared, M0 all ones, and its context in S, where S1 is the tile's own slot (DEDUCED,
log 133). -/
def Obligations.ProgramsLoadAndInvocationsStart : Prop :=
  (∀ (s : State) (p h waited : Nat),
    (exec (.progLoadDone p h) s = .next (s.loadDone p h)) ∧
    ((s.crest p).waking = false → ((s.loadDone p h).handle p h).loading = false) ∧
    ((s.crest p).staleHandles ≠ [] → (s.crest p).waking = false → (s.crest p).pw ≠ .off → s.reloadHeld p = false →
      exec (.progReload p waited) s = .next (s.reload p waited)) ∧
    (∀ q t k v vs, ((s.turn p).crest p).work = v :: vs → (v.phase = 1 ∨ v.phase = 4) →
      ((s.turn p).crest p).ready.find? (fun e => (s.turn p).runnable p (e.1, e.2.1)) = some (q, t, k) →
      (∃ x ∈ ((s.turn p).crest p).work, x.q = q ∧ x.t = t) → ∃ w ws, (((s.turn p).firstReady p).crest p).work = w :: ws ∧ w.q = q ∧ w.t = t)) ∧
  (∀ (s : State) (p : Nat) (w : Work) (ws : List Work) (c : Cmd),
    let u := (s.turn p).firstReady p
    let h := tget {} (u.crest p).handles c.handle
    (u.crest p).work = w :: ws → u.cmd? w.q w.t = some c → (u.crest p).works = true → (u.crest p).inv = none → u.runnable p (w.q, w.t) = true →
    (w.phase = 1 ∨ w.phase = 4) → h.bound = true → (u.crest p).handleOk h = true →
    ∃ t, exec (.invocationStart p) s = .next t ∧
      (t.crest p).inv = some { q := w.q, t := w.t, tile := w.tile, handle := c.handle } ∧
      (t.crest p).pc = h.off + h.entries.getD (if w.phase = 1 then c.ch.fEntry else c.entry) 0 ∧ (t.crest p).steps = 0 ∧
      (∀ r k, lane (t.crest p) r k = 0#32) ∧ (∀ m, (t.crest p).mreg m = if m = 0 then BitVec.allOnes 128 else 0#128) ∧
      (w.phase = 4 → (t.crest p).sreg 0 = BitVec.ofNat 32 w.tile ∧
        (t.crest p).sreg 1 = BitVec.ofNat 32 (c.slotOf w.tile w.j) ∧ (t.crest p).sreg 2 = BitVec.ofNat 32 c.row0) ∧
      (w.phase = 1 → (t.crest p).sreg 0 = BitVec.ofNat 32 w.kb ∧ (t.crest p).sreg 1 = BitVec.ofNat 32 c.ch.sSlot ∧
        (t.crest p).sreg 2 = 0#32) ∧
      (t.crest p).sreg 3 = BitVec.ofNat 32 (c.tileRows w.tile) ∧
      (c.dOut.format ≠ 0 → (t.crest p).sreg 4 = BitVec.ofNat 32 (c.dOut.addr + c.m0 w.tile * c.dOut.pitch
        + c.n0 w.tile * elemBits c.dOut.format / 8)) ∧
      (t.crest p).sreg 5 = BitVec.ofNat 32 c.dOut.pitch ∧ (t.crest p).sreg 6 = BitVec.ofNat 32 (c.n0 w.tile) ∧
      (t.crest p).sreg 7 = c.param ∧ (∀ r, 8 ≤ r → (t.crest p).sreg r = 0#32) ∧
      (t.crest p).acc = (u.crest p).acc ∧ (∀ k, k ≠ p → t.crest k = u.crest k) ∧ t.store = u.store)

/-- R21, R226, R228, R235, R178: a crest that wakes is in RUN; a slice that wakes while its tier's regulator is within 3 % of
its setpoint is ON, zeroised where it was OFF; power gating takes an idle guaranteed crest to NAP, keeping its
accumulators, an idle crest that may be OFF to OFF, losing them, an owned slice to RETAIN, keeping its contents, and a free slice that
something woke to OFF. -/
def Obligations.UnitsWakeAndAreGated : Prop :=
  ∀ (s : State) (p n waited : Nat),
    ((s.crest p).waking = true → s.crestRetired p = false → s.canWake p = true →
      ∃ t, exec (.crestWakeDone p waited) s = .next t ∧ (t.crest p).pw = .run ∧ (t.crest p).waking = false ∧
        (∀ k, k ≠ p → t.crest k = s.crest k) ∧ t.store = s.store ∧ t.parts = s.parts) ∧
    (n < 96 → (s.slice n).waking = true → (s.slice n).pw ≠ .on → s.sliceRetired n = false →
      (s.slice n).unavailable = false → (s.reg (17 + sliceTier n)).st = 2 →
      97 * (s.reg (17 + sliceTier n)).setpoint ≤ 100 * (s.reg (17 + sliceTier n)).vout →
      100 * (s.reg (17 + sliceTier n)).vout ≤ 103 * (s.reg (17 + sliceTier n)).setpoint →
      ∃ t, exec (.sliceWakeDone n waited) s = .next t ∧ (t.slice n).pw = .on ∧ (t.slice n).waking = false ∧
        (t.slice n).scrub = 0 ∧ (∀ k, k ≠ n → t.slice k = s.slice k) ∧
        ((s.slice n).pw = .off → ∀ g, g / 2 ^ 24 = n → tget 0#8 t.store g = 0#8) ∧
        (∀ g, (g / 2 ^ 24 ≠ n ∨ (s.slice n).pw ≠ .off) → tget 0#8 t.store g = tget 0#8 s.store g)) ∧
    (p ≤ 16 → (s.crest p).held = [] → (s.crest p).quiet = false → (s.crest p).waking = false →
      ((s.crest p).pw = .run ∨ (s.crest p).pw = .idle) → (∃ l o, s.logicalOf p = some l ∧ s.crestOwner l = some o) →
      ∃ t, exec (.powerGating (.crestNap p)) s = .next t ∧ (t.crest p).pw = .nap ∧ (t.crest p).acc = (s.crest p).acc ∧
        (t.crest p).prog = (s.crest p).prog ∧ (t.reg p).st = 3 ∧ (t.reg p).setpoint = 550 ∧
        (s.mg.debugLevel ≠ 2 → (t.crest p).V = [] ∧ (t.crest p).S = [] ∧ (t.crest p).M = []) ∧
        (s.mg.debugLevel = 2 → (t.crest p).V = (s.crest p).V) ∧ (∀ k, k ≠ p → t.crest k = s.crest k) ∧ t.store = s.store) ∧
    (p ≤ 16 → (s.crest p).held = [] → (s.crest p).quiet = false → (s.crest p).waking = false → (s.crest p).pw ≠ .off →
      s.mayOff p = true →
      ∃ t, exec (.powerGating (.crestOff p)) s = .next t ∧ (t.crest p).pw = .off ∧ (t.crest p).acc = [] ∧
        (t.crest p).V = [] ∧ (t.crest p).prog = [] ∧ (t.crest p).lentTo = none ∧
        ((s.reg p).permanent = false → (t.reg p).st = 0) ∧ (∀ k, k ≠ p → t.crest k = s.crest k) ∧ t.store = s.store) ∧
    (n < 96 → (s.sliceOwner n).isSome = true → s.sliceRetired n = false → (s.slice n).waking = false →
      (s.slice n).sparing = none → (s.slice n).pw = .on →
      ∃ t, exec (.powerGating (.sliceRetain n)) s = .next t ∧ (t.slice n).pw = .retain ∧
        (∀ k, k ≠ n → t.slice k = s.slice k) ∧ t.store = s.store ∧ t.crests = s.crests) ∧
    (n < 96 → s.sliceOwner n = none → (s.slice n).transit = false → s.sliceRetired n = false → (s.slice n).sparing = none →
      exec (.powerGating (.sliceOff n)) s = .next (s.modSlice n fun x => { x with pw := .off, waking := false, scrub := 0 }))

/-! Peers, waits and atomics. -/

/-- R114, R115, R196, R199, R204: a stream's flag follows its data, its flit taking the egress of its destination; a SEND of no
bytes opens its stream with its flag; a tile that its receiver named is sent again, once, its 2 µs charged as PEER, but not
for a halted crest; a tile that nobody takes by the timer ends the command PEER. -/
def Obligations.StreamsEndWithTheirFlag : Prop :=
  ∀ (s : State) (q t : Nat) (c : Cmd), s.cmd? q t = some c →
    (∀ stage x, c.streams.find? (fun y => y.stage = stage) = some x → c.fin = none → x.flagSent = false →
      c.doneTiles = c.total → s.streamQueued x.dst x.sid = false →
      (∀ r ∈ s.retries, ¬(r.1 = q ∧ r.2.1 = t ∧ r.2.2.1 = x.sid)) →
      let f := c.flagOf stage
      exec (.sendFlag q t stage) s = .next ((s.modCmd q t fun c => { c with
        streams := c.streams.map (fun y => if y.stage = stage then { y with flagSent := true } else y) }).sendFlagFlit
          x.dst x.sid f.2.1 f.1 f.2.2.1 f.2.2.2.1 f.2.2.2.2 false)) ∧
    (∀ sid, c.opcode = 5 → c.total = 0 → c.doneTiles = 0 → c.started = true → c.fin = none → c.streams = [] →
      s.freeSid (c.f8 0x34) = some sid → s.streamQueued (c.f8 0x34) sid = false →
      (∀ r ∈ s.retries, ¬(r.1 = q ∧ r.2.1 = t)) →
      let f := c.flagOf 8
      exec (.sendFlag q t 8) s = .next ((s.modCmd q t fun c => { c with
        streams := [{ stage := 8, dst := c.f8 0x34, sid := sid, flagSent := true }] }).sendFlagFlit
          (c.f8 0x34) sid f.2.1 f.1 f.2.2.1 f.2.2.2.1 f.2.2.2.2 false)) ∧
    (∀ sid tile x k, c.streams.find? (fun y => y.sid = sid && y.kept.any (fun k => k.1 = tile)) = some x → c.fin = none →
      (q, t, sid, tile) ∈ s.retries → x.kept.find? (fun k => k.1 = tile) = some k →
      let p := (c.crests.head?.map s.physOf).getD 0
      ((s.crest p).halted = false → s.sendHeld x.dst = false →
        exec (.channelTileRetry q t sid tile) s = .next
          ((({ s with retries := s.retries.filter (· != (q, t, sid, tile)) } : State).modCmd q t
            fun c => c.charge wPeer (s.cclkOf p 2000)).sendChannel (c.crests.headD 0) x.dst sid
            (c.fu.stages.getD x.stage {}).arg16 tile k.2.1 k.2.2)) ∧
      ((s.crest p).halted = true ∨ s.sendHeld x.dst = true → exec (.channelTileRetry q t sid tile) s = .next s)) ∧
    (c.fin = none → (∃ r ∈ s.retries, r.1 = q ∧ r.2.1 = t) →
      ∃ u, exec (.sendTmo q t) s = .next u ∧ (∀ d, u.cmd? q t = some d → d.fin = some (sPeer, 0x62)) ∧
        (∀ r ∈ u.retries, ¬(r.1 = q ∧ r.2.1 = t)))

/-- R117, R118, R136, R163, R164, R159: a landed tile is added into its accumulator rows and counted, unless a command of a
higher class waits for the crest; REDUCE_RECV times out while a tile is not added or a flag has not arrived; a WAIT reads its
word again after 256 MCLK, charged as PEER, and a last time at its timer, where it ends WAIT_TIMEOUT if the word does not
satisfy it, and where that read is held it is still made (DEDUCED, log 127); a buffered atomic word goes back to its line, once
it may be written. -/
def Obligations.ReceiversAndWaitsGoOnOrTimeOut : Prop :=
  ∀ (s : State) (q t : Nat),
    (∀ c k rank src n p ps, s.cmd? q t = some c → s.readyAdd c = some (k, rank, src, n) → s.holders q t = p :: ps →
      (s.crest p).works = true → s.runnable p (q, t) = true → c.opcode = 11 →
      let gs := (List.range c.rRows).flatMap (fun r => s.gaddrs c.part (c.stageRow k rank r) (128 * recvWidth c.rFmt))
      let v := (s.setHold q t p wPeer false).reads q t gs
      let u := v.addTile p c k rank n
      (s.above p c = none →
        (s.heldBy false gs = none → v.accessFault gs = none →
          exec (.recvTileAdd q ⟨t, false⟩) s = .next
            ((((if rank + 1 = c.sources.length then u.recvWhole p q t k else u).recvWaits q t p).turn p).requeue p) ∧
          (c.keep = true ∨ rank ≠ 0 → exec (.recvTileAdd q ⟨t, true⟩) s = .next (v.parityFails p c))) ∧
        (∀ h bad, s.heldBy false gs = some h → exec (.recvTileAdd q ⟨t, bad⟩) s = .next (s.stall q t h)) ∧
        (∀ e bad, s.heldBy false gs = none → v.accessFault gs = some e →
          exec (.recvTileAdd q ⟨t, bad⟩) s = .next (v.abort q t e.1 e.2))) ∧
      (∀ j bad, s.above p c = some j →
        exec (.recvTileAdd q ⟨t, bad⟩) s = .next ((s.setHold q t p wPeer false).requeue p))) ∧
    (∀ c, s.cmd? q t = some c → c.opcode = 11 → c.total ≠ 0 → c.fin = none →
      (c.flagsDone = false ∨ ∃ k, k < c.rNtile ∧ c.addedTo k ≠ c.sources.length) →
      ∃ u, exec (.recvTmo q t) s = .next u ∧ ∀ d, u.cmd? q t = some d → d.fin = some (sTimeout, 0x81)) ∧
    (∀ h c, (s.hostWrites h).cmd? q t = some c → c.opcode = 8 → c.started = true → c.fin = none →
      let v := (s.hostWrites h).modCmd q t fun c => { c with waits := tset 0 c.waits wPeer c.waitTmo }
      exec (.waitPoll q t h) s = .next (((s.hostWrites h).modCmd q t fun c => c.charge wPeer 256).readWait c) ∧
      (v.waitHeld c = none → exec (.waitTmo q t h) s = .next ((v.readWait c).endCmd q t sTimeout 0x80)) ∧
      (∀ x, v.waitHeld c = some x →
        exec (.waitTmo q t h) s = .next ((v.modCmd q t fun d => { d with expired := true }).stall q t x))) ∧
    (∀ a w, s.abuf.find? (fun w => w.addr = a) = some w →
      (s.flushHeld (· = w) = none → exec (.atomicWriteback a) s = .next (({ s with abuf := s.abuf.filter (· != w) } : State).write
        .disp ((List.range w.width).map (fun i => (w.addr + i, BitVec.ofNat 8 (w.val / 256 ^ i)))))) ∧
      (∀ x, s.flushHeld (· = w) = some x → exec (.atomicWriteback a) s = .next s))

/-! Partitions. -/

/-- R327: each path has its own PT_SEL and staging copy, and PT_CREATE and PT_RESHAPE take their sets and controls from the copy
of the path that wrote MG_CMD; where that path's PT_SEL differs from the command's partition the command ends BAD_ARG, SEL_MISMATCH,
and nothing but the result is changed. -/
def Obligations.PartitionCommandsTakeThePathsStaging : Prop :=
  ∀ (s : State) (path : Path) (p v : Nat), p < 8 →
    let other : Path := match path with | .port => .bar0 | .bar0 => .port
    let g := s.staging path
    (s.pathReady path = true → s.allows path 0 = true → ∃ t, exec (.ptSel path v) s = .next t ∧
      (t.staging path).sel = v % 8 ∧ (t.staging path).crests = (s.part (v % 8)).crests ∧
      (t.staging path).slices = (s.part (v % 8)).slices ∧ (t.staging path).queues = (s.part (v % 8)).queues ∧
      t.staging other = s.staging other ∧ t.parts = s.parts) ∧
    (Heard s path 0x10 → g.sel ≠ p →
      exec (.ptCreate path p) s =
        .next (acked path ((s.mgResult 4 0xD).modPart p fun x => { x with lastResult := 4, lastDetail := 0xD }))) ∧
    (Heard s path 0x11 → g.sel ≠ p →
      exec (.ptReshape path p) s =
        .next (acked path ((s.mgResult 4 0xD).modPart p fun x => { x with lastResult := 4, lastDetail := 0xD }))) ∧
    (Heard s path 0x10 → g.sel = p → (s.part p).st = 0 → g.crests ≠ 0 → g.slices ≠ 0 → g.queues ≠ 0 →
      s.freeTransit.gainChecks g.crests g.slices g.queues = none →
      ∃ t, exec (.ptCreate path p) s = .next t ∧ (t.part p).crests = g.crests ∧ (t.part p).slices = g.slices ∧
        (t.part p).queues = g.queues ∧ (t.part p).guar = g.guar ∧ (t.part p).interleave = g.ctl.testBit 0 ∧
        (t.part p).peerIngress = g.ctl.testBit 1 ∧ (t.part p).crestOff = g.ctl.testBit 3 ∧
        (t.part p).dbgOptin = (s.part p).dbgOptin) ∧
    (Heard s path 0x11 → g.sel = p → (s.part p).st = 1 → g.crests ≠ 0 → g.slices ≠ 0 → g.queues ≠ 0 →
      s.gainChecks (andNot g.crests (s.part p).crests) (andNot g.slices (s.part p).slices)
        (andNot g.queues (s.part p).queues) = none →
      s.reshapeChecks p g.slices (andNot (s.part p).slices g.slices) (andNot (s.part p).queues g.queues) = none →
      ∃ t j, exec (.ptReshape path p) s = .next t ∧ t.journal = some j ∧ j.opcode = 0x11 ∧ j.part = p ∧ j.phase = 1 ∧
        j.newCrests = g.crests ∧ j.newSlices = g.slices ∧ j.newQueues = g.queues ∧ j.newGuar = g.guar ∧
        j.newCtl.testBit 1 = g.ctl.testBit 1 ∧ j.newCtl.testBit 3 = g.ctl.testBit 3 ∧
        j.newCtl.testBit 0 = (s.part p).interleave ∧ j.newCtl.testBit 2 = (s.part p).dbgOptin ∧
        (t.part p).st = 2 ∧ (t.part p).slices = (s.part p).slices ∧ t.mg.cmdStatus = 1)

/-- R210, R264: PT_CREATE makes a FREE partition ACTIVE, its queues fresh and its result OK, and touches nothing of any
other partition; each failed check of R210 ends it with its status and detail, first failure first; slices that a WARM
reset left in transit are zeroised before they are checked (R214). R209, R213, R319: PT_DESTROY starts its journal with
empty sets; a PT_RESET of an ACTIVE partition leaves no queue of its running, and ends at once, the partition ACTIVE, where
none of its commands is in flight and none of its crests lent; while a reshape or destroy of the partition runs, PT_RESETs of
it are held, in order, and any other command is dropped. -/
def Obligations.PartitionsAreCreatedDestroyedAndReset : Prop :=
  (∀ (s : State) (path : Path) (p : Nat), p < 8 → Heard s path 0x10 → (s.staging path).sel = p →
    let g := s.staging path
    let u := s.freeTransit
    let refused (s : State) (st det : Nat) : State :=
      acked path ((s.mgResult st det).modPart p fun x => { x with lastResult := st, lastDetail := det })
    ((s.part p).st ≠ 0 → exec (.ptCreate path p) s = .next (refused s 3 1)) ∧
    ((s.part p).st = 0 → (g.crests = 0 ∨ g.slices = 0 ∨ g.queues = 0) → exec (.ptCreate path p) s = .next (refused s 4 8)) ∧
    ((s.part p).st = 0 → g.crests ≠ 0 → g.slices ≠ 0 → g.queues ≠ 0 →
      (∀ r, u.gainChecks g.crests g.slices g.queues = some r → exec (.ptCreate path p) s = .next (refused u r.1 r.2)) ∧
      (u.gainChecks g.crests g.slices g.queues = none → ∃ t, exec (.ptCreate path p) s = .next t ∧
        (t.part p).st = 1 ∧ (t.part p).lastResult = 0 ∧ (t.part p).lastDetail = 0 ∧ (t.part p).energy = 0 ∧
        t.releasedE = (s.releasedE + (s.part p).energy) % 2 ^ 64 ∧ t.mg.cmdStatus = 0 ∧ t.mg.running = none ∧
        (∀ r, r ≠ p → t.part r = s.part r) ∧
        (∀ q, t.queue q = if q < 64 ∧ g.queues.testBit q = true then {} else s.queue q) ∧
        t.store = u.store ∧ t.crests = s.crests ∧ t.slices = u.slices ∧ t.cmds = s.cmds)) ∧
    (s.journal = none → ∀ n, n < 96 → (u.slice n).transit = false ∧
      ((s.slice n).transit = true → ∀ a, a / 2 ^ 24 = n → tget 0#8 u.store a = 0#8))) ∧
  (∀ (s : State) (path : Path) (p : Nat), p < 8 →
    (Heard s path 0x12 → (s.part p).st = 1 → (∀ q ∈ maskList (s.part p).queues 64, (s.queue q).st = .disabled) →
      ∃ t j, exec (.ptDestroy path p) s = .next t ∧ t.journal = some j ∧ j.opcode = 0x12 ∧ j.part = p ∧ j.phase = 1 ∧
        j.newCrests = 0 ∧ j.newSlices = 0 ∧ j.newQueues = 0 ∧ (t.part p).st = 4 ∧ t.mg.running = some 0x12 ∧
        t.mg.cmdStatus = 1 ∧ (∀ r, r ≠ p → t.part r = s.part r) ∧ t.store = s.store ∧ t.queues = s.queues) ∧
    (Heard s path 0x12 → (s.part p).st = 1 → (∃ q ∈ maskList (s.part p).queues 64, (s.queue q).st ≠ .disabled) →
      exec (.ptDestroy path p) s =
        .next (acked path ((s.mgResult 3 3).modPart p fun x => { x with lastResult := 3, lastDetail := 3 }))) ∧
    (Heard s path 0x13 → (s.part p).st = 1 → ∃ t, exec (.ptReset path p) s = .next t ∧
      (∀ q ∈ maskList (s.part p).queues 64, (t.queue q).st ≠ .run ∧ (t.queue q).st ≠ .halted) ∧
      ((∀ c ∈ s.cmds, c.part ≠ p) → (∀ l ∈ maskList (s.part p).crests 16, (s.crest (s.physOf l)).lentTo = none) →
        (t.part p).st = 1 ∧ (t.part p).lastResult = 0 ∧ (t.part p).lastDetail = 0 ∧ t.mg.cmdStatus = 0 ∧
        t.mg.running = none ∧ t.store = s.store)) ∧
    (Heard s path 0x13 → (s.part p).st ≠ 1 →
      exec (.ptReset path p) s =
        .next (acked path ((s.mgResult 3 2).modPart p fun x => { x with lastResult := 3, lastDetail := 2 }))) ∧
    (s.pathReady path = true → s.allows path 0 = true → s.mg.running ≠ none →
      (∀ j, s.journal = some j → j.part = p → exec (.ptReset path p) s =
        .next (acked path { s with mg := { s.mg with pending := s.mg.pending ++ [(path, p)] } })) ∧
      ((∀ j, s.journal = some j → j.part ≠ p) →
        exec (.ptReset path p) s = .next (acked path { s with mg := { s.mg with dropped := true } })) ∧
      exec (.ptDestroy path p) s = .next (acked path { s with mg := { s.mg with dropped := true } })))

/-- R212, R214, R228, Table PART-4: QUIESCE ends once nothing of the partition is in flight, or gives up with
QUIESCE_TIMEOUT; DRAIN takes the removed slices out of the partition and of host bias and puts them in transit; each is
zeroised, OFF and marked in turn; after the last one REMAP follows. -/
def Obligations.ReshapePhasesFollowEachOther : Prop :=
  ∀ (s : State) (j : Journal), s.journal = some j →
    (j.phase = 1 → s.quiescing j.part = false →
      exec .quiesceDone s = .next { s with journal := some { j with phase := 2 } } ∧ exec .quiesceTmo s = .next s) ∧
    (j.phase = 1 → s.quiescing j.part = true → s.mg.pending = [] → exec .quiesceDone s = .next s ∧
      ∃ t, exec .quiesceTmo s = .next t ∧ t.journal = none ∧ (t.part j.part).st = 1 ∧
      (t.part j.part).crests = (s.part j.part).crests ∧ (t.part j.part).slices = (s.part j.part).slices ∧
      (t.part j.part).queues = (s.part j.part).queues ∧ t.mg.cmdStatus = 5 ∧ t.mg.running = none ∧ t.store = s.store) ∧
    (j.phase = 2 → (∃ n ∈ maskList j.remSlices 96, s.sliceRetired n = false) →
      ∃ t k, exec .drainDone s = .next t ∧ t.journal = some k ∧ k.phase = 3 ∧ k.marked = 0 ∧
        (∀ n, n < 96 → k.transit.testBit n = (j.remSlices.testBit n && !s.sliceRetired n)) ∧
        (∀ n, n < 96 → k.transit.testBit n = true → (t.slice n).transit = true) ∧
        (t.part j.part).slices = andNot (s.part j.part).slices j.remSlices ∧
        (∀ g, j.remSlices.testBit (g / 4096) = true → tget false t.bias.hostPages g = false) ∧
        (s.bias.hostPages = [] → t.store = s.store)) ∧
    (∀ n ns, j.phase = 3 → maskList j.transit 96 = n :: ns →
      let k : Journal := { j with transit := clrBit j.transit n, marked := orBit j.marked n }
      let u : State := { (s.zeroSlice n).modSlice n fun x => { x with pw := .off, waking := false, scrub := 0 } with
        journal := some k }
      (∀ g, g / 2 ^ 24 = n → tget 0#8 u.store g = 0#8) ∧ (u.slice n).pw = .off ∧
      (k.transit ≠ 0 → exec .sliceZeroiseDone s = .next u) ∧ (k.transit = 0 → exec .sliceZeroiseDone s = .next (u.remap k))) ∧
    (j.phase = 2 → maskList j.remSlices 96 = [] → s.mg.pending = [] → ∃ t, exec .drainDone s = .next t ∧
      t.journal = none ∧ (t.part j.part).st = (if j.opcode = 0x12 then 0 else 1) ∧ (t.part j.part).crests = j.newCrests ∧
      (t.part j.part).queues = j.newQueues ∧ t.mg.cmdStatus = 0)

/-! Retirement by command, firmware over the register port, resets. -/

/-- R279, R312: RP_RETIRE refuses a unit that does not exist or is retired, else the unit is retired and the command ends OK, or
runs until the spare is bound; FW_SB_OPEN clears and opens STAGE; FW_SB_ACTIVATE closes it and starts the verification. -/
def Obligations.RetireAndRegisterPortFirmware : Prop :=
  ∀ (s : State) (path : Path) (kind unit : Nat), kind < 16 → unit < 256 →
    (Heard s path 0x20 → kindCount kind ≤ unit →
      exec (.rpRetire path kind unit) s =
        .next (acked path { s with mg := { s.mg with running := none, cmdStatus := 4, cmdDetail := 0 } })) ∧
    (Heard s path 0x20 → unit < kindCount kind → s.unitRetired kind unit = true →
      exec (.rpRetire path kind unit) s =
        .next (acked path { s with mg := { s.mg with running := none, cmdStatus := 3, cmdDetail := 5 } })) ∧
    (Heard s path 0x20 → unit < kindCount kind → s.unitRetired kind unit = false →
      ∃ t, exec (.rpRetire path kind unit) s = .next t ∧ t.unitRetired kind unit = true ∧
        (t.rep.bindDue = none → t.mg.running = none ∧ t.mg.cmdStatus = 0 ∧ t.mg.cmdDetail = 0) ∧
        (t.rep.bindDue ≠ none → t.mg.running = some 0x20 ∧ t.mg.cmdStatus = 1)) ∧
    (Heard s path 0x30 → exec (.fwSbOpen path) s = .next (acked path { s with
      fw := { s.fw with stage := [], stageOpen := true }, mg := { s.mg with running := none, cmdStatus := 0, cmdDetail := 0 } })) ∧
    (Heard s path 0x31 → s.fw.verifying = none → s.fw.stageOpen = true → exec (.fwSbActivate path) s = .next (acked path { s with
      fw := { s.fw with stageOpen := false, verifying := some (s.mg.iaPort * 4, 1) }
      mg := { s.mg with running := some 0x31, cmdStatus := 1, cmdDetail := 0, stage := if s.mg.stage = 6 then 7 else s.mg.stage } })) ∧
    (Heard s path 0x31 → s.fw.verifying = none → s.fw.stageOpen = false → exec (.fwSbActivate path) s = .next (acked path { s with
      mg := { s.mg with running := none, cmdStatus := 4, cmdDetail := 0xB } }))

/-- R20, R230, R306, R315, R316, R317: the always-on reset, a REFCLK that stops and RESET_COLD leave the die at its reset
values, LAST_RESET naming the cause, OFF where VIN is low, which a REFCLK that stops under it does not change, and in STANDBY else; the release of the reset makes it listen
again. R287, R288, R289, Table SB-3: a pin whose eight samples are all high or all low under a pull reads so, and mixed
otherwise; the straps decode to a position and a debug strap, and SERVICE phase begins; two floating pins put the die in
strap hold. -/
def Obligations.ColdResetsAndStraps : Prop :=
  (∀ (s : State) (path : Path),
    exec .alwaysOnReset s = .next (coldState s 0) ∧ exec .refclkInvalid s = .next (coldState s (if s.mg.device = 0 then 0 else 1)) ∧
    (Heard s path 0x40 → exec (.resetCold path) s = .next (coldState s 2)) ∧
    (s.mg.released = false → exec .alwaysOnRelease s = .next { s with mg := { s.mg with released := true, device := 1 } })) ∧
  ((strapDecode 0 0 = some (0, 0) ∧ strapDecode 0 1 = some (1, 0) ∧ strapDecode 1 0 = some (2, 0) ∧ strapDecode 1 1 = some (3, 0) ∧
    strapDecode 2 0 = some (0, 1) ∧ strapDecode 2 1 = some (1, 1) ∧ strapDecode 0 2 = some (2, 1) ∧ strapDecode 1 2 = some (3, 1) ∧
    strapDecode 2 2 = none) ∧
  ∀ (s : State) (a b c d : Nat), s.mg.released = true → s.sb.service = false → s.sb.strapHold = false →
    a < 256 → b < 256 → c < 256 → d < 256 →
    let read (m : Nat) : Nat := if m = 0 then 0 else if m = 255 then 1 else 2
    let ick := strapLevel (read a) (read b)
    let ida := strapLevel (read c) (read d)
    (∀ pos dbg, strapDecode ick ida = some (pos, dbg) →
      ∃ t, exec (.strapDecode a b c d) s = .next t ∧ t.position = pos ∧ t.debugStrap = decide (dbg = 1) ∧ t.sb.service = true ∧
        t.mg.stage = 1 ∧ (dbg = 1 → t.mg.taint.testBit 0 = true) ∧ (dbg ≠ 1 → t.mg.taint = s.mg.taint) ∧
        bits t.sb.straps 1 0 = ick ∧ bits t.sb.straps 3 2 = ida) ∧
    (strapDecode ick ida = none →
      ∃ t, exec (.strapDecode a b c d) s = .next t ∧ t.sb.strapHold = true ∧ t.sb.service = s.sb.service ∧ t.mg = s.mg))

/-- R314, R315, R318, Table BOOT-4: RESET_WARM and the watchdog leave no store contents, no queue, no partition and no command,
and keep the straps, the taint, the running firmware, the retired slices and the energy counter. -/
def Obligations.WarmResetsKeepWhatTableBoot4Keeps : Prop :=
  ∀ (s : State) (path : Path),
    (Heard s path 0x41 → ∃ t, exec (.resetWarm path) s = .next t ∧ WarmLeft s t 3) ∧
    (s.mg.fwRunning = true → ∃ t, exec .watchdog s = .next t ∧ WarmLeft s t 4)

/-- R315, R320, R322: a CREST reset empties its crest and ends OK, and waits for the spare where one is to be bound to it; an
absent or retired target is refused. R321, R171, R194: a LINK reset retrains every module that is not retired, or trains its
port anew; each module and the port count one retrain, and stay while their errors stay below RP_THRESH; a target that is
retired, or a port with no die behind it, is refused. That each module of a reset host link counts one retrain is the model's
reading (DEDUCED, log 75). -/
def Obligations.CrestAndLinkResets : Prop :=
  ∀ (s : State) (path : Path) (l k : Nat), l < 16 → k < 3 →
    let few (kind unit : Nat) : Prop := s.errsIn kind unit + 1 < s.mg.threshCount
    let retrained (t : State) : Prop := ∀ m, m < 4 → (s.hmod m).st ≠ 5 →
      (t.hmod m).st = 4 ∧ (t.hmod m).retrains = min 255 ((s.hmod m).retrains + 1)
    let refused (det : Nat) : State := acked path { s with mg := { s.mg with running := none, cmdStatus := 3, cmdDetail := det } }
    (Heard s path 0x42 → s.crestPresent l = true → s.crestRetired (s.physOf l) = false → s.rep.bindDue ≠ some l →
      ∃ t, exec (.resetCrest path l) s = .next t ∧ (t.crest (s.physOf l)).V = [] ∧ (t.crest (s.physOf l)).S = [] ∧
        (t.crest (s.physOf l)).M = [] ∧ (t.crest (s.physOf l)).inv = none ∧ t.mg.haltReq.testBit l = false ∧
        t.mg.running = none ∧ t.mg.cmdStatus = 0) ∧
    (Heard s path 0x42 → s.crestPresent l = true → s.rep.bindDue = some l →
      exec (.resetCrest path l) s = .next (acked path { s with
        mg := { s.mg with running := some 0x42, cmdStatus := 1, cmdDetail := 0, resetDue := some l } })) ∧
    (Heard s path 0x42 → (s.crestPresent l = false ∨ (s.rep.bindDue ≠ some l ∧ s.crestRetired (s.physOf l) = true)) →
      exec (.resetCrest path l) s = .next (refused 5)) ∧
    (Heard s path 0x43 → (∃ m, m < 4 ∧ (s.hmod m).st ≠ 5) → (∀ m, m < 4 → few kHost m) →
      ∃ t, exec (.resetLink path 0) s = .next t ∧ retrained t ∧ t.mg.running = some 0x43 ∧ t.mg.linkSince = some s.time ∧
        t.parts = s.parts ∧ t.crests = s.crests) ∧
    (Heard s path 0x43 → (∀ m, m < 4 → (s.hmod m).st = 5) → exec (.resetLink path 0) s = .next (refused 5)) ∧
    (Heard s path 0x43 → (s.port k).st ≠ 5 → ((s.port k).st = 0 → s.peerOf k < Config.groupDies) → s.serving = true →
      s.rep.retPort.testBit k = false → few kPort k →
      ∃ t, exec (.resetLink path (k + 1)) s = .next t ∧ (t.port k).st = 1 ∧ (t.port k).disCause = 0 ∧
        (t.port k).retrains = min 255 ((s.port k).retrains + 1) ∧ (tget [] t.rep.errs (unitKey kPort k)).head? = some s.time ∧
        t.mg.running = some 0x43 ∧ t.mg.cmdStatus = 1) ∧
    (Heard s path 0x43 → ((s.port k).st = 5 ∨ ((s.port k).st = 0 ∧ ¬s.peerOf k < Config.groupDies)) →
      exec (.resetLink path (k + 1)) s = .next (refused 5)) ∧
    (s.hostConfig ≠ 0 → (∀ m, m < 4 → few kHost m) → ∃ t, exec .hostLinkReset s = .next t ∧ retrained t ∧
      t.parts = s.parts ∧ t.cmds = s.cmds)

/-! Registers, debug and the sideband. -/

/-- R332, R296: an indirect access that is reachable delivers the word of the path's bank at IA, or writes it;
MG_IND_DATA_INC then advances IA by one, modulo 2^24; IA of the other path stays. R223, R337, R338, Table PWR-2: debug
data is what DBG_ADDR names at FULL, read or written, over the register port: in spaces 0, 1, 2 and 4 a word of a crest, which
wakes from NAP, and which reads 0 and takes nothing in OFF, or where it is absent or retired; in space 3 a word of the store,
a slice in OFF answering BUSY as it wakes, a retired one reading 0. Below FULL a write is answered NAK_PERM, and a read 0 at
level PARTITION and NAK_PERM below it; through BAR0 it reads 0; a read of PW_ENERGY_LO latches the upper half; LEARN_CLEAR
clears what every crest has learned. -/
def Obligations.IndirectAndDebugAccess : Prop :=
  (∀ (s : State) (path other : Path) (v : Word), s.pathReady path = true → other ≠ path →
    let ia := s.indAddr path
    let w := s.bankWrite path (s.indBank path) ia v.toNat
    (exec (.mgIndData path none true) s = .next (delivered path s (s.bankRead path (s.indBank path) ia))) ∧
    (∃ t, exec (.mgIndDataInc path none true) s = .next t ∧ t.indAddr path = (ia + 1) % 2 ^ 24 ∧
      t.indAddr other = s.indAddr other ∧
      t.out = answerOf path (s.bankRead path (s.indBank path) ia) :: s.out ∧ t.store = s.store ∧ t.fw = s.fw) ∧
    (exec (.mgIndData path (some v) true) s = .next (acked path w)) ∧
    (∃ t, exec (.mgIndDataInc path (some v) true) s = .next t ∧ t.indAddr path = (ia + 1) % 2 ^ 24 ∧
      t.indAddr other = s.indAddr other ∧ t.fw = w.fw ∧ t.store = s.store)) ∧
  (∀ (s : State) (path : Path) (v : Word),
    (s.pathReady .port = true → s.mg.debugLevel = 2 → ∀ p o, s.mg.dbgSpace = 0 → s.dbgCrest 0 s.mg.dbgAddr = some (p, o) →
      (s.crest p).pw = .run →
      exec (.dbgData .port none) s = .next (answered s 0 (tget 0#32 (s.crest p).acc o).toNat) ∧
      (∃ t, exec (.dbgData .port (some v)) s = .next t ∧ tget 0#32 (t.crest p).acc o = v ∧
        (∀ k, k ≠ o → tget 0#32 (t.crest p).acc k = tget 0#32 (s.crest p).acc k) ∧ (∀ k, k ≠ p → t.crest k = s.crest k) ∧
        (∀ c, (c.q, c.t) ∈ (s.crest p).held → c ∈ t.cmds → c.dbg = true)) ∧
      ∃ t, exec (.dbgDataInc .port none) s = .next t ∧ t.mg.dbgAddr = (s.mg.dbgAddr + 1) % 2 ^ 32 ∧ t.crests = s.crests) ∧
    (s.pathReady .port = true → s.mg.debugLevel = 2 → ∀ sp, sp = s.mg.dbgSpace → (sp ≤ 2 ∨ sp = 4) →
      let none0 := exec (.dbgData .port none) s = .next (answered s 0 0) ∧
        exec (.dbgData .port (some v)) s = .next (answered s 0 0)
      (s.dbgCrest sp s.mg.dbgAddr = none → none0) ∧
      (∀ p o, s.dbgCrest sp s.mg.dbgAddr = some (p, o) →
        ((s.crest p).pw = .off → none0) ∧
        ((s.crest p).pw = .nap → ∃ t, exec (.dbgData .port none) s = .next t ∧ (t.crest p).pw = .idle ∧
          t.out = answerOf .port ((s.crest p).dbgRead sp o) :: s.out ∧ (∀ k, k ≠ p → t.crest k = s.crest k)) ∧
        ((s.crest p).pw ≠ .off → (s.crest p).pw ≠ .nap →
          exec (.dbgData .port none) s = .next (answered s 0 ((s.crest p).dbgRead sp o)) ∧
          ∃ t, exec (.dbgData .port (some v)) s = .next t ∧ t.crest p = (s.crest p).dbgWrite sp o v.toNat ∧
            (∀ k, k ≠ p → t.crest k = s.crest k) ∧ t.store = s.store))) ∧
    (s.pathReady .port = true → s.mg.debugLevel = 2 → s.mg.dbgSpace = 3 → ∀ g n, g = 4 * s.mg.dbgAddr → n = g / 2 ^ 24 →
      ((96 ≤ n ∨ s.sliceRetired n = true) → exec (.dbgData .port none) s = .next (answered s 0 0) ∧
        exec (.dbgData .port (some v)) s = .next (answered s 0 0)) ∧
      (n < 96 → s.sliceRetired n = false → (s.slice n).pw = .off →
        exec (.dbgData .port none) s = .next (answered (s.modSlice n fun x => { x with waking := true }) 3 0) ∧
        exec (.dbgDataInc .port none) s = .next (answered (s.modSlice n fun x => { x with waking := true }) 3 0)) ∧
      (n < 96 → s.sliceRetired n = false → (s.slice n).pw = .on → (s.slice n).unavailable = false →
        (s.slice n).sparing = none →
        exec (.dbgData .port none) s = .next (answered s 0 (ofBytes (tgetFrom 0#8 s.store g 4))) ∧
        exec (.dbgData .port (some v)) s =
          .next (answered { s with store := tsetFrom 0#8 s.store g (toBytes v.toNat 4) } 0 0))) ∧
    (s.pathReady .port = true → s.mg.debugLevel = 1 → exec (.dbgData .port none) s = .next (answered s 0 0) ∧
      exec (.dbgDataInc .port none) s = .next (answered s 0 0)) ∧
    (s.pathReady .port = true → s.mg.debugLevel = 0 → exec (.dbgData .port none) s = .next (answered s 2 0) ∧
      exec (.dbgDataInc .port none) s = .next (answered s 2 0)) ∧
    (s.pathReady .port = true → s.mg.debugLevel ≠ 2 →
      exec (.dbgData .port (some v)) s = .next (answered s 2 0) ∧
      exec (.dbgDataInc .port (some v)) s = .next (answered s 2 0)) ∧
    (s.pathReady .bar0 = true → exec (.dbgData .bar0 none) s = .next (s.emit (.bar0 0#32)) ∧
      exec (.dbgDataInc .bar0 none) s = .next (s.emit (.bar0 0#32)) ∧ exec (.dbgData .bar0 (some v)) s = .next s) ∧
    (s.pathReady path = true → exec (.pwEnergyLoRead path) s =
      .next (delivered path { s with pwr := { s.pwr with hiLatch := s.pwr.energy / 2 ^ 32 } } (s.pwr.energy % 2 ^ 32))) ∧
    (s.pathReady path = true → s.allows path 2 = true → ∃ t, exec (.learnClear path) s = .next t ∧
      (∀ p, t.crest p = if p < 17 then { s.crest p with learn := [] } else s.crest p) ∧ t.cmds = s.cmds ∧ t.mg = s.mg))

/-- R333, R297: an indirect access whose word cannot be reached is not performed: on the register port it answers BUSY;
through BAR0 a read completes with data 0, a write is dropped, IA does not advance, and MG_ERR.IND_BUSY is set. -/
def Obligations.UnreachableIndirectAccess : Prop :=
  ∀ (s : State) (v : Word) (w : Option Word),
    let after : State := { s with mg := { s.mg with indBusy := true } }
    (s.pathReady .port = true →
      exec (.mgIndData .port w false) s = .next (answered s 3 0) ∧
      exec (.mgIndDataInc .port w false) s = .next (answered s 3 0) ∧
      ∀ a, (a = 0x0A ∨ a = 0x0B) → exec (.sbRead a (reqCrc 0 a none) false) s = .next (answered s 3 0) ∧
        exec (.sbWrite a v.toNat (reqCrc 1 a (some v.toNat)) false) s = .next (answered s 3 0)) ∧
    (s.pathReady .bar0 = true →
      exec (.mgIndData .bar0 none false) s = .next (after.emit (.bar0 0#32)) ∧
      exec (.mgIndDataInc .bar0 none false) s = .next (after.emit (.bar0 0#32)) ∧
      exec (.mgIndData .bar0 (some v) false) s = .next after ∧ exec (.mgIndDataInc .bar0 (some v) false) s = .next after)

/-- R223, R225, R337, R221: a level is taken or denied; FULL needs the register port and the debug strap and is a taint; the halt
requests of DBG_HALT_REQ stand for the present, working crests, and below FULL it is answered NAK_PERM; a crest whose
halt is requested halts at a boundary. -/
def Obligations.DebugLevelsAndHalts : Prop :=
  ∀ (s : State) (path : Path) (lvl v p l : Nat),
    (s.pathReady path = true → s.allows path 3 = true →
      ((path = .port ∧ s.debugStrap = true) → ∃ t, exec (.seDebugReq path 2) s = .next t ∧ t.mg.debugLevel = 2 ∧
        (s.mg.debugLevel ≠ 2 → t.mg.taint.testBit 2 = true) ∧ t.crests = s.crests) ∧
      (¬(path = .port ∧ s.debugStrap = true) →
        exec (.seDebugReq path 2) s = .next (acked path { s with mg := { s.mg with debugDenied := true } })) ∧
      (lvl < 2 → (lvl ≤ s.mg.debugLevel ∨ s.serving = true) → ∃ t, exec (.seDebugReq path lvl) s = .next t ∧
        t.mg.debugLevel = lvl ∧ t.mg.debugDenied = s.mg.debugDenied ∧ t.store = s.store) ∧
      (lvl < 2 → s.mg.debugLevel < lvl → s.serving = false →
        exec (.seDebugReq path lvl) s = .next (acked path { s with mg := { s.mg with debugDenied := true } }))) ∧
    (s.pathReady .port = true → s.mg.debugLevel = 2 → ∃ t, exec (.dbgHaltReq .port v) s = .next t ∧
      (∀ l, l < 16 → t.mg.haltReq.testBit l = (v.testBit l && s.crestPresent l && !s.crestRetired (s.physOf l))) ∧
      t.store = s.store) ∧
    (s.pathReady .port = true → s.mg.debugLevel ≠ 2 → exec (.dbgHaltReq .port v) s = .next (answered s 2 0)) ∧
    (s.logicalOf p = some l → s.mg.haltReq.testBit l = true → s.mg.debugLevel = 2 → (s.crest p).halted = false →
      (s.crest p).inv = none →
      (∀ w ws, (s.crest p).work = w :: ws → ∃ c, s.cmd? w.q w.t = some c ∧ c.atBoundary w = true) →
      ∃ t, exec (.crestHalt p) s = .next t ∧ (t.crest p).halted = true ∧ (t.crest p).held = (s.crest p).held ∧
        t.mg.haltStat.testBit l = true ∧ t.mg.taint.testBit 3 = true ∧ (∀ k, k ≠ p → t.crest k = s.crest k))

/-- R291, R293, R294, R296, R302, Table SB-6: a frame whose CRC matches is answered ACK with its word or its write done,
and occupies the port until it is idle; one whose CRC mismatches is answered NAK_CRC and does nothing; a busy port takes
none; READ_INC reads at IA and advances it, or reads the word before IA again, or is answered NAK_PERM; so is a frame to a
debug word below the level that it needs; a SYNC frame arms, disarms, or is answered NAK_PERM (the row SYNC_DISARM stands for
every SYNC frame that does not arm: log 86). R245, R252, R299, R302: four low edges align an armed die, 10 ms without them
give up; an armed die drives no slot, and one that is armed no longer drives its epoch again, from that step on (DEDUCED, log
123: the frame that follows latches it); SUPPLY_ALARM and CAP_DROP are released once their slot has read released for four
frames. -/
def Obligations.RegisterPortFramesAndAlignment : Prop :=
  (∀ (s : State) (a v crc : Nat) (reach : Bool), a < 256 → v < 2 ^ 32 →
    (s.pathReady .port = true →
      (a < 0xE0 → a ≠ 0x0A → a ≠ 0x0B → a ≠ 0x18 →
        exec (.sbRead a (reqCrc 0 a none) reach) s = .next (answered s 0 (s.readReg .port a))) ∧
      (a < 0xE0 → a ≠ 0x0A → a ≠ 0x0B → (s.regWrite .port a v).mg.released = true →
        exec (.sbWrite a v (reqCrc 1 a (some v)) reach) s = .next (answered (s.regWrite .port a v) 0 0)) ∧
      (a = s.mg.iaPort % 256 →
        ∃ t, exec (.sbReadInc a (reqCrc 2 a none) true) s = .next t ∧ t.mg.iaPort = (s.mg.iaPort + 1) % 2 ^ 24 ∧
          t.out = answerOf .port (s.bankRead .port s.mg.bankPort s.mg.iaPort) :: s.out ∧ t.sb.frameBusy = true) ∧
      (a = (s.mg.iaPort + 2 ^ 24 - 1) % 2 ^ 24 % 256 → s.mg.iaPort < 2 ^ 24 → a ≠ s.mg.iaPort % 256 →
        ∃ t, exec (.sbReadInc a (reqCrc 2 a none) true) s = .next t ∧ t.mg.iaPort = s.mg.iaPort ∧
          t.out = answerOf .port (s.bankRead .port s.mg.bankPort ((s.mg.iaPort + 2 ^ 24 - 1) % 2 ^ 24)) :: s.out ∧
          t.sb.frameBusy = true) ∧
      (a ≠ s.mg.iaPort % 256 → a ≠ (s.mg.iaPort + 2 ^ 24 - 1) % 2 ^ 24 % 256 →
        exec (.sbReadInc a (reqCrc 2 a none) reach) s = .next (answered s 2 0)) ∧
      (0xE0 ≤ a → s.mg.debugLevel = 0 → exec (.sbRead a (reqCrc 0 a none) reach) s = .next (answered s 2 0)) ∧
      (0xE0 ≤ a → s.mg.debugLevel ≠ 2 →
        exec (.sbWrite a v (reqCrc 1 a (some v)) reach) s = .next (answered s 2 0)) ∧
      exec (.syncArm (reqCrc 3 0 none)) s =
        .next (answered { s with sb := { s.sb with armed := true, driven := 0xF } } 0 0) ∧
      (s.sb.armed = true → exec (.syncDisarm ⟨1, (reqCrc 3 1 none)⟩) s =
        .next (answered { s with sb := { s.sb with armed := false, driven := s.nextEpoch } } 0 0)) ∧
      (s.sb.armed = false → exec (.syncDisarm ⟨1, (reqCrc 3 1 none)⟩) s = .next (answered s 0 0)) ∧
      (2 ≤ a → exec (.syncDisarm ⟨a, (reqCrc 3 a none)⟩) s = .next (answered s 2 0)) ∧
      (crc ≠ reqCrc 0 a none → exec (.sbRead a crc reach) s = .next (answered s 1 0)) ∧
      (crc ≠ reqCrc 1 a (some v) → exec (.sbWrite a v crc reach) s = .next (answered s 1 0)) ∧
      (crc ≠ reqCrc 2 a none → exec (.sbReadInc a crc reach) s = .next (answered s 1 0)) ∧
      (crc ≠ reqCrc 3 0 none → exec (.syncArm crc) s = .next (answered s 1 0)) ∧
      (crc ≠ reqCrc 3 a none → exec (.syncDisarm ⟨a, crc⟩) s = .next (answered s 1 0))) ∧
    (s.pathReady .port = false → exec (.sbRead a crc reach) s = .next s ∧ exec (.sbWrite a v crc reach) s = .next s ∧
      exec (.sbReadInc a crc reach) s = .next s ∧ exec (.syncArm crc) s = .next s ∧ exec (.syncDisarm ⟨a, crc⟩) s = .next s) ∧
    (s.pathLive .port = true → exec .portIdle s = .next { s with sb := { s.sb with frameBusy := false } })) ∧
  (∀ (s : State) (n : Nat),
    (s.pathLive .port = true → s.sb.armed = true → 4 ≤ n →
      exec (.alignPulse n) s = .next { s with sb := { s.sb with aligned := true, armed := false, driven := s.nextEpoch } }) ∧
    (s.pathLive .port = true → s.sb.armed = true →
      exec .syncTmo s = .next { s with sb := { s.sb with armed := false, syncTmo := true, driven := s.nextEpoch } }) ∧
    (4 ≤ s.sb.alarmClear → exec .supplyAlarmRelease s = .next { s with pwr := { s.pwr with supplyAlarm := false } }) ∧
    (4 ≤ s.sb.dropClear → exec .capDropRelease s = .next { s with pwr := { s.pwr with capDrop := false } }) ∧
    (s.sb.alarmClear < 4 → exec .supplyAlarmRelease s = .next s) ∧ (s.sb.dropClear < 4 → exec .capDropRelease s = .next s))

/-- R331: the die pulls its position's slot low in every frame that it drives while an alert is set and enabled, a failed supply
and a broken minimum service set always counting, and releases it in every other; the frame's word is what the wire carried.
R289: a die in STRAP phase, or in strap hold, holds IAL low throughout. -/
def Obligations.IalFrameCarriesTheAlert : Prop :=
  ∀ (s : State) (slots : Nat),
    (s.mg.released = true → s.sb.service = false → exec (.ialFrame slots) s = .next (s.emit (.ial 0))) ∧
    (s.pathLive .port = true → s.sb.aligned = true → s.sb.armed = false → ∃ t d, exec (.ialFrame slots) s = .next t ∧ t.out = .ial d :: s.out ∧
      (d.testBit s.position = true ↔ s.alertStat &&& s.alertEn = 0) ∧
      ((s.mg.fatalSupply = true ∨ s.mg.minLost = true) → d.testBit s.position = false) ∧
      t.sb.lastSlots = slots % 2 ^ 16 &&& d ∧
      (t.sb.lastSlots.testBit 4 = false → t.pwr.supplyAlarm = true) ∧ (t.sb.lastSlots.testBit 5 = false → t.pwr.capDrop = true) ∧
      (t.sb.lastSlots / 2 ^ 12 ≠ 15 → t.sb.ialStuck = true) ∧ t.cmds.length = s.cmds.length ∧ t.store = s.store)

/-! The firmware mailbox and bias control. -/

/-- R175, R176, R281, R312, R313: a mailbox command whose checks pass ends with RESULT 0 and GO cleared, or starts its
verification. The first check that fails ends it with its RESULT and nothing done: BAD_OPCODE 1 as GO is written, BAD_LENGTH
2, BUSY 3 while another firmware or management command runs, NOT_PERMITTED 4 for the firmware commands. -/
def Obligations.MailboxCommandsEnd : Prop :=
  (∀ (s : State) (v : Nat), s.mailboxLive = true → v.testBit 0 = true →
    s.fw.opcode ≠ 1 → s.fw.opcode ≠ 0x10 → s.fw.opcode ≠ 0x11 → s.fw.opcode ≠ 0x20 →
    ∃ t, exec (.registerWrite (.mailbox 0) v) s = .next t ∧ t.fw.go = false ∧ t.fw.result = 1 ∧ t.fw.stage = s.fw.stage ∧
      t.fw.payload = s.fw.payload ∧ t.mg = s.mg) ∧
  (∀ (s : State) (op : Nat) (i : Instr) (fits : Prop), (op, i, fits) ∈ mailboxRows s → s.mbDue op = true →
    let ends (r : Nat) : Prop := ∃ t, exec i s = .next t ∧ t.fw.go = false ∧ t.fw.result = r ∧ t.fw.outLen = 0 ∧
      t.fw.payload = s.fw.payload ∧ t.fw.stage = s.fw.stage ∧ t.fw.run = s.fw.run ∧ t.fw.verifying = s.fw.verifying ∧
      t.mg = s.mg
    (¬fits → ends 2) ∧
    (fits → (s.mg.running ≠ none ∨ s.fw.verifying ≠ none) → ends 3) ∧
    (fits → s.mg.running = none → s.fw.verifying = none → (op = 0x10 ∨ op = 0x11) → s.mg.policy.testBit 1 = false →
      ends 4)) ∧
  ∀ s : State, s.mg.running = none → s.fw.verifying = none →
    (s.mbDue 1 = true → s.fw.len = 0 → ∃ t, exec .identify s = .next t ∧ t.fw.go = false ∧ t.fw.result = 0 ∧
      t.fw.outLen = 12 ∧ tgetFrom 0#8 t.fw.payload 0 4 = toBytes 0x4F111620 4 ∧
      tgetFrom 0#8 t.fw.payload 8 4 = toBytes s.mg.taint 4 ∧ t.fw.stage = s.fw.stage ∧ t.fw.run = s.fw.run) ∧
    (s.mbDue 0x10 = true → 4 ≤ s.fw.len → s.fw.len ≤ 3840 → s.mbArg 4 + (s.fw.len - 4) ≤ 2 ^ 22 →
      s.mg.policy.testBit 1 = true → ∃ t, exec .fwTransfer s = .next t ∧ t.fw.go = false ∧ t.fw.result = 0 ∧
      t.fw.stage = tsetFrom 0#8 s.fw.stage (s.mbArg 4) (tgetFrom 0#8 s.fw.payload 4 (s.fw.len - 4)) ∧ t.fw.run = s.fw.run) ∧
    (s.mbDue 0x11 = true → s.fw.len = 4 → 0 < s.mbArg 4 → s.mbArg 4 ≤ 2 ^ 22 → s.mg.policy.testBit 1 = true →
      exec .fwActivate s = .next { s with
        fw := { s.fw with verifying := some (s.mbArg 4, 0) }
        mg := { s.mg with stage := if s.mg.stage = 6 then 7 else s.mg.stage } }) ∧
    (s.mbDue 0x20 = true → s.fw.len = 4 → ∃ t, exec .logRead s = .next t ∧ t.fw.go = false ∧ t.fw.result = 0 ∧
      t.fw.outLen = 32 * min 120 (s.log.filter (fun e => decide (s.mbArg 4 ≤ e.seq))).length ∧ t.log = s.log)

/-- R180, R181: a bias command that fits becomes busy from its first page on, any other sets ERR; each page that ends changes
its bias, the last one ends the command, and the accesses that the page held go on. -/
def Obligations.BiasCommandsChangePages : Prop :=
  ∀ (s : State) (ret : List (Nat × Byte)) (bad : List Nat) (waited : Nat),
    (s.serving = true → s.biasOk = true →
      exec .toHost s = .next { s with bias := { s.bias with
        busy := true, toHost := true, cur := s.bias.page, left := s.bias.count } } ∧
      exec .toDevice s = .next { s with bias := { s.bias with
        busy := true, toHost := false, cur := s.bias.page, left := s.bias.count } }) ∧
    (s.serving = true → s.biasOk = false → exec .toHost s = .next { s with bias := { s.bias with err := true } } ∧
      exec .toDevice s = .next { s with bias := { s.bias with err := true } }) ∧
    (s.bias.busy = true → ∃ t : State, exec (.biasPageDone ⟨ret, bad, waited⟩) s = .next (t.resumeHeld .bias waited) ∧
      (∀ g, tget false t.bias.hostPages g =
        if g = s.hdmAddr s.bias.cur / 4096 then s.bias.toHost else tget false s.bias.hostPages g) ∧
      t.bias.cur = s.bias.cur + 4096 ∧ t.bias.left = s.bias.left - 1 ∧ t.bias.busy = decide (1 < s.bias.left) ∧
      (s.bias.left ≤ 1 → t.bias.done = true) ∧ (1 < s.bias.left → t.bias.done = s.bias.done) ∧
      (s.bias.toHost = true → t.store = s.store) ∧ t.parts = s.parts ∧ t.crests = s.crests)

/-! Supply, boot, power control. -/

/-- R230, R243, R252: VIN_LOW and an absent sequencer take every crest that is not OFF to P15, and are reported; a sequencer
restart freezes the cap loop; the sequencer adopts the state it finds. -/
def Obligations.VinAndSequencerEvents : Prop :=
  ∀ s : State, s.mg.released = true →
    (s.pwr.vinLow = false → ∃ t, exec .vinLow s = .next t ∧ t.pwr.vinLow = true ∧ t.mg.alertStat.testBit 0 = true ∧
      t.logNext = (s.logNext + 1) % 2 ^ 32 ∧ (∀ p, p < 17 → (s.crest p).pw ≠ .off → 15 ≤ (t.crest p).level) ∧ t.store = s.store) ∧
    (exec .vinLowClear s = .next { s with pwr := { s.pwr with vinLow := false } }) ∧
    (∃ t, exec .vinHigh s = .next t ∧ t.mg.alertStat.testBit 1 = true ∧ t.logNext = (s.logNext + 1) % 2 ^ 32 ∧
      t.crests = s.crests ∧ t.pwr = s.pwr) ∧
    (∃ t, exec .seqRestart s = .next t ∧ t.pwr.seqPresent = false ∧ t.mg.alertStat.testBit 7 = true ∧
      exec .capLoop t = .next t ∧ t.crests = s.crests ∧ t.regs = s.regs) ∧
    (s.pwr.seqPresent = false → s.pwr.seqTimeout = false → ∃ t, exec .seqTimeout s = .next t ∧ t.pwr.seqTimeout = true ∧
      t.mg.alertStat.testBit 8 = true ∧ (∀ p, p < 17 → (s.crest p).pw ≠ .off → 15 ≤ (t.crest p).level)) ∧
    (exec .sequencerAdoptsState s = .next { s with pwr := { s.pwr with seqPresent := true, seqTimeout := false } })

/-- R308, R309, R310: the store test leaves zeros and every slice OFF; a crest test leaves each crest of its group tested, a
failing one retired, and OFF with its regulator; STORE_BIST that ends before the last crest test leaves the stage at CREST_BIST
(Table BOOT-1); FW_WAIT follows the tests, or at once a fault of IVR23 that lets none run (R307); firmware reaches READY only
with the minimum service set complete, and never where it was accepted with that set incomplete. An image that was accepted
before FW_WAIT starts as FW_WAIT begins (DEDUCED, log 72), the slices that a WARM reset left in transit zeroised first. -/
def Obligations.BootTestsLeadToReady : Prop :=
  ∀ s : State,
    (∀ rows, s.mg.stage = 5 → ∃ t, exec (.storeBistDone rows) s = .next t ∧ t.store = [] ∧ t.poison = [] ∧
      (∀ n, n < 96 → (t.slice n).pw = .off) ∧
      (rows = [] → t.mg.stage = if (List.range 17).all s.bistDone then 5 else 4)) ∧
    (∀ g failed, g ≤ 4 → (s.reg 23).st = 2 → 2 ≤ s.mg.stage → s.mg.stage ≤ 5 →
      (∀ h, h < g → ∀ p ∈ bistGroup h, s.bistDone p = true) → (∀ p ∈ bistGroup g, s.rep.bistPassed.testBit p = false) →
      (∀ p ∈ bistGroup g, s.crestRetired p = true ∨ ((s.reg p).st ≠ 1 ∧ (s.reg p).st ≠ 4)) →
      ∃ t, exec (.crestBistGroupDone g failed) s = .next t ∧
        (∀ p ∈ bistGroup g, t.bistDone p = true ∧ (t.crest p).pw = .off ∧ (p ∈ failed → t.crestRetired p = true) ∧
          ((s.reg p).permanent = false → (t.reg p).st = 0 ∧ (t.reg p).setpoint = 0)) ∧ t.store = s.store) ∧
    ((((s.mg.stage = 4 ∨ s.mg.stage = 5) ∧ (∀ n, n < 96 → (s.slice n).pw ≠ .on) ∧ (∀ p, p < 17 → s.bistDone p = true)) ∨
        ((s.reg 23).permanent = true ∧ 2 ≤ s.mg.stage ∧ s.mg.stage ≤ 5)) →
      ∃ t, exec .fwWait s = .next t ∧ t.mg.stage = (if s.fw.handover then 8 else 6) ∧
        t.mg.fwRunning = (if s.fw.handover then true else s.mg.fwRunning) ∧ (s.minMissing ≠ none → t.mg.minLost = true) ∧
        (s.fw.handover = true → s.journal = none → ∀ n, n < 96 → (t.slice n).transit = false)) ∧
    (s.mg.fwRunning = true → s.mg.stage = 8 → s.mg.capBuilt = false →
      (∀ m, m < 4 → (s.hmod m).st ≠ 1 ∧ (s.hmod m).st ≠ 4) →
      (s.mg.minLost = true → ∃ t, exec .fwRunReady s = .next t ∧ t.mg.device = s.mg.device ∧ t.mg.cause = 3 ∧
        t.mg.minLost = true ∧ t.mg.capBuilt = true ∧ t.ports = s.ports) ∧
      (s.mg.minLost = false → s.minMissing = none → ∃ t, exec .fwRunReady s = .next t ∧ t.mg.device = 2 ∧ t.mg.cause = 0 ∧
        t.mg.capBuilt = true) ∧
      (s.mg.minLost = false → ∀ k, s.minMissing = some k → ∃ t, exec .fwRunReady s = .next t ∧ t.mg.device = s.mg.device ∧
        t.mg.minLost = true ∧ t.mg.lostKind = k ∧ t.mg.capBuilt = true))

/-- R311, R313, R219, R220: an image whose header fails is refused and no bank changes; an image that verifies, or any with the
debug strap set, becomes the RUN bank; a handover installs the accepted version. -/
def Obligations.FirmwareVerification : Prop :=
  ∀ (s : State) (len who : Nat), s.fw.verifying = some (len, who) →
    let bank := if who = 2 then s.fw.run else s.fw.stage
    let img := tgetFrom 0#8 bank 0 len
    (headerOk (tgetFrom 0#8 bank 0 0x200) len = false → ∃ t, exec .fwVerifyDone s = .next t ∧ t.fw.verifying = none ∧
      t.fw.run = s.fw.run ∧ t.fw.stage = s.fw.stage ∧ t.mg.taint = s.mg.taint ∧ (who = 0 → t.fw.result = 5) ∧
      (who = 1 → t.mg.cmdStatus = 4 ∧ t.mg.cmdDetail = 0xA)) ∧
    (headerOk (tgetFrom 0#8 bank 0 0x200) len = true → who ≠ 2 →
      (((keySlotOf img).isSome = true ∧ s.blown ≤ fld img 0xC 4) ∨ s.debugStrap = true) →
      ∃ t, exec .fwVerifyDone s = .next t ∧ t.fw.verifying = none ∧ t.fw.run = s.fw.stage ∧ t.fw.stage = s.fw.run ∧
        t.fw.runLen = len ∧ t.fw.stageOpen = false ∧ (who = 0 → t.fw.result = 0 ∧ t.fw.go = false) ∧
        (who = 1 → t.mg.cmdStatus = 0 ∧ t.mg.running = none) ∧ t.store = s.store) ∧
    (headerOk (tgetFrom 0#8 bank 0 0x200) len = true → ((keySlotOf img).isSome = false ∨ fld img 0xC 4 < s.blown) →
      s.debugStrap = false → ∃ t, exec .fwVerifyDone s = .next t ∧ t.fw.verifying = none ∧ t.fw.run = s.fw.run) ∧
    (s.fw.handover = true → s.mg.fwRunning = true → exec .fwHandover s = .next { s with
      fw := { s.fw with handover := false, version := ofBytes (tgetFrom 0#8 s.fw.run 0x10 4) } })

/-- R233, R247, R250, R257, R264: a sample counts 1 µs and its energy; 1 ms after a LINK reset of the host link, a link that
is still down has no configuration any more (R172, R321); a cap-loop period takes the energy sampled since the last one; a
level switch never passes the ceiling, hardware's alone while the sequencer is absent (R243); a window of the estimator moves whole units of the sampled energy into PW_ENERGY and keeps the rest.
R257, R259: a quiet slot holds the crest whose entry is oldest, and its end measures the entry and releases the crest; a
calibration of 10 s and more is stale. -/
def Obligations.PowerControlPeriods : Prop :=
  (∀ (s : State) (p : Nat) (ms : List RegMeas) (vin : Nat) (ws : List WinMeas) (moved : List ((Nat × Nat) × Nat)),
    (s.mg.released = true → s.mg.linkSince = none → ∃ t, exec (.regSample ms vin) s = .next t ∧ t.time = s.time + 1 ∧
      t.pwr.accW = s.pwr.accW + ((ms.filter (fun m => m.r ≤ 24)).map (fun m => m.iin * vin)).sum ∧ t.crests = s.crests ∧
      (∀ r, (t.reg r).st = (s.reg r).st) ∧
      ((∀ n, n < 96 → (s.slice n).unavailable = false) → t.store = s.store)) ∧
    (∀ since, s.mg.released = true → s.mg.linkSince = some since → since + 1000 ≤ s.time + 1 →
      (∀ m, m < 4 → (s.hmod m).st ≠ 2) → ∃ t, exec (.regSample ms vin) s = .next t ∧ t.time = s.time + 1 ∧
      t.mg.linkSince = none ∧ t.hostConfig = 0) ∧
    (s.mg.released = true → s.pwr.seqPresent = true → ∃ t, exec .capLoop s = .next t ∧ t.pwr.acc10 = 0 ∧
      t.pwr.modeNow = s.pwr.mode ∧ t.pwr.meas = s.pwr.acc10 * 16 / 10000000 % 65536 ∧ t.pwr.energy = s.pwr.energy ∧
      t.pwr.capSust = s.pwr.capSust ∧ t.store = s.store ∧ t.parts = s.parts) ∧
    (∀ l, (s.crest p).pendLevel = some l → (s.crest p).pw ≠ .off → ∃ t, exec (.levelSwitch p) s = .next t ∧
      (t.crest p).level = max l (s.ceilNow p) ∧ (t.crest p).pendLevel = none ∧
      ((s.reg p).st = 2 → (t.reg p).setpoint = levelMv (max l (s.ceilNow p))) ∧ (∀ k, k ≠ p → t.crest k = s.crest k)) ∧
    (s.mg.released = true → ∃ t, exec (.estimatorWindow ws moved) s = .next t ∧ t.pwr.accW = s.pwr.accW % 15625 ∧
      t.pwr.energy = (s.pwr.energy + s.pwr.accW / 15625) % 2 ^ 64 ∧ t.store = s.store ∧ t.mg = s.mg)) ∧
  (∀ (s : State) (p w : Nat),
    (s.pwr.seqPresent = true → s.pwr.quietEn = true → s.pwr.modeNow ≠ 1 → 1000000 ≤ s.quietAge →
      (∀ k, k < 17 → (s.crest k).quiet = false) → s.quietOk p = true → (s.crest p).inv = none →
      (∀ v vs, (s.crest p).work = v :: vs → ∃ c, s.cmd? v.q v.t = some c ∧ c.atBoundary v = true) →
      (∀ k, k < 17 → s.quietOk k = true → s.entryTime p ≤ s.entryTime k) →
      exec (.quietSlot p) s = .next (s.modCrest p fun x => { x with quiet := true, quietAt := some s.time })) ∧
    (p ≤ 16 → (s.crest p).quiet = true → ∃ t, exec (.quietSlotEnd p w) s = .next t ∧ (t.crest p).quiet = false ∧
      tget none (t.crest p).offs ((s.crest p).level * 8 + s.band p) = some (((w : Nat) : Rat) / 16, s.time) ∧
      t.pwr.quietTime = s.time ∧ t.pwr.stale = false ∧ (∀ k, k ≠ p → t.crest k = s.crest k)) ∧
    (10000000 ≤ s.quietAge → exec .calibStale s = .next { s with pwr := { s.pwr with stale := true } }))

/-- R254, R255, R256, R284, R340: every reading is kept; one out of range excludes its sensor, and is only logged of one excluded before; a second reading of 115 °C trips the die and every
crest is OFF; a region at 100 °C or more slows by one level a step; the recovery puts every region at P15. R263: in
CRITICAL_PATH a member sends its SLACK to the leader, which keeps its own; the leader redistributes the caps and its own
entry stands at once. -/
def Obligations.HeatDroopAndTheCriticalPath : Prop :=
  (∀ (s : State) (i p waited : Nat) (v : Int), s.mg.released = true →
    (i ≤ 63 → tget false s.pwr.excluded i = false → (v < -160 ∨ 600 < v) → ∃ t, exec (.sensorRead i v) s = .next t ∧
      tget false t.pwr.excluded i = true ∧ t.mg.alertStat.testBit 16 = true ∧ t.crests = s.crests ∧
      tget 0 t.pwr.temps i = v) ∧
    (i ≤ 63 → tget false s.pwr.excluded i = true → (v < -160 ∨ 600 < v) → ∃ t, exec (.sensorRead i v) s = .next t ∧
      t = { s with log := t.log, logNext := t.logNext, pwr := { s.pwr with temps := tset 0 s.pwr.temps i v } } ∧
      t.log.head?.map (fun e => (e.code, e.cls, e.unit)) = some (0x20, 2, i)) ∧
    (i ≤ 63 → tget false s.pwr.excluded i = true → -160 ≤ v → v ≤ 600 →
      exec (.sensorRead i v) s = .next { s with pwr := { s.pwr with temps := tset 0 s.pwr.temps i v } }) ∧
    (i ≤ 63 → tget false s.pwr.excluded i = false → 460 ≤ v → v ≤ 600 → tget false s.pwr.hotOnce i = true →
      s.pwr.tripped = false → ∃ t, exec (.sensorRead i v) s = .next t ∧ t.pwr.tripped = true ∧ t.pwr.tripBit = true ∧
      (∀ p, p < 17 → (t.crest p).pw = .off) ∧ t.mg.alertStat.testBit 11 = true) ∧
    (i ≤ 63 → tget false s.pwr.excluded i = false → -160 ≤ v → v < 460 → ∃ t, exec (.sensorRead i v) s = .next t ∧
      tget 0 t.pwr.temps i = v ∧ tget false t.pwr.hotOnce i = false ∧ t.crests = s.crests) ∧
    (s.pwr.seqPresent = true → ∃ t, exec .thermalStep s = .next t ∧ (∀ f, f ∈ regionList →
      (∀ x, s.regionTemp f = some x → 400 ≤ x → tget 0 t.pwr.thermal f = min 15 (tget 0 s.pwr.thermal f + 1)) ∧
      (s.regionTemp f = none → tget 0 t.pwr.thermal f = 6)) ∧ t.store = s.store) ∧
    (s.pwr.tripped = true → s.pwr.seqPresent = true →
      (∀ i, i < 64 → tget false s.pwr.excluded i = true ∨ tget 0 s.pwr.temps i < 380) →
      ∃ t, exec (.tripRecover waited) s = .next t ∧ t.pwr.tripped = false ∧
        (∀ f, f ∈ regionList → tget 0 t.pwr.thermal f = 15) ∧ t.parts = s.parts) ∧
    (p ≤ 16 → (s.crest p).pw ≠ .off → ∃ t, exec (.droop p) s = .next t ∧ (t.crest p).droop = true ∧
      (t.crest p).level = (s.crest p).level ∧ t.pwr.droopCnt = (s.pwr.droopCnt + 1) % 65536 ∧
      (∀ k, k ≠ p → t.crest k = s.crest k)) ∧
    (exec (.droopRelease p) s = .next (s.modCrest p fun c => { c with droop := false }))) ∧
  (∀ (s : State) (x : Int), s.critical = true →
    (s.leader = s.position → ∃ t, exec (.slackReport x) s = .next t ∧
      tget none t.pwr.slackOf s.position = some (s.slack x, (s.pwr.bins10.take 10).sum * 16 / 100000000 % 65536, s.pwr.capSust, s.time) ∧
      t.ports = s.ports ∧ t.pwr.slackIdx = (s.pwr.slackIdx + 1) % 2 ^ 32) ∧
    (s.leader ≠ s.position → ∃ t, exec (.slackReport x) s = .next t ∧ t.pwr.slackOf = s.pwr.slackOf ∧
      t.pwr.slackIdx = (s.pwr.slackIdx + 1) % 2 ^ 32 ∧
      (∀ k, s.wayIn s.leader = some k → ∃ f, (t.port k).qMgmt = (s.port k).qMgmt ++ [f] ∧ f.dst = s.leader ∧ fld f.body 0 1 = 6 ∧
        fld f.body 1 4 = s.pwr.slackIdx % 2 ^ 32 ∧ fld f.body 5 4 = wrap 32 (s.slack x) ∧ fld f.body 11 2 = s.pwr.capSust % 65536)) ∧
    (s.leader = s.position → ∃ t, exec .groupCapRedistribute s = .next t ∧ t.pwr.capsSet = some s.members ∧
      t.pwr.epochSent = (s.pwr.epochSent + 1) % 2 ^ 32 ∧
      t.pwr.effCap = some ((tget 0 t.pwr.caps s.position).floor.toNat % 65536) ∧ t.pwr.capSust = s.pwr.capSust))

/-- R233, R237, R238: a soft start begins at the regulator's setpoint; one that reaches 30 % of it is ON, any other
stops and waits for its retry, or is permanently faulted, at the third attempt for certain. R239, R240, R241, R242: a stop
leaves the regulator waiting or faulted, a tier's slices without their contents; a phase whose current is there is verified,
one that lacks it twice is open, and the phase under a diagnostic pulse gives way to the next; a failed sense is recorded;
the diagnostic gives a lightly loaded regulator its pulses, which end where the load rises or DIAG_PULSE is 0, and pause with
the sequencer (R243). R284: an event of a permanently faulted regulator is logged and nothing else; its CLASS 2 is the model's
choice (DEDUCED, log 93). -/
def Obligations.RegulatorsStartRetryAndStop : Prop :=
  (∀ (s : State) (r vout : Nat), r ≤ 23 →
    ((s.reg r).st = 0 → (s.reg r).permanent = false → s.regWanted r = true → ∃ t, exec (.softstart r) s = .next t ∧
      (t.reg r).st = 1 ∧ (t.reg r).attempt = 1 ∧ (t.reg r).setpoint = s.regSet r ∧ (∀ k, k ≠ r → t.reg k = s.reg k)) ∧
    ((s.reg r).st = 1 → 30 * (s.reg r).setpoint ≤ vout * 100 → ∃ t, exec (.softstartEnd r vout) s = .next t ∧
      (t.reg r).st = 2 ∧ (t.reg r).vout = vout ∧ (∀ k, k ≠ r → t.reg k = s.reg k)) ∧
    ((s.reg r).st = 1 → vout * 100 < 30 * (s.reg r).setpoint → ∃ t, exec (.softstartEnd r vout) s = .next t ∧
      ((t.reg r).st = 4 ∨ (t.reg r).st = 5) ∧ (t.reg r).setpoint = 0 ∧ t.mg.alertStat.testBit 2 = true) ∧
    ((s.reg r).st = 1 → (s.reg r).permanent = false → ∃ t, exec (.softstartLimitFail r) s = .next t ∧
      ((t.reg r).st = 4 ∨ (t.reg r).st = 5) ∧ (t.reg r).setpoint = 0 ∧
      (3 ≤ (s.reg r).tries → (t.reg r).st = 5 ∧ (t.reg r).permanent = true)) ∧
    ((s.reg r).st = 4 → (r ≤ 16 → s.pwr.tripped = false) → ∃ t, exec (.retryWaitEnd r) s = .next t ∧ (t.reg r).st = 1 ∧
      (t.reg r).attempt = (s.reg r).tries + 1 ∧ (t.reg r).tries = (s.reg r).tries + 1 ∧ (t.reg r).setpoint = s.regSet r ∧
      (∀ k, k ≠ r → t.reg k = s.reg k) ∧ t.crests = s.crests)) ∧
  (∀ (s : State) (r : Nat) (ov : Bool) (on cur : List Nat) (suspect : Nat), r ≤ 23 →
    (((s.reg r).st = 2 ∨ (s.reg r).st = 3) → (s.reg r).permanent = false → ∃ t, exec (.regStop r ov) s = .next t ∧
      ((t.reg r).st = 4 ∨ (t.reg r).st = 5) ∧ (t.reg r).setpoint = 0 ∧ t.mg.alertStat.testBit 2 = true ∧
      (17 ≤ r → r ≤ 22 → (s.countErr kReg r).atThresh kReg r = false → ∀ n ∈ tierSlices (r - 17), s.sliceRetired n = false →
        (t.slice n).unavailable = true ∧
          (NoneHeld s → s.ingress = [] → ∀ g, g / 2 ^ 24 = n → tget 0#8 t.store g = 0#8))) ∧
    (((s.reg r).st = 1 ∨ (s.reg r).st = 2) → (s.reg r).senseFail = false → ∃ t, exec (.phaseWindow r on cur) s = .next t ∧
      (∀ k, k < regPhases r → (s.reg r).openMask.testBit k = false → 200 ≤ on.getD k 0 →
        250 ≤ cur.getD k 0 → tget 0 (t.reg r).phVerify k = s.time ∧ tget 0 (t.reg r).phStat k = 0) ∧
      (∀ k, k < regPhases r → (s.reg r).permanent = false → 200 ≤ on.getD k 0 → cur.getD k 0 < 250 →
        (s.reg r).lowOnce.testBit k = true → (t.reg r).openMask.testBit k = true ∨
          ((t.reg r).permanent = true ∧ ∃ j, j < k ∧ (t.reg r).openMask.testBit j = true)) ∧
      ((20 * regRating r < cur.sum * 100 ∨ s.mg.diag.testBit 0 = false) → (t.reg r).pulse = 0) ∧
      (cur.sum * 100 ≤ 20 * regRating r → s.mg.diag.testBit 0 = true → ∀ due, due = (s.reg r).stillDue s.time →
        (t.reg r).pulse = if s.pwr.seqPresent then
          match (List.range 4).find? (fun k => due.testBit k) with | some k => clrBit due k | none => due
          else due)) ∧
    (1 ≤ (s.reg r).st → (s.reg r).st ≤ 3 → (s.reg r).senseFail = false → (s.reg r).permanent = false →
      s.pwr.seqPresent = true → ∃ t, exec (.senseFail r suspect) s = .next t ∧ (t.reg r).senseFail = true ∧
      (t.reg r).lowOnce = 0 ∧ (t.reg r).pulse = 0 ∧ t.mg.alertStat.testBit 6 = true) ∧
    (s.pwr.seqPresent = true → s.mg.diag.testBit 0 = true → ∃ t, exec .diagCycle s = .next t ∧
      ((s.reg r).st = 2 → (s.reg r).senseFail = false → (s.reg r).load * 100 < 20 * regRating r → ∀ k, k < regPhases r →
        (t.reg r).pulse.testBit k = (!(s.reg r).openMask.testBit k && decide (tget 0 (s.reg r).phVerify k + 10000 < s.time))) ∧
      (t.reg r).st = (s.reg r).st ∧ t.crests = s.crests ∧ t.pwr = s.pwr) ∧
    ((s.reg r).permanent = true → ∀ i, (i = .regStop r ov ∨ i = .softstartLimitFail r ∨ i = .senseFail r suspect) →
      ∃ t, exec i s = .next t ∧ t = { s with log := t.log, logNext := t.logNext } ∧
        t.log.head?.map (fun e => (e.cls, e.kind, e.unit)) = some (2, 6, r)))

/-! Repair. -/

/-- R271, R272, R273, R276, R278: the spare takes its logical crest, but not behind a col that has failed, where the logical
crest is absent; a row sparing starts, is copied, its held accesses going on, and tested, one that fails costing a spare row, a slice with none left being retired;
a scrub read that finds nothing goes on to the next line, one that finds an uncorrectable error poisons its line; a col
replay counts, and one that fails delivers its line poisoned: it is stored so, or the command that it was for ends. -/
def Obligations.RepairInService : Prop :=
  ∀ (s : State) (n r : Nat),
    (∀ l, s.rep.bindDue = some l → s.colRetired (s.crestCol (s.physOf l)) = false →
      (s.pwr.tripped = true ∨ s.pwr.seqPresent = false ∨ (s.reg 16).st = 0 ∨ (s.reg 16).st = 2) →
      ∃ t, exec .spareBind s = .next t ∧ t.physOf l = 16 ∧ t.rep.spareSt = 1 ∧ t.rep.replaces = s.physOf l ∧
        t.rep.bindDue = none ∧ t.mg.alertStat.testBit 13 = true ∧
        (s.physOf l < 16 → s.mg.resetDue = none → ∀ k ∈ (s.crest (s.physOf l)).held, k ∈ (t.crest 16).held)) ∧
    (∀ l, s.rep.bindDue = some l → s.colRetired (s.crestCol (s.physOf l)) = true →
      ∃ t, exec .spareBind s = .next t ∧ t.physOf l = 31 ∧ t.rep.bindDue = none ∧ t.mg.alertStat.testBit 14 = true) ∧
    (∀ rs, n < 96 → (s.slice n).sparing = none → (s.slice n).spareQ = r :: rs → s.sliceRetired n = false → (s.slice n).pw = .on →
      (s.slice n).spares ≠ 0 →
      exec (.rowSpare n) s = .next (s.modSlice n fun x => { x with
        sparing := some (r, x.copied.contains r), spareQ := rs, copied := x.copied.filter (· ≠ r) })) ∧
    (∀ rs, n < 96 → (s.slice n).sparing = none → (s.slice n).spareQ = r :: rs → s.sliceRetired n = false → (s.slice n).pw = .on →
      (s.slice n).spares = 0 → ∃ t, exec (.rowSpare n) s = .next t ∧ t.sliceRetired n = true) ∧
    (∀ w, (s.slice n).sparing = some (r, false) → NoneHeld s → s.ingress = [] → s.stalled.Nodup →
      ∃ t, exec (.rowCopyEnd ⟨n, w⟩) s = .next t ∧ (t.slice n).sparing = some (r, true) ∧
        t.stalled = s.stalled.filter (fun e => e.2 ≠ .sparing n) ∧ t.store = s.store ∧
        (∀ q k c, ((q, k), .sparing n) ∈ s.stalled → s.cmd? q k = some c → t.cmd? q k = some (c.charge wStore w))) ∧
    (∀ pass, (s.slice n).sparing = some (r, true) → ∃ t, exec (.rowTestDone n pass) s = .next t ∧
      (t.slice n).sparing = none ∧ (t.slice n).spares = (if pass then (s.slice n).spares else (s.slice n).spares - 1) ∧
      (∀ k, k ≠ n → t.slice k = s.slice k) ∧ t.store = s.store ∧ t.logNext = (s.logNext + 1) % 2 ^ 32) ∧
    (∀ w, n < 96 → s.mg.diag.testBit 1 = true → s.sliceRetired n = false → (s.slice n).unavailable = false →
      (s.slice n).pw = .on →
      exec (.scrubRead n (s.slice n).scrub none w) s =
        .next (s.modSlice n fun x => { x with scrub := ((s.slice n).scrub + 1) % 2 ^ 18 }) ∧
      ((s.slice n).scrub < 2 ^ 18 → s.hostBias (n * 2 ^ 18 + (s.slice n).scrub) = false →
        ∃ t, exec (.scrubRead n (s.slice n).scrub (some .ue) w) s = .next t ∧
        (t.sliceRetired n = false → tget false t.poison (n * 2 ^ 18 + (s.slice n).scrub) = true))) ∧
    (∀ c clean a d w, c ≤ 3 → s.mg.released = true → s.colRetired c = false →
      ∃ t, exec (.colReplay c clean ⟨a, d, w⟩) s = .next t ∧
      tget 0 t.rep.xfer c = min 65535 (tget 0 s.rep.xfer c + 1) ∧ t.cmds.length ≤ s.cmds.length ∧
      (clean = false → d = .slice → (s.countErr kCol c).atThresh kCol c = false → a / 2 ^ 24 < 96 →
        s.sliceRetired (a / 2 ^ 24) = false → tget false t.poison (a / 64) = true) ∧
      (∀ q k x, clean = false → d = .crest q k → (s.countErr kCol c).atThresh kCol c = false → s.cmd? q k = some x →
        x.fin = none → (t.cmd? q k).map (·.fin) = some (some (sPoison, 0x50))))

/-! The host port. -/

/-- R148, R177, R178, R179: a host read of an owned, powered line answers what the host sees there, poisoned where the line is;
one of a slice that does not serve answers with poison and is logged; a host write of a line in device bias, with nothing of it
cached or pending, stores the bytes that it lists and leaves every other byte of the store. R170, R181: an access that a
changing page or a retrain holds waits. -/
def Obligations.HostReadsAndWritesTheStore : Prop :=
  ∀ (s : State) (a w : Nat) (bs : List (Option Byte)) (poison : Bool), a % 64 = 0 → a < 0x60000000 → s.serving = true →
    let g := s.hdmAddr a
    (s.hostHeld a = true →
      exec (.hostMemRead a none w) s = .next { s with bias := { s.bias with heldHost := s.bias.heldHost ++ [.read a none w] } } ∧
      exec (.hostMemWrite a bs poison) s =
        .next { s with bias := { s.bias with heldHost := s.bias.heldHost ++ [.write a bs poison] } }) ∧
    (s.hostHeld a = false →
      (s.hostServes (g / 2 ^ 24) = true → (s.slice (g / 2 ^ 24)).pw = .on →
        exec (.hostMemRead a none w) s = .next { s with
          out := .hostData (s.read .host ((List.range 64).map (g + ·))) (s.linePoison (g / 64)) :: s.out
          freeCtr := s.freeCtr + 1 }) ∧
      (s.hostServes (g / 2 ^ 24) = false → ∃ t d, exec (.hostMemRead a none w) s = .next t ∧ t.out = .hostData d true :: s.out ∧
        t.store = s.store ∧ t.logNext = (s.logNext + 1) % 2 ^ 32) ∧
      (s.hostServes (g / 2 ^ 24) = false → ∃ t, exec (.hostMemWrite a bs poison) s = .next t ∧ t.store = s.store ∧
        t.poison = s.poison ∧ t.logNext = (s.logNext + 1) % 2 ^ 32) ∧
      (s.hostServes (g / 2 ^ 24) = true → (s.slice (g / 2 ^ 24)).pw = .on → bs.length = 64 → g % 64 = 0 →
        s.hostBias (g / 64) = false → tget {} s.cache (g / 64) = {} → (∀ e ∈ s.pend, e.line ≠ g / 64) →
        (∀ e ∈ s.evict, e.line ≠ g / 64) →
        ∃ t, exec (.hostMemWrite a bs poison) s = .next t ∧
          (∀ i, i < 64 → tget 0#8 t.store (g + i) = (bs.getD i none).getD (tget 0#8 s.store (g + i))) ∧
          (∀ k, (k < g ∨ g + 64 ≤ k) → tget 0#8 t.store k = tget 0#8 s.store k) ∧ t.pend = s.pend ∧ t.hostMem = s.hostMem))

/-- R183, R184, Table HOST-8: the answers of the device coherent cache to the three snoops, and the line's state after
each; a line in the eviction buffer answers from there, modified with its data, which goes home, clean without, and with none
once its data has been pulled or a snoop has met it. R184: an eviction that the host grants leaves the buffer; a modified line
that no snoop has taken goes back where it lives and is sent, a snooped one sends none. R23: a die below the minimum service
set answers none. -/
def Obligations.SnoopsAndEvictions : Prop :=
  (∀ (s : State) (l : Nat), s.mg.device = 1 → s.mg.cause = 3 →
    exec (.snpdata l) s = .next s ∧ exec (.snpinv l) s = .next s ∧ exec (.snpcur l) s = .next s) ∧
  (∀ (s : State) (l : Nat), (s.mg.device ≠ 1 ∨ s.mg.cause ≠ 3) →
    let c := tget {} s.cache l
    let answer (i : Instr) (resp : String) (data : List Byte) (st : Mesi) : Prop :=
      ∃ t, exec i s = .next t ∧ t.out = .snoop resp data :: s.out ∧ (tget {} t.cache l).st = st ∧
        (∀ k, k ≠ l → tget {} t.cache k = tget {} s.cache k) ∧ t.evict = s.evict
    (c.st = .M → answer (.snpdata l) "RspSFwdM" c.data .S ∧ answer (.snpinv l) "RspIFwdM" c.data .I ∧
      answer (.snpcur l) "RspVFwdV" c.data .M) ∧
    (c.st = .E → answer (.snpdata l) "RspSHitSE" [] .S ∧ answer (.snpinv l) "RspIHitSE" [] .I ∧
      answer (.snpcur l) "RspVHitV" [] .E) ∧
    (c.st = .S → answer (.snpdata l) "RspSHitSE" [] .S ∧ answer (.snpinv l) "RspIHitSE" [] .I ∧
      answer (.snpcur l) "RspVHitV" [] .S) ∧
    (c.st = .I → (∀ e ∈ s.evict, e.line = l → (e.pulled = true ∨ e.snooped = true)) →
      answer (.snpdata l) "RspIHitI" [] .I ∧ answer (.snpinv l) "RspIHitI" [] .I ∧ answer (.snpcur l) "RspIHitI" [] .I) ∧
    (∀ e, c.st = .I → e ∈ s.evict → e.line = l → e.pulled = false → e.snooped = false → (∀ x ∈ s.evict, x.line = l → x = e) →
      ∀ i, (i = .snpdata l ∨ i = .snpinv l ∨ i = .snpcur l) → ∃ t, exec i s = .next t ∧
        t.out = (if e.modified then .snoop "RspIFwdM" e.data else .snoop "RspIHitSE" []) :: s.out ∧ t.cache = s.cache ∧
        (∀ x ∈ t.evict, x.line = l → x = { e with snooped := true }) ∧ (∀ x, x.line ≠ l → (x ∈ t.evict ↔ x ∈ s.evict)) ∧
        (e.modified = true → e.data.length = 64 → isHostLine l = false →
          ∀ k, k < 64 → tget 0#8 t.store (64 * l + k) = e.data.getD k 0#8) ∧
        (e.modified = false → t.store = s.store ∧ t.hostMem = s.hostMem))) ∧
  (∀ (s : State) (l w : Nat) (e : Evict), s.evict.find? (fun x => x.line = l) = some e → NoneHeld s →
    ∃ t, exec (.evictionGrant ⟨l, w⟩) s = .next t ∧ t.evict = s.evict.erase e ∧
      t.stalled = s.stalled.filter (fun e => e.2 ≠ .evictRoom) ∧
      ((e.modified = true ∧ e.snooped = false ∧ e.pulled = false) → t.out = .evicted l e.data e.poison :: s.out) ∧
      ((e.modified = false ∨ e.snooped = true) → t.out = s.out ∧ t.store = s.store ∧ t.hostMem = s.hostMem) ∧ t.cache = s.cache)

/-- R168, R170, R171: an event retrains the whole link: its module counts it, and the other modules in service join; a
retrain that ends well sets what the module reached, and the last one the link's configuration; a failed attempt is repeated,
the third retires the module. R284: an event of a retired module is logged and nothing else but its CRC retries. -/
def Obligations.HostModulesRetrain : Prop :=
  ∀ (s : State) (m reach n w : Nat), m < 4 →
    (s.rep.retMod.testBit m = true → ∃ t, exec (.hostRetrain ⟨m, n⟩) s = .next t ∧
      t = { s with log := t.log, logNext := t.logNext, mods := t.mods } ∧
      t.hmod m = { s.hmod m with crcRetries := (s.hmod m).crcRetries + n }) ∧
    (s.rep.retMod.testBit m = false →
      (((s.hmod m).st = 2 ∨ (s.hmod m).st = 3) → ∃ t, exec (.hostRetrain ⟨m, n⟩) s = .next t ∧
        (t.rep.retMod.testBit m = false → (t.hmod m).st = 4) ∧ (t.hmod m).retrains = min 255 ((s.hmod m).retrains + 1) ∧
        (t.hmod m).crcRetries = (s.hmod m).crcRetries + n ∧
        ((s.countErr kHost m).atThresh kHost m = false → t.rep.retMod = s.rep.retMod ∧ t.hostConfig = s.hostConfig ∧
          ∀ k, k < 4 → k ≠ m → ((s.hmod k).st = 2 ∨ (s.hmod k).st = 3) → s.rep.retMod.testBit k = false →
            (t.hmod k).st = 4)) ∧
      (((s.hmod m).st = 1 ∨ (s.hmod m).st = 4) →
        (NoneHeld s → ∃ t, exec (.hostRetrainDone m true reach ⟨false, w⟩) s = .next t ∧
          (t.hmod m).reach = reach % 64 ∧ (t.hmod m).best = bestOf (reach % 64) ∧ ((t.hmod m).st = 2 ∨ (t.hmod m).st = 3) ∧
          t.rep.retMod = s.rep.retMod ∧
          ((∀ k, k < 4 → k ≠ m → (s.hmod k).st ≠ 1 ∧ (s.hmod k).st ≠ 4) → t.hostConfig = t.bestConfig) ∧
          (∀ k, k < 4 → k ≠ m → ((s.hmod k).st = 1 ∨ (s.hmod k).st = 4) → t.hostConfig = s.hostConfig)) ∧
        ((s.hmod m).attempt < 2 →
          exec (.hostRetrainDone m false reach ⟨false, w⟩) s = .next (s.modHmod m fun h => { h with attempt := h.attempt + 1 })) ∧
        (2 ≤ (s.hmod m).attempt → NoneHeld s →
          ∃ t, exec (.hostRetrainDone m false reach ⟨false, w⟩) s = .next t ∧ t.rep.retMod.testBit m = true ∧ (t.hmod m).st = 5 ∧
            ((∀ k, k < 4 → k ≠ m → (s.hmod k).st ≠ 1 ∧ (s.hmod k).st ≠ 4) → t.hostConfig = t.bestConfig))))

/-! Trelkai. -/

/-- R192, R193, R195, R196: an ACTIVE port sends its oldest flit that is to go again, or its first new flit, which gets the
next SEQ and is held, or a CREDIT flit, or IDLE. -/
def Obligations.PortsSendInOrder : Prop :=
  ∀ (s : State) (k : Nat), k < 3 → (s.port k).st = 2 →
    let x := s.port k
    let m := s.peerOf k
    (∀ f, x.resend ≠ 0 → x.held[x.held.length - x.resend]? = some f → ∃ t g, exec (.flitSend k) s = .next t ∧
      t.out = .flit k g :: s.out ∧ g.seq = f.seq ∧ g.body = f.body ∧ (t.port k).resend = x.resend - 1 ∧
      (t.port k).nextSeq = x.nextSeq ∧ (t.port k).held.length = x.held.length) ∧
    (∀ f y, x.resend = 0 → x.held.length < 256 → x.nextNew m = some (f, y) → ∃ t g, exec (.flitSend k) s = .next t ∧
      t.out = .flit k g :: s.out ∧ g.seq = x.nextSeq ∧ g.body = f.body ∧ g.typ = f.typ ∧ g.ack = (x.expect + 4095) % 4096 ∧
      g.crc = g.crcOf ∧ (t.port k).nextSeq = (x.nextSeq + 1) % 4096 ∧ (t.port k).held = y.held ++ [g]) ∧
    (x.resend = 0 → x.held.length < 256 → x.nextNew m = none → x.owes = true → ∃ t g, exec (.flitSend k) s = .next t ∧
      t.out = .flit k g :: s.out ∧ g.typ = 6 ∧ g.seq = x.nextSeq ∧ (t.port k).held = x.held ++ [g] ∧
      (t.port k).oweData = x.oweData - min 3 x.oweData) ∧
    (x.resend = 0 → (256 ≤ x.held.length ∨ (x.nextNew m = none ∧ x.owes = false)) → ∃ t g, exec (.flitSend k) s = .next t ∧
      t.out = .flit k g :: s.out ∧ g.typ = 0 ∧ (t.port k).held = x.held ∧ (t.port k).nextSeq = x.nextSeq)

/-- R192, R195, R197 to R203: an accepted flit of this die is carried out by its TYPE and MSG and frees its buffer
entry; data and flags after those that a row sparing held (R272, log 139). A RESYNC_RSP echoes the PORT of its request,
whose other end is this die's port 2 − PORT (R187; DEDUCED, log 44). R201: a HELLO with this die's position, or not its peer's, disables the port, whatever position it was sent to. R199, R115: CH_CLOSED marks the named tile of a stream that still holds it as to be sent again, once. -/
def Obligations.AcceptedFlitsAreCarriedOut : Prop :=
  (∀ (s : State) (k : Nat) (f : Flit), Accepted s k f →
    let j := fld f.body 1 1
    (f.typ = 1 → exec (.dataStore k f) s = .next (received s k f fun u => u.serveIngress.ingest k f)) ∧
    (f.typ = 2 → exec (.dataChannel k f) s = .next (received s k f fun u =>
      (if f.row = 0 ∧ f.half = 0 then u.decideTile k f else u).serveIngress.ingest k f)) ∧
    (f.typ = 3 → exec (.flag k f) s = .next (received s k f fun u => u.serveIngress.ingest k f)) ∧
    ((f.typ = 1 ∨ f.typ = 2 ∨ f.typ = 3) → s.ingress = [] → (s.accept k f).flitHeld f = false →
      (s.accept k f).serveIngress.ingest k f = match f.typ with
        | 1 => (s.accept k f).dataStore k f | 2 => (s.accept k f).landFlit f | _ => (s.accept k f).flagFlit k f) ∧
    (f.typ = 4 → exec (.flagAck k f) s = .next (received s k f fun u => u.flagAck f)) ∧
    (f.typ = 6 → ∃ t, exec (.credit k f) s = .next t ∧
      (t.port k).crData = (s.port k).crData + f.crData % 4 ∧ (t.port k).expect = ((s.port k).expect + 1) % 4096 ∧
      (f.nak = false → t.store = s.store ∧ t.cmds = s.cmds)) ∧
    (f.typ = 5 → fld f.body 0 1 = 2 → ∃ t, exec (.linkmap k f) s = .next t ∧
      tget 0 t.linkmaps f.src = fld f.body 5 1 % 16) ∧
    (f.typ = 5 → fld f.body 0 1 = 3 → exec (.resyncReq k f) s = .next (received s k f fun u =>
      u.sendMgmt f.src 4 (toBytes j 1 ++ toBytes (u.port (2 - j)).expect 2))) ∧
    (f.typ = 5 → fld f.body 0 1 = 4 → j < 3 → ((s.accept k f).port j).resync = true →
      exec (.resyncRsp k f) s = .next (received s k f fun u => u.resynced j (fld f.body 2 2))) ∧
    (f.typ = 5 → fld f.body 0 1 = 6 → ∃ t, exec (.slack k f) s = .next t ∧ tget none t.pwr.slackOf f.src =
      some (sext 32 (fld f.body 5 4), fld f.body 9 2, fld f.body 0xB 2, s.time)) ∧
    (f.typ = 5 → fld f.body 0 1 = 7 → ∃ t, exec (.groupCap k f) s = .next t ∧
      t.pwr.effCap = some (fld f.body (5 + 2 * s.position) 2) ∧ t.pwr.capSust = s.pwr.capSust)) ∧
  (∀ (s : State) (k : Nat) (f : Flit) (c : Cmd), Accepted s k f → f.typ = 5 → fld f.body 0 1 = 5 →
    (s.accept k f).cmds.find? (fun c => c.fin.isNone && c.streams.any (fun x =>
      x.dst = f.src && x.sid = fld f.body 2 1 && x.kept.any (fun e => e.1 = fld f.body 3 4))) = some c →
    ∃ t, exec (.chClosed k f) s = .next t ∧ (c.q, c.t, fld f.body 2 1, fld f.body 3 4) ∈ t.retries ∧ t.cmds = (s.accept k f).cmds) ∧
  (∀ (s : State) (k : Nat) (f : Flit), k < 3 → (s.port k).st = 2 → f.good = true → f.seq = (s.port k).expect →
    (f.dst = s.position ∨ f.fwd = false) → f.typ = 5 → fld f.body 0 1 = 1 →
    ∃ t, exec (.hello k f) s = .next t ∧
      (fld f.body 1 1 = s.position → (t.port k).st = 4 ∧ (t.port k).disCause = 1) ∧
      (fld f.body 1 1 ≠ s.position → fld f.body 1 1 ≠ s.peerOf k → (t.port k).st = 4 ∧ (t.port k).disCause = 2) ∧
      (fld f.body 1 1 ≠ s.position → fld f.body 1 1 = s.peerOf k → (t.port k).helloSeen = true))

/-- R200: a management message with an unlisted MSG is discarded and logged: it changes nothing but its port's counts. -/
def Obligations.UnlistedMessagesAreLogged : Prop :=
  ∀ (s : State) (k : Nat) (f : Flit), Accepted s k f → f.typ = 5 → (fld f.body 0 1 = 0 ∨ 7 < fld f.body 0 1) → f.nak = false →
    ∃ t, exec (.unlistedMsg k f) s = .next t ∧ t = { s with ports := t.ports, log := t.log, logNext := t.logNext } ∧
      t.log.head?.map (fun e => (e.code, e.unit, e.detail)) = some (0x15, k, 2) ∧ t.logNext = (s.logNext + 1) % 2 ^ 32 ∧
      (∀ m, m ≠ k → t.port m = s.port m)

/-- R192, R202: a bad flit is discarded and a NAK is due unless one is unanswered, and leaves with the next flit; an IDLE flit
carries ACK and NAK alone; a relayed flit goes on to its destination's egress when there is credit for it, with FWD 0, which is
the model's choice (DEDUCED, log 42). -/
def Obligations.BadIdleAndRelayedFlits : Prop :=
  ∀ (s : State) (k : Nat) (f : Flit), k < 3 →
    ((s.port k).st = 2 → f.good = false → ∃ t, exec (.badFlit k f) s = .next t ∧
      (t.port k).sendNak = ((s.port k).sendNak || !(s.port k).nakSent) ∧ (t.port k).nakSent = (s.port k).nakSent ∧
      (t.port k).expect = (s.port k).expect ∧ (∀ m, m ≠ k → t.port m = s.port m) ∧ t.store = s.store) ∧
    ((s.port k).st = 2 → (s.port k).sendNak = true → (s.port k).resend ≤ (s.port k).held.length →
      ∃ t g, exec (.flitSend k) s = .next t ∧ t.out = .flit k g :: s.out ∧ g.nak = true ∧ (t.port k).sendNak = false ∧
        (t.port k).nakSent = true) ∧
    ((s.port k).st = 2 → f.good = true → f.typ = 0 → exec (.idle k f) s = .next (s.serveIngress.takeAck k f)) ∧
    ((s.port k).st = 2 → f.good = true → f.typ = 0 → f.nak = false → s.ingress = [] → ∃ t, exec (.idle k f) s = .next t ∧
      (t.port k).held = (s.port k).held.dropWhile (fun h => decide ((f.ack + 4096 - h.seq) % 4096 < 2048)) ∧
      (t.port k).expect = (s.port k).expect ∧ t.cmds = s.cmds ∧ t.store = s.store) ∧
    (∀ g rs, (s.port k).relayIn = g :: rs → s.linkUp g.dst = true → (s.port (s.portTo g.dst)).credits (g.cls false) ≠ 0 →
      s.portTo g.dst ≠ k → ∃ t, exec (.relayForward k) s = .next t ∧ (t.port k).relayIn = rs ∧
        (t.port k).oweRelay = (s.port k).oweRelay + 1 ∧
        (t.port (s.portTo g.dst)).qRelay = (s.port (s.portTo g.dst)).qRelay ++ [{ g with fwd := false }])

/-- R193, R194, R201, R203: a replay starts from the oldest held flit and is counted; a port retrains, ends its retrain
ACTIVE, is retired where its training fails for the third time or ends below x16, or is disabled where no HELLO comes; a lost
link leaves its port in training with its held flits, which is the model's choice (DEDUCED, log 47). R284: an event of a retired
port is logged and nothing else; its CLASS 2 is the model's choice (DEDUCED, log 93). -/
def Obligations.PortsTrainAndAreLost : Prop :=
  ∀ (s : State) (k mode : Nat) (ok : Bool), k < 3 →
    ((s.port k).st = 2 → (s.port k).held ≠ [] → (s.port k).resends < 8 →
      exec (.replayTimeout k) s = .next (s.modPort k fun x => { x with resend := x.held.length, replays := x.replays + 1 })) ∧
    ((s.port k).st = 2 → s.rep.retPort.testBit k = false → ∃ t, exec (.peerRetrain k) s = .next t ∧
      ((t.port k).st = 3 ∨ (t.port k).st = 5) ∧ (t.port k).retrains = min 255 ((s.port k).retrains + 1)) ∧
    (s.rep.retPort.testBit k = true → ∃ t, exec (.peerRetrain k) s = .next t ∧
      t = { s with log := t.log, logNext := t.logNext } ∧
      t.log.head?.map (fun e => (e.code, e.cls, e.unit)) = some (0x12, 2, k)) ∧
    (((s.port k).st = 1 ∨ (s.port k).st = 3) → s.rep.retPort.testBit k = false → mode < 4 →
      ∃ t, exec (.peerRetrainDone k true mode 0) s = .next t ∧ (t.port k).st = 2 ∧ (t.port k).mode = mode ∧
        (t.port k).resend = (s.port k).held.length ∧ (t.port k).helloSeen = false) ∧
    (((s.port k).st = 1 ∨ (s.port k).st = 3) → s.rep.retPort.testBit k = false → (s.port k).attempt < 2 →
      exec (.peerRetrainDone k false mode 0) s = .next (s.modPort k fun x => { x with attempt := x.attempt + 1 })) ∧
    (((s.port k).st = 1 ∨ (s.port k).st = 3) → s.rep.retPort.testBit k = false →
      ((ok = true ∧ 4 ≤ mode) ∨ (ok = false ∧ 2 ≤ (s.port k).attempt)) →
      ∃ t, exec (.peerRetrainDone k ok mode 0) s = .next t ∧ (t.port k).st = 5 ∧ t.rep.retPort.testBit k = true) ∧
    ((s.port k).st = 2 → (s.port k).helloSeen = false → ∃ t, exec (.noHello k) s = .next t ∧ (t.port k).st = 4 ∧
      (t.port k).disCause = 3) ∧
    (((s.port k).st = 2 ∨ (s.port k).st = 3) → ∃ t, exec (.peerLinkLost k) s = .next t ∧ (t.port k).st = 1 ∧
      (t.port k).helloSeen = false ∧ (t.port k).held = (s.port k).held ∧ t.parts = s.parts)

/-! Rules of the whole machine. -/

/-- No step breaks the order of the caps. -/
def Obligations.StepsKeepTheCapsInOrder : Prop :=
  ∀ s t : State, CapsOrdered s → step s = .next t → CapsOrdered t

/-- R220, R223: a die reaches debug level FULL only where its debug strap is set. R221: a taint bit, once set, is
cleared by a COLD reset alone. -/
def Obligations.FullDebugAndTaintAreGuarded : Prop :=
  (∀ (c : Instr) (s t : State), exec c s = .next t → s.mg.debugLevel ≠ 2 → t.mg.debugLevel = 2 → s.debugStrap = true) ∧
  (∀ (c : Instr) (s t : State) (b : Nat), exec c s = .next t → s.mg.taint.testBit b = true →
    t.mg.taint.testBit b = true ∨ (t.mg.released = false ∧ t.mg.taint = 0))

/-- The tables that hold the store, host memory and their poison stay in canonical form at every step: addresses rise, and no
entry repeats what an unlisted address reads as. The form is the model's own (DESIGN CHOICE, logs 11 and 12); no rule of the
spec names it. -/
def Obligations.StepsKeepMemoryCanonical : Prop :=
  ∀ s t : State, s.memWf → step s = .next t → t.memWf

/-- Tables REG-3, PWR-2, BOOT-4, PART-8: what holds right after the release of the always-on reset: STANDBY with no firmware, no
partition, no queue enabled, no taint, the caps at their reset values and the invariants of the steps. -/
def Obligations.ResetMeetsTheInvariants : Prop :=
  CapsOrdered State.reset ∧ State.reset.memWf ∧ State.reset.pending = [] ∧ State.reset.serving = false ∧
    State.reset.mg.fwRunning = false ∧ State.reset.mg.taint = 0 ∧ State.reset.mg.debugLevel = 0 ∧
    (∀ p, (State.reset.part p).st = 0) ∧ (∀ q, (State.reset.queue q).st = .disabled ∧ State.reset.queueOwner q = none) ∧
    State.reset.pwr.capSust = 0x1400 ∧ State.reset.pwr.capPk1 = 0x1CC0 ∧ State.reset.pwr.capPk2 = 0x1A40 ∧
    State.reset.readReg .port 0 = 0x4F111620

/-! Commands of the dispatcher and of its engine. -/

/-- R158, Table MEM-5: SIGNAL reads its word, writes what its OP makes of it and the operands, and puts the old value at
RESULT_ADDR: at CREST scope in the atomic buffer (R159), else in the store; nothing else of the store changes. That the upper
halves of the operands do not count at WIDTH 4, and that RESULT_ADDR takes 8 bytes there too, is the model's choice (DESIGN
CHOICE, log 126). R155: a FENCE performs every write of its queue's earlier commands at its scope. Table CMD-6: a MARKER ends
once it is the first of its queue. R129: a row of a MOVE's COPY or GATHER leaves its source row's bytes at its destination,
zeroes for the index 0xFFFF_FFFF, and meets GATHER_INDEX for an index beyond the source. R85: a row of a CONVERT to a scalar
format of whole bytes leaves each of its elements converted, and nothing else. -/
def Obligations.DispatcherCommandsAndMovesTakeEffect : Prop :=
  (∀ (s : State) (c : Cmd), s.cmd? c.q c.t = some c → c.fin = none → c.dbg = false →
    let done (t : State) : Prop := (t.cmd? c.q c.t).map (·.fin) = some (some (c.okStatus, 0))
    (let w := c.f8 0x31
      let g := s.gaddr c.part (c.f64 0x10)
      let gs := (List.range w).map (g + ·)
      let rs := if c.f64 0x28 = 0 then [] else s.gaddrs c.part (c.f64 0x28) 8
      let old := ofBytes (gs.map (tget 0#8 s.store))
      let new := match c.f8 0x30 with
        | 0 => (old + c.f64 0x18) % 256 ^ w
        | 1 => max old (c.f64 0x18 % 256 ^ w)
        | _ => if old = c.f64 0x20 % 256 ^ w then c.f64 0x18 % 256 ^ w else old
      let t := s.runSignal c
      (w = 4 ∨ w = 8) → g % w = 0 → s.gaddrs c.part (c.f64 0x10) w = gs → rs.Nodup → Plain s (gs ++ rs) →
      s.abuf.length < 16 → (∀ b ∈ s.abuf, b.addr / 64 ≠ g / 64) →
        done t ∧ (∀ i, i < rs.length → tget 0#8 t.store (rs.getD i 0) = BitVec.ofNat 8 (old / 256 ^ i)) ∧
        (∀ k, k ∉ gs → k ∉ rs → tget 0#8 t.store k = tget 0#8 s.store k) ∧
        (c.scope = 0 → t.wordAt g w = new ∧ ∀ k, k ∉ rs → tget 0#8 t.store k = tget 0#8 s.store k) ∧
        (c.scope ≠ 0 → ∀ i, i < w → g + i ∉ rs → tget 0#8 t.store (g + i) = BitVec.ofNat 8 (new / 256 ^ i))) ∧
    ((c.scope ≠ 0 → s.flushHeld (fun _ => true) = none) → done (s.runFence c) ∧
      (∀ e ∈ (s.runFence c).pend, e.crest.isSome = true → e.q = c.q → e.t ≠ c.t → ∃ k, e.scope = some k ∧ c.scope ≤ k) ∧
      (c.scope ≠ 0 → (s.runFence c).abuf = []) ∧ (c.scope = 0 → (s.runFence c).store = s.store ∧ (s.runFence c).abuf = s.abuf)) ∧
    (c.scope ≠ 0 → ∀ h, s.flushHeld (fun _ => true) = some h → s.runFence c = s.stall c.q c.t h) ∧
    (c.started = true → s.cmds.find? (fun d => d.q = c.q) = some c →
      (c.opcode = 10 → done (s.markers c.q) ∧ (s.markers c.q).store = s.store) ∧ (c.opcode ≠ 10 → s.markers c.q = s))) ∧
  (∀ (s : State) (c : Cmd) (p r : Nat), c.f8 0x38 ≤ 1 → c.moveOverlap = false →
    let n := c.f32 0x2C
    let is := if c.f8 0x38 = 1 then s.gaddrs c.part (c.f64 0x20 + 4 * r) 4 else []
    let i := if c.f8 0x38 = 1 then ofBytes (is.map (tget 0#8 s.store)) else r
    let ss := s.gaddrs c.part (c.f64 0x10 + i * c.f32 0x30) n
    let ds := s.gaddrs c.part (c.f64 0x18 + r * c.f32 0x34) n
    Plain s (is ++ ds) → ds.Nodup →
    (¬(c.f8 0x38 = 1 ∧ c.f32 0x3C ≤ i) → Plain s ss → ∃ t, s.moveRow c p r = .ok t ∧
      (∀ k, k < n → tget 0#8 t.store (ds.getD k 0) = tget 0#8 s.store (ss.getD k 0)) ∧
      (∀ g, g ∉ ds → tget 0#8 t.store g = tget 0#8 s.store g) ∧ t.hostMem = s.hostMem) ∧
    (c.f8 0x38 = 1 → i = 0xFFFFFFFF → ∃ t, s.moveRow c p r = .ok t ∧
      (∀ k, k < n → tget 0#8 t.store (ds.getD k 0) = 0#8) ∧ (∀ g, g ∉ ds → tget 0#8 t.store g = tget 0#8 s.store g)) ∧
    (c.f8 0x38 = 1 → i ≠ 0xFFFFFFFF → c.f32 0x3C ≤ i → ∃ t, s.moveRow c p r = .error (t, sFault, 0x45) ∧ t.store = s.store)) ∧
  (∀ (s : State) (c : Cmd) (p u gen r : Nat),
    let n := c.f32 0x24
    let f := c.dOut.format
    let w := elemBits f / 8
    let ds := s.outAddrs c r 0 n
    0 < n → n ≤ 128 → f ∈ [0x01, 0x02, 0x09, 0x10, 0x11, 0x12, 0x13] → Plain s (s.convertAddrs c r ++ ds) → ds.Nodup →
    ∃ t g, s.convertRow c p u gen r = .ok (t, g) ∧
      (∀ k i, k < n → i < w → tget 0#8 t.store (ds.getD (w * k + i) 0) =
        BitVec.ofNat 8 ((convScalar f ((c.convLanes u gen).getD k .rne) c.satMode
          (c.srcValue (s.elem (obsOf c p) c.part c.dA n r k))).bits / 256 ^ i)) ∧
      (∀ a, a ∉ ds → tget 0#8 t.store a = tget 0#8 s.store a))
end

