-- ==== Sys2Proof/Laws/Tbl.lean ====
section
/-!
SUPPORT. Laws of sparse tables: what a read gives after a write, and that every operation keeps the canonical form
(`twf`): keys strictly rising, no entry equal to the default.
-/
namespace Sys2Proof.Machine

variable {α : Type}

@[simp] theorem tget_nil (d : α) (k : Nat) : tget d [] k = d := rfl

/-! Reads after writes, for any table. -/

theorem tget_terase (d : α) (t : Tbl α) (k j : Nat) :
    tget d (terase t k) j = if j = k then d else tget d t j := by
  induction t with
  | nil => simp [terase]
  | cons e t ih =>
    obtain ⟨i, v⟩ := e
    simp only [terase, List.filter_cons] at ih ⊢
    by_cases hk : i = k
    · subst hk
      by_cases hj : j = i
      · subst hj; simpa using ih
      · have : i ≠ j := fun h => hj h.symm
        simpa [tget, this, hj] using ih
    · by_cases hj : i = j
      · subst hj; simp [tget, hk]
      · simpa [tget, hk, hj] using ih

theorem tget_tinsert (d : α) (k : Nat) (v : α) (t : Tbl α) (j : Nat) (h : ∀ e ∈ t, e.1 ≠ k) :
    tget d (tinsert k v t) j = if j = k then v else tget d t j := by
  induction t with
  | nil => by_cases hj : j = k
           · simp [tinsert, tget, hj]
           · have : k ≠ j := fun e => hj e.symm
             simp [tinsert, tget, hj, this]
  | cons e t ih =>
    obtain ⟨i, w⟩ := e
    have hi : i ≠ k := h (i, w) (by simp)
    have ih := ih (fun e he => h e (by simp [he]))
    by_cases hki : k < i
    · by_cases hj : j = k
      · subst hj; simp [tinsert, hki, tget]
      · have : k ≠ j := fun e => hj e.symm
        simp [tinsert, hki, tget, hj, this]
    · by_cases hij : i = j
      · subst hij; simp [tinsert, hki, tget, hi]
      · simp [tinsert, hki, tget, hij, ih]

theorem mem_terase (t : Tbl α) (k : Nat) : ∀ e ∈ terase t k, e.1 ≠ k := by
  intro e he
  simp [terase] at he
  exact he.2

theorem tget_tset [DecidableEq α] (d : α) (t : Tbl α) (k : Nat) (v : α) (j : Nat) :
    tget d (tset d t k v) j = if j = k then v else tget d t j := by
  unfold tset
  split
  · rename_i h; subst h; exact tget_terase _ t k j
  · rw [tget_tinsert _ _ _ _ _ (mem_terase t k), tget_terase]
    split <;> rfl

/-- A read after a write to the same place gives what was written. -/
@[simp] theorem tget_tset_same [DecidableEq α] (d : α) (t : Tbl α) (k : Nat) (v : α) : tget d (tset d t k v) k = v := by
  simp [tget_tset]

/-- A write leaves every other place alone. -/
theorem tget_tset_other [DecidableEq α] (d : α) (t : Tbl α) (k : Nat) (v : α) {j : Nat} (h : j ≠ k) :
    tget d (tset d t k v) j = tget d t j := by
  simp [tget_tset, h]

theorem tget_tmod [DecidableEq α] (d : α) (t : Tbl α) (k : Nat) (f : α → α) (j : Nat) :
    tget d (tmod d t k f) j = if j = k then f (tget d t k) else tget d t j := tget_tset ..

@[simp] theorem tget_tmod_same [DecidableEq α] (d : α) (t : Tbl α) (k : Nat) (f : α → α) :
    tget d (tmod d t k f) k = f (tget d t k) := by simp [tget_tmod]

theorem tget_tmod_other [DecidableEq α] (d : α) (t : Tbl α) (k : Nat) (f : α → α) {j : Nat} (h : j ≠ k) :
    tget d (tmod d t k f) j = tget d t j := by simp [tget_tmod, h]

theorem tget_tclear (d : α) (t : Tbl α) (lo hi j : Nat) :
    tget d (tclear t lo hi) j = if lo ≤ j ∧ j < hi then d else tget d t j := by
  induction t with
  | nil => simp [tclear]
  | cons e t ih =>
    obtain ⟨i, v⟩ := e
    simp only [tclear, List.filter_cons] at ih ⊢
    by_cases hin : i < lo ∨ hi ≤ i
    · have : (decide (i < lo) || decide (hi ≤ i)) = true := by simpa using hin
      simp only [this, if_true, tget]
      by_cases hij : i = j
      · subst hij
        have : ¬ (lo ≤ i ∧ i < hi) := by omega
        simp [this]
      · simpa [hij] using ih
    · have : (decide (i < lo) || decide (hi ≤ i)) = false := by simpa using hin
      simp only [this, tget]
      by_cases hij : i = j
      · subst hij
        have hc : lo ≤ i ∧ i < hi := by omega
        simpa [hc] using ih
      · simpa [hij] using ih

theorem tget_tsetFrom [DecidableEq α] (d : α) (t : Tbl α) (k : Nat) (vs : List α) (j : Nat) :
    tget d (tsetFrom d t k vs) j = if k ≤ j ∧ j < k + vs.length then vs.getD (j - k) d else tget d t j := by
  induction vs generalizing t k with
  | nil =>
    have : ¬ (k ≤ j ∧ j < k) := by omega
    simp [tsetFrom, this]
  | cons v vs ih =>
    rw [tsetFrom, ih, tget_tset]
    by_cases h : j = k
    · subst h
      have : ¬ j + 1 ≤ j := by omega
      simp [this]
    · by_cases h1 : k + 1 ≤ j ∧ j < k + 1 + vs.length
      · have h2 : k ≤ j ∧ j < k + (v :: vs).length := by simp only [List.length_cons]; omega
        have h3 : j - k = (j - (k + 1)) + 1 := by omega
        rw [if_pos h1, if_pos h2, h3, List.getD_cons_succ]
      · have h2 : ¬ (k ≤ j ∧ j < k + (v :: vs).length) := by simp only [List.length_cons]; omega
        simp only [if_neg h1, if_neg h2, if_neg h]

/-! The canonical form. -/

theorem mem_tinsert (k : Nat) (v : α) (t : Tbl α) (e : Nat × α) : e ∈ tinsert k v t ↔ e = (k, v) ∨ e ∈ t := by
  induction t with
  | nil => simp [tinsert]
  | cons f t ih =>
    obtain ⟨j, w⟩ := f
    unfold tinsert
    split
    · simp
    · simp only [List.mem_cons, ih, or_left_comm]


section
variable [DecidableEq α]

theorem twf_cons (d : α) (k : Nat) (v : α) (t : Tbl α) :
    twf d ((k, v) :: t) = true ↔ v ≠ d ∧ (∀ e ∈ t, k < e.1) ∧ twf d t = true := by
  induction t generalizing k v with
  | nil => simp [twf]
  | cons e t ih =>
    obtain ⟨j, w⟩ := e
    simp only [twf, Bool.and_eq_true, decide_eq_true_eq, ih j w]
    constructor
    · rintro ⟨⟨hv, hkj⟩, hw, hlt, hwf⟩
      refine ⟨hv, ?_, hw, hlt, hwf⟩
      intro e he
      rcases List.mem_cons.1 he with rfl | he
      · exact hkj
      · exact Nat.lt_trans hkj (hlt e he)
    · rintro ⟨hv, hlt, hw, hlt', hwf⟩
      exact ⟨⟨hv, hlt (j, w) (by simp)⟩, hw, hlt', hwf⟩

@[simp] theorem twf_nil (d : α) : twf d ([] : Tbl α) = true := rfl

theorem twf_filter (d : α) (f : Nat × α → Bool) (t : Tbl α) (h : twf d t = true) : twf d (t.filter f) = true := by
  induction t with
  | nil => rfl
  | cons e t ih =>
    obtain ⟨k, v⟩ := e
    obtain ⟨hv, hlt, hwf⟩ := (twf_cons d k v t).1 h
    rw [List.filter_cons]
    split
    · exact (twf_cons d k v _).2 ⟨hv, fun e he => hlt e (List.mem_filter.1 he).1, ih hwf⟩
    · exact ih hwf

theorem twf_tinsert (d : α) (k : Nat) (v : α) (t : Tbl α) (hv : v ≠ d) (hk : ∀ e ∈ t, e.1 ≠ k) (h : twf d t = true) :
    twf d (tinsert k v t) = true := by
  induction t with
  | nil => simp [tinsert, twf, hv]
  | cons e t ih =>
    obtain ⟨j, w⟩ := e
    obtain ⟨hw, hlt, hwf⟩ := (twf_cons d j w t).1 h
    have hjk : j ≠ k := hk (j, w) (by simp)
    unfold tinsert
    split
    · rename_i hlt'
      refine (twf_cons d k v _).2 ⟨hv, ?_, h⟩
      intro e he
      rcases List.mem_cons.1 he with rfl | he
      · exact hlt'
      · exact Nat.lt_trans hlt' (hlt e he)
    · refine (twf_cons d j w _).2 ⟨hw, ?_, ih (fun e he => hk e (by simp [he])) hwf⟩
      intro e he
      rcases (mem_tinsert k v t e).1 he with rfl | he
      · simp; omega
      · exact hlt e he

/-- Erasing keeps the canonical form. -/
theorem twf_terase (d : α) (t : Tbl α) (k : Nat) (h : twf d t = true) : twf d (terase t k) = true := twf_filter d _ t h

/-- Clearing a range keeps the canonical form. -/
theorem twf_tclear (d : α) (t : Tbl α) (lo hi : Nat) (h : twf d t = true) : twf d (tclear t lo hi) = true :=
  twf_filter d _ t h

/-- Writing keeps the canonical form. -/
theorem twf_tset (d : α) (t : Tbl α) (k : Nat) (v : α) (h : twf d t = true) : twf d (tset d t k v) = true := by
  unfold tset
  split
  · exact twf_terase d t k h
  · rename_i hv; exact twf_tinsert d k v _ hv (mem_terase t k) (twf_terase d t k h)

/-- Changing one entry keeps the canonical form. -/
theorem twf_tmod (d : α) (t : Tbl α) (k : Nat) (f : α → α) (h : twf d t = true) : twf d (tmod d t k f) = true :=
  twf_tset d t k _ h

/-- Writing a run of values keeps the canonical form. -/
theorem twf_tsetFrom (d : α) (t : Tbl α) (k : Nat) (vs : List α) (h : twf d t = true) :
    twf d (tsetFrom d t k vs) = true := by
  induction vs generalizing t k with
  | nil => exact h
  | cons v vs ih => exact ih _ _ (twf_tset d t k v h)

/-- Two canonical tables that read alike are the same data. -/
theorem tbl_ext (d : α) (t u : Tbl α) (ht : twf d t = true) (hu : twf d u = true)
    (h : ∀ k, tget d t k = tget d u k) : t = u := by
  have miss : ∀ (v : Tbl α) (k : Nat), (∀ e ∈ v, k < e.1) → tget d v k = d := by
    intro v k hv
    induction v with
    | nil => rfl
    | cons e v ih =>
      obtain ⟨j, w⟩ := e
      have := hv (j, w) (by simp)
      have hne : j ≠ k := by simp at this; omega
      simp only [tget, if_neg hne]
      exact ih (fun e he => hv e (by simp [he]))
  induction t generalizing u with
  | nil =>
    cases u with
    | nil => rfl
    | cons e u =>
      obtain ⟨k, v⟩ := e
      have := h k
      simp [tget] at this
      exact absurd this.symm ((twf_cons d k v u).1 hu).1
  | cons e t ih =>
    obtain ⟨k, v⟩ := e
    obtain ⟨hv, hlt, hwf⟩ := (twf_cons d k v t).1 ht
    cases u with
    | nil =>
      have := h k
      simp [tget] at this
      exact absurd this hv
    | cons f u =>
      obtain ⟨j, w⟩ := f
      obtain ⟨hw, hlt', hwf'⟩ := (twf_cons d j w u).1 hu
      have hkj : k = j := by
        rcases Nat.lt_trichotomy k j with hc | hc | hc
        · have h1 := h k
          have hne : j ≠ k := by omega
          rw [tget, if_pos rfl, tget, if_neg hne,
            miss u k (fun e he => Nat.lt_trans hc (hlt' e he))] at h1
          exact absurd h1 hv
        · exact hc
        · have h1 := h j
          have hne : k ≠ j := by omega
          rw [tget, if_neg hne, miss t j (fun e he => Nat.lt_trans hc (hlt e he)), tget, if_pos rfl] at h1
          exact absurd h1.symm hw
      subst hkj
      have h0 := h k
      simp [tget] at h0
      subst h0
      have := ih u hwf hwf' (by
        intro i
        by_cases hi : k = i
        · subst hi; rw [miss t k hlt, miss u k hlt']
        · have := h i
          simpa [tget, hi] using this)
      rw [this]

end

end Sys2Proof.Machine
end

