-- ==== Sys2Proof/Laws/State.lean ====
section
/-!
SUPPORT. What each named update of the state leaves unchanged, and what a table reads after it, each true by definition,
so that no proof unfolds a record update.
-/
namespace Sys2Proof.Machine

variable (s : State)

@[simp] theorem State.modQueue_frame (q : Nat) (f : Queue → Queue) :
    (s.modQueue q f).pending = s.pending ∧ (s.modQueue q f).time = s.time ∧ (s.modQueue q f).freeCtr = s.freeCtr ∧
    (s.modQueue q f).out = s.out ∧ (s.modQueue q f).mg = s.mg ∧ (s.modQueue q f).sb = s.sb ∧
    (s.modQueue q f).pwr = s.pwr ∧ (s.modQueue q f).rep = s.rep ∧ (s.modQueue q f).fw = s.fw ∧
    (s.modQueue q f).bias = s.bias ∧ (s.modQueue q f).stPort = s.stPort ∧ (s.modQueue q f).stBar0 = s.stBar0 ∧
    (s.modQueue q f).journal = s.journal ∧ (s.modQueue q f).lastPart = s.lastPart ∧
    (s.modQueue q f).parts = s.parts ∧ (s.modQueue q f).crests = s.crests ∧ (s.modQueue q f).slices = s.slices ∧
    (s.modQueue q f).regs = s.regs ∧ (s.modQueue q f).mods = s.mods ∧ (s.modQueue q f).ports = s.ports ∧
    (s.modQueue q f).cmds = s.cmds ∧ (s.modQueue q f).ends = s.ends ∧ (s.modQueue q f).store = s.store ∧
    (s.modQueue q f).poison = s.poison ∧ (s.modQueue q f).flaws = s.flaws ∧ (s.modQueue q f).pend = s.pend ∧
    (s.modQueue q f).abuf = s.abuf ∧ (s.modQueue q f).cache = s.cache ∧ (s.modQueue q f).evict = s.evict ∧
    (s.modQueue q f).hostMem = s.hostMem ∧ (s.modQueue q f).hostPoison = s.hostPoison ∧
    (s.modQueue q f).hostConfig = s.hostConfig ∧ (s.modQueue q f).log = s.log ∧
    (s.modQueue q f).logNext = s.logNext ∧ (s.modQueue q f).trace = s.trace ∧
    (s.modQueue q f).traceNext = s.traceNext ∧ (s.modQueue q f).unattr = s.unattr ∧
    (s.modQueue q f).releasedE = s.releasedE ∧ (s.modQueue q f).msixMask = s.msixMask ∧
    (s.modQueue q f).msixPend = s.msixPend ∧ (s.modQueue q f).linkmaps = s.linkmaps ∧
    (s.modQueue q f).refused = s.refused ∧ (s.modQueue q f).tiles = s.tiles ∧ (s.modQueue q f).landing = s.landing ∧
    (s.modQueue q f).retries = s.retries ∧
    (s.modQueue q f).stalled = s.stalled ∧ (s.modQueue q f).holds = s.holds ∧ (s.modQueue q f).closing = s.closing ∧ (s.modQueue q f).ingress = s.ingress ∧
    (s.modQueue q f).peerPast = s.peerPast :=
  ⟨rfl, rfl, rfl, rfl, rfl, rfl, rfl, rfl, rfl, rfl, rfl, rfl, rfl, rfl, rfl, rfl, rfl, rfl, rfl, rfl, rfl, rfl, rfl, rfl, rfl, rfl, rfl, rfl, rfl, rfl, rfl, rfl, rfl, rfl, rfl, rfl, rfl, rfl, rfl, rfl, rfl, rfl, rfl, rfl, rfl, rfl, rfl, rfl, rfl, rfl⟩

@[simp] theorem State.modPart_frame (p : Nat) (f : Part → Part) :
    (s.modPart p f).pending = s.pending ∧ (s.modPart p f).time = s.time ∧ (s.modPart p f).freeCtr = s.freeCtr ∧
    (s.modPart p f).out = s.out ∧ (s.modPart p f).mg = s.mg ∧ (s.modPart p f).sb = s.sb ∧
    (s.modPart p f).pwr = s.pwr ∧ (s.modPart p f).rep = s.rep ∧ (s.modPart p f).fw = s.fw ∧
    (s.modPart p f).bias = s.bias ∧ (s.modPart p f).stPort = s.stPort ∧ (s.modPart p f).stBar0 = s.stBar0 ∧
    (s.modPart p f).journal = s.journal ∧ (s.modPart p f).lastPart = s.lastPart ∧ (s.modPart p f).queues = s.queues ∧
    (s.modPart p f).crests = s.crests ∧ (s.modPart p f).slices = s.slices ∧ (s.modPart p f).regs = s.regs ∧
    (s.modPart p f).mods = s.mods ∧ (s.modPart p f).ports = s.ports ∧ (s.modPart p f).cmds = s.cmds ∧
    (s.modPart p f).ends = s.ends ∧ (s.modPart p f).store = s.store ∧ (s.modPart p f).poison = s.poison ∧
    (s.modPart p f).flaws = s.flaws ∧ (s.modPart p f).pend = s.pend ∧ (s.modPart p f).abuf = s.abuf ∧
    (s.modPart p f).cache = s.cache ∧ (s.modPart p f).evict = s.evict ∧ (s.modPart p f).hostMem = s.hostMem ∧
    (s.modPart p f).hostPoison = s.hostPoison ∧ (s.modPart p f).hostConfig = s.hostConfig ∧
    (s.modPart p f).log = s.log ∧ (s.modPart p f).logNext = s.logNext ∧ (s.modPart p f).trace = s.trace ∧
    (s.modPart p f).traceNext = s.traceNext ∧ (s.modPart p f).unattr = s.unattr ∧
    (s.modPart p f).releasedE = s.releasedE ∧ (s.modPart p f).msixMask = s.msixMask ∧
    (s.modPart p f).msixPend = s.msixPend ∧ (s.modPart p f).linkmaps = s.linkmaps ∧
    (s.modPart p f).refused = s.refused ∧ (s.modPart p f).tiles = s.tiles ∧ (s.modPart p f).landing = s.landing ∧
    (s.modPart p f).retries = s.retries ∧
    (s.modPart p f).stalled = s.stalled ∧ (s.modPart p f).holds = s.holds ∧ (s.modPart p f).closing = s.closing ∧ (s.modPart p f).ingress = s.ingress ∧
    (s.modPart p f).peerPast = s.peerPast :=
  ⟨rfl, rfl, rfl, rfl, rfl, rfl, rfl, rfl, rfl, rfl, rfl, rfl, rfl, rfl, rfl, rfl, rfl, rfl, rfl, rfl, rfl, rfl, rfl, rfl, rfl, rfl, rfl, rfl, rfl, rfl, rfl, rfl, rfl, rfl, rfl, rfl, rfl, rfl, rfl, rfl, rfl, rfl, rfl, rfl, rfl, rfl, rfl, rfl, rfl, rfl⟩

@[simp] theorem State.modCrest_frame (p : Nat) (f : Crest → Crest) :
    (s.modCrest p f).pending = s.pending ∧ (s.modCrest p f).time = s.time ∧ (s.modCrest p f).freeCtr = s.freeCtr ∧
    (s.modCrest p f).out = s.out ∧ (s.modCrest p f).mg = s.mg ∧ (s.modCrest p f).sb = s.sb ∧
    (s.modCrest p f).pwr = s.pwr ∧ (s.modCrest p f).rep = s.rep ∧ (s.modCrest p f).fw = s.fw ∧
    (s.modCrest p f).bias = s.bias ∧ (s.modCrest p f).stPort = s.stPort ∧ (s.modCrest p f).stBar0 = s.stBar0 ∧
    (s.modCrest p f).journal = s.journal ∧ (s.modCrest p f).lastPart = s.lastPart ∧
    (s.modCrest p f).queues = s.queues ∧ (s.modCrest p f).parts = s.parts ∧ (s.modCrest p f).slices = s.slices ∧
    (s.modCrest p f).regs = s.regs ∧ (s.modCrest p f).mods = s.mods ∧ (s.modCrest p f).ports = s.ports ∧
    (s.modCrest p f).cmds = s.cmds ∧ (s.modCrest p f).ends = s.ends ∧ (s.modCrest p f).store = s.store ∧
    (s.modCrest p f).poison = s.poison ∧ (s.modCrest p f).flaws = s.flaws ∧ (s.modCrest p f).pend = s.pend ∧
    (s.modCrest p f).abuf = s.abuf ∧ (s.modCrest p f).cache = s.cache ∧ (s.modCrest p f).evict = s.evict ∧
    (s.modCrest p f).hostMem = s.hostMem ∧ (s.modCrest p f).hostPoison = s.hostPoison ∧
    (s.modCrest p f).hostConfig = s.hostConfig ∧ (s.modCrest p f).log = s.log ∧
    (s.modCrest p f).logNext = s.logNext ∧ (s.modCrest p f).trace = s.trace ∧
    (s.modCrest p f).traceNext = s.traceNext ∧ (s.modCrest p f).unattr = s.unattr ∧
    (s.modCrest p f).releasedE = s.releasedE ∧ (s.modCrest p f).msixMask = s.msixMask ∧
    (s.modCrest p f).msixPend = s.msixPend ∧ (s.modCrest p f).linkmaps = s.linkmaps ∧
    (s.modCrest p f).refused = s.refused ∧ (s.modCrest p f).tiles = s.tiles ∧ (s.modCrest p f).landing = s.landing ∧
    (s.modCrest p f).retries = s.retries ∧
    (s.modCrest p f).stalled = s.stalled ∧ (s.modCrest p f).holds = s.holds ∧ (s.modCrest p f).closing = s.closing ∧ (s.modCrest p f).ingress = s.ingress ∧
    (s.modCrest p f).peerPast = s.peerPast :=
  ⟨rfl, rfl, rfl, rfl, rfl, rfl, rfl, rfl, rfl, rfl, rfl, rfl, rfl, rfl, rfl, rfl, rfl, rfl, rfl, rfl, rfl, rfl, rfl, rfl, rfl, rfl, rfl, rfl, rfl, rfl, rfl, rfl, rfl, rfl, rfl, rfl, rfl, rfl, rfl, rfl, rfl, rfl, rfl, rfl, rfl, rfl, rfl, rfl, rfl, rfl⟩

@[simp] theorem State.modSlice_frame (n : Nat) (f : Slice → Slice) :
    (s.modSlice n f).pending = s.pending ∧ (s.modSlice n f).time = s.time ∧ (s.modSlice n f).freeCtr = s.freeCtr ∧
    (s.modSlice n f).out = s.out ∧ (s.modSlice n f).mg = s.mg ∧ (s.modSlice n f).sb = s.sb ∧
    (s.modSlice n f).pwr = s.pwr ∧ (s.modSlice n f).rep = s.rep ∧ (s.modSlice n f).fw = s.fw ∧
    (s.modSlice n f).bias = s.bias ∧ (s.modSlice n f).stPort = s.stPort ∧ (s.modSlice n f).stBar0 = s.stBar0 ∧
    (s.modSlice n f).journal = s.journal ∧ (s.modSlice n f).lastPart = s.lastPart ∧
    (s.modSlice n f).queues = s.queues ∧ (s.modSlice n f).parts = s.parts ∧ (s.modSlice n f).crests = s.crests ∧
    (s.modSlice n f).regs = s.regs ∧ (s.modSlice n f).mods = s.mods ∧ (s.modSlice n f).ports = s.ports ∧
    (s.modSlice n f).cmds = s.cmds ∧ (s.modSlice n f).ends = s.ends ∧ (s.modSlice n f).store = s.store ∧
    (s.modSlice n f).poison = s.poison ∧ (s.modSlice n f).flaws = s.flaws ∧ (s.modSlice n f).pend = s.pend ∧
    (s.modSlice n f).abuf = s.abuf ∧ (s.modSlice n f).cache = s.cache ∧ (s.modSlice n f).evict = s.evict ∧
    (s.modSlice n f).hostMem = s.hostMem ∧ (s.modSlice n f).hostPoison = s.hostPoison ∧
    (s.modSlice n f).hostConfig = s.hostConfig ∧ (s.modSlice n f).log = s.log ∧
    (s.modSlice n f).logNext = s.logNext ∧ (s.modSlice n f).trace = s.trace ∧
    (s.modSlice n f).traceNext = s.traceNext ∧ (s.modSlice n f).unattr = s.unattr ∧
    (s.modSlice n f).releasedE = s.releasedE ∧ (s.modSlice n f).msixMask = s.msixMask ∧
    (s.modSlice n f).msixPend = s.msixPend ∧ (s.modSlice n f).linkmaps = s.linkmaps ∧
    (s.modSlice n f).refused = s.refused ∧ (s.modSlice n f).tiles = s.tiles ∧ (s.modSlice n f).landing = s.landing ∧
    (s.modSlice n f).retries = s.retries ∧
    (s.modSlice n f).stalled = s.stalled ∧ (s.modSlice n f).holds = s.holds ∧ (s.modSlice n f).closing = s.closing ∧ (s.modSlice n f).ingress = s.ingress ∧
    (s.modSlice n f).peerPast = s.peerPast :=
  ⟨rfl, rfl, rfl, rfl, rfl, rfl, rfl, rfl, rfl, rfl, rfl, rfl, rfl, rfl, rfl, rfl, rfl, rfl, rfl, rfl, rfl, rfl, rfl, rfl, rfl, rfl, rfl, rfl, rfl, rfl, rfl, rfl, rfl, rfl, rfl, rfl, rfl, rfl, rfl, rfl, rfl, rfl, rfl, rfl, rfl, rfl, rfl, rfl, rfl, rfl⟩

@[simp] theorem State.modReg_frame (r : Nat) (f : Reg → Reg) :
    (s.modReg r f).pending = s.pending ∧ (s.modReg r f).time = s.time ∧ (s.modReg r f).freeCtr = s.freeCtr ∧
    (s.modReg r f).out = s.out ∧ (s.modReg r f).mg = s.mg ∧ (s.modReg r f).sb = s.sb ∧ (s.modReg r f).pwr = s.pwr ∧
    (s.modReg r f).rep = s.rep ∧ (s.modReg r f).fw = s.fw ∧ (s.modReg r f).bias = s.bias ∧
    (s.modReg r f).stPort = s.stPort ∧ (s.modReg r f).stBar0 = s.stBar0 ∧ (s.modReg r f).journal = s.journal ∧
    (s.modReg r f).lastPart = s.lastPart ∧ (s.modReg r f).queues = s.queues ∧ (s.modReg r f).parts = s.parts ∧
    (s.modReg r f).crests = s.crests ∧ (s.modReg r f).slices = s.slices ∧ (s.modReg r f).mods = s.mods ∧
    (s.modReg r f).ports = s.ports ∧ (s.modReg r f).cmds = s.cmds ∧ (s.modReg r f).ends = s.ends ∧
    (s.modReg r f).store = s.store ∧ (s.modReg r f).poison = s.poison ∧ (s.modReg r f).flaws = s.flaws ∧
    (s.modReg r f).pend = s.pend ∧ (s.modReg r f).abuf = s.abuf ∧ (s.modReg r f).cache = s.cache ∧
    (s.modReg r f).evict = s.evict ∧ (s.modReg r f).hostMem = s.hostMem ∧ (s.modReg r f).hostPoison = s.hostPoison ∧
    (s.modReg r f).hostConfig = s.hostConfig ∧ (s.modReg r f).log = s.log ∧ (s.modReg r f).logNext = s.logNext ∧
    (s.modReg r f).trace = s.trace ∧ (s.modReg r f).traceNext = s.traceNext ∧ (s.modReg r f).unattr = s.unattr ∧
    (s.modReg r f).releasedE = s.releasedE ∧ (s.modReg r f).msixMask = s.msixMask ∧
    (s.modReg r f).msixPend = s.msixPend ∧ (s.modReg r f).linkmaps = s.linkmaps ∧
    (s.modReg r f).refused = s.refused ∧ (s.modReg r f).tiles = s.tiles ∧ (s.modReg r f).landing = s.landing ∧
    (s.modReg r f).retries = s.retries ∧
    (s.modReg r f).stalled = s.stalled ∧ (s.modReg r f).holds = s.holds ∧ (s.modReg r f).closing = s.closing ∧ (s.modReg r f).ingress = s.ingress ∧
    (s.modReg r f).peerPast = s.peerPast :=
  ⟨rfl, rfl, rfl, rfl, rfl, rfl, rfl, rfl, rfl, rfl, rfl, rfl, rfl, rfl, rfl, rfl, rfl, rfl, rfl, rfl, rfl, rfl, rfl, rfl, rfl, rfl, rfl, rfl, rfl, rfl, rfl, rfl, rfl, rfl, rfl, rfl, rfl, rfl, rfl, rfl, rfl, rfl, rfl, rfl, rfl, rfl, rfl, rfl, rfl, rfl⟩

@[simp] theorem State.modHmod_frame (m : Nat) (f : HMod → HMod) :
    (s.modHmod m f).pending = s.pending ∧ (s.modHmod m f).time = s.time ∧ (s.modHmod m f).freeCtr = s.freeCtr ∧
    (s.modHmod m f).out = s.out ∧ (s.modHmod m f).mg = s.mg ∧ (s.modHmod m f).sb = s.sb ∧
    (s.modHmod m f).pwr = s.pwr ∧ (s.modHmod m f).rep = s.rep ∧ (s.modHmod m f).fw = s.fw ∧
    (s.modHmod m f).bias = s.bias ∧ (s.modHmod m f).stPort = s.stPort ∧ (s.modHmod m f).stBar0 = s.stBar0 ∧
    (s.modHmod m f).journal = s.journal ∧ (s.modHmod m f).lastPart = s.lastPart ∧ (s.modHmod m f).queues = s.queues ∧
    (s.modHmod m f).parts = s.parts ∧ (s.modHmod m f).crests = s.crests ∧ (s.modHmod m f).slices = s.slices ∧
    (s.modHmod m f).regs = s.regs ∧ (s.modHmod m f).ports = s.ports ∧ (s.modHmod m f).cmds = s.cmds ∧
    (s.modHmod m f).ends = s.ends ∧ (s.modHmod m f).store = s.store ∧ (s.modHmod m f).poison = s.poison ∧
    (s.modHmod m f).flaws = s.flaws ∧ (s.modHmod m f).pend = s.pend ∧ (s.modHmod m f).abuf = s.abuf ∧
    (s.modHmod m f).cache = s.cache ∧ (s.modHmod m f).evict = s.evict ∧ (s.modHmod m f).hostMem = s.hostMem ∧
    (s.modHmod m f).hostPoison = s.hostPoison ∧ (s.modHmod m f).hostConfig = s.hostConfig ∧
    (s.modHmod m f).log = s.log ∧ (s.modHmod m f).logNext = s.logNext ∧ (s.modHmod m f).trace = s.trace ∧
    (s.modHmod m f).traceNext = s.traceNext ∧ (s.modHmod m f).unattr = s.unattr ∧
    (s.modHmod m f).releasedE = s.releasedE ∧ (s.modHmod m f).msixMask = s.msixMask ∧
    (s.modHmod m f).msixPend = s.msixPend ∧ (s.modHmod m f).linkmaps = s.linkmaps ∧
    (s.modHmod m f).refused = s.refused ∧ (s.modHmod m f).tiles = s.tiles ∧ (s.modHmod m f).landing = s.landing ∧
    (s.modHmod m f).retries = s.retries ∧
    (s.modHmod m f).stalled = s.stalled ∧ (s.modHmod m f).holds = s.holds ∧ (s.modHmod m f).closing = s.closing ∧ (s.modHmod m f).ingress = s.ingress ∧
    (s.modHmod m f).peerPast = s.peerPast :=
  ⟨rfl, rfl, rfl, rfl, rfl, rfl, rfl, rfl, rfl, rfl, rfl, rfl, rfl, rfl, rfl, rfl, rfl, rfl, rfl, rfl, rfl, rfl, rfl, rfl, rfl, rfl, rfl, rfl, rfl, rfl, rfl, rfl, rfl, rfl, rfl, rfl, rfl, rfl, rfl, rfl, rfl, rfl, rfl, rfl, rfl, rfl, rfl, rfl, rfl, rfl⟩

@[simp] theorem State.modPort_frame (k : Nat) (f : PPort → PPort) :
    (s.modPort k f).pending = s.pending ∧ (s.modPort k f).time = s.time ∧ (s.modPort k f).freeCtr = s.freeCtr ∧
    (s.modPort k f).out = s.out ∧ (s.modPort k f).mg = s.mg ∧ (s.modPort k f).sb = s.sb ∧
    (s.modPort k f).pwr = s.pwr ∧ (s.modPort k f).rep = s.rep ∧ (s.modPort k f).fw = s.fw ∧
    (s.modPort k f).bias = s.bias ∧ (s.modPort k f).stPort = s.stPort ∧ (s.modPort k f).stBar0 = s.stBar0 ∧
    (s.modPort k f).journal = s.journal ∧ (s.modPort k f).lastPart = s.lastPart ∧ (s.modPort k f).queues = s.queues ∧
    (s.modPort k f).parts = s.parts ∧ (s.modPort k f).crests = s.crests ∧ (s.modPort k f).slices = s.slices ∧
    (s.modPort k f).regs = s.regs ∧ (s.modPort k f).mods = s.mods ∧ (s.modPort k f).cmds = s.cmds ∧
    (s.modPort k f).ends = s.ends ∧ (s.modPort k f).store = s.store ∧ (s.modPort k f).poison = s.poison ∧
    (s.modPort k f).flaws = s.flaws ∧ (s.modPort k f).pend = s.pend ∧ (s.modPort k f).abuf = s.abuf ∧
    (s.modPort k f).cache = s.cache ∧ (s.modPort k f).evict = s.evict ∧ (s.modPort k f).hostMem = s.hostMem ∧
    (s.modPort k f).hostPoison = s.hostPoison ∧ (s.modPort k f).hostConfig = s.hostConfig ∧
    (s.modPort k f).log = s.log ∧ (s.modPort k f).logNext = s.logNext ∧ (s.modPort k f).trace = s.trace ∧
    (s.modPort k f).traceNext = s.traceNext ∧ (s.modPort k f).unattr = s.unattr ∧
    (s.modPort k f).releasedE = s.releasedE ∧ (s.modPort k f).msixMask = s.msixMask ∧
    (s.modPort k f).msixPend = s.msixPend ∧ (s.modPort k f).linkmaps = s.linkmaps ∧
    (s.modPort k f).refused = s.refused ∧ (s.modPort k f).tiles = s.tiles ∧ (s.modPort k f).landing = s.landing ∧
    (s.modPort k f).retries = s.retries ∧
    (s.modPort k f).stalled = s.stalled ∧ (s.modPort k f).holds = s.holds ∧ (s.modPort k f).closing = s.closing ∧ (s.modPort k f).ingress = s.ingress ∧
    (s.modPort k f).peerPast = s.peerPast :=
  ⟨rfl, rfl, rfl, rfl, rfl, rfl, rfl, rfl, rfl, rfl, rfl, rfl, rfl, rfl, rfl, rfl, rfl, rfl, rfl, rfl, rfl, rfl, rfl, rfl, rfl, rfl, rfl, rfl, rfl, rfl, rfl, rfl, rfl, rfl, rfl, rfl, rfl, rfl, rfl, rfl, rfl, rfl, rfl, rfl, rfl, rfl, rfl, rfl, rfl, rfl⟩

@[simp] theorem State.modCmd_frame (q t : Nat) (f : Cmd → Cmd) :
    (s.modCmd q t f).pending = s.pending ∧ (s.modCmd q t f).time = s.time ∧ (s.modCmd q t f).freeCtr = s.freeCtr ∧
    (s.modCmd q t f).out = s.out ∧ (s.modCmd q t f).mg = s.mg ∧ (s.modCmd q t f).sb = s.sb ∧
    (s.modCmd q t f).pwr = s.pwr ∧ (s.modCmd q t f).rep = s.rep ∧ (s.modCmd q t f).fw = s.fw ∧
    (s.modCmd q t f).bias = s.bias ∧ (s.modCmd q t f).stPort = s.stPort ∧ (s.modCmd q t f).stBar0 = s.stBar0 ∧
    (s.modCmd q t f).journal = s.journal ∧ (s.modCmd q t f).lastPart = s.lastPart ∧
    (s.modCmd q t f).queues = s.queues ∧ (s.modCmd q t f).parts = s.parts ∧ (s.modCmd q t f).crests = s.crests ∧
    (s.modCmd q t f).slices = s.slices ∧ (s.modCmd q t f).regs = s.regs ∧ (s.modCmd q t f).mods = s.mods ∧
    (s.modCmd q t f).ports = s.ports ∧ (s.modCmd q t f).ends = s.ends ∧ (s.modCmd q t f).store = s.store ∧
    (s.modCmd q t f).poison = s.poison ∧ (s.modCmd q t f).flaws = s.flaws ∧ (s.modCmd q t f).pend = s.pend ∧
    (s.modCmd q t f).abuf = s.abuf ∧ (s.modCmd q t f).cache = s.cache ∧ (s.modCmd q t f).evict = s.evict ∧
    (s.modCmd q t f).hostMem = s.hostMem ∧ (s.modCmd q t f).hostPoison = s.hostPoison ∧
    (s.modCmd q t f).hostConfig = s.hostConfig ∧ (s.modCmd q t f).log = s.log ∧
    (s.modCmd q t f).logNext = s.logNext ∧ (s.modCmd q t f).trace = s.trace ∧
    (s.modCmd q t f).traceNext = s.traceNext ∧ (s.modCmd q t f).unattr = s.unattr ∧
    (s.modCmd q t f).releasedE = s.releasedE ∧ (s.modCmd q t f).msixMask = s.msixMask ∧
    (s.modCmd q t f).msixPend = s.msixPend ∧ (s.modCmd q t f).linkmaps = s.linkmaps ∧
    (s.modCmd q t f).refused = s.refused ∧ (s.modCmd q t f).tiles = s.tiles ∧ (s.modCmd q t f).landing = s.landing ∧
    (s.modCmd q t f).retries = s.retries ∧
    (s.modCmd q t f).stalled = s.stalled ∧ (s.modCmd q t f).holds = s.holds ∧ (s.modCmd q t f).closing = s.closing ∧ (s.modCmd q t f).ingress = s.ingress ∧
    (s.modCmd q t f).peerPast = s.peerPast :=
  ⟨rfl, rfl, rfl, rfl, rfl, rfl, rfl, rfl, rfl, rfl, rfl, rfl, rfl, rfl, rfl, rfl, rfl, rfl, rfl, rfl, rfl, rfl, rfl, rfl, rfl, rfl, rfl, rfl, rfl, rfl, rfl, rfl, rfl, rfl, rfl, rfl, rfl, rfl, rfl, rfl, rfl, rfl, rfl, rfl, rfl, rfl, rfl, rfl, rfl, rfl⟩

@[simp] theorem State.emit_frame (o : Out) :
    (s.emit o).pending = s.pending ∧ (s.emit o).time = s.time ∧ (s.emit o).freeCtr = s.freeCtr ∧
    (s.emit o).mg = s.mg ∧ (s.emit o).sb = s.sb ∧ (s.emit o).pwr = s.pwr ∧ (s.emit o).rep = s.rep ∧
    (s.emit o).fw = s.fw ∧ (s.emit o).bias = s.bias ∧ (s.emit o).stPort = s.stPort ∧ (s.emit o).stBar0 = s.stBar0 ∧
    (s.emit o).journal = s.journal ∧ (s.emit o).lastPart = s.lastPart ∧ (s.emit o).queues = s.queues ∧
    (s.emit o).parts = s.parts ∧ (s.emit o).crests = s.crests ∧ (s.emit o).slices = s.slices ∧
    (s.emit o).regs = s.regs ∧ (s.emit o).mods = s.mods ∧ (s.emit o).ports = s.ports ∧ (s.emit o).cmds = s.cmds ∧
    (s.emit o).ends = s.ends ∧ (s.emit o).store = s.store ∧ (s.emit o).poison = s.poison ∧
    (s.emit o).flaws = s.flaws ∧ (s.emit o).pend = s.pend ∧ (s.emit o).abuf = s.abuf ∧ (s.emit o).cache = s.cache ∧
    (s.emit o).evict = s.evict ∧ (s.emit o).hostMem = s.hostMem ∧ (s.emit o).hostPoison = s.hostPoison ∧
    (s.emit o).hostConfig = s.hostConfig ∧ (s.emit o).log = s.log ∧ (s.emit o).logNext = s.logNext ∧
    (s.emit o).trace = s.trace ∧ (s.emit o).traceNext = s.traceNext ∧ (s.emit o).unattr = s.unattr ∧
    (s.emit o).releasedE = s.releasedE ∧ (s.emit o).msixMask = s.msixMask ∧ (s.emit o).msixPend = s.msixPend ∧
    (s.emit o).linkmaps = s.linkmaps ∧ (s.emit o).refused = s.refused ∧ (s.emit o).tiles = s.tiles ∧
    (s.emit o).landing = s.landing ∧ (s.emit o).retries = s.retries ∧
    (s.emit o).stalled = s.stalled ∧ (s.emit o).holds = s.holds ∧ (s.emit o).closing = s.closing ∧ (s.emit o).ingress = s.ingress ∧
    (s.emit o).peerPast = s.peerPast :=
  ⟨rfl, rfl, rfl, rfl, rfl, rfl, rfl, rfl, rfl, rfl, rfl, rfl, rfl, rfl, rfl, rfl, rfl, rfl, rfl, rfl, rfl, rfl, rfl, rfl, rfl, rfl, rfl, rfl, rfl, rfl, rfl, rfl, rfl, rfl, rfl, rfl, rfl, rfl, rfl, rfl, rfl, rfl, rfl, rfl, rfl, rfl, rfl, rfl, rfl, rfl⟩

@[simp] theorem State.bump_frame :
    (s.bump).pending = s.pending ∧ (s.bump).time = s.time ∧ (s.bump).out = s.out ∧ (s.bump).mg = s.mg ∧
    (s.bump).sb = s.sb ∧ (s.bump).pwr = s.pwr ∧ (s.bump).rep = s.rep ∧ (s.bump).fw = s.fw ∧ (s.bump).bias = s.bias ∧
    (s.bump).stPort = s.stPort ∧ (s.bump).stBar0 = s.stBar0 ∧ (s.bump).journal = s.journal ∧
    (s.bump).lastPart = s.lastPart ∧ (s.bump).queues = s.queues ∧ (s.bump).parts = s.parts ∧
    (s.bump).crests = s.crests ∧ (s.bump).slices = s.slices ∧ (s.bump).regs = s.regs ∧ (s.bump).mods = s.mods ∧
    (s.bump).ports = s.ports ∧ (s.bump).cmds = s.cmds ∧ (s.bump).ends = s.ends ∧ (s.bump).store = s.store ∧
    (s.bump).poison = s.poison ∧ (s.bump).flaws = s.flaws ∧ (s.bump).pend = s.pend ∧ (s.bump).abuf = s.abuf ∧
    (s.bump).cache = s.cache ∧ (s.bump).evict = s.evict ∧ (s.bump).hostMem = s.hostMem ∧
    (s.bump).hostPoison = s.hostPoison ∧ (s.bump).hostConfig = s.hostConfig ∧ (s.bump).log = s.log ∧
    (s.bump).logNext = s.logNext ∧ (s.bump).trace = s.trace ∧ (s.bump).traceNext = s.traceNext ∧
    (s.bump).unattr = s.unattr ∧ (s.bump).releasedE = s.releasedE ∧ (s.bump).msixMask = s.msixMask ∧
    (s.bump).msixPend = s.msixPend ∧ (s.bump).linkmaps = s.linkmaps ∧ (s.bump).refused = s.refused ∧
    (s.bump).tiles = s.tiles ∧ (s.bump).landing = s.landing ∧ (s.bump).retries = s.retries ∧
    (s.bump).stalled = s.stalled ∧ (s.bump).holds = s.holds ∧ (s.bump).closing = s.closing ∧ (s.bump).ingress = s.ingress ∧
    (s.bump).peerPast = s.peerPast :=
  ⟨rfl, rfl, rfl, rfl, rfl, rfl, rfl, rfl, rfl, rfl, rfl, rfl, rfl, rfl, rfl, rfl, rfl, rfl, rfl, rfl, rfl, rfl, rfl, rfl, rfl, rfl, rfl, rfl, rfl, rfl, rfl, rfl, rfl, rfl, rfl, rfl, rfl, rfl, rfl, rfl, rfl, rfl, rfl, rfl, rfl, rfl, rfl, rfl, rfl, rfl⟩

@[simp] theorem State.modMg_frame (f : Mgmt → Mgmt) :
    (s.modMg f).pending = s.pending ∧ (s.modMg f).time = s.time ∧ (s.modMg f).freeCtr = s.freeCtr ∧
    (s.modMg f).out = s.out ∧ (s.modMg f).sb = s.sb ∧ (s.modMg f).pwr = s.pwr ∧ (s.modMg f).rep = s.rep ∧
    (s.modMg f).fw = s.fw ∧ (s.modMg f).bias = s.bias ∧ (s.modMg f).stPort = s.stPort ∧
    (s.modMg f).stBar0 = s.stBar0 ∧ (s.modMg f).journal = s.journal ∧ (s.modMg f).lastPart = s.lastPart ∧
    (s.modMg f).queues = s.queues ∧ (s.modMg f).parts = s.parts ∧ (s.modMg f).crests = s.crests ∧
    (s.modMg f).slices = s.slices ∧ (s.modMg f).regs = s.regs ∧ (s.modMg f).mods = s.mods ∧
    (s.modMg f).ports = s.ports ∧ (s.modMg f).cmds = s.cmds ∧ (s.modMg f).ends = s.ends ∧
    (s.modMg f).store = s.store ∧ (s.modMg f).poison = s.poison ∧ (s.modMg f).flaws = s.flaws ∧
    (s.modMg f).pend = s.pend ∧ (s.modMg f).abuf = s.abuf ∧ (s.modMg f).cache = s.cache ∧
    (s.modMg f).evict = s.evict ∧ (s.modMg f).hostMem = s.hostMem ∧ (s.modMg f).hostPoison = s.hostPoison ∧
    (s.modMg f).hostConfig = s.hostConfig ∧ (s.modMg f).log = s.log ∧ (s.modMg f).logNext = s.logNext ∧
    (s.modMg f).trace = s.trace ∧ (s.modMg f).traceNext = s.traceNext ∧ (s.modMg f).unattr = s.unattr ∧
    (s.modMg f).releasedE = s.releasedE ∧ (s.modMg f).msixMask = s.msixMask ∧ (s.modMg f).msixPend = s.msixPend ∧
    (s.modMg f).linkmaps = s.linkmaps ∧ (s.modMg f).refused = s.refused ∧ (s.modMg f).tiles = s.tiles ∧
    (s.modMg f).landing = s.landing ∧ (s.modMg f).retries = s.retries ∧
    (s.modMg f).stalled = s.stalled ∧ (s.modMg f).holds = s.holds ∧ (s.modMg f).closing = s.closing ∧ (s.modMg f).ingress = s.ingress ∧
    (s.modMg f).peerPast = s.peerPast :=
  ⟨rfl, rfl, rfl, rfl, rfl, rfl, rfl, rfl, rfl, rfl, rfl, rfl, rfl, rfl, rfl, rfl, rfl, rfl, rfl, rfl, rfl, rfl, rfl, rfl, rfl, rfl, rfl, rfl, rfl, rfl, rfl, rfl, rfl, rfl, rfl, rfl, rfl, rfl, rfl, rfl, rfl, rfl, rfl, rfl, rfl, rfl, rfl, rfl, rfl, rfl⟩

@[simp] theorem State.modPwr_frame (f : Pwr → Pwr) :
    (s.modPwr f).pending = s.pending ∧ (s.modPwr f).time = s.time ∧ (s.modPwr f).freeCtr = s.freeCtr ∧
    (s.modPwr f).out = s.out ∧ (s.modPwr f).mg = s.mg ∧ (s.modPwr f).sb = s.sb ∧ (s.modPwr f).rep = s.rep ∧
    (s.modPwr f).fw = s.fw ∧ (s.modPwr f).bias = s.bias ∧ (s.modPwr f).stPort = s.stPort ∧
    (s.modPwr f).stBar0 = s.stBar0 ∧ (s.modPwr f).journal = s.journal ∧ (s.modPwr f).lastPart = s.lastPart ∧
    (s.modPwr f).queues = s.queues ∧ (s.modPwr f).parts = s.parts ∧ (s.modPwr f).crests = s.crests ∧
    (s.modPwr f).slices = s.slices ∧ (s.modPwr f).regs = s.regs ∧ (s.modPwr f).mods = s.mods ∧
    (s.modPwr f).ports = s.ports ∧ (s.modPwr f).cmds = s.cmds ∧ (s.modPwr f).ends = s.ends ∧
    (s.modPwr f).store = s.store ∧ (s.modPwr f).poison = s.poison ∧ (s.modPwr f).flaws = s.flaws ∧
    (s.modPwr f).pend = s.pend ∧ (s.modPwr f).abuf = s.abuf ∧ (s.modPwr f).cache = s.cache ∧
    (s.modPwr f).evict = s.evict ∧ (s.modPwr f).hostMem = s.hostMem ∧ (s.modPwr f).hostPoison = s.hostPoison ∧
    (s.modPwr f).hostConfig = s.hostConfig ∧ (s.modPwr f).log = s.log ∧ (s.modPwr f).logNext = s.logNext ∧
    (s.modPwr f).trace = s.trace ∧ (s.modPwr f).traceNext = s.traceNext ∧ (s.modPwr f).unattr = s.unattr ∧
    (s.modPwr f).releasedE = s.releasedE ∧ (s.modPwr f).msixMask = s.msixMask ∧ (s.modPwr f).msixPend = s.msixPend ∧
    (s.modPwr f).linkmaps = s.linkmaps ∧ (s.modPwr f).refused = s.refused ∧ (s.modPwr f).tiles = s.tiles ∧
    (s.modPwr f).landing = s.landing ∧ (s.modPwr f).retries = s.retries ∧
    (s.modPwr f).stalled = s.stalled ∧ (s.modPwr f).holds = s.holds ∧ (s.modPwr f).closing = s.closing ∧ (s.modPwr f).ingress = s.ingress ∧
    (s.modPwr f).peerPast = s.peerPast :=
  ⟨rfl, rfl, rfl, rfl, rfl, rfl, rfl, rfl, rfl, rfl, rfl, rfl, rfl, rfl, rfl, rfl, rfl, rfl, rfl, rfl, rfl, rfl, rfl, rfl, rfl, rfl, rfl, rfl, rfl, rfl, rfl, rfl, rfl, rfl, rfl, rfl, rfl, rfl, rfl, rfl, rfl, rfl, rfl, rfl, rfl, rfl, rfl, rfl, rfl, rfl⟩

@[simp] theorem State.modSb_frame (f : Sb → Sb) :
    (s.modSb f).pending = s.pending ∧ (s.modSb f).time = s.time ∧ (s.modSb f).freeCtr = s.freeCtr ∧
    (s.modSb f).out = s.out ∧ (s.modSb f).mg = s.mg ∧ (s.modSb f).pwr = s.pwr ∧ (s.modSb f).rep = s.rep ∧
    (s.modSb f).fw = s.fw ∧ (s.modSb f).bias = s.bias ∧ (s.modSb f).stPort = s.stPort ∧
    (s.modSb f).stBar0 = s.stBar0 ∧ (s.modSb f).journal = s.journal ∧ (s.modSb f).lastPart = s.lastPart ∧
    (s.modSb f).queues = s.queues ∧ (s.modSb f).parts = s.parts ∧ (s.modSb f).crests = s.crests ∧
    (s.modSb f).slices = s.slices ∧ (s.modSb f).regs = s.regs ∧ (s.modSb f).mods = s.mods ∧
    (s.modSb f).ports = s.ports ∧ (s.modSb f).cmds = s.cmds ∧ (s.modSb f).ends = s.ends ∧
    (s.modSb f).store = s.store ∧ (s.modSb f).poison = s.poison ∧ (s.modSb f).flaws = s.flaws ∧
    (s.modSb f).pend = s.pend ∧ (s.modSb f).abuf = s.abuf ∧ (s.modSb f).cache = s.cache ∧
    (s.modSb f).evict = s.evict ∧ (s.modSb f).hostMem = s.hostMem ∧ (s.modSb f).hostPoison = s.hostPoison ∧
    (s.modSb f).hostConfig = s.hostConfig ∧ (s.modSb f).log = s.log ∧ (s.modSb f).logNext = s.logNext ∧
    (s.modSb f).trace = s.trace ∧ (s.modSb f).traceNext = s.traceNext ∧ (s.modSb f).unattr = s.unattr ∧
    (s.modSb f).releasedE = s.releasedE ∧ (s.modSb f).msixMask = s.msixMask ∧ (s.modSb f).msixPend = s.msixPend ∧
    (s.modSb f).linkmaps = s.linkmaps ∧ (s.modSb f).refused = s.refused ∧ (s.modSb f).tiles = s.tiles ∧
    (s.modSb f).landing = s.landing ∧ (s.modSb f).retries = s.retries ∧
    (s.modSb f).stalled = s.stalled ∧ (s.modSb f).holds = s.holds ∧ (s.modSb f).closing = s.closing ∧ (s.modSb f).ingress = s.ingress ∧
    (s.modSb f).peerPast = s.peerPast :=
  ⟨rfl, rfl, rfl, rfl, rfl, rfl, rfl, rfl, rfl, rfl, rfl, rfl, rfl, rfl, rfl, rfl, rfl, rfl, rfl, rfl, rfl, rfl, rfl, rfl, rfl, rfl, rfl, rfl, rfl, rfl, rfl, rfl, rfl, rfl, rfl, rfl, rfl, rfl, rfl, rfl, rfl, rfl, rfl, rfl, rfl, rfl, rfl, rfl, rfl, rfl⟩

@[simp] theorem State.modRep_frame (f : Repair → Repair) :
    (s.modRep f).pending = s.pending ∧ (s.modRep f).time = s.time ∧ (s.modRep f).freeCtr = s.freeCtr ∧
    (s.modRep f).out = s.out ∧ (s.modRep f).mg = s.mg ∧ (s.modRep f).sb = s.sb ∧ (s.modRep f).pwr = s.pwr ∧
    (s.modRep f).fw = s.fw ∧ (s.modRep f).bias = s.bias ∧ (s.modRep f).stPort = s.stPort ∧
    (s.modRep f).stBar0 = s.stBar0 ∧ (s.modRep f).journal = s.journal ∧ (s.modRep f).lastPart = s.lastPart ∧
    (s.modRep f).queues = s.queues ∧ (s.modRep f).parts = s.parts ∧ (s.modRep f).crests = s.crests ∧
    (s.modRep f).slices = s.slices ∧ (s.modRep f).regs = s.regs ∧ (s.modRep f).mods = s.mods ∧
    (s.modRep f).ports = s.ports ∧ (s.modRep f).cmds = s.cmds ∧ (s.modRep f).ends = s.ends ∧
    (s.modRep f).store = s.store ∧ (s.modRep f).poison = s.poison ∧ (s.modRep f).flaws = s.flaws ∧
    (s.modRep f).pend = s.pend ∧ (s.modRep f).abuf = s.abuf ∧ (s.modRep f).cache = s.cache ∧
    (s.modRep f).evict = s.evict ∧ (s.modRep f).hostMem = s.hostMem ∧ (s.modRep f).hostPoison = s.hostPoison ∧
    (s.modRep f).hostConfig = s.hostConfig ∧ (s.modRep f).log = s.log ∧ (s.modRep f).logNext = s.logNext ∧
    (s.modRep f).trace = s.trace ∧ (s.modRep f).traceNext = s.traceNext ∧ (s.modRep f).unattr = s.unattr ∧
    (s.modRep f).releasedE = s.releasedE ∧ (s.modRep f).msixMask = s.msixMask ∧ (s.modRep f).msixPend = s.msixPend ∧
    (s.modRep f).linkmaps = s.linkmaps ∧ (s.modRep f).refused = s.refused ∧ (s.modRep f).tiles = s.tiles ∧
    (s.modRep f).landing = s.landing ∧ (s.modRep f).retries = s.retries ∧
    (s.modRep f).stalled = s.stalled ∧ (s.modRep f).holds = s.holds ∧ (s.modRep f).closing = s.closing ∧ (s.modRep f).ingress = s.ingress ∧
    (s.modRep f).peerPast = s.peerPast :=
  ⟨rfl, rfl, rfl, rfl, rfl, rfl, rfl, rfl, rfl, rfl, rfl, rfl, rfl, rfl, rfl, rfl, rfl, rfl, rfl, rfl, rfl, rfl, rfl, rfl, rfl, rfl, rfl, rfl, rfl, rfl, rfl, rfl, rfl, rfl, rfl, rfl, rfl, rfl, rfl, rfl, rfl, rfl, rfl, rfl, rfl, rfl, rfl, rfl, rfl, rfl⟩

@[simp] theorem State.modFw_frame (f : Fw → Fw) :
    (s.modFw f).pending = s.pending ∧ (s.modFw f).time = s.time ∧ (s.modFw f).freeCtr = s.freeCtr ∧
    (s.modFw f).out = s.out ∧ (s.modFw f).mg = s.mg ∧ (s.modFw f).sb = s.sb ∧ (s.modFw f).pwr = s.pwr ∧
    (s.modFw f).rep = s.rep ∧ (s.modFw f).bias = s.bias ∧ (s.modFw f).stPort = s.stPort ∧
    (s.modFw f).stBar0 = s.stBar0 ∧ (s.modFw f).journal = s.journal ∧ (s.modFw f).lastPart = s.lastPart ∧
    (s.modFw f).queues = s.queues ∧ (s.modFw f).parts = s.parts ∧ (s.modFw f).crests = s.crests ∧
    (s.modFw f).slices = s.slices ∧ (s.modFw f).regs = s.regs ∧ (s.modFw f).mods = s.mods ∧
    (s.modFw f).ports = s.ports ∧ (s.modFw f).cmds = s.cmds ∧ (s.modFw f).ends = s.ends ∧
    (s.modFw f).store = s.store ∧ (s.modFw f).poison = s.poison ∧ (s.modFw f).flaws = s.flaws ∧
    (s.modFw f).pend = s.pend ∧ (s.modFw f).abuf = s.abuf ∧ (s.modFw f).cache = s.cache ∧
    (s.modFw f).evict = s.evict ∧ (s.modFw f).hostMem = s.hostMem ∧ (s.modFw f).hostPoison = s.hostPoison ∧
    (s.modFw f).hostConfig = s.hostConfig ∧ (s.modFw f).log = s.log ∧ (s.modFw f).logNext = s.logNext ∧
    (s.modFw f).trace = s.trace ∧ (s.modFw f).traceNext = s.traceNext ∧ (s.modFw f).unattr = s.unattr ∧
    (s.modFw f).releasedE = s.releasedE ∧ (s.modFw f).msixMask = s.msixMask ∧ (s.modFw f).msixPend = s.msixPend ∧
    (s.modFw f).linkmaps = s.linkmaps ∧ (s.modFw f).refused = s.refused ∧ (s.modFw f).tiles = s.tiles ∧
    (s.modFw f).landing = s.landing ∧ (s.modFw f).retries = s.retries ∧
    (s.modFw f).stalled = s.stalled ∧ (s.modFw f).holds = s.holds ∧ (s.modFw f).closing = s.closing ∧ (s.modFw f).ingress = s.ingress ∧
    (s.modFw f).peerPast = s.peerPast :=
  ⟨rfl, rfl, rfl, rfl, rfl, rfl, rfl, rfl, rfl, rfl, rfl, rfl, rfl, rfl, rfl, rfl, rfl, rfl, rfl, rfl, rfl, rfl, rfl, rfl, rfl, rfl, rfl, rfl, rfl, rfl, rfl, rfl, rfl, rfl, rfl, rfl, rfl, rfl, rfl, rfl, rfl, rfl, rfl, rfl, rfl, rfl, rfl, rfl, rfl, rfl⟩

@[simp] theorem State.alert_frame (i : Nat) :
    (s.alert i).pending = s.pending ∧ (s.alert i).time = s.time ∧ (s.alert i).freeCtr = s.freeCtr ∧
    (s.alert i).out = s.out ∧ (s.alert i).sb = s.sb ∧ (s.alert i).pwr = s.pwr ∧ (s.alert i).rep = s.rep ∧
    (s.alert i).fw = s.fw ∧ (s.alert i).bias = s.bias ∧ (s.alert i).stPort = s.stPort ∧
    (s.alert i).stBar0 = s.stBar0 ∧ (s.alert i).journal = s.journal ∧ (s.alert i).lastPart = s.lastPart ∧
    (s.alert i).queues = s.queues ∧ (s.alert i).parts = s.parts ∧ (s.alert i).crests = s.crests ∧
    (s.alert i).slices = s.slices ∧ (s.alert i).regs = s.regs ∧ (s.alert i).mods = s.mods ∧
    (s.alert i).ports = s.ports ∧ (s.alert i).cmds = s.cmds ∧ (s.alert i).ends = s.ends ∧
    (s.alert i).store = s.store ∧ (s.alert i).poison = s.poison ∧ (s.alert i).flaws = s.flaws ∧
    (s.alert i).pend = s.pend ∧ (s.alert i).abuf = s.abuf ∧ (s.alert i).cache = s.cache ∧
    (s.alert i).evict = s.evict ∧ (s.alert i).hostMem = s.hostMem ∧ (s.alert i).hostPoison = s.hostPoison ∧
    (s.alert i).hostConfig = s.hostConfig ∧ (s.alert i).log = s.log ∧ (s.alert i).logNext = s.logNext ∧
    (s.alert i).trace = s.trace ∧ (s.alert i).traceNext = s.traceNext ∧ (s.alert i).unattr = s.unattr ∧
    (s.alert i).releasedE = s.releasedE ∧ (s.alert i).msixMask = s.msixMask ∧ (s.alert i).msixPend = s.msixPend ∧
    (s.alert i).linkmaps = s.linkmaps ∧ (s.alert i).refused = s.refused ∧ (s.alert i).tiles = s.tiles ∧
    (s.alert i).landing = s.landing ∧ (s.alert i).retries = s.retries ∧
    (s.alert i).stalled = s.stalled ∧ (s.alert i).holds = s.holds ∧ (s.alert i).closing = s.closing ∧ (s.alert i).ingress = s.ingress ∧
    (s.alert i).peerPast = s.peerPast :=
  ⟨rfl, rfl, rfl, rfl, rfl, rfl, rfl, rfl, rfl, rfl, rfl, rfl, rfl, rfl, rfl, rfl, rfl, rfl, rfl, rfl, rfl, rfl, rfl, rfl, rfl, rfl, rfl, rfl, rfl, rfl, rfl, rfl, rfl, rfl, rfl, rfl, rfl, rfl, rfl, rfl, rfl, rfl, rfl, rfl, rfl, rfl, rfl, rfl, rfl, rfl⟩

@[simp] theorem State.addLog_frame (e : LogEntry) :
    (s.addLog e).pending = s.pending ∧ (s.addLog e).time = s.time ∧ (s.addLog e).freeCtr = s.freeCtr ∧
    (s.addLog e).out = s.out ∧ (s.addLog e).mg = s.mg ∧ (s.addLog e).sb = s.sb ∧ (s.addLog e).pwr = s.pwr ∧
    (s.addLog e).rep = s.rep ∧ (s.addLog e).fw = s.fw ∧ (s.addLog e).bias = s.bias ∧ (s.addLog e).stPort = s.stPort ∧
    (s.addLog e).stBar0 = s.stBar0 ∧ (s.addLog e).journal = s.journal ∧ (s.addLog e).lastPart = s.lastPart ∧
    (s.addLog e).queues = s.queues ∧ (s.addLog e).parts = s.parts ∧ (s.addLog e).crests = s.crests ∧
    (s.addLog e).slices = s.slices ∧ (s.addLog e).regs = s.regs ∧ (s.addLog e).mods = s.mods ∧
    (s.addLog e).ports = s.ports ∧ (s.addLog e).cmds = s.cmds ∧ (s.addLog e).ends = s.ends ∧
    (s.addLog e).store = s.store ∧ (s.addLog e).poison = s.poison ∧ (s.addLog e).flaws = s.flaws ∧
    (s.addLog e).pend = s.pend ∧ (s.addLog e).abuf = s.abuf ∧ (s.addLog e).cache = s.cache ∧
    (s.addLog e).evict = s.evict ∧ (s.addLog e).hostMem = s.hostMem ∧ (s.addLog e).hostPoison = s.hostPoison ∧
    (s.addLog e).hostConfig = s.hostConfig ∧ (s.addLog e).trace = s.trace ∧ (s.addLog e).traceNext = s.traceNext ∧
    (s.addLog e).unattr = s.unattr ∧ (s.addLog e).releasedE = s.releasedE ∧ (s.addLog e).msixMask = s.msixMask ∧
    (s.addLog e).msixPend = s.msixPend ∧ (s.addLog e).linkmaps = s.linkmaps ∧ (s.addLog e).refused = s.refused ∧
    (s.addLog e).tiles = s.tiles ∧ (s.addLog e).landing = s.landing ∧ (s.addLog e).retries = s.retries ∧
    (s.addLog e).stalled = s.stalled ∧ (s.addLog e).holds = s.holds ∧ (s.addLog e).closing = s.closing ∧ (s.addLog e).ingress = s.ingress ∧
    (s.addLog e).peerPast = s.peerPast :=
  ⟨rfl, rfl, rfl, rfl, rfl, rfl, rfl, rfl, rfl, rfl, rfl, rfl, rfl, rfl, rfl, rfl, rfl, rfl, rfl, rfl, rfl, rfl, rfl, rfl, rfl, rfl, rfl, rfl, rfl, rfl, rfl, rfl, rfl, rfl, rfl, rfl, rfl, rfl, rfl, rfl, rfl, rfl, rfl, rfl, rfl, rfl, rfl, rfl, rfl⟩

@[simp] theorem State.addTrace_frame (a b c d e g : Nat) :
    (s.addTrace a b c d e g).pending = s.pending ∧ (s.addTrace a b c d e g).time = s.time ∧
    (s.addTrace a b c d e g).out = s.out ∧ (s.addTrace a b c d e g).mg = s.mg ∧ (s.addTrace a b c d e g).sb = s.sb ∧
    (s.addTrace a b c d e g).pwr = s.pwr ∧ (s.addTrace a b c d e g).rep = s.rep ∧
    (s.addTrace a b c d e g).fw = s.fw ∧ (s.addTrace a b c d e g).bias = s.bias ∧
    (s.addTrace a b c d e g).stPort = s.stPort ∧ (s.addTrace a b c d e g).stBar0 = s.stBar0 ∧
    (s.addTrace a b c d e g).journal = s.journal ∧ (s.addTrace a b c d e g).lastPart = s.lastPart ∧
    (s.addTrace a b c d e g).queues = s.queues ∧ (s.addTrace a b c d e g).parts = s.parts ∧
    (s.addTrace a b c d e g).crests = s.crests ∧ (s.addTrace a b c d e g).slices = s.slices ∧
    (s.addTrace a b c d e g).regs = s.regs ∧ (s.addTrace a b c d e g).mods = s.mods ∧
    (s.addTrace a b c d e g).ports = s.ports ∧ (s.addTrace a b c d e g).cmds = s.cmds ∧
    (s.addTrace a b c d e g).ends = s.ends ∧ (s.addTrace a b c d e g).store = s.store ∧
    (s.addTrace a b c d e g).poison = s.poison ∧ (s.addTrace a b c d e g).flaws = s.flaws ∧
    (s.addTrace a b c d e g).pend = s.pend ∧ (s.addTrace a b c d e g).abuf = s.abuf ∧
    (s.addTrace a b c d e g).cache = s.cache ∧ (s.addTrace a b c d e g).evict = s.evict ∧
    (s.addTrace a b c d e g).hostMem = s.hostMem ∧ (s.addTrace a b c d e g).hostPoison = s.hostPoison ∧
    (s.addTrace a b c d e g).hostConfig = s.hostConfig ∧ (s.addTrace a b c d e g).log = s.log ∧
    (s.addTrace a b c d e g).logNext = s.logNext ∧ (s.addTrace a b c d e g).unattr = s.unattr ∧
    (s.addTrace a b c d e g).releasedE = s.releasedE ∧ (s.addTrace a b c d e g).msixMask = s.msixMask ∧
    (s.addTrace a b c d e g).msixPend = s.msixPend ∧ (s.addTrace a b c d e g).linkmaps = s.linkmaps ∧
    (s.addTrace a b c d e g).refused = s.refused ∧ (s.addTrace a b c d e g).tiles = s.tiles ∧
    (s.addTrace a b c d e g).landing = s.landing ∧ (s.addTrace a b c d e g).retries = s.retries ∧
    (s.addTrace a b c d e g).stalled = s.stalled ∧ (s.addTrace a b c d e g).holds = s.holds ∧ (s.addTrace a b c d e g).closing = s.closing ∧ (s.addTrace a b c d e g).ingress = s.ingress ∧
    (s.addTrace a b c d e g).peerPast = s.peerPast :=
  ⟨rfl, rfl, rfl, rfl, rfl, rfl, rfl, rfl, rfl, rfl, rfl, rfl, rfl, rfl, rfl, rfl, rfl, rfl, rfl, rfl, rfl, rfl, rfl, rfl, rfl, rfl, rfl, rfl, rfl, rfl, rfl, rfl, rfl, rfl, rfl, rfl, rfl, rfl, rfl, rfl, rfl, rfl, rfl, rfl, rfl, rfl, rfl, rfl⟩

@[simp] theorem State.perform_frame (sel : Pend → Bool) (n : Nat) :
    (s.perform sel n).pending = s.pending ∧ (s.perform sel n).time = s.time ∧ (s.perform sel n).freeCtr = s.freeCtr ∧
    (s.perform sel n).out = s.out ∧ (s.perform sel n).mg = s.mg ∧ (s.perform sel n).sb = s.sb ∧
    (s.perform sel n).pwr = s.pwr ∧ (s.perform sel n).rep = s.rep ∧ (s.perform sel n).fw = s.fw ∧
    (s.perform sel n).bias = s.bias ∧ (s.perform sel n).stPort = s.stPort ∧ (s.perform sel n).stBar0 = s.stBar0 ∧
    (s.perform sel n).journal = s.journal ∧ (s.perform sel n).lastPart = s.lastPart ∧
    (s.perform sel n).queues = s.queues ∧ (s.perform sel n).parts = s.parts ∧ (s.perform sel n).crests = s.crests ∧
    (s.perform sel n).slices = s.slices ∧ (s.perform sel n).regs = s.regs ∧ (s.perform sel n).mods = s.mods ∧
    (s.perform sel n).ports = s.ports ∧ (s.perform sel n).cmds = s.cmds ∧ (s.perform sel n).ends = s.ends ∧
    (s.perform sel n).store = s.store ∧ (s.perform sel n).poison = s.poison ∧ (s.perform sel n).flaws = s.flaws ∧
    (s.perform sel n).abuf = s.abuf ∧ (s.perform sel n).cache = s.cache ∧ (s.perform sel n).evict = s.evict ∧
    (s.perform sel n).hostMem = s.hostMem ∧ (s.perform sel n).hostPoison = s.hostPoison ∧
    (s.perform sel n).hostConfig = s.hostConfig ∧ (s.perform sel n).log = s.log ∧
    (s.perform sel n).logNext = s.logNext ∧ (s.perform sel n).trace = s.trace ∧
    (s.perform sel n).traceNext = s.traceNext ∧ (s.perform sel n).unattr = s.unattr ∧
    (s.perform sel n).releasedE = s.releasedE ∧ (s.perform sel n).msixMask = s.msixMask ∧
    (s.perform sel n).msixPend = s.msixPend ∧ (s.perform sel n).linkmaps = s.linkmaps ∧
    (s.perform sel n).refused = s.refused ∧ (s.perform sel n).tiles = s.tiles ∧
    (s.perform sel n).landing = s.landing ∧ (s.perform sel n).retries = s.retries ∧
    (s.perform sel n).stalled = s.stalled ∧ (s.perform sel n).holds = s.holds ∧ (s.perform sel n).closing = s.closing ∧ (s.perform sel n).ingress = s.ingress ∧
    (s.perform sel n).peerPast = s.peerPast :=
  ⟨rfl, rfl, rfl, rfl, rfl, rfl, rfl, rfl, rfl, rfl, rfl, rfl, rfl, rfl, rfl, rfl, rfl, rfl, rfl, rfl, rfl, rfl, rfl, rfl, rfl, rfl, rfl, rfl, rfl, rfl, rfl, rfl, rfl, rfl, rfl, rfl, rfl, rfl, rfl, rfl, rfl, rfl, rfl, rfl, rfl, rfl, rfl, rfl, rfl, rfl⟩

@[simp] theorem State.zeroSlice_frame (n : Nat) :
    (s.zeroSlice n).pending = s.pending ∧ (s.zeroSlice n).time = s.time ∧ (s.zeroSlice n).freeCtr = s.freeCtr ∧
    (s.zeroSlice n).out = s.out ∧ (s.zeroSlice n).mg = s.mg ∧ (s.zeroSlice n).sb = s.sb ∧
    (s.zeroSlice n).pwr = s.pwr ∧ (s.zeroSlice n).rep = s.rep ∧ (s.zeroSlice n).fw = s.fw ∧
    (s.zeroSlice n).stPort = s.stPort ∧ (s.zeroSlice n).stBar0 = s.stBar0 ∧ (s.zeroSlice n).journal = s.journal ∧
    (s.zeroSlice n).lastPart = s.lastPart ∧ (s.zeroSlice n).queues = s.queues ∧ (s.zeroSlice n).parts = s.parts ∧
    (s.zeroSlice n).crests = s.crests ∧ (s.zeroSlice n).slices = s.slices ∧ (s.zeroSlice n).regs = s.regs ∧
    (s.zeroSlice n).mods = s.mods ∧ (s.zeroSlice n).ports = s.ports ∧ (s.zeroSlice n).cmds = s.cmds ∧
    (s.zeroSlice n).ends = s.ends ∧ (s.zeroSlice n).hostMem = s.hostMem ∧
    (s.zeroSlice n).hostConfig = s.hostConfig ∧
    (s.zeroSlice n).log = s.log ∧ (s.zeroSlice n).logNext = s.logNext ∧ (s.zeroSlice n).trace = s.trace ∧
    (s.zeroSlice n).traceNext = s.traceNext ∧ (s.zeroSlice n).unattr = s.unattr ∧
    (s.zeroSlice n).releasedE = s.releasedE ∧ (s.zeroSlice n).msixMask = s.msixMask ∧
    (s.zeroSlice n).msixPend = s.msixPend ∧ (s.zeroSlice n).linkmaps = s.linkmaps ∧
    (s.zeroSlice n).refused = s.refused ∧ (s.zeroSlice n).tiles = s.tiles ∧ (s.zeroSlice n).landing = s.landing ∧
    (s.zeroSlice n).retries = s.retries ∧
    (s.zeroSlice n).stalled = s.stalled ∧ (s.zeroSlice n).holds = s.holds ∧ (s.zeroSlice n).closing = s.closing ∧ (s.zeroSlice n).ingress = s.ingress ∧
    (s.zeroSlice n).peerPast = s.peerPast :=
  ⟨rfl, rfl, rfl, rfl, rfl, rfl, rfl, rfl, rfl, rfl, rfl, rfl, rfl, rfl, rfl, rfl, rfl, rfl, rfl, rfl, rfl, rfl, rfl, rfl, rfl, rfl, rfl, rfl, rfl, rfl, rfl, rfl, rfl, rfl, rfl, rfl, rfl, rfl, rfl, rfl, rfl, rfl⟩

/-! The tables after an update of another. -/

@[simp] theorem State.modQueue_reads (q : Nat) (f : Queue → Queue) (k j : Nat) :
    (s.modQueue q f).part k = s.part k ∧
    (s.modQueue q f).crest k = s.crest k ∧
    (s.modQueue q f).slice k = s.slice k ∧
    (s.modQueue q f).reg k = s.reg k ∧
    (s.modQueue q f).hmod k = s.hmod k ∧
    (s.modQueue q f).port k = s.port k ∧
    (s.modQueue q f).cmd? k j = s.cmd? k j ∧
    (s.modQueue q f).physOf k = s.physOf k :=
  ⟨rfl, rfl, rfl, rfl, rfl, rfl, rfl, rfl⟩

@[simp] theorem State.modPart_reads (p : Nat) (f : Part → Part) (k j : Nat) :
    (s.modPart p f).queue k = s.queue k ∧
    (s.modPart p f).crest k = s.crest k ∧
    (s.modPart p f).slice k = s.slice k ∧
    (s.modPart p f).reg k = s.reg k ∧
    (s.modPart p f).hmod k = s.hmod k ∧
    (s.modPart p f).port k = s.port k ∧
    (s.modPart p f).cmd? k j = s.cmd? k j ∧
    (s.modPart p f).physOf k = s.physOf k :=
  ⟨rfl, rfl, rfl, rfl, rfl, rfl, rfl, rfl⟩

@[simp] theorem State.modCrest_reads (p : Nat) (f : Crest → Crest) (k j : Nat) :
    (s.modCrest p f).queue k = s.queue k ∧
    (s.modCrest p f).part k = s.part k ∧
    (s.modCrest p f).slice k = s.slice k ∧
    (s.modCrest p f).reg k = s.reg k ∧
    (s.modCrest p f).hmod k = s.hmod k ∧
    (s.modCrest p f).port k = s.port k ∧
    (s.modCrest p f).cmd? k j = s.cmd? k j ∧
    (s.modCrest p f).physOf k = s.physOf k :=
  ⟨rfl, rfl, rfl, rfl, rfl, rfl, rfl, rfl⟩

@[simp] theorem State.modSlice_reads (n : Nat) (f : Slice → Slice) (k j : Nat) :
    (s.modSlice n f).queue k = s.queue k ∧
    (s.modSlice n f).part k = s.part k ∧
    (s.modSlice n f).crest k = s.crest k ∧
    (s.modSlice n f).reg k = s.reg k ∧
    (s.modSlice n f).hmod k = s.hmod k ∧
    (s.modSlice n f).port k = s.port k ∧
    (s.modSlice n f).cmd? k j = s.cmd? k j ∧
    (s.modSlice n f).physOf k = s.physOf k :=
  ⟨rfl, rfl, rfl, rfl, rfl, rfl, rfl, rfl⟩

@[simp] theorem State.modReg_reads (r : Nat) (f : Reg → Reg) (k j : Nat) :
    (s.modReg r f).queue k = s.queue k ∧
    (s.modReg r f).part k = s.part k ∧
    (s.modReg r f).crest k = s.crest k ∧
    (s.modReg r f).slice k = s.slice k ∧
    (s.modReg r f).hmod k = s.hmod k ∧
    (s.modReg r f).port k = s.port k ∧
    (s.modReg r f).cmd? k j = s.cmd? k j ∧
    (s.modReg r f).physOf k = s.physOf k :=
  ⟨rfl, rfl, rfl, rfl, rfl, rfl, rfl, rfl⟩

@[simp] theorem State.modHmod_reads (m : Nat) (f : HMod → HMod) (k j : Nat) :
    (s.modHmod m f).queue k = s.queue k ∧
    (s.modHmod m f).part k = s.part k ∧
    (s.modHmod m f).crest k = s.crest k ∧
    (s.modHmod m f).slice k = s.slice k ∧
    (s.modHmod m f).reg k = s.reg k ∧
    (s.modHmod m f).port k = s.port k ∧
    (s.modHmod m f).cmd? k j = s.cmd? k j ∧
    (s.modHmod m f).physOf k = s.physOf k :=
  ⟨rfl, rfl, rfl, rfl, rfl, rfl, rfl, rfl⟩

@[simp] theorem State.modPort_reads (n : Nat) (f : PPort → PPort) (k j : Nat) :
    (s.modPort n f).queue k = s.queue k ∧
    (s.modPort n f).part k = s.part k ∧
    (s.modPort n f).crest k = s.crest k ∧
    (s.modPort n f).slice k = s.slice k ∧
    (s.modPort n f).reg k = s.reg k ∧
    (s.modPort n f).hmod k = s.hmod k ∧
    (s.modPort n f).cmd? k j = s.cmd? k j ∧
    (s.modPort n f).physOf k = s.physOf k :=
  ⟨rfl, rfl, rfl, rfl, rfl, rfl, rfl, rfl⟩

@[simp] theorem State.modCmd_reads (q t : Nat) (f : Cmd → Cmd) (k : Nat) :
    (s.modCmd q t f).queue k = s.queue k ∧
    (s.modCmd q t f).part k = s.part k ∧
    (s.modCmd q t f).crest k = s.crest k ∧
    (s.modCmd q t f).slice k = s.slice k ∧
    (s.modCmd q t f).reg k = s.reg k ∧
    (s.modCmd q t f).hmod k = s.hmod k ∧
    (s.modCmd q t f).port k = s.port k ∧
    (s.modCmd q t f).physOf k = s.physOf k :=
  ⟨rfl, rfl, rfl, rfl, rfl, rfl, rfl, rfl⟩

@[simp] theorem State.emit_reads (o : Out) (k j : Nat) :
    (s.emit o).queue k = s.queue k ∧
    (s.emit o).part k = s.part k ∧
    (s.emit o).crest k = s.crest k ∧
    (s.emit o).slice k = s.slice k ∧
    (s.emit o).reg k = s.reg k ∧
    (s.emit o).hmod k = s.hmod k ∧
    (s.emit o).port k = s.port k ∧
    (s.emit o).cmd? k j = s.cmd? k j ∧
    (s.emit o).physOf k = s.physOf k :=
  ⟨rfl, rfl, rfl, rfl, rfl, rfl, rfl, rfl, rfl⟩

@[simp] theorem State.bump_reads  (k j : Nat) :
    (s.bump).queue k = s.queue k ∧
    (s.bump).part k = s.part k ∧
    (s.bump).crest k = s.crest k ∧
    (s.bump).slice k = s.slice k ∧
    (s.bump).reg k = s.reg k ∧
    (s.bump).hmod k = s.hmod k ∧
    (s.bump).port k = s.port k ∧
    (s.bump).cmd? k j = s.cmd? k j ∧
    (s.bump).physOf k = s.physOf k :=
  ⟨rfl, rfl, rfl, rfl, rfl, rfl, rfl, rfl, rfl⟩

@[simp] theorem State.modMg_reads (f : Mgmt → Mgmt) (k j : Nat) :
    (s.modMg f).queue k = s.queue k ∧
    (s.modMg f).part k = s.part k ∧
    (s.modMg f).crest k = s.crest k ∧
    (s.modMg f).slice k = s.slice k ∧
    (s.modMg f).reg k = s.reg k ∧
    (s.modMg f).hmod k = s.hmod k ∧
    (s.modMg f).port k = s.port k ∧
    (s.modMg f).cmd? k j = s.cmd? k j ∧
    (s.modMg f).physOf k = s.physOf k :=
  ⟨rfl, rfl, rfl, rfl, rfl, rfl, rfl, rfl, rfl⟩

@[simp] theorem State.modPwr_reads (f : Pwr → Pwr) (k j : Nat) :
    (s.modPwr f).queue k = s.queue k ∧
    (s.modPwr f).part k = s.part k ∧
    (s.modPwr f).crest k = s.crest k ∧
    (s.modPwr f).slice k = s.slice k ∧
    (s.modPwr f).reg k = s.reg k ∧
    (s.modPwr f).hmod k = s.hmod k ∧
    (s.modPwr f).port k = s.port k ∧
    (s.modPwr f).cmd? k j = s.cmd? k j ∧
    (s.modPwr f).physOf k = s.physOf k :=
  ⟨rfl, rfl, rfl, rfl, rfl, rfl, rfl, rfl, rfl⟩

@[simp] theorem State.modSb_reads (f : Sb → Sb) (k j : Nat) :
    (s.modSb f).queue k = s.queue k ∧
    (s.modSb f).part k = s.part k ∧
    (s.modSb f).crest k = s.crest k ∧
    (s.modSb f).slice k = s.slice k ∧
    (s.modSb f).reg k = s.reg k ∧
    (s.modSb f).hmod k = s.hmod k ∧
    (s.modSb f).port k = s.port k ∧
    (s.modSb f).cmd? k j = s.cmd? k j ∧
    (s.modSb f).physOf k = s.physOf k :=
  ⟨rfl, rfl, rfl, rfl, rfl, rfl, rfl, rfl, rfl⟩

@[simp] theorem State.modRep_reads (f : Repair → Repair) (k j : Nat) :
    (s.modRep f).queue k = s.queue k ∧
    (s.modRep f).part k = s.part k ∧
    (s.modRep f).crest k = s.crest k ∧
    (s.modRep f).slice k = s.slice k ∧
    (s.modRep f).reg k = s.reg k ∧
    (s.modRep f).hmod k = s.hmod k ∧
    (s.modRep f).port k = s.port k ∧
    (s.modRep f).cmd? k j = s.cmd? k j :=
  ⟨rfl, rfl, rfl, rfl, rfl, rfl, rfl, rfl⟩

@[simp] theorem State.modFw_reads (f : Fw → Fw) (k j : Nat) :
    (s.modFw f).queue k = s.queue k ∧
    (s.modFw f).part k = s.part k ∧
    (s.modFw f).crest k = s.crest k ∧
    (s.modFw f).slice k = s.slice k ∧
    (s.modFw f).reg k = s.reg k ∧
    (s.modFw f).hmod k = s.hmod k ∧
    (s.modFw f).port k = s.port k ∧
    (s.modFw f).cmd? k j = s.cmd? k j ∧
    (s.modFw f).physOf k = s.physOf k :=
  ⟨rfl, rfl, rfl, rfl, rfl, rfl, rfl, rfl, rfl⟩

@[simp] theorem State.alert_reads (i : Nat) (k j : Nat) :
    (s.alert i).queue k = s.queue k ∧
    (s.alert i).part k = s.part k ∧
    (s.alert i).crest k = s.crest k ∧
    (s.alert i).slice k = s.slice k ∧
    (s.alert i).reg k = s.reg k ∧
    (s.alert i).hmod k = s.hmod k ∧
    (s.alert i).port k = s.port k ∧
    (s.alert i).cmd? k j = s.cmd? k j ∧
    (s.alert i).physOf k = s.physOf k :=
  ⟨rfl, rfl, rfl, rfl, rfl, rfl, rfl, rfl, rfl⟩

@[simp] theorem State.addLog_reads (e : LogEntry) (k j : Nat) :
    (s.addLog e).queue k = s.queue k ∧
    (s.addLog e).part k = s.part k ∧
    (s.addLog e).crest k = s.crest k ∧
    (s.addLog e).slice k = s.slice k ∧
    (s.addLog e).reg k = s.reg k ∧
    (s.addLog e).hmod k = s.hmod k ∧
    (s.addLog e).port k = s.port k ∧
    (s.addLog e).cmd? k j = s.cmd? k j ∧
    (s.addLog e).physOf k = s.physOf k :=
  ⟨rfl, rfl, rfl, rfl, rfl, rfl, rfl, rfl, rfl⟩

@[simp] theorem State.addTrace_reads (a b c d e g : Nat) (k j : Nat) :
    (s.addTrace a b c d e g).queue k = s.queue k ∧
    (s.addTrace a b c d e g).part k = s.part k ∧
    (s.addTrace a b c d e g).crest k = s.crest k ∧
    (s.addTrace a b c d e g).slice k = s.slice k ∧
    (s.addTrace a b c d e g).reg k = s.reg k ∧
    (s.addTrace a b c d e g).hmod k = s.hmod k ∧
    (s.addTrace a b c d e g).port k = s.port k ∧
    (s.addTrace a b c d e g).cmd? k j = s.cmd? k j ∧
    (s.addTrace a b c d e g).physOf k = s.physOf k :=
  ⟨rfl, rfl, rfl, rfl, rfl, rfl, rfl, rfl, rfl⟩

@[simp] theorem State.perform_reads (sel : Pend → Bool) (n : Nat) (k j : Nat) :
    (s.perform sel n).queue k = s.queue k ∧
    (s.perform sel n).part k = s.part k ∧
    (s.perform sel n).crest k = s.crest k ∧
    (s.perform sel n).slice k = s.slice k ∧
    (s.perform sel n).reg k = s.reg k ∧
    (s.perform sel n).hmod k = s.hmod k ∧
    (s.perform sel n).port k = s.port k ∧
    (s.perform sel n).cmd? k j = s.cmd? k j ∧
    (s.perform sel n).physOf k = s.physOf k :=
  ⟨rfl, rfl, rfl, rfl, rfl, rfl, rfl, rfl, rfl⟩

@[simp] theorem State.zeroSlice_reads (n : Nat) (k j : Nat) :
    (s.zeroSlice n).queue k = s.queue k ∧
    (s.zeroSlice n).part k = s.part k ∧
    (s.zeroSlice n).crest k = s.crest k ∧
    (s.zeroSlice n).slice k = s.slice k ∧
    (s.zeroSlice n).reg k = s.reg k ∧
    (s.zeroSlice n).hmod k = s.hmod k ∧
    (s.zeroSlice n).port k = s.port k ∧
    (s.zeroSlice n).cmd? k j = s.cmd? k j ∧
    (s.zeroSlice n).physOf k = s.physOf k :=
  ⟨rfl, rfl, rfl, rfl, rfl, rfl, rfl, rfl, rfl⟩

/-! The table that an update changes. -/

theorem State.queue_modQueue (k : Nat) (f : Queue → Queue) (j : Nat) :
    (s.modQueue k f).queue j = if j = k then f (s.queue k) else s.queue j := tget_tmod ..

@[simp] theorem State.queue_modQueue_same (k : Nat) (f : Queue → Queue) : (s.modQueue k f).queue k = f (s.queue k) := tget_tmod_same ..

theorem State.queue_modQueue_other (k : Nat) (f : Queue → Queue) (j : Nat) (h : j ≠ k) : (s.modQueue k f).queue j = s.queue j :=
  tget_tmod_other _ _ _ _ h

theorem State.part_modPart (k : Nat) (f : Part → Part) (j : Nat) :
    (s.modPart k f).part j = if j = k then f (s.part k) else s.part j := tget_tmod ..

@[simp] theorem State.part_modPart_same (k : Nat) (f : Part → Part) : (s.modPart k f).part k = f (s.part k) := tget_tmod_same ..

theorem State.part_modPart_other (k : Nat) (f : Part → Part) (j : Nat) (h : j ≠ k) : (s.modPart k f).part j = s.part j :=
  tget_tmod_other _ _ _ _ h

theorem State.crest_modCrest (k : Nat) (f : Crest → Crest) (j : Nat) :
    (s.modCrest k f).crest j = if j = k then f (s.crest k) else s.crest j := tget_tmod ..

@[simp] theorem State.crest_modCrest_same (k : Nat) (f : Crest → Crest) : (s.modCrest k f).crest k = f (s.crest k) := tget_tmod_same ..

theorem State.crest_modCrest_other (k : Nat) (f : Crest → Crest) (j : Nat) (h : j ≠ k) : (s.modCrest k f).crest j = s.crest j :=
  tget_tmod_other _ _ _ _ h

theorem State.slice_modSlice (k : Nat) (f : Slice → Slice) (j : Nat) :
    (s.modSlice k f).slice j = if j = k then f (s.slice k) else s.slice j := tget_tmod ..

@[simp] theorem State.slice_modSlice_same (k : Nat) (f : Slice → Slice) : (s.modSlice k f).slice k = f (s.slice k) := tget_tmod_same ..

theorem State.slice_modSlice_other (k : Nat) (f : Slice → Slice) (j : Nat) (h : j ≠ k) : (s.modSlice k f).slice j = s.slice j :=
  tget_tmod_other _ _ _ _ h

theorem State.reg_modReg (k : Nat) (f : Reg → Reg) (j : Nat) :
    (s.modReg k f).reg j = if j = k then f (s.reg k) else s.reg j := tget_tmod ..

@[simp] theorem State.reg_modReg_same (k : Nat) (f : Reg → Reg) : (s.modReg k f).reg k = f (s.reg k) := tget_tmod_same ..

theorem State.reg_modReg_other (k : Nat) (f : Reg → Reg) (j : Nat) (h : j ≠ k) : (s.modReg k f).reg j = s.reg j :=
  tget_tmod_other _ _ _ _ h

theorem State.hmod_modHmod (k : Nat) (f : HMod → HMod) (j : Nat) :
    (s.modHmod k f).hmod j = if j = k then f (s.hmod k) else s.hmod j := tget_tmod ..

@[simp] theorem State.hmod_modHmod_same (k : Nat) (f : HMod → HMod) : (s.modHmod k f).hmod k = f (s.hmod k) := tget_tmod_same ..

theorem State.hmod_modHmod_other (k : Nat) (f : HMod → HMod) (j : Nat) (h : j ≠ k) : (s.modHmod k f).hmod j = s.hmod j :=
  tget_tmod_other _ _ _ _ h

theorem State.port_modPort (k : Nat) (f : PPort → PPort) (j : Nat) :
    (s.modPort k f).port j = if j = k then f (s.port k) else s.port j := tget_tmod ..

@[simp] theorem State.port_modPort_same (k : Nat) (f : PPort → PPort) : (s.modPort k f).port k = f (s.port k) := tget_tmod_same ..

theorem State.port_modPort_other (k : Nat) (f : PPort → PPort) (j : Nat) (h : j ≠ k) : (s.modPort k f).port j = s.port j :=
  tget_tmod_other _ _ _ _ h

@[simp] theorem State.modMg_mg (f : Mgmt → Mgmt) : (s.modMg f).mg = f s.mg := rfl

@[simp] theorem State.modPwr_pwr (f : Pwr → Pwr) : (s.modPwr f).pwr = f s.pwr := rfl

@[simp] theorem State.modSb_sb (f : Sb → Sb) : (s.modSb f).sb = f s.sb := rfl

@[simp] theorem State.modRep_rep (f : Repair → Repair) : (s.modRep f).rep = f s.rep := rfl

@[simp] theorem State.modFw_fw (f : Fw → Fw) : (s.modFw f).fw = f s.fw := rfl

@[simp] theorem State.emit_out (o : Out) : (s.emit o).out = o :: s.out := rfl

@[simp] theorem State.bump_freeCtr : s.bump.freeCtr = s.freeCtr + 1 := rfl

/-- A change of a command that keeps its queue and tag is what a later look finds. -/
theorem State.cmd?_modCmd (q t : Nat) (f : Cmd → Cmd) (hf : ∀ c, (f c).q = c.q ∧ (f c).t = c.t) (k j : Nat) :
    (s.modCmd q t f).cmd? k j = (s.cmd? k j).map fun c => if c.q = q && c.t = t then f c else c := by
  unfold State.cmd? State.modCmd
  rw [List.find?_map]
  congr 1
  congr 1
  funext c
  simp only [Function.comp]
  split
  · simp [hf c]
  · rfl

end Sys2Proof.Machine
end

