-- ==== Sys2Proof/Laws/Memory.lean ====
section
/-!
SUPPORT. Every memory operation keeps the canonical form of the store, the host's memory and their poison
(`State.memWf`), and the state after reset has it; what a line reads after it is written back.
-/
namespace Sys2Proof.Machine

theorem reset_memWf : State.reset.memWf := ⟨rfl, rfl, rfl, rfl⟩

/-- An operation that leaves the four tables as they are keeps their form. -/
theorem memWf_of_eq {s t : State} (h : s.memWf) (h1 : t.store = s.store) (h2 : t.hostMem = s.hostMem)
    (h3 : t.poison = s.poison) (h4 : t.hostPoison = s.hostPoison) : t.memWf := by
  unfold State.memWf; rw [h1, h2, h3, h4]; exact h

/-- A fold of an operation that keeps the form keeps it. -/
theorem foldl_memWf {β : Type} (f : State → β → State) (hf : ∀ s b, s.memWf → (f s b).memWf) (l : List β) (s : State)
    (h : s.memWf) : (l.foldl f s).memWf := by
  induction l generalizing s with
  | nil => exact h
  | cons b l ih => exact ih _ (hf s b h)

theorem backLine_memWf (s : State) (l : Nat) (d : List Byte) (p : Bool) (h : s.memWf) : (s.backLine l d p).memWf := by
  obtain ⟨h1, h2, h3, h4⟩ := h
  unfold State.backLine
  split
  · exact ⟨h1, twf_tsetFrom _ _ _ _ h2, h3, twf_tset _ _ _ _ h4⟩
  · exact ⟨twf_tsetFrom _ _ _ _ h1, h2, twf_tset _ _ _ _ h3, twf_tset false s.hostPoison (2 ^ 47 + l) false h4⟩

theorem bump_memWf (s : State) (h : s.memWf) : s.bump.memWf := h

theorem modSlice_memWf (s : State) (n : Nat) (f : Slice → Slice) (h : s.memWf) : (s.modSlice n f).memWf := h

theorem emit_memWf (s : State) (o : Out) (h : s.memWf) : (s.emit o).memWf := h

theorem grantEvict_memWf (s : State) (l : Nat) (h : s.memWf) : (s.grantEvict l).memWf := by
  unfold State.grantEvict
  split
  · exact h
  · dsimp only
    split
    · exact emit_memWf _ _ (backLine_memWf _ _ _ _ h)
    · exact h

theorem evictLine_memWf (s : State) (l : Nat) (h : s.memWf) : (s.evictLine l).memWf := h

theorem wayFor_memWf (s : State) (l : Nat) (h : s.memWf) : (s.wayFor l).memWf := by
  unfold State.wayFor
  dsimp only
  split
  · exact h
  · exact bump_memWf _ (evictLine_memWf s _ h)

theorem settle_memWf (s : State) (l : Nat) (h : s.memWf) : (s.settle l).memWf := by
  unfold State.settle
  split
  · exact backLine_memWf _ _ _ _ h
  · exact h

theorem fill_memWf (s : State) (l : Nat) (st : Mesi) (req : CacheReq) (h : s.memWf) : (s.fill l st req).memWf := by
  unfold State.fill
  dsimp only
  split
  · exact wayFor_memWf _ l (settle_memWf s l h)
  · repeat' split
    all_goals exact h

theorem zeroSlice_memWf (s : State) (n : Nat) (h : s.memWf) : (s.zeroSlice n).memWf := by
  obtain ⟨h1, h2, h3, h4⟩ := h
  exact ⟨twf_tclear _ _ _ _ h1, h2, twf_tclear _ _ _ _ h3, twf_tclear _ _ _ _ h4⟩

theorem wakeSlice_memWf (s : State) (n : Nat) (h : s.memWf) : (s.wakeSlice n).memWf := by
  unfold State.wakeSlice
  split
  · dsimp only
    split
    · exact modSlice_memWf _ _ _ (modSlice_memWf _ _ _ (zeroSlice_memWf s n h))
    · exact modSlice_memWf _ _ _ h
  · exact h

theorem reachSlice_memWf (s : State) (n : Nat) (h : s.memWf) : (s.reachSlice n).memWf := by
  unfold State.reachSlice
  dsimp only
  split <;> exact wakeSlice_memWf s n h

theorem wakes_memWf (s : State) (gs : List Nat) (h : s.memWf) : (s.wakes gs).memWf :=
  foldl_memWf _ (fun _ _ h => reachSlice_memWf _ _ h) _ s h

theorem touchBy_memWf (st : Mesi) (req : CacheReq) (s : State) (gs : List Nat) (h : s.memWf) :
    (s.touchBy st req gs).memWf := by
  refine foldl_memWf _ ?_ gs _ (wakes_memWf s gs h)
  intro s g h
  split
  · exact fill_memWf s _ _ _ h
  · exact h

theorem writeLine_memWf (s : State) (l : Nat) (m : List (Nat × Byte)) (h : s.memWf) : (s.writeLine l m).memWf := by
  unfold State.writeLine
  split
  · exact h
  · dsimp only
    split
    · exact fill_memWf s l .M _ h
    · exact backLine_memWf _ _ _ _ (wakeSlice_memWf s _ h)

theorem pendLine_memWf (s : State) (o : Obs) (l : Nat) (m : List (Nat × Byte)) (h : s.memWf) :
    (s.pendLine o l m).memWf := by
  unfold State.pendLine
  split
  · exact h
  · split <;> exact h

theorem pendWrite_memWf (s : State) (ps : List Pend) (l : Nat) (m : List (Nat × Byte)) (h : s.memWf) :
    ({ s with pend := ps }.writeLine l m).memWf := writeLine_memWf _ l m h

theorem write_memWf (s : State) (o : Obs) (m : List (Nat × Byte)) (h : s.memWf) : (s.write o m).memWf :=
  foldl_memWf _ (fun _ _ h => writeLine_memWf _ _ _ (pendLine_memWf _ _ _ _ h)) _ s h

theorem writeAtomic_memWf (s : State) (l : Nat) (m : List (Nat × Byte)) (h : s.memWf) : (s.writeAtomic l m).memWf := by
  unfold State.writeAtomic
  dsimp only
  split
  · exact pendWrite_memWf s _ _ _ h
  · exact write_memWf s _ _ h

theorem writeAt_memWf (s : State) (o : Obs) (p a : Nat) (bs : List Byte) (h : s.memWf) : (s.writeAt o p a bs).memWf :=
  write_memWf s o _ h

theorem release_memWf (s : State) (q t scope : Nat) (h : s.memWf) : (s.release q t scope).memWf := h

theorem hostOwns_memWf (s : State) (l g : Nat) (b : Byte) (h : s.memWf) : (s.hostOwns l g b).memWf := by
  have key : ∀ (r : State), r.memWf → (if isHostLine l then
      { r with hostMem := tset 0#8 r.hostMem (g - hostBase) b, hostPoison := tset false r.hostPoison (l - hostBase / 64) false }
      else { r with store := tset 0#8 r.store g b } : State).memWf := by
    intro r ⟨h1, h2, h3, h4⟩
    split
    · exact ⟨h1, twf_tset _ _ _ _ h2, h3, twf_tset false r.hostPoison (l - hostBase / 64) false h4⟩
    · exact ⟨twf_tset _ _ _ _ h1, h2, h3, h4⟩
  apply key { (State.pendLine _ .host l [(g, b)]) with cache := _ }
  apply pendLine_memWf
  split
  · exact backLine_memWf _ _ _ _ (settle_memWf _ _ h)
  · exact settle_memWf _ _ h

theorem unpoison_memWf (s : State) (l : Nat) (h : s.memWf) : (s.unpoison l).memWf := by
  obtain ⟨h1, h2, h3, h4⟩ := h
  exact ⟨h1, h2, twf_tset false s.poison l false h3, twf_tset false s.hostPoison (2 ^ 47 + l) false h4⟩

theorem poisonKey_memWf (s : State) (c : Tbl CLine) (l : Nat) (h : s.memWf) :
    ({ s with cache := c, hostPoison := tset false s.hostPoison l true } : State).memWf := by
  obtain ⟨h1, h2, h3, h4⟩ := h
  exact ⟨h1, h2, h3, twf_tset false s.hostPoison l true h4⟩

theorem hostWrites_memWf (s : State) (u : HostUpd) (h : s.memWf) : (s.hostWrites u).memWf := by
  unfold State.hostWrites
  refine foldl_memWf _ ?_ u.poison _
    (foldl_memWf _ (fun _ _ h => unpoison_memWf _ _ h) _ _ (foldl_memWf _ ?_ u.cells _ ?_))
  · intro s l h
    dsimp only
    split
    · exact poisonKey_memWf s _ _ h
    · split
      · exact poisonKey_memWf _ _ _ (settle_memWf _ _ h)
      · exact h
  · intro s c h
    repeat' split
    all_goals first | exact hostOwns_memWf _ _ _ _ h | exact h
  · split <;> exact h

theorem abufBack_memWf (s : State) (w : ABuf) (h : s.memWf) : (s.abufBack w).memWf := write_memWf _ _ _ h

theorem abufFlush_memWf (s : State) (sel : ABuf → Bool) (h : s.memWf) : (s.abufFlush sel).memWf :=
  foldl_memWf _ (fun _ _ h => abufBack_memWf _ _ h) _ s h

theorem giveUp_memWf (s : State) (l : Nat) (h : s.memWf) : (s.giveUp l).memWf := by
  unfold State.giveUp
  dsimp only
  split
  · exact backLine_memWf s _ _ _ h
  · exact h

theorem hostLine_memWf (s : State) (l : Nat) (m : List (Nat × Byte)) (p : Bool) (h : s.memWf) :
    (s.hostLine l m p).memWf :=
  backLine_memWf _ _ _ _ (pendLine_memWf _ _ _ _ (giveUp_memWf _ _ (settle_memWf s l h)))

theorem dbgStore_memWf (s : State) (a : Nat) (w : Option Word) (h : s.memWf) : (s.dbgStore a w).1.memWf := by
  unfold State.dbgStore
  dsimp only
  repeat' split
  all_goals first
    | exact h
    | exact wakeSlice_memWf _ _ h
    | exact ⟨twf_tsetFrom _ _ _ _ (wakeSlice_memWf _ _ h).1, (wakeSlice_memWf _ _ h).2⟩

/-! What a line written back reads. -/

/-- A line of the store that is written back reads, byte by byte, what was written. -/
theorem backLine_store (s : State) (l : Nat) (d : List Byte) (p : Bool) (hl : isHostLine l = false) (g : Nat) :
    tget 0#8 (s.backLine l d p).store g =
      if 64 * l ≤ g ∧ g < 64 * l + d.length then d.getD (g - 64 * l) 0#8 else tget 0#8 s.store g := by
  unfold State.backLine
  rw [hl]
  exact tget_tsetFrom _ _ _ _ _

/-- Host memory is untouched by a line of the store that is written back. -/
theorem backLine_hostMem (s : State) (l : Nat) (d : List Byte) (p : Bool) (hl : isHostLine l = false) :
    (s.backLine l d p).hostMem = s.hostMem := by
  unfold State.backLine
  rw [hl]; rfl

end Sys2Proof.Machine
end

