-- ==== Sys2Proof/Laws/Kept.lean ====
section
/-!
SUPPORT. What the operations over the state keep, one lemma per operation: the queue of waiting commands stays as it is
and the memories stay canonical; and, but for the operations that write them, the caps, the debug level and the taint
stay too. Each lemma chains: from what an earlier state keeps up to s, to what it keeps up to the operation's answer.
-/
namespace Sys2Proof.Machine

set_option Elab.async false

/-- From `s` to `t` the queue is untouched and the memories stay canonical; with `fc` the caps
are untouched too, with `fg` the debug level, the taint and the straps. -/
structure Kept (fc fg : Bool) (s t : State) : Prop where
  queue : t.pending = s.pending
  mem : s.memWf → t.memWf
  caps : fc = true → t.pwr.capSust = s.pwr.capSust ∧ t.pwr.capPk1 = s.pwr.capPk1 ∧ t.pwr.capPk2 = s.pwr.capPk2
  guarded : fg = true → t.mg.debugLevel = s.mg.debugLevel ∧ t.mg.taint = s.mg.taint ∧ t.mg.released = s.mg.released ∧
    t.sb.straps = s.sb.straps

variable {fc fg : Bool} {z s t : State}

theorem Kept.refl (fc fg : Bool) (s : State) : Kept fc fg s s :=
  ⟨rfl, id, fun _ => ⟨rfl, rfl, rfl⟩, fun _ => ⟨rfl, rfl, rfl, rfl⟩⟩

theorem Kept.trans (h : Kept fc fg z s) (g : Kept fc fg s t) : Kept fc fg z t where
  queue := g.queue.trans h.queue
  mem := fun m => g.mem (h.mem m)
  caps := fun e => ⟨(g.caps e).1.trans (h.caps e).1, (g.caps e).2.1.trans (h.caps e).2.1,
    (g.caps e).2.2.trans (h.caps e).2.2⟩
  guarded := fun e => ⟨(g.guarded e).1.trans (h.guarded e).1, (g.guarded e).2.1.trans (h.guarded e).2.1,
    (g.guarded e).2.2.1.trans (h.guarded e).2.2.1, (g.guarded e).2.2.2.trans (h.guarded e).2.2.2⟩

/-- What is kept in full is kept. -/
theorem Kept.weaken (h : Kept true true s t) : Kept fc fg s t :=
  ⟨h.queue, h.mem, fun _ => h.caps rfl, fun _ => h.guarded rfl⟩

/-- An update of other fields keeps all of it. -/
theorem kept_upd {time' freeCtr' lastPart' hostConfig' logNext' traceNext' unattr' releasedE' : Nat} {out' : List
    Out} {rep' : Repair} {fw' : Fw} {bias' : Bias} {stPort' stBar0' : Staging} {journal' : Option Journal} {queues'
    : Tbl Queue} {parts' : Tbl Part} {crests' : Tbl Crest} {slices' : Tbl Slice} {regs' : Tbl Reg} {mods' : Tbl
    HMod} {ports' : Tbl PPort} {cmds' : List Cmd} {ends' refused' : List (Nat × Nat)} {flaws' : List Ecc} {pend' :
    List Pend} {abuf' : List ABuf} {cache' : Tbl CLine} {evict' : List Evict} {log' : List LogEntry} {trace' : Tbl
    TraceEntry} {msixMask' linkmaps' : Tbl Nat} {msixPend' : Tbl Bool} {tiles' : List ((Nat × Nat × Nat) × Option
    (Nat × Nat))} {landing' : List ((Nat × Nat × Nat) × (Nat × Nat) × Nat × Bool)} {retries' : List (Nat × Nat × Nat × Nat)}
    {stalled' : List ((Nat × Nat) × WaitFor)} {holds' : List Hold} {closing' peerPast' : List (Nat × Nat)}
    {ingress' : List (Nat × Flit)} {mg' : Mgmt} {sb' : Sb} {pwr' : Pwr} (h : Kept fc fg z s)
    (e1 : pwr'.capSust = s.pwr.capSust ∧ pwr'.capPk1 = s.pwr.capPk1 ∧ pwr'.capPk2 = s.pwr.capPk2)
    (e2 : mg'.debugLevel = s.mg.debugLevel ∧ mg'.taint = s.mg.taint ∧ mg'.released = s.mg.released ∧
      sb'.straps = s.sb.straps) :
    Kept fc fg z { s with
      time := time', freeCtr := freeCtr', out := out', mg := mg', sb := sb', pwr := pwr', rep := rep', fw := fw',
      bias := bias', stPort := stPort', stBar0 := stBar0', journal := journal', lastPart := lastPart',
      queues := queues', parts := parts', crests := crests', slices := slices', regs := regs', mods := mods',
      ports := ports', cmds := cmds', ends := ends', flaws := flaws', pend := pend', abuf := abuf',
      cache := cache', evict := evict', hostConfig := hostConfig', log := log', logNext := logNext',
      trace := trace', traceNext := traceNext', unattr := unattr', releasedE := releasedE', msixMask := msixMask',
      msixPend := msixPend', linkmaps := linkmaps', refused := refused', tiles := tiles', landing := landing',
      retries := retries', stalled := stalled', holds := holds', closing := closing',
      ingress := ingress', peerPast := peerPast' } :=
  h.trans ⟨rfl, id, fun _ => e1, fun _ => e2⟩

/-- The caps stay where an update of power control leaves them. -/
theorem modPwr_kept (f : Pwr → Pwr) (h : Kept fc fg z s)
    (e : ∀ w, (f w).capSust = w.capSust ∧ (f w).capPk1 = w.capPk1 ∧ (f w).capPk2 = w.capPk2) :
    Kept fc fg z (s.modPwr f) := kept_upd h (e s.pwr) ⟨rfl, rfl, rfl, rfl⟩

/-- The guarded registers stay where an update of the management registers leaves them. -/
theorem modMg_kept (f : Mgmt → Mgmt) (h : Kept fc fg z s)
    (e : ∀ m, (f m).debugLevel = m.debugLevel ∧ (f m).taint = m.taint ∧ (f m).released = m.released) :
    Kept fc fg z (s.modMg f) := kept_upd h ⟨rfl, rfl, rfl⟩ ⟨(e s.mg).1, (e s.mg).2.1, (e s.mg).2.2, rfl⟩

/-- The straps stay where an update of the sideband leaves them. -/
theorem modSb_kept (f : Sb → Sb) (h : Kept fc fg z s) (e : ∀ m, (f m).straps = m.straps) :
    Kept fc fg z (s.modSb f) := kept_upd h ⟨rfl, rfl, rfl⟩ ⟨rfl, rfl, rfl, e s.sb⟩

theorem kept_foldl {β : Type} {f : State → β → State} {l : List β} (g : ∀ s x, Kept fc fg z s → Kept fc fg z (f s x))
    (h : Kept fc fg z s) : Kept fc fg z (l.foldl f s) := by
  induction l generalizing s with
  | nil => exact h
  | cons x l ih => exact ih (g s x h)

/-- An update that may change the guarded registers keeps the rest. -/
theorem kept_upd_mg {time' freeCtr' lastPart' hostConfig' logNext' traceNext' unattr' releasedE' : Nat} {out' : List
    Out} {rep' : Repair} {fw' : Fw} {bias' : Bias} {stPort' stBar0' : Staging} {journal' : Option Journal} {queues'
    : Tbl Queue} {parts' : Tbl Part} {crests' : Tbl Crest} {slices' : Tbl Slice} {regs' : Tbl Reg} {mods' : Tbl
    HMod} {ports' : Tbl PPort} {cmds' : List Cmd} {ends' refused' : List (Nat × Nat)} {flaws' : List Ecc} {pend' :
    List Pend} {abuf' : List ABuf} {cache' : Tbl CLine} {evict' : List Evict} {log' : List LogEntry} {trace' : Tbl
    TraceEntry} {msixMask' linkmaps' : Tbl Nat} {msixPend' : Tbl Bool} {tiles' : List ((Nat × Nat × Nat) × Option
    (Nat × Nat))} {landing' : List ((Nat × Nat × Nat) × (Nat × Nat) × Nat × Bool)} {retries' : List (Nat × Nat × Nat × Nat)}
    {stalled' : List ((Nat × Nat) × WaitFor)} {holds' : List Hold} {closing' peerPast' : List (Nat × Nat)}
    {ingress' : List (Nat × Flit)} {mg' : Mgmt} {sb' : Sb} {pwr' : Pwr} (h : Kept fc false z s)
    (e1 : pwr'.capSust = s.pwr.capSust ∧ pwr'.capPk1 = s.pwr.capPk1 ∧ pwr'.capPk2 = s.pwr.capPk2) :
    Kept fc false z { s with
      time := time', freeCtr := freeCtr', out := out', mg := mg', sb := sb', pwr := pwr', rep := rep', fw := fw',
      bias := bias', stPort := stPort', stBar0 := stBar0', journal := journal', lastPart := lastPart',
      queues := queues', parts := parts', crests := crests', slices := slices', regs := regs', mods := mods',
      ports := ports', cmds := cmds', ends := ends', flaws := flaws', pend := pend', abuf := abuf',
      cache := cache', evict := evict', hostConfig := hostConfig', log := log', logNext := logNext',
      trace := trace', traceNext := traceNext', unattr := unattr', releasedE := releasedE', msixMask := msixMask',
      msixPend := msixPend', linkmaps := linkmaps', refused := refused', tiles := tiles', landing := landing',
      retries := retries', stalled := stalled', holds := holds', closing := closing',
      ingress := ingress', peerPast := peerPast' } :=
  h.trans ⟨rfl, id, fun _ => e1, nofun⟩

/-- An update that may change the caps keeps the rest. -/
theorem kept_upd_pwr {time' freeCtr' lastPart' hostConfig' logNext' traceNext' unattr' releasedE' : Nat} {out' : List
    Out} {rep' : Repair} {fw' : Fw} {bias' : Bias} {stPort' stBar0' : Staging} {journal' : Option Journal} {queues'
    : Tbl Queue} {parts' : Tbl Part} {crests' : Tbl Crest} {slices' : Tbl Slice} {regs' : Tbl Reg} {mods' : Tbl
    HMod} {ports' : Tbl PPort} {cmds' : List Cmd} {ends' refused' : List (Nat × Nat)} {flaws' : List Ecc} {pend' :
    List Pend} {abuf' : List ABuf} {cache' : Tbl CLine} {evict' : List Evict} {log' : List LogEntry} {trace' : Tbl
    TraceEntry} {msixMask' linkmaps' : Tbl Nat} {msixPend' : Tbl Bool} {tiles' : List ((Nat × Nat × Nat) × Option
    (Nat × Nat))} {landing' : List ((Nat × Nat × Nat) × (Nat × Nat) × Nat × Bool)} {retries' : List (Nat × Nat × Nat × Nat)}
    {stalled' : List ((Nat × Nat) × WaitFor)} {holds' : List Hold} {closing' peerPast' : List (Nat × Nat)}
    {ingress' : List (Nat × Flit)} {mg' : Mgmt} {sb' : Sb} {pwr' : Pwr} (h : Kept false fg z s)
    (e2 : mg'.debugLevel = s.mg.debugLevel ∧ mg'.taint = s.mg.taint ∧ mg'.released = s.mg.released ∧
      sb'.straps = s.sb.straps) :
    Kept false fg z { s with
      time := time', freeCtr := freeCtr', out := out', mg := mg', sb := sb', pwr := pwr', rep := rep', fw := fw',
      bias := bias', stPort := stPort', stBar0 := stBar0', journal := journal', lastPart := lastPart',
      queues := queues', parts := parts', crests := crests', slices := slices', regs := regs', mods := mods',
      ports := ports', cmds := cmds', ends := ends', flaws := flaws', pend := pend', abuf := abuf',
      cache := cache', evict := evict', hostConfig := hostConfig', log := log', logNext := logNext',
      trace := trace', traceNext := traceNext', unattr := unattr', releasedE := releasedE', msixMask := msixMask',
      msixPend := msixPend', linkmaps := linkmaps', refused := refused', tiles := tiles', landing := landing',
      retries := retries', stalled := stalled', holds := holds', closing := closing',
      ingress := ingress', peerPast := peerPast' } :=
  h.trans ⟨rfl, id, nofun, fun _ => e2⟩

/-- Any update of the registers keeps the queue and the memories. -/
theorem kept_upd_any {time' freeCtr' lastPart' hostConfig' logNext' traceNext' unattr' releasedE' : Nat} {out' : List
    Out} {rep' : Repair} {fw' : Fw} {bias' : Bias} {stPort' stBar0' : Staging} {journal' : Option Journal} {queues'
    : Tbl Queue} {parts' : Tbl Part} {crests' : Tbl Crest} {slices' : Tbl Slice} {regs' : Tbl Reg} {mods' : Tbl
    HMod} {ports' : Tbl PPort} {cmds' : List Cmd} {ends' refused' : List (Nat × Nat)} {flaws' : List Ecc} {pend' :
    List Pend} {abuf' : List ABuf} {cache' : Tbl CLine} {evict' : List Evict} {log' : List LogEntry} {trace' : Tbl
    TraceEntry} {msixMask' linkmaps' : Tbl Nat} {msixPend' : Tbl Bool} {tiles' : List ((Nat × Nat × Nat) × Option
    (Nat × Nat))} {landing' : List ((Nat × Nat × Nat) × (Nat × Nat) × Nat × Bool)} {retries' : List (Nat × Nat × Nat × Nat)}
    {stalled' : List ((Nat × Nat) × WaitFor)} {holds' : List Hold} {closing' peerPast' : List (Nat × Nat)}
    {ingress' : List (Nat × Flit)} {mg' : Mgmt} {sb' : Sb} {pwr' : Pwr} (h : Kept false false z s) :
    Kept false false z { s with
      time := time', freeCtr := freeCtr', out := out', mg := mg', sb := sb', pwr := pwr', rep := rep', fw := fw',
      bias := bias', stPort := stPort', stBar0 := stBar0', journal := journal', lastPart := lastPart',
      queues := queues', parts := parts', crests := crests', slices := slices', regs := regs', mods := mods',
      ports := ports', cmds := cmds', ends := ends', flaws := flaws', pend := pend', abuf := abuf',
      cache := cache', evict := evict', hostConfig := hostConfig', log := log', logNext := logNext',
      trace := trace', traceNext := traceNext', unattr := unattr', releasedE := releasedE', msixMask := msixMask',
      msixPend := msixPend', linkmaps := linkmaps', refused := refused', tiles := tiles', landing := landing',
      retries := retries', stalled := stalled', holds := holds', closing := closing',
      ingress := ingress', peerPast := peerPast' } :=
  h.trans ⟨rfl, id, nofun, nofun⟩

theorem modMg_any (f : Mgmt → Mgmt) (h : Kept fc false z s) : Kept fc false z (s.modMg f) :=
  h.trans ⟨rfl, id, fun _ => ⟨rfl, rfl, rfl⟩, nofun⟩
theorem modPwr_any (f : Pwr → Pwr) (h : Kept false fg z s) : Kept false fg z (s.modPwr f) :=
  h.trans ⟨rfl, id, nofun, fun _ => ⟨rfl, rfl, rfl, rfl⟩⟩
theorem modSb_any (f : Sb → Sb) (h : Kept fc false z s) : Kept fc false z (s.modSb f) :=
  h.trans ⟨rfl, id, fun _ => ⟨rfl, rfl, rfl⟩, nofun⟩

/-- A change of the memories alone keeps the rest where it keeps their form. -/
theorem kept_mem {st : List Host.Cell} {hm : List Host.Cell} {po hp : Tbl Bool} (h : Kept fc fg z s)
    (m : s.memWf → ({ s with store := st, hostMem := hm, poison := po, hostPoison := hp } : State).memWf) :
    Kept fc fg z { s with store := st, hostMem := hm, poison := po, hostPoison := hp } :=
  h.trans ⟨rfl, m, fun _ => ⟨rfl, rfl, rfl⟩, fun _ => ⟨rfl, rfl, rfl, rfl⟩⟩

theorem kept_poison (k : Nat) (v : Bool) (h : Kept fc fg z s) : Kept fc fg z { s with poison := tset false s.poison k v } :=
  kept_mem h fun m => ⟨m.1, m.2.1, twf_tset false s.poison k v m.2.2.1, m.2.2.2⟩

theorem kept_foldl_fst {β γ : Type} {f : State × γ → β → State × γ} {l : List β} {x : State × γ}
    (g : ∀ r x, Kept fc fg z r.1 → Kept fc fg z (f r x).1) (h : Kept fc fg z x.1) :
    Kept fc fg z (l.foldl f x).1 := by
  induction l generalizing x with
  | nil => exact h
  | cons y l ih => exact ih (g x y h)

theorem kept_ite {c : Prop} [Decidable c] {u : State} (h : Kept fc fg z s) (g : Kept fc fg z u) :
    Kept fc fg z (if c then s else u) := by split <;> assumption

/-- An answer with other parts. -/
theorem kept_pair {β : Type} {x : State × β} {y : β} (e : x = (t, y)) (h : Kept fc fg z x.1) : Kept fc fg z t := by
  subst e; exact h

/-- What an outcome that goes on keeps. -/
def KeptO (fc fg : Bool) (z : State) (o : Host.Outcome State Fault Refusal) : Prop := ∀ t, o = .next t → Kept fc fg z t

theorem KeptO.next (h : Kept fc fg z s) : KeptO fc fg z (.next s) := fun _ e => by cases e; exact h
theorem KeptO.fault {f : Fault} : KeptO fc fg z (.fault f) := fun _ e => by cases e

/-- What an access or a write keeps that may meet a fault. -/
def KeptF (fc fg : Bool) (z : State) (x : Fed State) : Prop := ∀ t, x = .ok t → Kept fc fg z t

theorem KeptF.ok (h : Kept fc fg z s) : KeptF fc fg z (.ok s) := fun _ e => by cases e; exact h
theorem KeptF.err {r : Nat × Nat} : KeptF fc fg z (.error r) := fun _ e => by cases e
theorem KeptF.get {x : Fed State} (e : x = .ok t) (h : KeptF fc fg z x) : Kept fc fg z t := h t e

/-- What a unit of work keeps, whether it ends or meets an abort; `g` is the state in its answer. -/
def KeptE {α : Type} (fc fg : Bool) (z : State) (g : α → State) (x : EpiM α) : Prop :=
  (∀ a, x = .ok a → Kept fc fg z (g a)) ∧ ∀ e, x = .error e → Kept fc fg z e.1

theorem KeptE.ok {α : Type} {g : α → State} {a : α} (h : Kept fc fg z (g a)) : KeptE fc fg z g (.ok a) :=
  ⟨fun _ e => (by cases e; exact h), fun _ e => (by cases e)⟩
theorem KeptE.err {α : Type} {g : α → State} {e : State × (Nat × Nat)} (h : Kept fc fg z e.1) : KeptE fc fg z g (.error e) :=
  ⟨fun _ e => (by cases e), fun _ e => (by cases e; exact h)⟩
theorem KeptE.get {α : Type} {g : α → State} {x : EpiM α} {a : α} (e : x = .ok a) (h : KeptE fc fg z g x) :
    Kept fc fg z (g a) := h.1 a e
theorem KeptE.get_state {x : EpiM State} (e : x = .ok t) (h : KeptE fc fg z (fun s => s) x) : Kept fc fg z t := h.1 t e
theorem KeptE.get_pair {x : EpiM (State × Nat)} {a : State × Nat} (e : x = .ok a) (h : KeptE fc fg z Prod.fst x) :
    Kept fc fg z a.1 := h.1 a e
theorem KeptE.get_err {α : Type} {g : α → State} {x : EpiM α} {r : State × (Nat × Nat)} (e : x = .error r)
    (h : KeptE fc fg z g x) : Kept fc fg z r.1 := h.2 r e

theorem KeptE.map {α β : Type} {g : α → State} {k : β → State} {x : EpiM α} {f : α → β} (h : KeptE fc fg z g x)
    (hf : ∀ a, Kept fc fg z (g a) → Kept fc fg z (k (f a))) : KeptE fc fg z k (x.map f) := by
  cases x with
  | ok a => exact .ok (hf a (h.1 a rfl))
  | error e => exact .err (h.2 e rfl)

theorem KeptE.foldlM {α β : Type} {g : α → State} {f : α → β → EpiM α} {l : List β} {a : α}
    (hf : ∀ a x, Kept fc fg z (g a) → KeptE fc fg z g (f a x)) (h : Kept fc fg z (g a)) : KeptE fc fg z g (l.foldlM f a) := by
  induction l generalizing a with
  | nil => exact .ok h
  | cons x l ih =>
    rw [List.foldlM_cons]
    have k := hf a x h
    cases e : f a x with
    | ok c => exact ih (k.1 c e)
    | error e' => exact .err (k.2 e' e)

theorem modQueue_kept (q : Nat) (f : Queue → Queue) (hk : Kept fc fg z s) :
    Kept fc fg z (State.modQueue s q f) := by
  unfold State.modQueue
  repeat' (with_reducible refine kept_upd ?_ ⟨rfl, rfl, rfl⟩ ⟨rfl, rfl, rfl, rfl⟩; with_reducible assumption)

theorem modPart_kept (p : Nat) (f : Part → Part) (hk : Kept fc fg z s) :
    Kept fc fg z (State.modPart s p f) := by
  unfold State.modPart
  repeat' (with_reducible refine kept_upd ?_ ⟨rfl, rfl, rfl⟩ ⟨rfl, rfl, rfl, rfl⟩; with_reducible assumption)

theorem modCrest_kept (p : Nat) (f : Crest → Crest) (hk : Kept fc fg z s) :
    Kept fc fg z (State.modCrest s p f) := by
  unfold State.modCrest
  repeat' (with_reducible refine kept_upd ?_ ⟨rfl, rfl, rfl⟩ ⟨rfl, rfl, rfl, rfl⟩; with_reducible assumption)

theorem modSlice_kept (n : Nat) (f : Slice → Slice) (hk : Kept fc fg z s) :
    Kept fc fg z (State.modSlice s n f) := by
  unfold State.modSlice
  repeat' (with_reducible refine kept_upd ?_ ⟨rfl, rfl, rfl⟩ ⟨rfl, rfl, rfl, rfl⟩; with_reducible assumption)

theorem modReg_kept (r : Nat) (f : Reg → Reg) (hk : Kept fc fg z s) :
    Kept fc fg z (State.modReg s r f) := by
  unfold State.modReg
  repeat' (with_reducible refine kept_upd ?_ ⟨rfl, rfl, rfl⟩ ⟨rfl, rfl, rfl, rfl⟩; with_reducible assumption)

theorem modHmod_kept (m : Nat) (f : HMod → HMod) (hk : Kept fc fg z s) :
    Kept fc fg z (State.modHmod s m f) := by
  unfold State.modHmod
  repeat' (with_reducible refine kept_upd ?_ ⟨rfl, rfl, rfl⟩ ⟨rfl, rfl, rfl, rfl⟩; with_reducible assumption)

theorem modPort_kept (k : Nat) (f : PPort → PPort) (hk : Kept fc fg z s) :
    Kept fc fg z (State.modPort s k f) := by
  unfold State.modPort
  repeat' (with_reducible refine kept_upd ?_ ⟨rfl, rfl, rfl⟩ ⟨rfl, rfl, rfl, rfl⟩; with_reducible assumption)

theorem modCmd_kept (q t : Nat) (f : Cmd → Cmd) (hk : Kept fc fg z s) :
    Kept fc fg z (State.modCmd s q t f) := by
  unfold State.modCmd
  repeat' (with_reducible refine kept_upd ?_ ⟨rfl, rfl, rfl⟩ ⟨rfl, rfl, rfl, rfl⟩; with_reducible assumption)

theorem stall_kept (q t : Nat) (w : WaitFor) (hk : Kept fc fg z s) :
    Kept fc fg z (State.stall s q t w) := by
  unfold State.stall
  repeat' first
    | with_reducible assumption
    | with_reducible refine kept_ite ?_ ?_
    | split
    | (with_reducible refine kept_upd ?_ ⟨rfl, rfl, rfl⟩ ⟨rfl, rfl, rfl, rfl⟩; with_reducible assumption)
    | dsimp only

theorem each_kept {ns : List Nat} {f : State → Nat → State} (g : ∀ s n, Kept fc fg z s → Kept fc fg z (f s n))
    (hk : Kept fc fg z s) : Kept fc fg z (s.each ns f) := kept_foldl g hk

theorem emit_kept (o : Out) (hk : Kept fc fg z s) :
    Kept fc fg z (State.emit s o) := by
  unfold State.emit
  repeat' (with_reducible refine kept_upd ?_ ⟨rfl, rfl, rfl⟩ ⟨rfl, rfl, rfl, rfl⟩; with_reducible assumption)

theorem bump_kept (hk : Kept fc fg z s) :
    Kept fc fg z (State.bump s) := by
  unfold State.bump
  repeat' (with_reducible refine kept_upd ?_ ⟨rfl, rfl, rfl⟩ ⟨rfl, rfl, rfl, rfl⟩; with_reducible assumption)

theorem modRep_kept (f : Repair → Repair) (hk : Kept fc fg z s) :
    Kept fc fg z (State.modRep s f) := by
  unfold State.modRep
  repeat' (with_reducible refine kept_upd ?_ ⟨rfl, rfl, rfl⟩ ⟨rfl, rfl, rfl, rfl⟩; with_reducible assumption)

theorem modFw_kept (f : Fw → Fw) (hk : Kept fc fg z s) :
    Kept fc fg z (State.modFw s f) := by
  unfold State.modFw
  repeat' (with_reducible refine kept_upd ?_ ⟨rfl, rfl, rfl⟩ ⟨rfl, rfl, rfl, rfl⟩; with_reducible assumption)

theorem alert_kept (i : Nat) (hk : Kept fc fg z s) :
    Kept fc fg z (State.alert s i) := by
  unfold State.alert
  repeat' first
    | with_reducible apply modMg_kept
    | with_reducible exact fun _ => ⟨rfl, rfl, rfl⟩
    | (with_reducible refine kept_upd ?_ ⟨rfl, rfl, rfl⟩ ⟨rfl, rfl, rfl, rfl⟩; with_reducible assumption)

theorem addLog_kept (e : LogEntry) (hk : Kept fc fg z s) :
    Kept fc fg z (State.addLog s e) := by
  unfold State.addLog
  repeat' (with_reducible refine kept_upd ?_ ⟨rfl, rfl, rfl⟩ ⟨rfl, rfl, rfl, rfl⟩; with_reducible assumption)

theorem addTrace_kept (event crest q part status tag : Nat) (hk : Kept fc fg z s) :
    Kept fc fg z (State.addTrace s event crest q part status tag) := by
  unfold State.addTrace
  repeat' (with_reducible refine kept_upd ?_ ⟨rfl, rfl, rfl⟩ ⟨rfl, rfl, rfl, rfl⟩; first
        | with_reducible assumption | with_reducible apply bump_kept)

theorem liveChange_kept (hk : Kept fc fg z s) :
    Kept fc fg z (State.liveChange s) := by
  unfold State.liveChange
  repeat' first
    | with_reducible apply modMg_kept
    | with_reducible exact fun _ => ⟨rfl, rfl, rfl⟩
    | with_reducible refine kept_ite ?_ ?_
    | split
    | (with_reducible refine kept_upd ?_ ⟨rfl, rfl, rfl⟩ ⟨rfl, rfl, rfl, rfl⟩; with_reducible assumption)

theorem mgResult_kept (status detail : Nat) (hk : Kept fc fg z s) :
    Kept fc fg z (State.mgResult s status detail) := by
  unfold State.mgResult
  repeat' first
    | with_reducible apply modMg_kept
    | with_reducible exact fun _ => ⟨rfl, rfl, rfl⟩
    | (with_reducible refine kept_upd ?_ ⟨rfl, rfl, rfl⟩ ⟨rfl, rfl, rfl, rfl⟩; with_reducible assumption)

theorem mgRuns_kept (op : Nat) (hk : Kept fc fg z s) :
    Kept fc fg z (State.mgRuns s op) := by
  unfold State.mgRuns
  repeat' first
    | with_reducible apply modMg_kept
    | with_reducible exact fun _ => ⟨rfl, rfl, rfl⟩
    | (with_reducible refine kept_upd ?_ ⟨rfl, rfl, rfl⟩ ⟨rfl, rfl, rfl, rfl⟩; with_reducible assumption)

theorem linkDone_kept (hk : Kept fc fg z s) :
    Kept fc fg z (State.linkDone s) := by
  unfold State.linkDone
  repeat' first
    | with_reducible assumption
    | with_reducible apply mgResult_kept
    | with_reducible refine kept_ite ?_ ?_

theorem readyOrRun_kept (hk : Kept fc fg z s) :
    Kept fc fg z (State.readyOrRun s) := by
  unfold State.readyOrRun
  repeat' first
    | with_reducible apply modMg_kept
    | with_reducible exact fun _ => ⟨rfl, rfl, rfl⟩
    | with_reducible refine kept_ite ?_ ?_
    | split
    | (with_reducible refine kept_upd ?_ ⟨rfl, rfl, rfl⟩ ⟨rfl, rfl, rfl, rfl⟩; with_reducible assumption)

theorem chargeMclk_kept (q t cause n : Nat) (hk : Kept fc fg z s) :
    Kept fc fg z (State.chargeMclk s q t cause n) := by
  unfold State.chargeMclk
  repeat' first
    | with_reducible assumption
    | with_reducible apply modCmd_kept
    | with_reducible refine kept_ite ?_ ?_
    | split
    | (with_reducible refine kept_upd ?_ ⟨rfl, rfl, rfl⟩ ⟨rfl, rfl, rfl, rfl⟩; first
        | with_reducible assumption
        | with_reducible apply modCmd_kept
        | with_reducible refine kept_ite ?_ ?_
        | split)
    | dsimp only

theorem chargeEarly_kept (q t : Nat) (hk : Kept fc fg z s) :
    Kept fc fg z (State.chargeEarly s q t) := by
  unfold State.chargeEarly
  repeat' first
    | with_reducible assumption
    | with_reducible apply modCmd_kept
    | with_reducible apply chargeMclk_kept
    | with_reducible refine kept_foldl (fun _ _ _ => ?_) ?_
    | with_reducible refine kept_foldl_fst (fun _ _ _ => ?_) ?_
    | split
    | (with_reducible refine kept_upd ?_ ⟨rfl, rfl, rfl⟩ ⟨rfl, rfl, rfl, rfl⟩; first
        | with_reducible assumption
        | with_reducible apply modCmd_kept
        | with_reducible apply chargeMclk_kept
        | with_reducible refine kept_foldl (fun _ _ _ => ?_) ?_
        | with_reducible refine kept_foldl_fst (fun _ _ _ => ?_) ?_
        | split)
    | dsimp only

theorem chargeHold_kept (h : Hold) (hk : Kept fc fg z s) :
    Kept fc fg z (State.chargeHold s h) := by
  unfold State.chargeHold
  repeat' first
    | with_reducible assumption
    | with_reducible apply modCmd_kept
    | with_reducible refine kept_ite ?_ ?_
    | split
    | (with_reducible refine kept_upd ?_ ⟨rfl, rfl, rfl⟩ ⟨rfl, rfl, rfl, rfl⟩; with_reducible assumption)
    | dsimp only

theorem setHold_kept (q t p cause : Nat) (on : Bool) (hk : Kept fc fg z s) :
    Kept fc fg z (State.setHold s q t p cause on) := by
  unfold State.setHold
  repeat' first
    | with_reducible assumption
    | with_reducible apply chargeHold_kept
    | with_reducible refine kept_ite ?_ ?_
    | split
    | (with_reducible refine kept_upd ?_ ⟨rfl, rfl, rfl⟩ ⟨rfl, rfl, rfl, rfl⟩; first
        | with_reducible assumption
        | with_reducible apply chargeHold_kept
        | with_reducible refine kept_ite ?_ ?_
        | split)
    | dsimp only

theorem measured_kept (q t p cause waited : Nat) (hk : Kept fc fg z s) :
    Kept fc fg z (State.measured s q t p cause waited) := by
  unfold State.measured
  repeat' first
    | with_reducible assumption
    | with_reducible apply setHold_kept
    | with_reducible apply modCmd_kept
    | with_reducible refine kept_ite ?_ ?_
    | split
    | (with_reducible refine kept_upd ?_ ⟨rfl, rfl, rfl⟩ ⟨rfl, rfl, rfl, rfl⟩; first
        | with_reducible assumption
        | with_reducible apply setHold_kept
        | with_reducible apply modCmd_kept
        | with_reducible refine kept_ite ?_ ?_
        | split)
    | dsimp only

theorem endHolds_kept (q t : Nat) (sel : Nat → Bool) (hk : Kept fc fg z s) :
    Kept fc fg z (State.endHolds s q t sel) := by
  unfold State.endHolds
  repeat' first
    | with_reducible assumption
    | with_reducible apply chargeHold_kept
    | with_reducible refine kept_foldl (fun _ _ _ => ?_) ?_
    | with_reducible refine kept_foldl_fst (fun _ _ _ => ?_) ?_
    | (with_reducible refine kept_upd ?_ ⟨rfl, rfl, rfl⟩ ⟨rfl, rfl, rfl, rfl⟩; first
        | with_reducible assumption
        | with_reducible apply chargeHold_kept
        | with_reducible refine kept_foldl (fun _ _ _ => ?_) ?_
        | with_reducible refine kept_foldl_fst (fun _ _ _ => ?_) ?_)
    | dsimp only

theorem busyOn_kept (p q t n : Nat) (hk : Kept fc fg z s) :
    Kept fc fg z (State.busyOn s p q t n) := by
  unfold State.busyOn
  repeat' first
    | with_reducible assumption
    | with_reducible apply modCmd_kept
    | with_reducible apply modCrest_kept
    | with_reducible refine kept_ite ?_ ?_
    | split
    | (with_reducible refine kept_upd ?_ ⟨rfl, rfl, rfl⟩ ⟨rfl, rfl, rfl, rfl⟩; with_reducible assumption)
    | dsimp only

theorem unstall_kept (w : WaitFor) (waited : Nat) (hk : Kept fc fg z s) :
    Kept fc fg z (State.unstall s w waited) := by
  unfold State.unstall
  repeat' first
    | with_reducible assumption
    | with_reducible apply modCmd_kept
    | with_reducible refine kept_foldl (fun _ _ _ => ?_) ?_
    | with_reducible refine kept_foldl_fst (fun _ _ _ => ?_) ?_
    | (with_reducible refine kept_upd ?_ ⟨rfl, rfl, rfl⟩ ⟨rfl, rfl, rfl, rfl⟩; first
        | with_reducible assumption
        | with_reducible apply modCmd_kept
        | with_reducible refine kept_foldl (fun _ _ _ => ?_) ?_
        | with_reducible refine kept_foldl_fst (fun _ _ _ => ?_) ?_)
    | dsimp only

theorem backLine_kept (l : Nat) (data : List Byte) (poison : Bool) (hk : Kept fc fg z s) :
    Kept fc fg z (s.backLine l data poison) := by
  have m := backLine_memWf s l data poison
  unfold State.backLine at m ⊢
  split
  · rename_i e; rw [if_pos e] at m; exact kept_mem hk m
  · rename_i e; rw [if_neg e] at m; exact kept_mem hk m

theorem grantEvict_kept (l : Nat) (hk : Kept fc fg z s) :
    Kept fc fg z (State.grantEvict s l) := by
  unfold State.grantEvict
  repeat' first
    | with_reducible assumption
    | with_reducible apply backLine_kept
    | with_reducible apply emit_kept
    | with_reducible refine kept_ite ?_ ?_
    | split
    | (with_reducible refine kept_upd ?_ ⟨rfl, rfl, rfl⟩ ⟨rfl, rfl, rfl, rfl⟩; with_reducible assumption)
    | dsimp only

theorem evictLine_kept (l : Nat) (hk : Kept fc fg z s) :
    Kept fc fg z (State.evictLine s l) := by
  unfold State.evictLine
  repeat' first
    | with_reducible assumption
    | with_reducible apply evictRoom_kept
    | with_reducible apply emit_kept
    | split
    | (with_reducible refine kept_upd ?_ ⟨rfl, rfl, rfl⟩ ⟨rfl, rfl, rfl, rfl⟩; first
        | with_reducible assumption
        | with_reducible apply evictRoom_kept
        | with_reducible apply emit_kept
        | split)
    | dsimp only

theorem wayFor_kept (l : Nat) (hk : Kept fc fg z s) :
    Kept fc fg z (State.wayFor s l) := by
  unfold State.wayFor
  repeat' first
    | with_reducible assumption
    | with_reducible apply bump_kept
    | with_reducible apply evictLine_kept
    | with_reducible refine kept_ite ?_ ?_

theorem settle_kept (l : Nat) (hk : Kept fc fg z s) :
    Kept fc fg z (State.settle s l) := by
  unfold State.settle
  repeat' first
    | with_reducible assumption
    | with_reducible apply backLine_kept
    | with_reducible refine kept_ite ?_ ?_
    | split
    | (with_reducible refine kept_upd ?_ ⟨rfl, rfl, rfl⟩ ⟨rfl, rfl, rfl, rfl⟩; first
        | with_reducible assumption
        | with_reducible apply backLine_kept
        | with_reducible refine kept_ite ?_ ?_
        | split)
    | dsimp only

theorem fill_kept (l : Nat) (st : Mesi) (req : CacheReq) (hk : Kept fc fg z s) :
    Kept fc fg z (State.fill s l st req) := by
  unfold State.fill
  repeat' first
    | with_reducible assumption
    | with_reducible apply settle_kept
    | with_reducible apply wayFor_kept
    | with_reducible apply emit_kept
    | with_reducible refine kept_ite ?_ ?_
    | split
    | (with_reducible refine kept_upd ?_ ⟨rfl, rfl, rfl⟩ ⟨rfl, rfl, rfl, rfl⟩; first
        | with_reducible assumption
        | with_reducible apply settle_kept
        | with_reducible apply wayFor_kept
        | with_reducible apply emit_kept
        | with_reducible refine kept_ite ?_ ?_
        | split)
    | dsimp only

theorem zeroSlice_kept (n : Nat) (hk : Kept fc fg z s) : Kept fc fg z (s.zeroSlice n) :=
  hk.trans ⟨rfl, zeroSlice_memWf s n, fun _ => ⟨rfl, rfl, rfl⟩, fun _ => ⟨rfl, rfl, rfl, rfl⟩⟩

theorem wakeSlice_kept (n : Nat) (hk : Kept fc fg z s) :
    Kept fc fg z (State.wakeSlice s n) := by
  unfold State.wakeSlice
  repeat' first
    | with_reducible assumption
    | with_reducible apply zeroSlice_kept
    | with_reducible apply modSlice_kept
    | with_reducible refine kept_ite ?_ ?_
    | split
    | (with_reducible refine kept_upd ?_ ⟨rfl, rfl, rfl⟩ ⟨rfl, rfl, rfl, rfl⟩; with_reducible assumption)
    | dsimp only

theorem reachSlice_kept (n : Nat) (hk : Kept fc fg z s) :
    Kept fc fg z (State.reachSlice s n) := by
  unfold State.reachSlice
  repeat' first
    | with_reducible assumption
    | with_reducible apply wakeSlice_kept
    | with_reducible refine kept_ite ?_ ?_
    | split
    | (with_reducible refine kept_upd ?_ ⟨rfl, rfl, rfl⟩ ⟨rfl, rfl, rfl, rfl⟩; first
        | with_reducible assumption
        | with_reducible apply wakeSlice_kept
        | with_reducible refine kept_ite ?_ ?_
        | split)
    | dsimp only

theorem wakes_kept (gs : List Nat) (hk : Kept fc fg z s) :
    Kept fc fg z (State.wakes s gs) := by
  unfold State.wakes
  repeat' first
    | with_reducible assumption
    | with_reducible apply reachSlice_kept
    | with_reducible refine kept_foldl (fun _ _ _ => ?_) ?_
    | with_reducible refine kept_foldl_fst (fun _ _ _ => ?_) ?_
    | (with_reducible refine kept_upd ?_ ⟨rfl, rfl, rfl⟩ ⟨rfl, rfl, rfl, rfl⟩; first
        | with_reducible assumption
        | with_reducible apply reachSlice_kept
        | with_reducible refine kept_foldl (fun _ _ _ => ?_) ?_
        | with_reducible refine kept_foldl_fst (fun _ _ _ => ?_) ?_)
    | dsimp only

theorem touchBy_kept (st : Mesi) (req : CacheReq) (gs : List Nat) (hk : Kept fc fg z s) :
    Kept fc fg z (State.touchBy st req s gs) := by
  unfold State.touchBy
  repeat' first
    | with_reducible assumption
    | with_reducible apply fill_kept
    | with_reducible apply wakes_kept
    | with_reducible refine kept_foldl (fun _ _ _ => ?_) ?_
    | with_reducible refine kept_foldl_fst (fun _ _ _ => ?_) ?_
    | with_reducible refine kept_ite ?_ ?_
    | split
    | (with_reducible refine kept_upd ?_ ⟨rfl, rfl, rfl⟩ ⟨rfl, rfl, rfl, rfl⟩; first
        | with_reducible assumption
        | with_reducible apply fill_kept
        | with_reducible apply wakes_kept
        | with_reducible refine kept_foldl (fun _ _ _ => ?_) ?_
        | with_reducible refine kept_foldl_fst (fun _ _ _ => ?_) ?_
        | with_reducible refine kept_ite ?_ ?_
        | split)
    | dsimp only

theorem touch_kept (gs : List Nat) (hk : Kept fc fg z s) :
    Kept fc fg z (State.touch s gs) := by
  unfold State.touch
  repeat' first
    | with_reducible assumption
    | with_reducible apply touchBy_kept
    | (with_reducible refine kept_upd ?_ ⟨rfl, rfl, rfl⟩ ⟨rfl, rfl, rfl, rfl⟩; first
        | with_reducible assumption
        | with_reducible apply touchBy_kept)
    | dsimp only

theorem own_kept (gs : List Nat) (hk : Kept fc fg z s) :
    Kept fc fg z (State.own s gs) := by
  unfold State.own
  repeat' first
    | with_reducible assumption
    | with_reducible apply touchBy_kept
    | (with_reducible refine kept_upd ?_ ⟨rfl, rfl, rfl⟩ ⟨rfl, rfl, rfl, rfl⟩; first
        | with_reducible assumption
        | with_reducible apply touchBy_kept)
    | dsimp only

theorem writeLine_kept (l : Nat) (m : List (Nat × Byte)) (hk : Kept fc fg z s) :
    Kept fc fg z (State.writeLine s l m) := by
  unfold State.writeLine
  repeat' (with_reducible refine kept_upd ?_ ⟨rfl, rfl, rfl⟩ ⟨rfl, rfl, rfl, rfl⟩; first
        | with_reducible assumption | with_reducible apply backLine_kept | with_reducible apply fill_kept
        | with_reducible apply wakeSlice_kept | with_reducible refine kept_ite ?_ ?_)

theorem pendLine_kept (o : Obs) (l : Nat) (m : List (Nat × Byte)) (hk : Kept fc fg z s) :
    Kept fc fg z (State.pendLine s o l m) := by
  unfold State.pendLine
  repeat' first
    | with_reducible assumption
    | with_reducible apply bump_kept
    | with_reducible refine kept_ite ?_ ?_
    | split
    | (with_reducible refine kept_upd ?_ ⟨rfl, rfl, rfl⟩ ⟨rfl, rfl, rfl, rfl⟩; first
        | with_reducible assumption
        | with_reducible apply bump_kept
        | with_reducible refine kept_ite ?_ ?_
        | split)
    | dsimp only

theorem write_kept (o : Obs) (m : List (Nat × Byte)) (hk : Kept fc fg z s) :
    Kept fc fg z (State.write s o m) := by
  unfold State.write
  repeat' first
    | with_reducible assumption
    | with_reducible apply writeLine_kept
    | with_reducible apply pendLine_kept
    | with_reducible refine kept_foldl (fun _ _ _ => ?_) ?_

theorem writeAtomic_kept (l : Nat) (m : List (Nat × Byte)) (hk : Kept fc fg z s) :
    Kept fc fg z (State.writeAtomic s l m) := by
  unfold State.writeAtomic
  repeat' first
    | with_reducible assumption
    | with_reducible apply writeLine_kept
    | with_reducible apply write_kept
    | with_reducible refine kept_foldl (fun _ _ _ => ?_) ?_
    | with_reducible refine kept_foldl_fst (fun _ _ _ => ?_) ?_
    | split
    | (with_reducible refine kept_upd ?_ ⟨rfl, rfl, rfl⟩ ⟨rfl, rfl, rfl, rfl⟩; first
        | with_reducible assumption
        | with_reducible apply writeLine_kept
        | with_reducible apply write_kept
        | with_reducible refine kept_foldl (fun _ _ _ => ?_) ?_
        | with_reducible refine kept_foldl_fst (fun _ _ _ => ?_) ?_
        | split)
    | dsimp only

theorem writeAt_kept (o : Obs) (p a : Nat) (bs : List Byte) (hk : Kept fc fg z s) :
    Kept fc fg z (State.writeAt s o p a bs) := by
  unfold State.writeAt
  repeat' first
    | with_reducible assumption
    | with_reducible apply write_kept

theorem perform_kept (sel : Pend → Bool) (scope : Nat) (hk : Kept fc fg z s) :
    Kept fc fg z (State.perform s sel scope) := by
  unfold State.perform
  repeat' (with_reducible refine kept_upd ?_ ⟨rfl, rfl, rfl⟩ ⟨rfl, rfl, rfl, rfl⟩; with_reducible assumption)

theorem passOn_kept (q t p : Nat) (hk : Kept fc fg z s) :
    Kept fc fg z (State.passOn s q t p) := by
  unfold State.passOn
  repeat' first
    | with_reducible assumption
    | with_reducible refine kept_ite ?_ ?_
    | split
    | (with_reducible refine kept_upd ?_ ⟨rfl, rfl, rfl⟩ ⟨rfl, rfl, rfl, rfl⟩; first
        | with_reducible assumption
        | with_reducible refine kept_ite ?_ ?_
        | split)
    | dsimp only

theorem release_kept (q t scope : Nat) (hk : Kept fc fg z s) :
    Kept fc fg z (State.release s q t scope) := by
  unfold State.release
  repeat' first
    | with_reducible assumption
    | with_reducible apply perform_kept

theorem hostOwns_kept (l g : Nat) (b : Byte) (hk : Kept fc fg z s) : Kept fc fg z (s.hostOwns l g b) := by
  unfold State.hostOwns
  extract_lets s1 k s2 s3
  have h1 : Kept fc fg z s1 := settle_kept _ hk
  clear_value s1
  have h2 : Kept fc fg z s2 := by
    dsimp only [s2]
    split
    · exact backLine_kept _ _ _ h1
    · exact h1
  clear_value s2
  have h3 : Kept fc fg z s3 :=
    (pendLine_kept .host l [(g, b)] h2).trans ⟨rfl, id, fun _ => ⟨rfl, rfl, rfl⟩, fun _ => ⟨rfl, rfl, rfl, rfl⟩⟩
  clear_value s3
  split
  · exact h3.trans ⟨rfl, fun m => ⟨m.1, twf_tset 0#8 s3.hostMem (g - hostBase) b m.2.1, m.2.2.1,
      twf_tset false s3.hostPoison (l - hostBase / 64) false m.2.2.2⟩, fun _ => ⟨rfl, rfl, rfl⟩, fun _ => ⟨rfl, rfl, rfl, rfl⟩⟩
  · exact h3.trans ⟨rfl, fun m => ⟨twf_tset 0#8 s3.store g b m.1, m.2⟩, fun _ => ⟨rfl, rfl, rfl⟩, fun _ => ⟨rfl, rfl, rfl, rfl⟩⟩

theorem unpoison_kept (l : Nat) (hk : Kept fc fg z s) : Kept fc fg z (s.unpoison l) :=
  hk.trans ⟨rfl, unpoison_memWf s l, fun _ => ⟨rfl, rfl, rfl⟩, fun _ => ⟨rfl, rfl, rfl, rfl⟩⟩

theorem hostWrites_kept (h : HostUpd) (hk : Kept fc fg z s) : Kept fc fg z (s.hostWrites h) := by
  have key : ∀ (r : State) (c : Tbl CLine) (l : Nat), Kept fc fg z r → Kept fc fg z
      { r with cache := c, hostPoison := tset false r.hostPoison l true } := fun r c l hr =>
    hr.trans ⟨rfl, poisonKey_memWf r c l, fun _ => ⟨rfl, rfl, rfl⟩, fun _ => ⟨rfl, rfl, rfl, rfl⟩⟩
  unfold State.hostWrites
  dsimp only
  refine kept_foldl (fun s l hs => ?_) (kept_foldl (fun _ _ hs => unpoison_kept _ hs) (kept_foldl (fun s c hs => ?_) ?_))
  · split
    · exact key _ _ _ hs
    · split
      · exact key _ _ _ (settle_kept _ hs)
      · exact hs
  · split
    · exact hostOwns_kept _ _ _ hs
    · split
      · exact hostOwns_kept _ _ _ hs
      · exact hs
  · split
    · exact hk
    · exact hk.trans ⟨rfl, id, fun _ => ⟨rfl, rfl, rfl⟩, fun _ => ⟨rfl, rfl, rfl, rfl⟩⟩

theorem abufBack_kept (w : ABuf) (hk : Kept fc fg z s) :
    Kept fc fg z (State.abufBack s w) := by
  unfold State.abufBack
  repeat' first
    | with_reducible apply write_kept
    | (with_reducible refine kept_upd ?_ ⟨rfl, rfl, rfl⟩ ⟨rfl, rfl, rfl, rfl⟩; with_reducible assumption)

theorem abufFlush_kept (sel : ABuf → Bool) (hk : Kept fc fg z s) :
    Kept fc fg z (State.abufFlush s sel) := by
  unfold State.abufFlush
  repeat' first
    | with_reducible assumption
    | with_reducible apply abufBack_kept
    | with_reducible refine kept_foldl (fun _ _ _ => ?_) ?_

theorem unspecify_kept (c : Cmd) (sub : Nat) (hk : Kept fc fg z s) :
    Kept fc fg z (State.unspecify s c sub) := by
  unfold State.unspecify
  repeat' first
    | with_reducible apply modCrest_kept
    | with_reducible apply bump_kept
    | with_reducible apply write_kept
    | with_reducible refine kept_foldl (fun _ _ _ => ?_) ?_
    | with_reducible refine kept_ite ?_ ?_
    | split
    | (with_reducible refine kept_upd ?_ ⟨rfl, rfl, rfl⟩ ⟨rfl, rfl, rfl, rfl⟩; with_reducible assumption)

theorem sendMsix_kept (v : Nat) (hk : Kept fc fg z s) :
    Kept fc fg z (State.sendMsix s v) := by
  unfold State.sendMsix
  repeat' first
    | with_reducible apply emit_kept
    | with_reducible refine kept_ite ?_ ?_
    | split
    | (with_reducible refine kept_upd ?_ ⟨rfl, rfl, rfl⟩ ⟨rfl, rfl, rfl, rfl⟩; with_reducible assumption)

theorem countErr_kept (kind unit : Nat) (hk : Kept fc fg z s) :
    Kept fc fg z (State.countErr s kind unit) := by
  unfold State.countErr
  repeat' first
    | with_reducible apply modRep_kept
    | (with_reducible refine kept_upd ?_ ⟨rfl, rfl, rfl⟩ ⟨rfl, rfl, rfl, rfl⟩; with_reducible assumption)

theorem closePairs_kept (q t : Nat) (hk : Kept fc fg z s) :
    Kept fc fg z (State.closePairs s q t) := by
  unfold State.closePairs
  repeat' (with_reducible refine kept_upd ?_ ⟨rfl, rfl, rfl⟩ ⟨rfl, rfl, rfl, rfl⟩; with_reducible assumption)

theorem resetEnd_kept (p : Nat) (hk : Kept fc fg z s) :
    Kept fc fg z (State.resetEnd s p) := by
  unfold State.resetEnd
  repeat' first
    | with_reducible assumption
    | with_reducible apply modCrest_kept
    | with_reducible apply mgResult_kept
    | with_reducible apply modPart_kept
    | with_reducible refine kept_foldl (fun _ _ _ => ?_) ?_
    | with_reducible refine kept_foldl_fst (fun _ _ _ => ?_) ?_
    | with_reducible refine kept_ite ?_ ?_
    | split
    | (with_reducible refine kept_upd ?_ ⟨rfl, rfl, rfl⟩ ⟨rfl, rfl, rfl, rfl⟩; first
        | with_reducible assumption
        | with_reducible apply modCrest_kept
        | with_reducible apply mgResult_kept
        | with_reducible apply modPart_kept
        | with_reducible refine kept_foldl (fun _ _ _ => ?_) ?_
        | with_reducible refine kept_foldl_fst (fun _ _ _ => ?_) ?_
        | with_reducible refine kept_ite ?_ ?_
        | split)
    | dsimp only

theorem resetEnds_kept (hk : Kept fc fg z s) :
    Kept fc fg z (State.resetEnds s) := by
  unfold State.resetEnds
  repeat' first
    | with_reducible assumption
    | with_reducible apply resetEnd_kept
    | with_reducible refine kept_foldl (fun _ _ _ => ?_) ?_
    | with_reducible refine kept_foldl_fst (fun _ _ _ => ?_) ?_
    | with_reducible refine kept_ite ?_ ?_
    | split
    | (with_reducible refine kept_upd ?_ ⟨rfl, rfl, rfl⟩ ⟨rfl, rfl, rfl, rfl⟩; first
        | with_reducible assumption
        | with_reducible apply resetEnd_kept
        | with_reducible refine kept_foldl (fun _ _ _ => ?_) ?_
        | with_reducible refine kept_foldl_fst (fun _ _ _ => ?_) ?_
        | with_reducible refine kept_ite ?_ ?_
        | split)
    | dsimp only

theorem unlend_kept (p : Nat) (hk : Kept fc fg z s) :
    Kept fc fg z (State.unlend s p) := by
  unfold State.unlend
  repeat' first
    | with_reducible assumption
    | with_reducible apply modCrest_kept
    | with_reducible apply resetEnds_kept
    | with_reducible apply modCmd_kept
    | with_reducible refine kept_foldl (fun _ _ _ => ?_) ?_
    | with_reducible refine kept_foldl_fst (fun _ _ _ => ?_) ?_
    | with_reducible refine kept_ite ?_ ?_
    | split
    | (with_reducible refine kept_upd ?_ ⟨rfl, rfl, rfl⟩ ⟨rfl, rfl, rfl, rfl⟩; first
        | with_reducible assumption
        | with_reducible apply modCrest_kept
        | with_reducible apply resetEnds_kept
        | with_reducible apply modCmd_kept
        | with_reducible refine kept_foldl (fun _ _ _ => ?_) ?_
        | with_reducible refine kept_foldl_fst (fun _ _ _ => ?_) ?_
        | with_reducible refine kept_ite ?_ ?_
        | split)
    | dsimp only

theorem dropFrom_kept (p q t : Nat) (hk : Kept fc fg z s) :
    Kept fc fg z (State.dropFrom s p q t) := by
  unfold State.dropFrom
  repeat' first
    | with_reducible assumption
    | with_reducible apply passOn_kept
    | with_reducible apply modCrest_kept
    | with_reducible apply unlend_kept
    | with_reducible refine kept_ite ?_ ?_
    | split
    | (with_reducible refine kept_upd ?_ ⟨rfl, rfl, rfl⟩ ⟨rfl, rfl, rfl, rfl⟩; first
        | with_reducible assumption
        | with_reducible apply passOn_kept
        | with_reducible apply modCrest_kept
        | with_reducible apply unlend_kept
        | with_reducible refine kept_ite ?_ ?_
        | split)
    | dsimp only

theorem uncharged_kept (q t : Nat) (hk : Kept fc fg z s) :
    Kept fc fg z (State.uncharged s q t) := by
  unfold State.uncharged
  repeat' first
    | with_reducible assumption
    | with_reducible apply modCmd_kept
    | with_reducible refine kept_foldl (fun _ _ _ => ?_) ?_
    | with_reducible refine kept_foldl_fst (fun _ _ _ => ?_) ?_
    | (with_reducible refine kept_upd ?_ ⟨rfl, rfl, rfl⟩ ⟨rfl, rfl, rfl, rfl⟩; first
        | with_reducible assumption
        | with_reducible apply modCmd_kept
        | with_reducible refine kept_foldl (fun _ _ _ => ?_) ?_
        | with_reducible refine kept_foldl_fst (fun _ _ _ => ?_) ?_)
    | dsimp only

theorem endCmd_kept (q t st sub : Nat) (hk : Kept fc fg z s) :
    Kept fc fg z (State.endCmd s q t st sub) := by
  unfold State.endCmd
  repeat' first
    | with_reducible assumption
    | with_reducible apply endHolds_kept
    | with_reducible apply uncharged_kept
    | with_reducible apply unspecify_kept
    | with_reducible apply modCmd_kept
    | with_reducible apply closePairs_kept
    | with_reducible apply dropFrom_kept
    | with_reducible apply modCrest_kept
    | with_reducible refine kept_foldl (fun _ _ _ => ?_) ?_
    | with_reducible refine kept_foldl_fst (fun _ _ _ => ?_) ?_
    | with_reducible refine kept_ite ?_ ?_
    | split
    | (with_reducible refine kept_upd ?_ ⟨rfl, rfl, rfl⟩ ⟨rfl, rfl, rfl, rfl⟩; first
        | with_reducible assumption
        | with_reducible apply endHolds_kept
        | with_reducible apply uncharged_kept
        | with_reducible apply unspecify_kept
        | with_reducible apply modCmd_kept
        | with_reducible apply closePairs_kept
        | with_reducible apply dropFrom_kept
        | with_reducible apply modCrest_kept
        | with_reducible refine kept_foldl (fun _ _ _ => ?_) ?_
        | with_reducible refine kept_foldl_fst (fun _ _ _ => ?_) ?_
        | with_reducible refine kept_ite ?_ ?_
        | split)
    | dsimp only

theorem onCrest_kept (p : Nat) (f : Crest → Cmd → Crest) (c : Cmd) (hk : Kept fc fg z s) :
    KeptF fc fg z (onCrest p f s c) := .ok (modCrest_kept _ _ hk)

theorem endHeld_kept (p st sub : Nat) (hk : Kept fc fg z s) :
    Kept fc fg z (State.endHeld s p st sub) := by
  unfold State.endHeld
  repeat' first
    | with_reducible assumption
    | with_reducible apply endCmd_kept
    | with_reducible refine kept_foldl (fun _ _ _ => ?_) ?_

theorem leaveGroup_kept (hk : Kept fc fg z s) :
    Kept fc fg z (State.leaveGroup s) := by
  unfold State.leaveGroup
  repeat' first
    | with_reducible assumption
    | with_reducible apply modPort_kept
    | with_reducible apply answer_kept
    | with_reducible apply endCmd_kept
    | with_reducible apply modPwr_kept
    | with_reducible apply liveChange_kept
    | with_reducible exact fun _ => ⟨rfl, rfl, rfl⟩
    | with_reducible refine kept_foldl (fun _ _ _ => ?_) ?_
    | with_reducible refine kept_foldl_fst (fun _ _ _ => ?_) ?_
    | with_reducible refine kept_ite ?_ ?_
    | split
    | (with_reducible refine kept_upd ?_ ⟨rfl, rfl, rfl⟩ ⟨rfl, rfl, rfl, rfl⟩; first
        | with_reducible assumption
        | with_reducible apply modPort_kept
        | with_reducible apply answer_kept
        | with_reducible apply endCmd_kept
        | with_reducible apply modPwr_kept
        | with_reducible apply liveChange_kept
        | with_reducible refine kept_foldl (fun _ _ _ => ?_) ?_
        | with_reducible refine kept_foldl_fst (fun _ _ _ => ?_) ?_
        | with_reducible refine kept_ite ?_ ?_
        | split)
    | dsimp only

theorem checkMin_kept (kind : Nat) (hk : Kept fc fg z s) :
    Kept fc fg z (State.checkMin s kind) := by
  unfold State.checkMin
  repeat' first
    | with_reducible assumption
    | with_reducible apply leaveGroup_kept
    | with_reducible apply modMg_kept
    | with_reducible apply addLog_kept
    | with_reducible exact fun _ => ⟨rfl, rfl, rfl⟩
    | with_reducible refine kept_ite ?_ ?_
    | split
    | (with_reducible refine kept_upd ?_ ⟨rfl, rfl, rfl⟩ ⟨rfl, rfl, rfl, rfl⟩; first
        | with_reducible assumption
        | with_reducible apply leaveGroup_kept
        | with_reducible apply modMg_kept
        | with_reducible apply addLog_kept
        | with_reducible refine kept_ite ?_ ?_
        | split)
    | dsimp only

theorem notice_kept (alerts : List Nat) (parts : List Nat) (hk : Kept fc fg z s) :
    Kept fc fg z (State.notice s alerts parts) := by
  unfold State.notice
  repeat' first
    | with_reducible apply modPart_kept
    | with_reducible apply alert_kept
    | with_reducible apply liveChange_kept
    | with_reducible apply sendMsix_kept
    | with_reducible refine kept_foldl (fun _ _ _ => ?_) ?_
    | with_reducible refine kept_ite ?_ ?_
    | split
    | (with_reducible refine kept_upd ?_ ⟨rfl, rfl, rfl⟩ ⟨rfl, rfl, rfl, rfl⟩; with_reducible assumption)

theorem linkGone_kept (hk : Kept fc fg z s) :
    Kept fc fg z (State.linkGone s) := by
  unfold State.linkGone
  repeat' first
    | with_reducible assumption
    | with_reducible apply endCmd_kept
    | with_reducible apply checkMin_kept
    | with_reducible refine kept_foldl (fun _ _ _ => ?_) ?_
    | with_reducible refine kept_foldl_fst (fun _ _ _ => ?_) ?_
    | (with_reducible refine kept_upd ?_ ⟨rfl, rfl, rfl⟩ ⟨rfl, rfl, rfl, rfl⟩; first
        | with_reducible assumption
        | with_reducible apply endCmd_kept
        | with_reducible apply checkMin_kept
        | with_reducible refine kept_foldl (fun _ _ _ => ?_) ?_
        | with_reducible refine kept_foldl_fst (fun _ _ _ => ?_) ?_)
    | dsimp only

theorem hostReconfig_kept (hk : Kept fc fg z s) :
    Kept fc fg z (State.hostReconfig s) := by
  unfold State.hostReconfig
  repeat' first
    | with_reducible assumption
    | with_reducible apply modHmod_kept
    | with_reducible apply modMg_kept
    | with_reducible apply liveChange_kept
    | with_reducible apply linkGone_kept
    | with_reducible exact fun _ => ⟨rfl, rfl, rfl⟩
    | with_reducible refine kept_foldl (fun _ _ _ => ?_) ?_
    | with_reducible refine kept_foldl_fst (fun _ _ _ => ?_) ?_
    | with_reducible refine kept_ite ?_ ?_
    | split
    | (with_reducible refine kept_upd ?_ ⟨rfl, rfl, rfl⟩ ⟨rfl, rfl, rfl, rfl⟩; first
        | with_reducible assumption
        | with_reducible apply modHmod_kept
        | with_reducible apply modMg_kept
        | with_reducible apply liveChange_kept
        | with_reducible apply linkGone_kept
        | with_reducible refine kept_foldl (fun _ _ _ => ?_) ?_
        | with_reducible refine kept_foldl_fst (fun _ _ _ => ?_) ?_
        | with_reducible refine kept_ite ?_ ?_
        | split)
    | dsimp only

theorem unhalt_kept (l : Nat) (hk : Kept fc fg z s) :
    Kept fc fg z (State.unhalt s l) := by
  unfold State.unhalt
  repeat' first
    | with_reducible apply modCrest_kept
    | with_reducible apply modMg_kept
    | with_reducible exact fun _ => ⟨rfl, rfl, rfl⟩
    | (with_reducible refine kept_upd ?_ ⟨rfl, rfl, rfl⟩ ⟨rfl, rfl, rfl, rfl⟩; with_reducible assumption)

theorem makeAbsent_kept (l : Nat) (hit : List Nat) (hk : Kept fc fg z s) :
    Kept fc fg z (State.makeAbsent s l hit) := by
  unfold State.makeAbsent
  repeat' first
    | with_reducible assumption
    | with_reducible apply modRep_kept
    | with_reducible apply addLog_kept
    | with_reducible apply notice_kept
    | (with_reducible refine kept_upd ?_ ⟨rfl, rfl, rfl⟩ ⟨rfl, rfl, rfl, rfl⟩; first
        | with_reducible assumption
        | with_reducible apply modRep_kept
        | with_reducible apply addLog_kept
        | with_reducible apply notice_kept)
    | dsimp only

theorem retireDone_kept (hk : Kept fc fg z s) :
    Kept fc fg z (State.retireDone s) := by
  unfold State.retireDone
  repeat' first
    | with_reducible assumption
    | with_reducible apply mgResult_kept
    | with_reducible refine kept_ite ?_ ?_

theorem resetFails_kept (hk : Kept fc fg z s) :
    Kept fc fg z (State.resetFails s) := by
  unfold State.resetFails
  repeat' first
    | with_reducible assumption
    | with_reducible apply modMg_kept
    | with_reducible apply mgResult_kept
    | with_reducible exact fun _ => ⟨rfl, rfl, rfl⟩
    | with_reducible refine kept_ite ?_ ?_
    | split
    | (with_reducible refine kept_upd ?_ ⟨rfl, rfl, rfl⟩ ⟨rfl, rfl, rfl, rfl⟩; first
        | with_reducible assumption
        | with_reducible apply modMg_kept
        | with_reducible apply mgResult_kept
        | with_reducible refine kept_ite ?_ ?_
        | split)
    | dsimp only

theorem bindFails_kept (hk : Kept fc fg z s) :
    Kept fc fg z (State.bindFails s) := by
  unfold State.bindFails
  repeat' first
    | with_reducible assumption
    | with_reducible apply endHeld_kept
    | with_reducible apply modCrest_kept
    | with_reducible apply modReg_kept
    | with_reducible apply modRep_kept
    | with_reducible apply makeAbsent_kept
    | with_reducible apply retireDone_kept
    | with_reducible apply resetFails_kept
    | with_reducible apply checkMin_kept
    | split
    | (with_reducible refine kept_upd ?_ ⟨rfl, rfl, rfl⟩ ⟨rfl, rfl, rfl, rfl⟩; first
        | with_reducible assumption
        | with_reducible apply endHeld_kept
        | with_reducible apply modCrest_kept
        | with_reducible apply modReg_kept
        | with_reducible apply modRep_kept
        | with_reducible apply makeAbsent_kept
        | with_reducible apply retireDone_kept
        | with_reducible apply resetFails_kept
        | with_reducible apply checkMin_kept
        | split)
    | dsimp only

theorem retireCrest_kept (p cause : Nat) (hk : Kept fc fg z s) :
    Kept fc fg z (State.retireCrest s p cause) := by
  unfold State.retireCrest
  repeat' first
    | with_reducible apply modCrest_kept
    | with_reducible apply modReg_kept
    | with_reducible apply modRep_kept
    | with_reducible apply addLog_kept
    | with_reducible apply endHeld_kept
    | with_reducible apply checkMin_kept
    | with_reducible apply notice_kept
    | with_reducible apply unhalt_kept
    | with_reducible apply makeAbsent_kept
    | with_reducible apply bindFails_kept
    | with_reducible refine kept_ite ?_ ?_
    | split
    | (with_reducible refine kept_upd ?_ ⟨rfl, rfl, rfl⟩ ⟨rfl, rfl, rfl, rfl⟩; with_reducible assumption)

theorem stopQueue_kept (q : Nat) (hk : Kept fc fg z s) :
    Kept fc fg z (State.stopQueue s q) := by
  unfold State.stopQueue
  repeat' first
    | with_reducible apply modQueue_kept
    | with_reducible apply readyOrRun_kept
    | with_reducible refine kept_ite ?_ ?_
    | split
    | (with_reducible refine kept_upd ?_ ⟨rfl, rfl, rfl⟩ ⟨rfl, rfl, rfl, rfl⟩; with_reducible assumption)

theorem retireSlice_kept (n cause : Nat) (hk : Kept fc fg z s) :
    Kept fc fg z (State.retireSlice s n cause) := by
  unfold State.retireSlice
  repeat' first
    | with_reducible assumption
    | with_reducible apply zeroSlice_kept
    | with_reducible apply modRep_kept
    | with_reducible apply modSlice_kept
    | with_reducible apply unstall_kept
    | with_reducible apply endCmd_kept
    | with_reducible apply modPart_kept
    | with_reducible apply addLog_kept
    | with_reducible apply notice_kept
    | with_reducible apply stopQueue_kept
    | with_reducible apply checkMin_kept
    | with_reducible refine kept_foldl (fun _ _ _ => ?_) ?_
    | with_reducible refine kept_foldl_fst (fun _ _ _ => ?_) ?_
    | with_reducible refine kept_ite ?_ ?_
    | split
    | (with_reducible refine kept_upd ?_ ⟨rfl, rfl, rfl⟩ ⟨rfl, rfl, rfl, rfl⟩; first
        | with_reducible assumption
        | with_reducible apply zeroSlice_kept
        | with_reducible apply modRep_kept
        | with_reducible apply modSlice_kept
        | with_reducible apply unstall_kept
        | with_reducible apply endCmd_kept
        | with_reducible apply modPart_kept
        | with_reducible apply addLog_kept
        | with_reducible apply notice_kept
        | with_reducible apply stopQueue_kept
        | with_reducible apply checkMin_kept
        | with_reducible refine kept_foldl (fun _ _ _ => ?_) ?_
        | with_reducible refine kept_foldl_fst (fun _ _ _ => ?_) ?_
        | with_reducible refine kept_ite ?_ ?_
        | split)
    | dsimp only

theorem retirePort_kept (k cause : Nat) (hk : Kept fc fg z s) :
    Kept fc fg z (State.retirePort s k cause) := by
  unfold State.retirePort
  repeat' first
    | with_reducible apply modPort_kept
    | with_reducible apply modRep_kept
    | with_reducible apply addLog_kept
    | with_reducible apply notice_kept
    | with_reducible refine kept_ite ?_ ?_
    | split
    | (with_reducible refine kept_upd ?_ ⟨rfl, rfl, rfl⟩ ⟨rfl, rfl, rfl, rfl⟩; with_reducible assumption)

theorem retireModule_kept (m cause : Nat) (hk : Kept fc fg z s) :
    Kept fc fg z (State.retireModule s m cause) := by
  unfold State.retireModule
  repeat' first
    | with_reducible apply modHmod_kept
    | with_reducible apply modRep_kept
    | with_reducible apply addLog_kept
    | with_reducible apply notice_kept
    | with_reducible apply hostReconfig_kept
    | with_reducible refine kept_ite ?_ ?_
    | split
    | (with_reducible refine kept_upd ?_ ⟨rfl, rfl, rfl⟩ ⟨rfl, rfl, rfl, rfl⟩; with_reducible assumption)

theorem retireCol_kept (c cause : Nat) (hk : Kept fc fg z s) :
    Kept fc fg z (State.retireCol s c cause) := by
  unfold State.retireCol
  repeat' first
    | with_reducible assumption
    | with_reducible apply modRep_kept
    | with_reducible apply addLog_kept
    | with_reducible apply notice_kept
    | with_reducible apply checkMin_kept
    | with_reducible apply retireCrest_kept
    | with_reducible apply bindFails_kept
    | with_reducible apply retireSlice_kept
    | with_reducible apply retirePort_kept
    | with_reducible refine kept_foldl (fun _ _ _ => ?_) ?_
    | with_reducible refine kept_foldl_fst (fun _ _ _ => ?_) ?_
    | with_reducible refine kept_ite ?_ ?_
    | split
    | (with_reducible refine kept_upd ?_ ⟨rfl, rfl, rfl⟩ ⟨rfl, rfl, rfl, rfl⟩; with_reducible assumption)
    | dsimp only

theorem spareRow_kept (n row : Nat) (hk : Kept fc fg z s) :
    Kept fc fg z (State.spareRow s n row) := by
  unfold State.spareRow
  repeat' first
    | with_reducible apply modSlice_kept
    | with_reducible apply retireSlice_kept
    | with_reducible refine kept_ite ?_ ?_
    | split
    | (with_reducible refine kept_upd ?_ ⟨rfl, rfl, rfl⟩ ⟨rfl, rfl, rfl, rfl⟩; with_reducible assumption)

theorem storeError_kept (e : Ecc) (cmd : Option (Nat × Nat)) (hk : Kept fc fg z s) :
    Kept fc fg z (State.storeError s e cmd) := by
  unfold State.storeError
  repeat' first
    | with_reducible apply modSlice_kept
    | with_reducible apply alert_kept
    | with_reducible apply addLog_kept
    | with_reducible apply countErr_kept
    | with_reducible apply retireSlice_kept
    | with_reducible apply spareRow_kept
    | with_reducible refine kept_ite ?_ ?_
    | split
    | with_reducible refine kept_poison _ _ ?_
    | (with_reducible refine kept_upd ?_ ⟨rfl, rfl, rfl⟩ ⟨rfl, rfl, rfl, rfl⟩; with_reducible assumption)

theorem storeErrors_kept (es : List Ecc) (q t : Nat) (hk : Kept fc fg z s) :
    Kept fc fg z (State.storeErrors s es q t) := by
  unfold State.storeErrors
  repeat' first
    | with_reducible apply modCmd_kept
    | with_reducible apply storeError_kept
    | with_reducible refine kept_foldl (fun _ _ _ => ?_) ?_
    | with_reducible refine kept_ite ?_ ?_
    | split
    | (with_reducible refine kept_upd ?_ ⟨rfl, rfl, rfl⟩ ⟨rfl, rfl, rfl, rfl⟩; with_reducible assumption)

theorem meets_kept (q t : Nat) (gs : List Nat) (es : List Ecc) (hk : Kept fc fg z s) :
    Kept fc fg z (State.meets s q t gs es) := by
  unfold State.meets
  repeat' first
    | with_reducible assumption
    | with_reducible apply chargeMclk_kept
    | with_reducible apply wakes_kept
    | with_reducible apply storeErrors_kept
    | (with_reducible refine kept_upd ?_ ⟨rfl, rfl, rfl⟩ ⟨rfl, rfl, rfl, rfl⟩; first
        | with_reducible assumption
        | with_reducible apply chargeMclk_kept
        | with_reducible apply wakes_kept
        | with_reducible apply storeErrors_kept)
    | dsimp only

theorem readsWith_kept (q t : Nat) (gs : List Nat) (es : List Ecc) (hk : Kept fc fg z s) :
    Kept fc fg z (State.readsWith s q t gs es) := by
  unfold State.readsWith
  repeat' first
    | with_reducible assumption
    | with_reducible apply meets_kept
    | with_reducible apply touch_kept
    | with_reducible apply bump_kept
    | (with_reducible refine kept_upd ?_ ⟨rfl, rfl, rfl⟩ ⟨rfl, rfl, rfl, rfl⟩; first
        | with_reducible assumption
        | with_reducible apply meets_kept
        | with_reducible apply touch_kept
        | with_reducible apply bump_kept)
    | dsimp only

theorem reads_kept (q t : Nat) (gs : List Nat) (hk : Kept fc fg z s) :
    Kept fc fg z (State.reads s q t gs) := by
  unfold State.reads
  repeat' first
    | with_reducible assumption
    | with_reducible apply readsWith_kept
    | (with_reducible refine kept_upd ?_ ⟨rfl, rfl, rfl⟩ ⟨rfl, rfl, rfl, rfl⟩; first
        | with_reducible assumption
        | with_reducible apply readsWith_kept)
    | dsimp only

theorem signalQueue_kept (q : Nat) (hk : Kept fc fg z s) :
    Kept fc fg z (State.signalQueue s q) := by
  unfold State.signalQueue
  repeat' first
    | with_reducible apply modQueue_kept
    | with_reducible apply sendMsix_kept
    | (with_reducible refine kept_upd ?_ ⟨rfl, rfl, rfl⟩ ⟨rfl, rfl, rfl, rfl⟩; with_reducible assumption)

theorem putRecord_kept (q : Nat) (ws : List Nat) (status tag : Nat) (irq : Bool) (hk : Kept fc fg z s) :
    Kept fc fg z (State.putRecord s q ws status tag irq) := by
  unfold State.putRecord
  repeat' first
    | with_reducible apply modQueue_kept
    | with_reducible apply addLog_kept
    | with_reducible apply writeAt_kept
    | with_reducible apply signalQueue_kept
    | with_reducible refine kept_ite ?_ ?_
    | (with_reducible refine kept_upd ?_ ⟨rfl, rfl, rfl⟩ ⟨rfl, rfl, rfl, rfl⟩; with_reducible assumption)

theorem overflow_kept (q : Nat) (o : Ovf) (hk : Kept fc fg z s) :
    Kept fc fg z (State.overflow s q o) := by
  unfold State.overflow
  repeat' first
    | with_reducible assumption
    | with_reducible apply putRecord_kept
    | with_reducible apply modQueue_kept
    | (with_reducible refine kept_upd ?_ ⟨rfl, rfl, rfl⟩ ⟨rfl, rfl, rfl, rfl⟩; first
        | with_reducible assumption
        | with_reducible apply putRecord_kept
        | with_reducible apply modQueue_kept)
    | dsimp only

theorem putOverflow_kept (q : Nat) (hk : Kept fc fg z s) :
    Kept fc fg z (State.putOverflow s q) := by
  unfold State.putOverflow
  repeat' first
    | with_reducible assumption
    | with_reducible apply overflow_kept
    | with_reducible refine kept_ite ?_ ?_
    | split
    | (with_reducible refine kept_upd ?_ ⟨rfl, rfl, rfl⟩ ⟨rfl, rfl, rfl, rfl⟩; first
        | with_reducible assumption
        | with_reducible apply overflow_kept
        | with_reducible refine kept_ite ?_ ?_
        | split)
    | dsimp only

theorem doorbell_kept (q T : Nat) (hk : Kept fc fg z s) :
    Kept fc fg z (State.doorbell s q T) := by
  unfold State.doorbell
  repeat' first
    | with_reducible apply modQueue_kept
    | with_reducible apply putOverflow_kept
    | with_reducible refine kept_ite ?_ ?_
    | split
    | (with_reducible refine kept_upd ?_ ⟨rfl, rfl, rfl⟩ ⟨rfl, rfl, rfl, rfl⟩; with_reducible assumption)

theorem enableQueue_kept (q : Nat) (hk : Kept fc fg z s) :
    Kept fc fg z (State.enableQueue s q) := by
  unfold State.enableQueue
  repeat' first
    | with_reducible assumption
    | with_reducible apply modQueue_kept
    | with_reducible apply readyOrRun_kept
    | with_reducible apply putOverflow_kept
    | with_reducible refine kept_ite ?_ ?_
    | split
    | (with_reducible refine kept_upd ?_ ⟨rfl, rfl, rfl⟩ ⟨rfl, rfl, rfl, rfl⟩; with_reducible assumption)
    | dsimp only

theorem resumeQueue_kept (q : Nat) (hk : Kept fc fg z s) :
    Kept fc fg z (State.resumeQueue s q) := by
  unfold State.resumeQueue
  repeat' first
    | with_reducible apply modQueue_kept
    | with_reducible refine kept_ite ?_ ?_
    | split
    | (with_reducible refine kept_upd ?_ ⟨rfl, rfl, rfl⟩ ⟨rfl, rfl, rfl, rfl⟩; with_reducible assumption)

theorem setCqHead_kept (q v : Nat) (hk : Kept fc fg z s) :
    Kept fc fg z (State.setCqHead s q v) := by
  unfold State.setCqHead
  repeat' first
    | with_reducible apply modQueue_kept
    | with_reducible refine kept_ite ?_ ?_
    | (with_reducible refine kept_upd ?_ ⟨rfl, rfl, rfl⟩ ⟨rfl, rfl, rfl, rfl⟩; with_reducible assumption)

theorem leaveQueue_kept (c : Cmd) (st : Nat) (hk : Kept fc fg z s) :
    Kept fc fg z (State.leaveQueue s c st) := by
  unfold State.leaveQueue
  repeat' first
    | with_reducible apply modQueue_kept
    | with_reducible apply readyOrRun_kept
    | (with_reducible refine kept_upd ?_ ⟨rfl, rfl, rfl⟩ ⟨rfl, rfl, rfl, rfl⟩; with_reducible assumption)

theorem writeQueue_kept (q off v : Nat) (hk : Kept fc fg z s) :
    Kept fc fg z (State.writeQueue s q off v) := by
  unfold State.writeQueue
  repeat' first
    | with_reducible apply modQueue_kept
    | with_reducible apply stopQueue_kept
    | with_reducible apply doorbell_kept
    | with_reducible apply enableQueue_kept
    | with_reducible apply resumeQueue_kept
    | with_reducible apply setCqHead_kept
    | with_reducible refine kept_ite ?_ ?_
    | split
    | (with_reducible refine kept_upd ?_ ⟨rfl, rfl, rfl⟩ ⟨rfl, rfl, rfl, rfl⟩; with_reducible assumption)

theorem putEgress_kept (k : Nat) (f : Flit) (crest : Nat) (hk : Kept fc fg z s) :
    Kept fc fg z (State.putEgress s k f crest) := by
  unfold State.putEgress
  repeat' first
    | with_reducible apply modPort_kept
    | (with_reducible refine kept_upd ?_ ⟨rfl, rfl, rfl⟩ ⟨rfl, rfl, rfl, rfl⟩; with_reducible assumption)

theorem enqueue_kept (f : Flit) (crest : Nat := 0) (hk : Kept fc fg z s) :
    Kept fc fg z (State.enqueue s f crest) := by
  unfold State.enqueue
  repeat' first
    | with_reducible apply putEgress_kept
    | split
    | (with_reducible refine kept_upd ?_ ⟨rfl, rfl, rfl⟩ ⟨rfl, rfl, rfl, rfl⟩; with_reducible assumption)

theorem sendMgmt_kept (dst msg : Nat) (fields : List Byte) (hk : Kept fc fg z s) :
    Kept fc fg z (State.sendMgmt s dst msg fields) := by
  unfold State.sendMgmt
  repeat' first
    | with_reducible assumption
    | with_reducible apply enqueue_kept

theorem regroup_kept (hk : Kept fc fg z s) :
    Kept fc fg z (State.regroup s) := by
  unfold State.regroup
  repeat' first
    | with_reducible assumption
    | with_reducible apply modPwr_kept
    | with_reducible exact fun _ => ⟨rfl, rfl, rfl⟩
    | (with_reducible refine kept_upd ?_ ⟨rfl, rfl, rfl⟩ ⟨rfl, rfl, rfl, rfl⟩; first
        | with_reducible assumption
        | with_reducible apply modPwr_kept)
    | dsimp only

theorem sendLinkmap_kept (hk : Kept fc fg z s) :
    Kept fc fg z (State.sendLinkmap s) := by
  unfold State.sendLinkmap
  repeat' first
    | with_reducible assumption
    | with_reducible apply sendMgmt_kept
    | with_reducible apply bump_kept
    | with_reducible apply regroup_kept
    | with_reducible apply liveChange_kept
    | with_reducible refine kept_foldl (fun _ _ _ => ?_) ?_
    | with_reducible refine kept_foldl_fst (fun _ _ _ => ?_) ?_
    | with_reducible refine kept_ite ?_ ?_
    | split
    | (with_reducible refine kept_upd ?_ ⟨rfl, rfl, rfl⟩ ⟨rfl, rfl, rfl, rfl⟩; first
        | with_reducible assumption
        | with_reducible apply sendMgmt_kept
        | with_reducible apply bump_kept
        | with_reducible apply regroup_kept
        | with_reducible apply liveChange_kept
        | with_reducible refine kept_foldl (fun _ _ _ => ?_) ?_
        | with_reducible refine kept_foldl_fst (fun _ _ _ => ?_) ?_
        | with_reducible refine kept_ite ?_ ?_
        | split)
    | dsimp only

theorem openStream_kept (q t stage dst : Nat) (hk : Kept fc fg z s) :
    Kept fc fg z (State.openStream s q t stage dst).1 := by
  unfold State.openStream
  repeat' first
    | with_reducible apply modCmd_kept
    | split
    | (with_reducible refine kept_upd ?_ ⟨rfl, rfl, rfl⟩ ⟨rfl, rfl, rfl, rfl⟩; with_reducible assumption)

theorem sendStore_kept (crest dst sid addr : Nat) (bs : List Byte) (hk : Kept fc fg z s) :
    Kept fc fg z (State.sendStore s crest dst sid addr bs) := by
  unfold State.sendStore
  repeat' first
    | with_reducible apply enqueue_kept
    | with_reducible refine kept_foldl (fun _ _ _ => ?_) ?_
    | (with_reducible refine kept_upd ?_ ⟨rfl, rfl, rfl⟩ ⟨rfl, rfl, rfl, rfl⟩; with_reducible assumption)

theorem sendChannel_kept (crest dst sid channel tile fmt : Nat) (bs : List Byte) (hk : Kept fc fg z s) :
    Kept fc fg z (State.sendChannel s crest dst sid channel tile fmt bs) := by
  unfold State.sendChannel
  repeat' first
    | with_reducible apply enqueue_kept
    | with_reducible refine kept_foldl (fun _ _ _ => ?_) ?_
    | (with_reducible refine kept_upd ?_ ⟨rfl, rfl, rfl⟩ ⟨rfl, rfl, rfl, rfl⟩; with_reducible assumption)

theorem fixedCheck_kept (hk : Kept fc fg z s) :
    Kept fc fg z (State.fixedCheck s) := by
  unfold State.fixedCheck
  repeat' first
    | with_reducible apply modPwr_kept
    | with_reducible exact fun _ => ⟨rfl, rfl, rfl⟩
    | with_reducible refine kept_ite ?_ ?_
    | split
    | (with_reducible refine kept_upd ?_ ⟨rfl, rfl, rfl⟩ ⟨rfl, rfl, rfl, rfl⟩; with_reducible assumption)

theorem toLevel_kept (p l : Nat) (hk : Kept fc fg z s) :
    Kept fc fg z (State.toLevel s p l) := by
  unfold State.toLevel
  repeat' first
    | with_reducible apply modCrest_kept
    | with_reducible apply modReg_kept
    | with_reducible apply modCmd_kept
    | with_reducible refine kept_foldl (fun _ _ _ => ?_) ?_
    | with_reducible refine kept_ite ?_ ?_
    | split
    | (with_reducible refine kept_upd ?_ ⟨rfl, rfl, rfl⟩ ⟨rfl, rfl, rfl, rfl⟩; with_reducible assumption)

theorem slowTo_kept (c : Nat → Nat) (hk : Kept fc fg z s) :
    Kept fc fg z (State.slowTo s c) := by
  unfold State.slowTo
  repeat' first
    | with_reducible assumption
    | with_reducible apply fixedCheck_kept
    | with_reducible apply toLevel_kept
    | with_reducible refine kept_foldl (fun _ _ _ => ?_) ?_
    | with_reducible refine kept_ite ?_ ?_

theorem applyHw_kept (hk : Kept fc fg z s) :
    Kept fc fg z (State.applyHw s) := by
  unfold State.applyHw
  repeat' first
    | with_reducible assumption
    | with_reducible apply slowTo_kept

theorem applyCeilings_kept (hk : Kept fc fg z s) :
    Kept fc fg z (State.applyCeilings s) := by
  unfold State.applyCeilings
  repeat' first
    | with_reducible assumption
    | with_reducible apply slowTo_kept

theorem crestOn_kept (p : Nat) (hk : Kept fc fg z s) :
    Kept fc fg z (State.crestOn s p) := by
  unfold State.crestOn
  repeat' first
    | with_reducible apply modCrest_kept
    | with_reducible apply modReg_kept
    | with_reducible apply fixedCheck_kept
    | (with_reducible refine kept_upd ?_ ⟨rfl, rfl, rfl⟩ ⟨rfl, rfl, rfl, rfl⟩; with_reducible assumption)

theorem wakeIdle_kept (p : Nat) (hk : Kept fc fg z s) :
    Kept fc fg z (State.wakeIdle s p) := by
  unfold State.wakeIdle
  repeat' first
    | with_reducible assumption
    | with_reducible apply nap_kept
    | with_reducible apply modCrest_kept
    | with_reducible apply modReg_kept
    | with_reducible refine kept_ite ?_ ?_
    | split
    | (with_reducible refine kept_upd ?_ ⟨rfl, rfl, rfl⟩ ⟨rfl, rfl, rfl, rfl⟩; with_reducible assumption)
    | dsimp only

theorem requeue_kept (p : Nat) (hk : Kept fc fg z s) :
    Kept fc fg z (State.requeue s p) := by
  unfold State.requeue
  repeat' first
    | with_reducible assumption
    | with_reducible apply setHold_kept
    | with_reducible refine kept_foldl (fun _ _ _ => ?_) ?_
    | with_reducible refine kept_foldl_fst (fun _ _ _ => ?_) ?_
    | (with_reducible refine kept_upd ?_ ⟨rfl, rfl, rfl⟩ ⟨rfl, rfl, rfl, rfl⟩; first
        | with_reducible assumption
        | with_reducible apply setHold_kept
        | with_reducible refine kept_foldl (fun _ _ _ => ?_) ?_
        | with_reducible refine kept_foldl_fst (fun _ _ _ => ?_) ?_)
    | dsimp only

theorem place_kept (q t p : Nat) (hk : Kept fc fg z s) :
    Kept fc fg z (State.place s q t p) := by
  unfold State.place
  repeat' first
    | with_reducible assumption
    | with_reducible apply modCmd_kept
    | with_reducible apply modCrest_kept
    | with_reducible apply setHold_kept
    | with_reducible apply requeue_kept
    | with_reducible refine kept_ite ?_ ?_
    | split
    | (with_reducible refine kept_upd ?_ ⟨rfl, rfl, rfl⟩ ⟨rfl, rfl, rfl, rfl⟩; first
        | with_reducible assumption
        | with_reducible apply modCmd_kept
        | with_reducible apply modCrest_kept
        | with_reducible apply setHold_kept
        | with_reducible apply requeue_kept
        | with_reducible refine kept_ite ?_ ?_
        | split)
    | dsimp only

theorem adopt_kept (q t : Nat) (hk : Kept fc fg z s) :
    Kept fc fg z (State.adopt s q t) := by
  unfold State.adopt
  repeat' first
    | with_reducible assumption
    | with_reducible apply modCmd_kept
    | with_reducible apply chargeEarly_kept
    | with_reducible apply place_kept
    | with_reducible refine kept_foldl (fun _ _ _ => ?_) ?_
    | with_reducible refine kept_foldl_fst (fun _ _ _ => ?_) ?_
    | with_reducible refine kept_ite ?_ ?_
    | split
    | (with_reducible refine kept_upd ?_ ⟨rfl, rfl, rfl⟩ ⟨rfl, rfl, rfl, rfl⟩; first
        | with_reducible assumption
        | with_reducible apply modCmd_kept
        | with_reducible apply chargeEarly_kept
        | with_reducible apply place_kept
        | with_reducible refine kept_foldl (fun _ _ _ => ?_) ?_
        | with_reducible refine kept_foldl_fst (fun _ _ _ => ?_) ?_
        | with_reducible refine kept_ite ?_ ?_
        | split)
    | dsimp only

theorem adoptAll_kept (hk : Kept fc fg z s) :
    Kept fc fg z (State.adoptAll s) := by
  unfold State.adoptAll
  repeat' first
    | with_reducible assumption
    | with_reducible apply adopt_kept
    | with_reducible refine kept_foldl (fun _ _ _ => ?_) ?_

theorem startTile_kept (p : Nat) (k : Nat × Nat) (hk : Kept fc fg z s) :
    Kept fc fg z (State.startTile s p k) := by
  unfold State.startTile
  repeat' first
    | with_reducible apply modCrest_kept
    | with_reducible apply modCmd_kept
    | with_reducible apply addTrace_kept
    | with_reducible refine kept_ite ?_ ?_
    | split
    | (with_reducible refine kept_upd ?_ ⟨rfl, rfl, rfl⟩ ⟨rfl, rfl, rfl, rfl⟩; with_reducible assumption)

theorem turnTo_kept (p : Nat) (k : Nat × Nat) (hk : Kept fc fg z s) :
    Kept fc fg z (State.turnTo s p k) := by
  unfold State.turnTo
  repeat' first
    | with_reducible assumption
    | with_reducible apply modCrest_kept
    | with_reducible apply addTrace_kept
    | with_reducible apply startTile_kept
    | with_reducible apply requeue_kept
    | with_reducible refine kept_ite ?_ ?_
    | split
    | (with_reducible refine kept_upd ?_ ⟨rfl, rfl, rfl⟩ ⟨rfl, rfl, rfl, rfl⟩; first
        | with_reducible assumption
        | with_reducible apply modCrest_kept
        | with_reducible apply addTrace_kept
        | with_reducible apply startTile_kept
        | with_reducible apply requeue_kept
        | with_reducible refine kept_ite ?_ ?_
        | split)
    | dsimp only

theorem kick_kept (p : Nat) (hk : Kept fc fg z s) :
    Kept fc fg z (State.kick s p) := by
  unfold State.kick
  repeat' first
    | with_reducible apply turnTo_kept
    | with_reducible refine kept_ite ?_ ?_
    | split
    | (with_reducible refine kept_upd ?_ ⟨rfl, rfl, rfl⟩ ⟨rfl, rfl, rfl, rfl⟩; with_reducible assumption)

theorem preempt_kept (p : Nat) (hk : Kept fc fg z s) :
    Kept fc fg z (State.preempt s p) := by
  unfold State.preempt
  repeat' first
    | with_reducible assumption
    | with_reducible apply modCrest_kept
    | with_reducible apply addTrace_kept
    | with_reducible apply turnTo_kept
    | with_reducible refine kept_ite ?_ ?_
    | split
    | (with_reducible refine kept_upd ?_ ⟨rfl, rfl, rfl⟩ ⟨rfl, rfl, rfl, rfl⟩; first
        | with_reducible assumption
        | with_reducible apply modCrest_kept
        | with_reducible apply addTrace_kept
        | with_reducible apply turnTo_kept
        | with_reducible refine kept_ite ?_ ?_
        | split)
    | dsimp only

theorem turn_kept (p : Nat) (hk : Kept fc fg z s) :
    Kept fc fg z (State.turn s p) := by
  unfold State.turn
  repeat' first
    | with_reducible assumption
    | with_reducible apply kick_kept
    | with_reducible apply preempt_kept
    | (with_reducible refine kept_upd ?_ ⟨rfl, rfl, rfl⟩ ⟨rfl, rfl, rfl, rfl⟩; with_reducible assumption)
    | dsimp only

theorem firstReady_kept (p : Nat) (hk : Kept fc fg z s) :
    Kept fc fg z (State.firstReady s p) := by
  unfold State.firstReady
  repeat' first
    | with_reducible assumption
    | with_reducible apply turnTo_kept
    | with_reducible refine kept_ite ?_ ?_
    | split
    | (with_reducible refine kept_upd ?_ ⟨rfl, rfl, rfl⟩ ⟨rfl, rfl, rfl, rfl⟩; first
        | with_reducible assumption
        | with_reducible apply turnTo_kept
        | with_reducible refine kept_ite ?_ ?_
        | split)
    | dsimp only

theorem tryComplete_kept (q t : Nat) (hk : Kept fc fg z s) :
    Kept fc fg z (State.tryComplete s q t) := by
  unfold State.tryComplete
  repeat' first
    | with_reducible apply endCmd_kept
    | with_reducible refine kept_ite ?_ ?_
    | split
    | (with_reducible refine kept_upd ?_ ⟨rfl, rfl, rfl⟩ ⟨rfl, rfl, rfl, rfl⟩; with_reducible assumption)

theorem letGo_kept (p : Nat) (c : Cmd) (hk : Kept fc fg z s) :
    Kept fc fg z (State.letGo s p c) := by
  unfold State.letGo
  repeat' first
    | with_reducible assumption
    | with_reducible apply endHolds_kept
    | with_reducible apply modCrest_kept
    | with_reducible apply dropFrom_kept
    | (with_reducible refine kept_upd ?_ ⟨rfl, rfl, rfl⟩ ⟨rfl, rfl, rfl, rfl⟩; first
        | with_reducible assumption
        | with_reducible apply endHolds_kept
        | with_reducible apply modCrest_kept
        | with_reducible apply dropFrom_kept)
    | dsimp only

theorem tileDone_kept (p : Nat) (hk : Kept fc fg z s) :
    Kept fc fg z (State.tileDone s p) := by
  unfold State.tileDone
  repeat' first
    | with_reducible assumption
    | with_reducible apply modCrest_kept
    | with_reducible apply modCmd_kept
    | with_reducible apply letGo_kept
    | with_reducible apply tryComplete_kept
    | with_reducible apply kick_kept
    | with_reducible refine kept_foldl (fun _ _ _ => ?_) ?_
    | with_reducible refine kept_foldl_fst (fun _ _ _ => ?_) ?_
    | with_reducible refine kept_ite ?_ ?_
    | split
    | (with_reducible refine kept_upd ?_ ⟨rfl, rfl, rfl⟩ ⟨rfl, rfl, rfl, rfl⟩; with_reducible assumption)
    | dsimp only

theorem abufRoom_kept (hk : Kept fc fg z s) :
    Kept fc fg z (State.abufRoom s) := by
  unfold State.abufRoom
  repeat' first
    | with_reducible apply bump_kept
    | with_reducible apply abufBack_kept
    | with_reducible refine kept_ite ?_ ?_
    | split
    | (with_reducible refine kept_upd ?_ ⟨rfl, rfl, rfl⟩ ⟨rfl, rfl, rfl, rfl⟩; with_reducible assumption)

theorem signalWord_kept (scope g w op operand compare : Nat) (hk : Kept fc fg z s) :
    Kept fc fg z (State.signalWord s scope g w op operand compare).1 := by
  unfold State.signalWord
  repeat' first
    | with_reducible assumption
    | with_reducible apply abufRoom_kept
    | with_reducible apply write_kept
    | with_reducible apply writeAtomic_kept
    | with_reducible refine kept_ite ?_ ?_
    | split
    | (with_reducible refine kept_upd ?_ ⟨rfl, rfl, rfl⟩ ⟨rfl, rfl, rfl, rfl⟩; first
        | with_reducible assumption
        | with_reducible apply abufRoom_kept
        | with_reducible apply write_kept
        | with_reducible apply writeAtomic_kept
        | with_reducible refine kept_ite ?_ ?_
        | split)
    | dsimp only

theorem runSignal_kept (c : Cmd) (hk : Kept fc fg z s) :
    Kept fc fg z (State.runSignal s c) := by
  unfold State.runSignal
  repeat' first
    | with_reducible assumption
    | with_reducible apply stall_kept
    | with_reducible apply abufFlush_kept
    | with_reducible apply meets_kept
    | with_reducible apply own_kept
    | with_reducible apply bump_kept
    | with_reducible apply reads_kept
    | with_reducible apply endCmd_kept
    | with_reducible apply signalWord_kept
    | with_reducible apply writeAt_kept
    | with_reducible refine kept_ite ?_ ?_
    | split
    | (with_reducible refine kept_upd ?_ ⟨rfl, rfl, rfl⟩ ⟨rfl, rfl, rfl, rfl⟩; first
        | with_reducible assumption
        | with_reducible apply stall_kept
        | with_reducible apply abufFlush_kept
        | with_reducible apply meets_kept
        | with_reducible apply own_kept
        | with_reducible apply bump_kept
        | with_reducible apply reads_kept
        | with_reducible apply endCmd_kept
        | with_reducible apply signalWord_kept
        | with_reducible apply writeAt_kept
        | with_reducible refine kept_ite ?_ ?_
        | split)
    | dsimp only

theorem runFence_kept (c : Cmd) (hk : Kept fc fg z s) :
    Kept fc fg z (State.runFence s c) := by
  unfold State.runFence
  repeat' first
    | with_reducible assumption
    | with_reducible apply stall_kept
    | with_reducible apply perform_kept
    | with_reducible apply abufFlush_kept
    | with_reducible apply endCmd_kept
    | with_reducible refine kept_ite ?_ ?_
    | split
    | (with_reducible refine kept_upd ?_ ⟨rfl, rfl, rfl⟩ ⟨rfl, rfl, rfl, rfl⟩; first
        | with_reducible assumption
        | with_reducible apply stall_kept
        | with_reducible apply perform_kept
        | with_reducible apply abufFlush_kept
        | with_reducible apply endCmd_kept
        | with_reducible refine kept_ite ?_ ?_
        | split)
    | dsimp only

theorem readWait_kept (c : Cmd) (hk : Kept fc fg z s) :
    Kept fc fg z (State.readWait s c) := by
  unfold State.readWait
  repeat' first
    | with_reducible assumption
    | with_reducible apply stall_kept
    | with_reducible apply abufFlush_kept
    | with_reducible apply reads_kept
    | with_reducible apply endCmd_kept
    | with_reducible refine kept_ite ?_ ?_
    | split
    | (with_reducible refine kept_upd ?_ ⟨rfl, rfl, rfl⟩ ⟨rfl, rfl, rfl, rfl⟩; first
        | with_reducible assumption
        | with_reducible apply stall_kept
        | with_reducible apply abufFlush_kept
        | with_reducible apply reads_kept
        | with_reducible apply endCmd_kept
        | with_reducible refine kept_ite ?_ ?_
        | split)
    | dsimp only

theorem finalRead_kept (c : Cmd) (hk : Kept fc fg z s) :
    Kept fc fg z (State.finalRead s c) := by
  unfold State.finalRead
  repeat' first
    | with_reducible assumption
    | with_reducible apply modCmd_kept
    | with_reducible apply stall_kept
    | with_reducible apply readWait_kept
    | with_reducible apply endCmd_kept
    | split
    | (with_reducible refine kept_upd ?_ ⟨rfl, rfl, rfl⟩ ⟨rfl, rfl, rfl, rfl⟩; first
        | with_reducible assumption
        | with_reducible apply modCmd_kept
        | with_reducible apply stall_kept
        | with_reducible apply readWait_kept
        | with_reducible apply endCmd_kept
        | split)
    | dsimp only

theorem retrySignals_kept (hk : Kept fc fg z s) :
    Kept fc fg z (State.retrySignals s) := by
  unfold State.retrySignals
  repeat' first
    | with_reducible assumption
    | with_reducible apply runFence_kept
    | with_reducible apply runSignal_kept
    | with_reducible apply finalRead_kept
    | with_reducible refine kept_foldl (fun _ _ _ => ?_) ?_
    | with_reducible refine kept_foldl_fst (fun _ _ _ => ?_) ?_
    | split
    | (with_reducible refine kept_upd ?_ ⟨rfl, rfl, rfl⟩ ⟨rfl, rfl, rfl, rfl⟩; first
        | with_reducible assumption
        | with_reducible apply runFence_kept
        | with_reducible apply runSignal_kept
        | with_reducible apply finalRead_kept
        | with_reducible refine kept_foldl (fun _ _ _ => ?_) ?_
        | with_reducible refine kept_foldl_fst (fun _ _ _ => ?_) ?_
        | split)
    | dsimp only

theorem runLoadprog_kept (c : Cmd) (hk : Kept fc fg z s) :
    Kept fc fg z (State.runLoadprog s c) := by
  unfold State.runLoadprog
  repeat' first
    | with_reducible apply modCrest_kept
    | with_reducible apply endCmd_kept
    | with_reducible refine kept_foldl (fun _ _ _ => ?_) ?_
    | with_reducible refine kept_ite ?_ ?_
    | split
    | (with_reducible refine kept_upd ?_ ⟨rfl, rfl, rfl⟩ ⟨rfl, rfl, rfl, rfl⟩; with_reducible assumption)

theorem traceAll_kept (c : Cmd) (event : Nat) (hk : Kept fc fg z s) :
    Kept fc fg z (State.traceAll s c event) := by
  unfold State.traceAll
  repeat' first
    | with_reducible assumption
    | with_reducible apply addTrace_kept
    | with_reducible refine kept_foldl (fun _ _ _ => ?_) ?_
    | with_reducible refine kept_foldl_fst (fun _ _ _ => ?_) ?_
    | (with_reducible refine kept_upd ?_ ⟨rfl, rfl, rfl⟩ ⟨rfl, rfl, rfl, rfl⟩; first
        | with_reducible assumption
        | with_reducible apply addTrace_kept
        | with_reducible refine kept_foldl (fun _ _ _ => ?_) ?_
        | with_reducible refine kept_foldl_fst (fun _ _ _ => ?_) ?_)
    | dsimp only

theorem start_kept (q t : Nat) (hk : Kept fc fg z s) :
    Kept fc fg z (State.start s q t) := by
  unfold State.start
  repeat' first
    | with_reducible assumption
    | with_reducible apply modCmd_kept
    | with_reducible apply setHold_kept
    | with_reducible apply traceAll_kept
    | with_reducible apply runFence_kept
    | with_reducible apply runSignal_kept
    | with_reducible apply readWait_kept
    | with_reducible apply runLoadprog_kept
    | with_reducible apply turn_kept
    | with_reducible apply requeue_kept
    | with_reducible apply tryComplete_kept
    | with_reducible refine kept_foldl (fun _ _ _ => ?_) ?_
    | with_reducible refine kept_foldl_fst (fun _ _ _ => ?_) ?_
    | with_reducible refine kept_ite ?_ ?_
    | split
    | (with_reducible refine kept_upd ?_ ⟨rfl, rfl, rfl⟩ ⟨rfl, rfl, rfl, rfl⟩; first
        | with_reducible assumption
        | with_reducible apply modCmd_kept
        | with_reducible apply setHold_kept
        | with_reducible apply traceAll_kept
        | with_reducible apply runFence_kept
        | with_reducible apply runSignal_kept
        | with_reducible apply readWait_kept
        | with_reducible apply runLoadprog_kept
        | with_reducible apply turn_kept
        | with_reducible apply requeue_kept
        | with_reducible apply tryComplete_kept
        | with_reducible refine kept_foldl (fun _ _ _ => ?_) ?_
        | with_reducible refine kept_foldl_fst (fun _ _ _ => ?_) ?_
        | with_reducible refine kept_ite ?_ ?_
        | split)
    | dsimp only

theorem markers_kept (q : Nat) (hk : Kept fc fg z s) :
    Kept fc fg z (State.markers s q) := by
  unfold State.markers
  repeat' first
    | with_reducible apply endCmd_kept
    | with_reducible refine kept_ite ?_ ?_
    | split
    | (with_reducible refine kept_upd ?_ ⟨rfl, rfl, rfl⟩ ⟨rfl, rfl, rfl, rfl⟩; with_reducible assumption)

theorem startWaiting_kept (q : Nat) (hk : Kept fc fg z s) :
    Kept fc fg z (State.startWaiting s q) := by
  unfold State.startWaiting
  repeat' first
    | with_reducible assumption
    | with_reducible apply start_kept
    | with_reducible apply markers_kept
    | with_reducible refine kept_foldl (fun _ _ _ => ?_) ?_

theorem wakeNeed_kept (m : Nat) (hk : Kept fc fg z s) :
    Kept fc fg z (State.wakeNeed s m) := by
  unfold State.wakeNeed
  repeat' first
    | with_reducible apply modSlice_kept
    | with_reducible refine kept_foldl (fun _ _ _ => ?_) ?_
    | with_reducible refine kept_ite ?_ ?_
    | split
    | (with_reducible refine kept_upd ?_ ⟨rfl, rfl, rfl⟩ ⟨rfl, rfl, rfl, rfl⟩; with_reducible assumption)

theorem slicesAwake_kept (m : Nat) (waited : Option Nat) (hk : Kept fc fg z s) :
    Kept fc fg z (State.slicesAwake s m waited) := by
  unfold State.slicesAwake
  repeat' first
    | with_reducible assumption
    | with_reducible apply wakeSlice_kept
    | with_reducible apply kick_kept
    | with_reducible refine kept_foldl (fun _ _ _ => ?_) ?_
    | with_reducible refine kept_foldl_fst (fun _ _ _ => ?_) ?_
    | with_reducible refine kept_ite ?_ ?_
    | split
    | (with_reducible refine kept_upd ?_ ⟨rfl, rfl, rfl⟩ ⟨rfl, rfl, rfl, rfl⟩; with_reducible assumption)
    | dsimp only

theorem takeIn_kept (q t : Nat) (hk : Kept fc fg z s) :
    Kept fc fg z (State.takeIn s q t) := by
  unfold State.takeIn
  repeat' first
    | with_reducible assumption
    | with_reducible apply modCmd_kept
    | with_reducible apply chargeEarly_kept
    | with_reducible apply bump_kept
    | with_reducible apply wakeNeed_kept
    | with_reducible apply slicesAwake_kept
    | with_reducible apply modQueue_kept
    | with_reducible apply setHold_kept
    | with_reducible apply traceAll_kept
    | with_reducible apply place_kept
    | with_reducible apply start_kept
    | with_reducible apply markers_kept
    | with_reducible apply fixedCheck_kept
    | with_reducible refine kept_foldl (fun _ _ _ => ?_) ?_
    | with_reducible refine kept_foldl_fst (fun _ _ _ => ?_) ?_
    | with_reducible refine kept_ite ?_ ?_
    | split
    | (with_reducible refine kept_upd ?_ ⟨rfl, rfl, rfl⟩ ⟨rfl, rfl, rfl, rfl⟩; first
        | with_reducible assumption
        | with_reducible apply modCmd_kept
        | with_reducible apply chargeEarly_kept
        | with_reducible apply bump_kept
        | with_reducible apply wakeNeed_kept
        | with_reducible apply slicesAwake_kept
        | with_reducible apply modQueue_kept
        | with_reducible apply setHold_kept
        | with_reducible apply traceAll_kept
        | with_reducible apply place_kept
        | with_reducible apply start_kept
        | with_reducible apply markers_kept
        | with_reducible apply fixedCheck_kept
        | with_reducible refine kept_foldl (fun _ _ _ => ?_) ?_
        | with_reducible refine kept_foldl_fst (fun _ _ _ => ?_) ?_
        | with_reducible refine kept_ite ?_ ?_
        | split)
    | dsimp only

theorem fetch_kept (q waited : Nat) (hk : Kept fc fg z s) :
    Kept fc fg z (State.fetch s q waited) := by
  unfold State.fetch
  repeat' first
    | with_reducible assumption
    | with_reducible apply own_kept
    | with_reducible apply modQueue_kept
    | with_reducible apply modPart_kept
    | with_reducible apply chargeMclk_kept
    | with_reducible apply reads_kept
    | with_reducible apply endCmd_kept
    | with_reducible apply modCmd_kept
    | with_reducible apply addTrace_kept
    | with_reducible apply takeIn_kept
    | with_reducible refine kept_ite ?_ ?_
    | split
    | (with_reducible refine kept_upd ?_ ⟨rfl, rfl, rfl⟩ ⟨rfl, rfl, rfl, rfl⟩; first
        | with_reducible assumption
        | with_reducible apply own_kept
        | with_reducible apply modQueue_kept
        | with_reducible apply modPart_kept
        | with_reducible apply chargeMclk_kept
        | with_reducible apply reads_kept
        | with_reducible apply endCmd_kept
        | with_reducible apply modCmd_kept
        | with_reducible apply addTrace_kept
        | with_reducible apply takeIn_kept
        | with_reducible refine kept_ite ?_ ?_
        | split)
    | dsimp only

theorem crestReads_kept (q t : Nat) (gs : List Nat) (es : List Ecc) (hk : Kept fc fg z s) :
    Kept fc fg z (State.crestReads s q t gs es) := by
  unfold State.crestReads
  repeat' first
    | with_reducible assumption
    | with_reducible apply readsWith_kept
    | (with_reducible refine kept_upd ?_ ⟨rfl, rfl, rfl⟩ ⟨rfl, rfl, rfl, rfl⟩; first
        | with_reducible assumption
        | with_reducible apply readsWith_kept)
    | dsimp only

theorem abort_kept (q t st sub : Nat) (hk : Kept fc fg z s) :
    Kept fc fg z (State.abort s q t st sub) := by
  unfold State.abort
  repeat' first
    | with_reducible assumption
    | with_reducible apply endCmd_kept
    | with_reducible apply kick_kept
    | with_reducible refine kept_foldl (fun _ _ _ => ?_) ?_

theorem fillBank_kept (p waited : Nat) (es : List Ecc) (hk : Kept fc fg z s) :
    Kept fc fg z (State.fillBank s p waited es) := by
  unfold State.fillBank
  repeat' first
    | with_reducible assumption
    | with_reducible apply stall_kept
    | with_reducible apply crestReads_kept
    | with_reducible apply modCmd_kept
    | with_reducible apply abort_kept
    | with_reducible apply modCrest_kept
    | with_reducible refine kept_ite ?_ ?_
    | split
    | (with_reducible refine kept_upd ?_ ⟨rfl, rfl, rfl⟩ ⟨rfl, rfl, rfl, rfl⟩; with_reducible assumption)
    | dsimp only

theorem chainE_kept (p : Nat) (c : Cmd) (w : Work) (hk : Kept fc fg z s) :
    Kept fc fg z (State.chainE s p c w) := by
  unfold State.chainE
  repeat' first
    | with_reducible apply modCrest_kept
    | with_reducible apply bump_kept
    | (with_reducible refine kept_upd ?_ ⟨rfl, rfl, rfl⟩ ⟨rfl, rfl, rfl, rfl⟩; with_reducible assumption)

theorem chainP_kept (p : Nat) (c : Cmd) (w : Work) (hk : Kept fc fg z s) :
    Kept fc fg z (State.chainP s p c w) := by
  unfold State.chainP
  repeat' first
    | with_reducible assumption
    | with_reducible apply Epi_rows_kept
    | with_reducible apply modCrest_kept
    | with_reducible apply modCmd_kept
    | with_reducible apply busyOn_kept
    | with_reducible refine kept_foldl (fun _ _ _ => ?_) ?_
    | with_reducible refine kept_foldl_fst (fun _ _ _ => ?_) ?_
    | with_reducible refine kept_ite ?_ ?_
    | split
    | (with_reducible refine kept_upd ?_ ⟨rfl, rfl, rfl⟩ ⟨rfl, rfl, rfl, rfl⟩; with_reducible assumption)
    | dsimp only

theorem chainEnd_kept (p : Nat) (c : Cmd) (w : Work) (hk : Kept fc fg z s) :
    Kept fc fg z (State.chainEnd s p c w) := by
  unfold State.chainEnd
  repeat' first
    | with_reducible assumption
    | with_reducible apply bump_kept
    | with_reducible apply modCrest_kept
    | with_reducible apply busyOn_kept
    | with_reducible refine kept_foldl (fun _ _ _ => ?_) ?_
    | with_reducible refine kept_foldl_fst (fun _ _ _ => ?_) ?_
    | with_reducible refine kept_ite ?_ ?_
    | split
    | (with_reducible refine kept_upd ?_ ⟨rfl, rfl, rfl⟩ ⟨rfl, rfl, rfl, rfl⟩; with_reducible assumption)
    | dsimp only

theorem rowFails_kept (p : Nat) (c : Cmd) (sub : Nat) (cause : Option Nat) (hk : Kept fc fg z s) :
    Kept fc fg z (State.rowFails s p c sub cause) := by
  unfold State.rowFails
  repeat' first
    | with_reducible apply modPart_kept
    | with_reducible apply retireCrest_kept
    | with_reducible apply abort_kept
    | split
    | (with_reducible refine kept_upd ?_ ⟨rfl, rfl, rfl⟩ ⟨rfl, rfl, rfl, rfl⟩; with_reducible assumption)

theorem parityFails_kept (p : Nat) (c : Cmd) (hk : Kept fc fg z s) :
    Kept fc fg z (State.parityFails s p c) := by
  unfold State.parityFails
  repeat' first
    | with_reducible apply modCrest_kept
    | with_reducible apply addLog_kept
    | with_reducible apply countErr_kept
    | with_reducible apply rowFails_kept
    | (with_reducible refine kept_upd ?_ ⟨rfl, rfl, rfl⟩ ⟨rfl, rfl, rfl, rfl⟩; with_reducible assumption)

theorem residueSeen_kept (p : Nat) (c : Cmd) (n : Nat) (hk : Kept fc fg z s) :
    Kept fc fg z (State.residueSeen s p c n) := by
  unfold State.residueSeen
  repeat' first
    | with_reducible apply modCrest_kept
    | with_reducible apply addLog_kept
    | with_reducible apply countErr_kept
    | (with_reducible refine kept_upd ?_ ⟨rfl, rfl, rfl⟩ ⟨rfl, rfl, rfl, rfl⟩; with_reducible assumption)

theorem dueNow_kept (p : Nat) (w : Work) (hk : Kept fc fg z s) :
    Kept fc fg z (State.dueNow s p w) := by
  unfold State.dueNow
  repeat' first
    | with_reducible assumption
    | with_reducible apply modCrest_kept
    | (with_reducible refine kept_upd ?_ ⟨rfl, rfl, rfl⟩ ⟨rfl, rfl, rfl, rfl⟩; first
        | with_reducible assumption
        | with_reducible apply modCrest_kept)
    | dsimp only

theorem passesDone_kept (p : Nat) (c : Cmd) (w : Work) (hk : Kept fc fg z s) :
    Kept fc fg z (State.passesDone s p c w) := by
  unfold State.passesDone
  repeat' first
    | with_reducible assumption
    | with_reducible apply chainEnd_kept
    | with_reducible apply dueNow_kept
    | with_reducible apply modCrest_kept
    | with_reducible apply Epi_row_kept
    | with_reducible refine kept_ite ?_ ?_
    | split
    | (with_reducible refine kept_upd ?_ ⟨rfl, rfl, rfl⟩ ⟨rfl, rfl, rfl, rfl⟩; first
        | with_reducible assumption
        | with_reducible apply chainEnd_kept
        | with_reducible apply dueNow_kept
        | with_reducible apply modCrest_kept
        | with_reducible apply Epi_row_kept
        | with_reducible refine kept_ite ?_ ?_
        | split)
    | dsimp only

theorem keyTileDone_kept (p : Nat) (c : Cmd) (w : Work) (hk : Kept fc fg z s) :
    Kept fc fg z (State.keyTileDone s p c w) := by
  unfold State.keyTileDone
  repeat' first
    | with_reducible apply modCrest_kept
    | with_reducible apply passesDone_kept
    | with_reducible refine kept_ite ?_ ?_
    | split
    | (with_reducible refine kept_upd ?_ ⟨rfl, rfl, rfl⟩ ⟨rfl, rfl, rfl, rfl⟩; with_reducible assumption)

theorem chainSecond_kept (p : Nat) (c : Cmd) (w : Work) (hk : Kept fc fg z s) :
    Kept fc fg z (State.chainSecond s p c w) := by
  unfold State.chainSecond
  repeat' first
    | with_reducible apply modCrest_kept
    | with_reducible apply chainP_kept
    | with_reducible apply keyTileDone_kept
    | split
    | (with_reducible refine kept_upd ?_ ⟨rfl, rfl, rfl⟩ ⟨rfl, rfl, rfl, rfl⟩; with_reducible assumption)
    | dsimp only

theorem passEnd_kept (p : Nat) (c : Cmd) (w : Work) (hk : Kept fc fg z s) :
    Kept fc fg z (State.passEnd s p c w) := by
  unfold State.passEnd
  repeat' first
    | with_reducible assumption
    | with_reducible apply modCrest_kept
    | with_reducible apply chainE_kept
    | with_reducible apply chainSecond_kept
    | with_reducible apply dueNow_kept
    | with_reducible apply Epi_row_kept
    | with_reducible apply keyTileDone_kept
    | with_reducible apply passesDone_kept
    | with_reducible refine kept_ite ?_ ?_
    | split
    | (with_reducible refine kept_upd ?_ ⟨rfl, rfl, rfl⟩ ⟨rfl, rfl, rfl, rfl⟩; first
        | with_reducible assumption
        | with_reducible apply modCrest_kept
        | with_reducible apply chainE_kept
        | with_reducible apply chainSecond_kept
        | with_reducible apply dueNow_kept
        | with_reducible apply Epi_row_kept
        | with_reducible apply keyTileDone_kept
        | with_reducible apply passesDone_kept
        | with_reducible refine kept_ite ?_ ?_
        | split)
    | dsimp only

theorem rowAdded_kept (p : Nat) (c : Cmd) (w : Work) (o : RowOut) (hk : Kept fc fg z s) :
    Kept fc fg z (State.rowAdded s p c w o) := by
  unfold State.rowAdded
  repeat' first
    | with_reducible assumption
    | with_reducible apply modCrest_kept
    | with_reducible apply busyOn_kept
    | with_reducible apply modCmd_kept
    | with_reducible apply Epi_row_kept
    | with_reducible apply passEnd_kept
    | split
    | (with_reducible refine kept_upd ?_ ⟨rfl, rfl, rfl⟩ ⟨rfl, rfl, rfl, rfl⟩; with_reducible assumption)
    | dsimp only

theorem processed_kept (p : Nat) (c : Cmd) (w : Work) (f : FedRow) (hk : Kept fc fg z s) :
    Kept fc fg z (State.processed s p c w f) := by
  unfold State.processed
  repeat' first
    | with_reducible assumption
    | with_reducible apply Epi_row_kept
    | with_reducible apply modCrest_kept
    | with_reducible apply modCmd_kept
    | with_reducible apply busyOn_kept
    | with_reducible refine kept_ite ?_ ?_
    | split
    | (with_reducible refine kept_upd ?_ ⟨rfl, rfl, rfl⟩ ⟨rfl, rfl, rfl, rfl⟩; with_reducible assumption)
    | dsimp only

theorem streamRow_kept (p : Nat) (c : Cmd) (w : Work) (ev : PassEvent) (es : List Ecc) (hk : Kept fc fg z s) :
    Kept fc fg z (State.streamRow s p c w ev es) := by
  unfold State.streamRow
  repeat' first
    | with_reducible assumption
    | with_reducible apply stall_kept
    | with_reducible apply crestReads_kept
    | with_reducible apply abort_kept
    | with_reducible apply processed_kept
    | with_reducible apply modCrest_kept
    | with_reducible apply rowAdded_kept
    | with_reducible apply parityFails_kept
    | with_reducible apply residueSeen_kept
    | with_reducible apply busyOn_kept
    | with_reducible apply rowFails_kept
    | with_reducible apply modCmd_kept
    | with_reducible refine kept_ite ?_ ?_
    | split
    | (with_reducible refine kept_upd ?_ ⟨rfl, rfl, rfl⟩ ⟨rfl, rfl, rfl, rfl⟩; with_reducible assumption)
    | dsimp only

theorem execRowPass_kept (p : Nat) (ev : PassEvent) (ecc : List Ecc) (hk : Kept fc fg z s) :
    KeptO fc fg z (execRowPass p ev ecc s) := by
  unfold execRowPass
  repeat' first
    | with_reducible assumption
    | with_reducible apply turn_kept
    | with_reducible apply modCrest_kept
    | with_reducible apply streamRow_kept
    | with_reducible refine KeptO.next ?_
    | with_reducible refine kept_ite ?_ ?_
    | split
    | (with_reducible refine kept_upd ?_ ⟨rfl, rfl, rfl⟩ ⟨rfl, rfl, rfl, rfl⟩; with_reducible assumption)
    | dsimp only

theorem unblock_kept (p : Nat) (waited : Option Nat) (hk : Kept fc fg z s) :
    Kept fc fg z (State.unblock s p waited) := by
  unfold State.unblock
  repeat' first
    | with_reducible assumption
    | with_reducible apply modCrest_kept
    | with_reducible apply measured_kept
    | with_reducible apply setHold_kept
    | with_reducible apply kick_kept
    | split
    | (with_reducible refine kept_upd ?_ ⟨rfl, rfl, rfl⟩ ⟨rfl, rfl, rfl, rfl⟩; first
        | with_reducible assumption
        | with_reducible apply modCrest_kept
        | with_reducible apply measured_kept
        | with_reducible apply setHold_kept
        | with_reducible apply kick_kept
        | split)
    | dsimp only

theorem execScoreboardRelease_kept (p waited : Nat) (hk : Kept fc fg z s) :
    KeptO fc fg z (execScoreboardRelease p waited s) := by
  unfold execScoreboardRelease
  repeat' first
    | with_reducible assumption
    | with_reducible apply unblock_kept
    | with_reducible refine KeptO.next ?_
    | (with_reducible refine kept_upd ?_ ⟨rfl, rfl, rfl⟩ ⟨rfl, rfl, rfl, rfl⟩; first
        | with_reducible assumption
        | with_reducible apply unblock_kept
        | with_reducible refine KeptO.next ?_)
    | dsimp only

theorem leaveLent_kept (p : Nat) (k : Nat × Nat) (hk : Kept fc fg z s) :
    Kept fc fg z (State.leaveLent s p k) := by
  unfold State.leaveLent
  repeat' first
    | with_reducible assumption
    | with_reducible apply endHolds_kept
    | with_reducible apply modCmd_kept
    | with_reducible apply passOn_kept
    | with_reducible apply modCrest_kept
    | (with_reducible refine kept_upd ?_ ⟨rfl, rfl, rfl⟩ ⟨rfl, rfl, rfl, rfl⟩; first
        | with_reducible assumption
        | with_reducible apply endHolds_kept
        | with_reducible apply modCmd_kept
        | with_reducible apply passOn_kept
        | with_reducible apply modCrest_kept)
    | dsimp only

theorem recall_kept (p : Nat) (waited : Option Nat) (hk : Kept fc fg z s) :
    Kept fc fg z (State.recall s p waited) := by
  unfold State.recall
  repeat' first
    | with_reducible assumption
    | with_reducible apply leaveLent_kept
    | with_reducible apply modCrest_kept
    | with_reducible apply measured_kept
    | with_reducible apply requeue_kept
    | with_reducible apply modCmd_kept
    | with_reducible apply resetEnds_kept
    | with_reducible apply adoptAll_kept
    | with_reducible apply turn_kept
    | with_reducible refine kept_foldl (fun _ _ _ => ?_) ?_
    | with_reducible refine kept_foldl_fst (fun _ _ _ => ?_) ?_
    | split
    | (with_reducible refine kept_upd ?_ ⟨rfl, rfl, rfl⟩ ⟨rfl, rfl, rfl, rfl⟩; first
        | with_reducible assumption
        | with_reducible apply leaveLent_kept
        | with_reducible apply modCrest_kept
        | with_reducible apply measured_kept
        | with_reducible apply requeue_kept
        | with_reducible apply modCmd_kept
        | with_reducible apply resetEnds_kept
        | with_reducible apply adoptAll_kept
        | with_reducible apply turn_kept
        | with_reducible refine kept_foldl (fun _ _ _ => ?_) ?_
        | with_reducible refine kept_foldl_fst (fun _ _ _ => ?_) ?_
        | split)
    | dsimp only

theorem freeSlice_kept (n : Nat) (hk : Kept fc fg z s) : Kept fc fg z (s.freeSlice n) := by
  unfold State.freeSlice
  extract_lets lo hi out
  generalize (List.range (2 ^ 24)).map _ = l
  clear_value lo hi out
  exact hk.trans ⟨rfl, fun m => ⟨twf_tsetFrom 0#8 s.store lo l m.1, m.2⟩, fun _ => ⟨rfl, rfl, rfl⟩,
    fun _ => ⟨rfl, rfl, rfl, rfl⟩⟩

theorem freeCrest_kept (part p : Nat) (hk : Kept fc fg z s) :
    Kept fc fg z (State.freeCrest s part p) := by
  unfold State.freeCrest
  repeat' first
    | with_reducible assumption
    | with_reducible apply own_kept
    | with_reducible apply modCrest_kept
    | with_reducible refine kept_ite ?_ ?_
    | split
    | (with_reducible refine kept_upd ?_ ⟨rfl, rfl, rfl⟩ ⟨rfl, rfl, rfl, rfl⟩; first
        | with_reducible assumption
        | with_reducible apply own_kept
        | with_reducible apply modCrest_kept
        | with_reducible refine kept_ite ?_ ?_
        | split)
    | dsimp only

theorem uncontained_kept (c : Cmd) (hk : Kept fc fg z s) :
    Kept fc fg z (State.uncontained s c) := by
  unfold State.uncontained
  repeat' first
    | with_reducible assumption
    | with_reducible apply freeSlice_kept
    | with_reducible apply freeCrest_kept
    | with_reducible apply modQueue_kept
    | with_reducible apply bump_kept
    | with_reducible apply modCmd_kept
    | with_reducible apply endCmd_kept
    | with_reducible refine kept_foldl (fun _ _ _ => ?_) ?_
    | with_reducible refine kept_foldl_fst (fun _ _ _ => ?_) ?_
    | with_reducible refine kept_ite ?_ ?_
    | split
    | (with_reducible refine kept_upd ?_ ⟨rfl, rfl, rfl⟩ ⟨rfl, rfl, rfl, rfl⟩; first
        | with_reducible assumption
        | with_reducible apply freeSlice_kept
        | with_reducible apply freeCrest_kept
        | with_reducible apply modQueue_kept
        | with_reducible apply bump_kept
        | with_reducible apply modCmd_kept
        | with_reducible apply endCmd_kept
        | with_reducible refine kept_foldl (fun _ _ _ => ?_) ?_
        | with_reducible refine kept_foldl_fst (fun _ _ _ => ?_) ?_
        | with_reducible refine kept_ite ?_ ?_
        | split)
    | dsimp only

theorem execInvocationStart_kept (p : Nat) (hk : Kept fc fg z s) :
    KeptO fc fg z (execInvocationStart p s) := by
  unfold execInvocationStart
  repeat' first
    | with_reducible assumption
    | with_reducible apply turn_kept
    | with_reducible apply firstReady_kept
    | with_reducible apply uncontained_kept
    | with_reducible apply bump_kept
    | with_reducible apply modCrest_kept
    | with_reducible apply busyOn_kept
    | with_reducible refine KeptO.next ?_
    | with_reducible refine kept_ite ?_ ?_
    | split
    | (with_reducible refine kept_upd ?_ ⟨rfl, rfl, rfl⟩ ⟨rfl, rfl, rfl, rfl⟩; first
        | with_reducible assumption
        | with_reducible apply turn_kept
        | with_reducible apply firstReady_kept
        | with_reducible apply uncontained_kept
        | with_reducible apply bump_kept
        | with_reducible apply modCrest_kept
        | with_reducible apply busyOn_kept
        | with_reducible refine KeptO.next ?_
        | with_reducible refine kept_ite ?_ ?_
        | split)
    | dsimp only

theorem issue_kept (p q t n : Nat) (hk : Kept fc fg z s) : Kept fc fg z (s.issue p q t n) :=
  busyOn_kept _ _ _ _ (modCrest_kept _ _ hk)

theorem vstep_kept (p op : Nat) (i : VInst) (cost : Nat) {body : VBody}
    (g : ∀ s c, Kept fc fg z s → KeptF fc fg z (body s c)) (hk : Kept fc fg z s) :
    KeptO fc fg z (s.vstep p op i cost body) := by
  unfold State.vstep
  dsimp only
  repeat' split
  all_goals first
    | exact .next hk
    | exact .next (abort_kept _ _ _ _ hk)
    | skip
  · rename_i e
    exact .next (g _ _ (issue_kept _ _ _ _ hk) _ e)
  · exact .next (abort_kept _ _ _ _ (issue_kept _ _ _ _ hk))

theorem jump_kept (p : Nat) (c : Cmd) (i : VInst) (hk : Kept fc fg z s) :
    Kept fc fg z (State.jump s p c i) := by
  unfold State.jump
  repeat' first
    | with_reducible assumption
    | with_reducible apply modCrest_kept
    | with_reducible apply busyOn_kept
    | (with_reducible refine kept_upd ?_ ⟨rfl, rfl, rfl⟩ ⟨rfl, rfl, rfl, rfl⟩; with_reducible assumption)
    | dsimp only

theorem execVNop_kept (p : Nat) (i : VInst) (hk : Kept fc fg z s) :
    KeptO fc fg z (execVNop p i s) := by
  unfold execVNop
  repeat' first
    | with_reducible assumption
    | with_reducible refine vstep_kept _ _ _ _ (fun _ _ _ => ?_) ?_
    | with_reducible refine KeptF.ok ?_

theorem invocationEnd_kept (p : Nat) (c : Cmd) (hk : Kept fc fg z s) :
    Kept fc fg z (State.invocationEnd s p c) := by
  unfold State.invocationEnd
  repeat' first
    | with_reducible apply modCrest_kept
    | with_reducible apply kick_kept
    | with_reducible apply tileDone_kept
    | with_reducible apply chainSecond_kept
    | with_reducible refine kept_ite ?_ ?_
    | split
    | (with_reducible refine kept_upd ?_ ⟨rfl, rfl, rfl⟩ ⟨rfl, rfl, rfl, rfl⟩; with_reducible assumption)
    | dsimp only

theorem execVEnd_kept (p : Nat) (e : Checked VInst) (hk : Kept fc fg z s) :
    KeptO fc fg z (execVEnd p e s) := by
  unfold execVEnd
  repeat' first
    | with_reducible assumption
    | with_reducible refine vstep_kept _ _ _ _ (fun _ _ _ => ?_) ?_
    | with_reducible apply parityFails_kept
    | with_reducible apply invocationEnd_kept
    | with_reducible refine KeptO.next ?_
    | with_reducible refine KeptF.ok ?_
    | with_reducible exact KeptF.err
    | with_reducible refine kept_ite ?_ ?_
    | split
    | (with_reducible refine kept_upd ?_ ⟨rfl, rfl, rfl⟩ ⟨rfl, rfl, rfl, rfl⟩; with_reducible assumption)
    | dsimp only

theorem execVBr_kept (p : Nat) (i : VInst) (hk : Kept fc fg z s) :
    KeptO fc fg z (execVBr p i s) := by
  unfold execVBr
  repeat' first
    | with_reducible assumption
    | with_reducible refine vstep_kept _ _ _ _ (fun _ _ _ => ?_) ?_
    | with_reducible apply jump_kept
    | with_reducible refine KeptF.ok ?_
    | split

theorem execVLoop_kept (p : Nat) (i : VInst) (hk : Kept fc fg z s) :
    KeptO fc fg z (execVLoop p i s) := by
  unfold execVLoop
  repeat' first
    | with_reducible assumption
    | with_reducible apply modCrest_kept
    | with_reducible refine vstep_kept _ _ _ _ (fun _ _ _ => ?_) ?_
    | with_reducible apply jump_kept
    | with_reducible refine KeptF.ok ?_
    | split

theorem execVSalu_kept (p : Nat) (i : VInst) (hk : Kept fc fg z s) :
    KeptO fc fg z (execVSalu p i s) := by
  unfold execVSalu
  repeat' first
    | with_reducible assumption
    | with_reducible refine vstep_kept _ _ _ _ (fun _ _ _ => ?_) ?_
    | with_reducible exact onCrest_kept _ _ _ (by with_reducible assumption)

theorem execVVget_kept (p : Nat) (i : VInst) (hk : Kept fc fg z s) :
    KeptO fc fg z (execVVget p i s) := by
  unfold execVVget
  repeat' first
    | with_reducible assumption
    | with_reducible refine vstep_kept _ _ _ _ (fun _ _ _ => ?_) ?_
    | with_reducible exact onCrest_kept _ _ _ (by with_reducible assumption)

theorem execVBcast_kept (p : Nat) (i : VInst) (hk : Kept fc fg z s) :
    KeptO fc fg z (execVBcast p i s) := by
  unfold execVBcast
  repeat' first
    | with_reducible assumption
    | with_reducible refine vstep_kept _ _ _ _ (fun _ _ _ => ?_) ?_
    | with_reducible exact onCrest_kept _ _ _ (by with_reducible assumption)

theorem execVLaneid_kept (p : Nat) (i : VInst) (hk : Kept fc fg z s) :
    KeptO fc fg z (execVLaneid p i s) := by
  unfold execVLaneid
  repeat' first
    | with_reducible assumption
    | with_reducible refine vstep_kept _ _ _ _ (fun _ _ _ => ?_) ?_
    | with_reducible exact onCrest_kept _ _ _ (by with_reducible assumption)

theorem execVFadd_kept (p : Nat) (i : VInst) (hk : Kept fc fg z s) :
    KeptO fc fg z (execVFadd p i s) := by
  unfold execVFadd
  repeat' first
    | with_reducible assumption
    | with_reducible refine vstep_kept _ _ _ _ (fun _ _ _ => ?_) ?_
    | with_reducible exact onCrest_kept _ _ _ (by with_reducible assumption)

theorem execVFsub_kept (p : Nat) (i : VInst) (hk : Kept fc fg z s) :
    KeptO fc fg z (execVFsub p i s) := by
  unfold execVFsub
  repeat' first
    | with_reducible assumption
    | with_reducible refine vstep_kept _ _ _ _ (fun _ _ _ => ?_) ?_
    | with_reducible exact onCrest_kept _ _ _ (by with_reducible assumption)

theorem execVFmul_kept (p : Nat) (i : VInst) (hk : Kept fc fg z s) :
    KeptO fc fg z (execVFmul p i s) := by
  unfold execVFmul
  repeat' first
    | with_reducible assumption
    | with_reducible refine vstep_kept _ _ _ _ (fun _ _ _ => ?_) ?_
    | with_reducible exact onCrest_kept _ _ _ (by with_reducible assumption)

theorem execVFma_kept (p : Nat) (i : VInst) (hk : Kept fc fg z s) :
    KeptO fc fg z (execVFma p i s) := by
  unfold execVFma
  repeat' first
    | with_reducible assumption
    | with_reducible refine vstep_kept _ _ _ _ (fun _ _ _ => ?_) ?_
    | with_reducible exact onCrest_kept _ _ _ (by with_reducible assumption)

theorem execVFmax_kept (p : Nat) (i : VInst) (hk : Kept fc fg z s) :
    KeptO fc fg z (execVFmax p i s) := by
  unfold execVFmax
  repeat' first
    | with_reducible assumption
    | with_reducible refine vstep_kept _ _ _ _ (fun _ _ _ => ?_) ?_
    | with_reducible exact onCrest_kept _ _ _ (by with_reducible assumption)

theorem execVFmin_kept (p : Nat) (i : VInst) (hk : Kept fc fg z s) :
    KeptO fc fg z (execVFmin p i s) := by
  unfold execVFmin
  repeat' first
    | with_reducible assumption
    | with_reducible refine vstep_kept _ _ _ _ (fun _ _ _ => ?_) ?_
    | with_reducible exact onCrest_kept _ _ _ (by with_reducible assumption)

theorem execVFun_kept (p : Nat) (i : VInst) (hk : Kept fc fg z s) :
    KeptO fc fg z (execVFun p i s) := by
  unfold execVFun
  repeat' first
    | with_reducible refine vstep_kept _ _ _ _ (fun _ _ _ => ?_) ?_
    | with_reducible exact onCrest_kept _ _ _ (by with_reducible assumption)
    | (with_reducible refine kept_upd ?_ ⟨rfl, rfl, rfl⟩ ⟨rfl, rfl, rfl, rfl⟩; with_reducible assumption)

theorem execVFcmp_kept (p : Nat) (i : VInst) (hk : Kept fc fg z s) :
    KeptO fc fg z (execVFcmp p i s) := by
  unfold execVFcmp
  repeat' first
    | with_reducible refine vstep_kept _ _ _ _ (fun _ _ _ => ?_) ?_
    | with_reducible exact onCrest_kept _ _ _ (by with_reducible assumption)
    | (with_reducible refine kept_upd ?_ ⟨rfl, rfl, rfl⟩ ⟨rfl, rfl, rfl, rfl⟩; with_reducible assumption)

theorem execVIalu_kept (p : Nat) (i : VInst) (hk : Kept fc fg z s) :
    KeptO fc fg z (execVIalu p i s) := by
  unfold execVIalu
  repeat' first
    | with_reducible assumption
    | with_reducible refine vstep_kept _ _ _ _ (fun _ _ _ => ?_) ?_
    | with_reducible exact onCrest_kept _ _ _ (by with_reducible assumption)

theorem execVIcmp_kept (p : Nat) (i : VInst) (hk : Kept fc fg z s) :
    KeptO fc fg z (execVIcmp p i s) := by
  unfold execVIcmp
  repeat' first
    | with_reducible refine vstep_kept _ _ _ _ (fun _ _ _ => ?_) ?_
    | with_reducible exact onCrest_kept _ _ _ (by with_reducible assumption)
    | (with_reducible refine kept_upd ?_ ⟨rfl, rfl, rfl⟩ ⟨rfl, rfl, rfl, rfl⟩; with_reducible assumption)

theorem execVSel_kept (p : Nat) (i : VInst) (hk : Kept fc fg z s) :
    KeptO fc fg z (execVSel p i s) := by
  unfold execVSel
  repeat' first
    | with_reducible assumption
    | with_reducible refine vstep_kept _ _ _ _ (fun _ _ _ => ?_) ?_
    | with_reducible exact onCrest_kept _ _ _ (by with_reducible assumption)

theorem execVCvt_kept (p : Nat) (i : VInst) (hk : Kept fc fg z s) :
    KeptO fc fg z (execVCvt p i s) := by
  unfold execVCvt
  repeat' first
    | with_reducible assumption
    | with_reducible apply modCrest_kept
    | with_reducible apply modCmd_kept
    | with_reducible refine vstep_kept _ _ _ _ (fun _ _ _ => ?_) ?_
    | with_reducible refine KeptF.ok ?_

theorem execVCvtf_kept (p : Nat) (i : VInst) (hk : Kept fc fg z s) :
    KeptO fc fg z (execVCvtf p i s) := by
  unfold execVCvtf
  repeat' first
    | with_reducible assumption
    | with_reducible refine vstep_kept _ _ _ _ (fun _ _ _ => ?_) ?_
    | with_reducible exact onCrest_kept _ _ _ (by with_reducible assumption)

theorem execVLda_kept (p : Nat) (i : VInst) (parityBad : Bool) (hk : Kept fc fg z s) :
    KeptO fc fg z (execVLda p i parityBad s) := by
  unfold execVLda
  try dsimp only
  repeat' first
    | with_reducible assumption
    | with_reducible apply modCrest_kept
    | with_reducible apply parityFails_kept
    | with_reducible refine vstep_kept _ _ _ _ (fun _ _ _ => ?_) ?_
    | with_reducible refine KeptF.ok ?_
    | with_reducible exact KeptF.err
    | split

theorem execVSta_kept (p : Nat) (i : VInst) (hk : Kept fc fg z s) :
    KeptO fc fg z (execVSta p i s) := by
  unfold execVSta
  repeat' first
    | with_reducible apply modCrest_kept
    | with_reducible refine vstep_kept _ _ _ _ (fun _ _ _ => ?_) ?_
    | with_reducible refine KeptF.ok ?_
    | with_reducible exact KeptF.err
    | split
    | (with_reducible refine kept_upd ?_ ⟨rfl, rfl, rfl⟩ ⟨rfl, rfl, rfl, rfl⟩; with_reducible assumption)

theorem vaccess_kept (p op : Nat) (i : VInst) (wr : Bool) (rs : Crest → List (Nat × Nat))
    {o : Host.Outcome State Fault Refusal} (ho : KeptO fc fg z o) (hk : Kept fc fg z s) :
    KeptO fc fg z (s.vaccess p op i wr rs o) := by
  unfold State.vaccess
  split
  · exact .next (stall_kept _ _ _ hk)
  · exact ho

theorem execVLds_kept (p : Nat) (i : VInst) (ecc : List Ecc) (hk : Kept fc fg z s) :
    KeptO fc fg z (execVLds p i ecc s) := by
  unfold execVLds
  repeat' first
    | with_reducible assumption
    | with_reducible refine vaccess_kept _ _ _ _ _ ?_ hk
    | with_reducible refine vstep_kept _ _ _ _ (fun _ _ _ => ?_) ?_
    | with_reducible apply crestReads_kept
    | with_reducible apply abort_kept
    | with_reducible apply modCrest_kept
    | with_reducible refine KeptO.next ?_
    | with_reducible refine KeptF.ok ?_
    | with_reducible exact KeptF.err
    | with_reducible refine kept_ite ?_ ?_
    | split
    | (with_reducible refine kept_upd ?_ ⟨rfl, rfl, rfl⟩ ⟨rfl, rfl, rfl, rfl⟩; first
        | with_reducible assumption
        | with_reducible refine vaccess_kept _ _ _ _ _ ?_ hk
            | with_reducible refine vstep_kept _ _ _ _ (fun _ _ _ => ?_) ?_
        | with_reducible apply crestReads_kept
        | with_reducible apply abort_kept
        | with_reducible apply modCrest_kept
        | with_reducible refine KeptO.next ?_
        | with_reducible refine KeptF.ok ?_
        | with_reducible exact KeptF.err
        | with_reducible refine kept_ite ?_ ?_
        | split)
    | dsimp only

theorem execVStc_kept (p : Nat) (i : VInst) (hk : Kept fc fg z s) :
    KeptO fc fg z (execVStc p i s) := by
  unfold execVStc
  repeat' first
    | with_reducible assumption
    | with_reducible refine vaccess_kept _ _ _ _ _ ?_ hk
    | with_reducible refine vstep_kept _ _ _ _ (fun _ _ _ => ?_) ?_
    | with_reducible apply modCrest_kept
    | with_reducible apply bump_kept
    | with_reducible apply write_kept
    | with_reducible apply modCmd_kept
    | with_reducible refine KeptO.next ?_
    | with_reducible refine KeptF.ok ?_
    | with_reducible exact KeptF.err
    | with_reducible refine kept_ite ?_ ?_
    | split
    | (with_reducible refine kept_upd ?_ ⟨rfl, rfl, rfl⟩ ⟨rfl, rfl, rfl, rfl⟩; first
        | with_reducible assumption
        | with_reducible refine vaccess_kept _ _ _ _ _ ?_ hk
            | with_reducible refine vstep_kept _ _ _ _ (fun _ _ _ => ?_) ?_
        | with_reducible apply modCrest_kept
        | with_reducible apply bump_kept
        | with_reducible apply write_kept
        | with_reducible apply modCmd_kept
        | with_reducible refine KeptO.next ?_
        | with_reducible refine KeptF.ok ?_
        | with_reducible exact KeptF.err
        | with_reducible refine kept_ite ?_ ?_
        | split)
    | dsimp only

theorem execVStp_kept (p : Nat) (i : VInst) (hk : Kept fc fg z s) :
    KeptO fc fg z (execVStp p i s) := by
  unfold execVStp
  repeat' first
    | with_reducible assumption
    | with_reducible refine vaccess_kept _ _ _ _ _ ?_ hk
    | with_reducible refine vstep_kept _ _ _ _ (fun _ _ _ => ?_) ?_
    | with_reducible apply write_kept
    | with_reducible apply modCmd_kept
    | with_reducible refine KeptO.next ?_
    | with_reducible refine KeptF.ok ?_
    | with_reducible exact KeptF.err
    | with_reducible refine kept_ite ?_ ?_
    | split
    | (with_reducible refine kept_upd ?_ ⟨rfl, rfl, rfl⟩ ⟨rfl, rfl, rfl, rfl⟩; first
        | with_reducible assumption
        | with_reducible refine vaccess_kept _ _ _ _ _ ?_ hk
            | with_reducible refine vstep_kept _ _ _ _ (fun _ _ _ => ?_) ?_
        | with_reducible apply write_kept
        | with_reducible apply modCmd_kept
        | with_reducible refine KeptO.next ?_
        | with_reducible refine KeptF.ok ?_
        | with_reducible exact KeptF.err
        | with_reducible refine kept_ite ?_ ?_
        | split)
    | dsimp only

theorem execVRed_kept (p : Nat) (i : VInst) (hk : Kept fc fg z s) :
    KeptO fc fg z (execVRed p i s) := by
  unfold execVRed
  repeat' first
    | with_reducible assumption
    | with_reducible refine vstep_kept _ _ _ _ (fun _ _ _ => ?_) ?_
    | with_reducible exact onCrest_kept _ _ _ (by with_reducible assumption)

theorem execVFn_kept (p : Nat) (i : VInst) (hk : Kept fc fg z s) :
    KeptO fc fg z (execVFn p i s) := by
  unfold execVFn
  repeat' first
    | with_reducible assumption
    | with_reducible refine vstep_kept _ _ _ _ (fun _ _ _ => ?_) ?_
    | with_reducible exact onCrest_kept _ _ _ (by with_reducible assumption)

theorem stageWrite_kept (c : Cmd) (p a : Nat) (bs : List Byte) (hk : Kept fc fg z s) :
    KeptF fc fg z (State.stageWrite s c p a bs) := by
  unfold State.stageWrite
  repeat' first
    | with_reducible apply writeAt_kept
    | with_reducible refine KeptF.ok ?_
    | with_reducible exact KeptF.err
    | split
    | (with_reducible refine kept_upd ?_ ⟨rfl, rfl, rfl⟩ ⟨rfl, rfl, rfl, rfl⟩; with_reducible assumption)

theorem Epi_stage_kept (p : Nat) (c : Cmd) (w : Work) (k : Nat) (g : Stage) (row : Nat) (h : Held) {e : Epi}
    (hk : Kept fc fg z e.s) : KeptE fc fg z (fun x : Epi × Held => x.1.s) (e.stage p c w k g row h) := by
  unfold Epi.stage
  extract_lets m n0 n h' e'
  have he : Kept fc fg z e'.s := busyOn_kept _ _ _ _ (touch_kept _ hk)
  clear_value e' h'
  split
  · exact .err he
  · rename_i vs _
    have hr : ∀ red : EpiM Epi, KeptE fc fg z Epi.s red → KeptE fc fg z (fun x : Epi × Held => x.1.s)
        (match red with
          | .error r => .error r
          | .ok e =>
            if g.kind = 7 then
              let r := codeRow g.arg8 c.dOut.coarse c.satMode (c.convLanes w.tile e.gen) (vs.map fp32)
              .ok ({ e with gen := c.genAfter e.gen, s := e.s.modCmd c.q c.t fun x => x.count r.sat r.van },
                { vals := r.vals, fmt := g.arg8, conv := true, bits := r.bits, scales := r.scales, lo := r.lo })
            else if h'.conv then
              let e := if g.kind = 8 then { e with out := tset [] e.out k (tget [] e.out k ++ h'.sendBytes) } else e
              .ok (e, h')
            else
              let f := fp32Code g.storeFmt
              let r := codeRow f c.dOut.coarse c.satMode (c.convLanes w.tile e.gen) (vs.map fp32)
              let e := if f = 0x12 then e
                else { e with gen := c.genAfter e.gen, s := e.s.modCmd c.q c.t fun x => x.count r.sat r.van }
              let h := { h' with vals := if f = 0x12 then vs else r.vals, fmt := f }
              let e := if g.kind = 8 then { e with out := tset [] e.out k (tget [] e.out k ++ h.sendBytes) } else e
              .ok (e, h)) := by
      intro red hred
      cases red with
      | error r => exact .err (hred.2 r rfl)
      | ok e2 =>
        have h2 := hred.1 e2 rfl
        dsimp only
        repeat' split
        all_goals first
          | exact .ok h2
          | exact .ok (modCmd_kept _ _ _ h2)
    refine hr _ ?_
    split
    · dsimp only
      split
      · split
        · exact .err he
        · rename_i e3
          exact .ok (KeptF.get e3 (stageWrite_kept _ _ _ _ he))
      · exact .ok he
    · exact .ok he

theorem Epi_stages_kept (p : Nat) (c : Cmd) (w : Work) (row k : Nat) (gs : List Stage) (h : Held) {e : Epi}
    (hk : Kept fc fg z e.s) : KeptE fc fg z (fun x : Epi × Held => x.1.s) (Epi.stages e p c w row k gs h) := by
  induction gs generalizing e k h with
  | nil => exact .ok hk
  | cons g gs ih =>
    unfold Epi.stages
    split
    · rename_i r; exact .err (KeptE.get_err r (Epi_stage_kept p c w k g row h hk))
    · rename_i r; exact ih _ _ (KeptE.get (g := fun x : Epi × Held => x.1.s) r (Epi_stage_kept p c w k g row h hk))

theorem Epi_outRow_kept (c : Cmd) (w : Work) (h : Held) {e : Epi} (hk : Kept fc fg z e.s) :
    Kept fc fg z (e.outRow c w h).1.s := by
  unfold Epi.outRow
  dsimp only
  repeat' split
  all_goals first
    | exact hk
    | exact modCmd_kept _ _ _ hk

theorem writeRow_kept (c : Cmd) (o : Obs) (m n0 n : Nat) (r : Coded) (hk : Kept fc fg z s) :
    KeptF fc fg z (State.writeRow s c o m n0 n r) := by
  unfold State.writeRow
  try dsimp only
  repeat' first
    | with_reducible apply write_kept
    | with_reducible refine KeptF.ok ?_
    | with_reducible exact KeptF.err
    | split
    | (with_reducible refine kept_upd ?_ ⟨rfl, rfl, rfl⟩ ⟨rfl, rfl, rfl, rfl⟩; with_reducible assumption)

theorem Epi_row_kept (p : Nat) (c : Cmd) (w : Work) (row : Nat) {e : Epi} (hk : Kept fc fg z e.s) :
    KeptE fc fg z Epi.s (e.row p c w row) := by
  have hb : Kept fc fg z ({ e with s := e.s.busyOn p c.q c.t (1 + outCost c.dOut.format) } : Epi).s := busyOn_kept _ _ _ _ hk
  unfold Epi.row
  dsimp only
  split
  · rename_i r; exact .err (KeptE.get_err (g := fun x : Epi × Held => x.1.s) r (Epi_stages_kept _ _ _ _ _ _ _ hb))
  · rename_i r
    have h1 := KeptE.get (g := fun x : Epi × Held => x.1.s) r (Epi_stages_kept _ _ _ _ _ _ _ hb)
    split
    · exact .ok h1
    · split
      · exact .err (Epi_outRow_kept _ _ _ h1)
      · rename_i e3; exact .ok (KeptF.get e3 (writeRow_kept _ _ _ _ _ _ (Epi_outRow_kept _ _ _ h1)))

theorem Epi_rows_kept (p : Nat) (c : Cmd) (w : Work) (rs : List Nat) {e : Epi} (hk : Kept fc fg z e.s) :
    KeptE fc fg z Epi.s (Epi.rows p c w rs e) := by
  induction rs generalizing e with
  | nil => exact .ok hk
  | cons r rs ih =>
    unfold Epi.rows
    split
    · rename_i x; exact .err (KeptE.get_err x (Epi_row_kept p c w r hk))
    · rename_i x; exact ih (KeptE.get (g := Epi.s) x (Epi_row_kept p c w r hk))

theorem Epi_reductions_kept (p : Nat) (c : Cmd) (w : Work) (gs : List (Nat × Stage)) {e : Epi}
    (hk : Kept fc fg z e.s) : KeptE fc fg z Epi.s (Epi.reductions p c w gs e) := by
  induction gs generalizing e with
  | nil => exact .ok hk
  | cons g gs ih =>
    unfold Epi.reductions
    dsimp only
    split
    · split
      · exact .err hk
      · rename_i x; exact ih (KeptF.get x (stageWrite_kept _ _ _ _ hk))
    · exact ih hk

theorem sendTile_kept (p : Nat) (c : Cmd) (k : Nat) (g : Stage) (tile : Nat) (bs : List Byte) (hk : Kept fc fg z s) :
    KeptF fc fg z (State.sendTile s p c k g tile bs) := by
  unfold State.sendTile
  repeat' first
    | with_reducible apply modCmd_kept
    | with_reducible apply openStream_kept
    | with_reducible apply sendStore_kept
    | with_reducible apply sendChannel_kept
    | with_reducible refine kept_pair (by with_reducible assumption) ?_
    | with_reducible refine KeptF.ok ?_
    | with_reducible exact KeptF.err
    | split
    | (with_reducible refine kept_upd ?_ ⟨rfl, rfl, rfl⟩ ⟨rfl, rfl, rfl, rfl⟩; with_reducible assumption)

theorem sendAll_kept (p : Nat) (c : Cmd) (w : Work) (gs : List (Nat × Stage)) {e : Epi} (hk : Kept fc fg z e.s) :
    KeptE fc fg z Epi.s (sendAll p c w gs e) := by
  induction gs generalizing e with
  | nil => exact .ok hk
  | cons g gs ih =>
    unfold sendAll
    split
    · split
      · exact .err hk
      · rename_i x; exact ih (KeptF.get x (sendTile_kept _ _ _ _ _ _ hk))
    · exact ih hk

theorem epilogue_kept (p : Nat) (c : Cmd) (w : Work) (hk : Kept fc fg z s) : KeptE fc fg z Epi.s (s.epilogue p c w) := by
  unfold State.epilogue
  dsimp only
  split
  · split
    · exact .err hk
    · exact sendAll_kept _ _ _ _ hk
  · split
    · rename_i x; exact .err (KeptE.get_err (g := Epi.s) x (Epi_rows_kept _ _ _ _ hk))
    · rename_i x
      have h1 := KeptE.get (g := Epi.s) x (Epi_rows_kept _ _ _ _ hk)
      split
      · rename_i y; exact .err (KeptE.get_err (g := Epi.s) y (Epi_reductions_kept _ _ _ _ h1))
      · rename_i y; exact sendAll_kept _ _ _ _ (KeptE.get (g := Epi.s) y (Epi_reductions_kept _ _ _ _ h1))

theorem execTileEpilogue_kept (p : Nat) (ecc : List Ecc) (parityBad : Bool) (hk : Kept fc fg z s) :
    KeptO fc fg z (execTileEpilogue p ecc parityBad s) := by
  unfold execTileEpilogue
  repeat' first
    | with_reducible assumption
    | with_reducible apply turn_kept
    | with_reducible apply setHold_kept
    | with_reducible apply stall_kept
    | with_reducible apply parityFails_kept
    | with_reducible apply crestReads_kept
    | with_reducible apply epilogue_kept
    | with_reducible apply abort_kept
    | with_reducible apply tileDone_kept
    | with_reducible refine KeptE.get_err (g := Epi.s) (by with_reducible assumption) ?_
    | with_reducible refine KeptE.get (g := Epi.s) (by with_reducible assumption) ?_
    | with_reducible refine KeptO.next ?_
    | with_reducible refine kept_ite ?_ ?_
    | split
    | (with_reducible refine kept_upd ?_ ⟨rfl, rfl, rfl⟩ ⟨rfl, rfl, rfl, rfl⟩; first
        | with_reducible assumption
        | with_reducible apply turn_kept
        | with_reducible apply setHold_kept
        | with_reducible apply stall_kept
        | with_reducible apply parityFails_kept
        | with_reducible apply crestReads_kept
        | with_reducible apply epilogue_kept
        | with_reducible apply abort_kept
        | with_reducible apply tileDone_kept
        | with_reducible refine KeptO.next ?_
        | with_reducible refine kept_ite ?_ ?_
        | split)
    | dsimp only

theorem moveWrite_kept (c : Cmd) (p a : Nat) (bs : List Byte) (hk : Kept fc fg z s) :
    KeptE fc fg z (fun s => s) (State.moveWrite s c p a bs) := by
  unfold State.moveWrite
  repeat' first
    | with_reducible apply write_kept
    | with_reducible refine KeptE.ok ?_
    | with_reducible refine KeptE.err ?_
    | split
    | (with_reducible refine kept_upd ?_ ⟨rfl, rfl, rfl⟩ ⟨rfl, rfl, rfl, rfl⟩; with_reducible assumption)
    | dsimp only

theorem moveRow_kept (c : Cmd) (p r : Nat) (hk : Kept fc fg z s) :
    KeptE fc fg z (fun s => s) (State.moveRow s c p r) := by
  unfold State.moveRow
  repeat' first
    | with_reducible apply reads_kept
    | with_reducible apply moveWrite_kept
    | with_reducible refine KeptE.err ?_
    | split
    | (with_reducible refine kept_upd ?_ ⟨rfl, rfl, rfl⟩ ⟨rfl, rfl, rfl, rfl⟩; with_reducible assumption)
    | dsimp only

theorem moveRows_kept (c : Cmd) (p : Nat) (rs : List Nat) (hk : Kept fc fg z s) :
    KeptE fc fg z (fun s => s) (moveRows c p rs s) := by
  induction rs generalizing s with
  | nil => exact .ok hk
  | cons r rs ih =>
    unfold moveRows
    split
    · rename_i e; exact .err (KeptE.get_err e (moveRow_kept c p r hk))
    · rename_i e; exact ih (KeptE.get_state e (moveRow_kept c p r hk))

theorem moveBlock_kept (c : Cmd) (p u : Nat) (hk : Kept fc fg z s) :
    KeptE fc fg z (fun s => s) (State.moveBlock s c p u) := by
  unfold State.moveBlock
  repeat' first
    | with_reducible apply reads_kept
    | with_reducible apply moveWrite_kept
    | with_reducible refine KeptE.err ?_
    | with_reducible refine KeptE.foldlM (fun _ _ _ => ?_) ?_
    | split
    | (with_reducible refine kept_upd ?_ ⟨rfl, rfl, rfl⟩ ⟨rfl, rfl, rfl, rfl⟩; with_reducible assumption)
    | dsimp only

theorem moveUnit_kept (c : Cmd) (p u : Nat) (hk : Kept fc fg z s) :
    KeptE fc fg z Prod.fst (State.moveUnit s c p u) := by
  unfold State.moveUnit
  repeat' first
    | with_reducible assumption
    | with_reducible apply bump_kept
    | with_reducible apply moveRows_kept
    | with_reducible apply moveBlock_kept
    | with_reducible refine KeptE.map (g := fun s => s) ?_ (fun _ _ => ?_)
    | split

theorem convertRow_kept (c : Cmd) (p u gen r : Nat) (hk : Kept fc fg z s) :
    KeptE fc fg z Prod.fst (State.convertRow s c p u gen r) := by
  unfold State.convertRow
  repeat' first
    | with_reducible apply modCmd_kept
    | with_reducible apply reads_kept
    | with_reducible apply writeRow_kept
    | with_reducible refine KeptF.get (by with_reducible assumption) ?_
    | with_reducible refine KeptE.ok ?_
    | with_reducible refine KeptE.err ?_
    | with_reducible refine KeptE.foldlM (fun _ _ _ => ?_) ?_
    | split
    | (with_reducible refine kept_upd ?_ ⟨rfl, rfl, rfl⟩ ⟨rfl, rfl, rfl, rfl⟩; with_reducible assumption)
    | dsimp only

theorem convertRows_kept (c : Cmd) (p u : Nat) (rs : List Nat) {x : State × Nat} (hk : Kept fc fg z x.1) :
    KeptE fc fg z Prod.fst (convertRows c p u rs x) := by
  induction rs generalizing x with
  | nil => exact .ok hk
  | cons r rs ih =>
    unfold convertRows
    split
    · rename_i e; exact .err (KeptE.get_err e (convertRow_kept c p u _ r hk))
    · rename_i e; exact ih (KeptE.get_pair e (convertRow_kept c p u _ r hk))

theorem convertUnit_kept (c : Cmd) (p u : Nat) (hk : Kept fc fg z s) :
    KeptE fc fg z Prod.fst (State.convertUnit s c p u) :=
  .map (g := Prod.fst) (convertRows_kept c p u _ hk) fun _ h => bump_kept h

theorem sendUnit_kept (c : Cmd) (p u : Nat) (hk : Kept fc fg z s) :
    KeptE fc fg z Prod.fst (State.sendUnit s c p u) := by
  unfold State.sendUnit
  repeat' first
    | with_reducible apply bump_kept
    | with_reducible apply reads_kept
    | with_reducible apply openStream_kept
    | with_reducible apply sendStore_kept
    | with_reducible refine kept_pair (by with_reducible assumption) ?_
    | with_reducible refine KeptE.ok ?_
    | with_reducible refine KeptE.err ?_
    | split
    | (with_reducible refine kept_upd ?_ ⟨rfl, rfl, rfl⟩ ⟨rfl, rfl, rfl, rfl⟩; with_reducible assumption)
    | dsimp only

theorem runUnit_kept (p : Nat) (hk : Kept fc fg z s) :
    Kept fc fg z (State.runUnit s p) := by
  unfold State.runUnit
  repeat' first
    | with_reducible assumption
    | with_reducible apply turn_kept
    | with_reducible apply setHold_kept
    | with_reducible apply stall_kept
    | with_reducible apply moveUnit_kept
    | with_reducible apply convertUnit_kept
    | with_reducible apply sendUnit_kept
    | with_reducible apply abort_kept
    | with_reducible apply busyOn_kept
    | with_reducible apply tileDone_kept
    | with_reducible refine KeptE.get_err (g := Prod.fst) (by with_reducible assumption) ?_
    | with_reducible refine KeptE.get_pair (by with_reducible assumption) ?_
    | with_reducible refine kept_ite ?_ ?_
    | split
    | (with_reducible refine kept_upd ?_ ⟨rfl, rfl, rfl⟩ ⟨rfl, rfl, rfl, rfl⟩; first
        | with_reducible assumption
        | with_reducible apply turn_kept
        | with_reducible apply setHold_kept
        | with_reducible apply stall_kept
        | with_reducible apply moveUnit_kept
        | with_reducible apply convertUnit_kept
        | with_reducible apply sendUnit_kept
        | with_reducible apply abort_kept
        | with_reducible apply busyOn_kept
        | with_reducible apply tileDone_kept
        | with_reducible refine kept_ite ?_ ?_
        | split)
    | dsimp only

theorem crestAwake_kept (p : Nat) (waited : Option Nat) (hk : Kept fc fg z s) :
    Kept fc fg z (State.crestAwake s p waited) := by
  unfold State.crestAwake
  repeat' first
    | with_reducible assumption
    | with_reducible apply modCmd_kept
    | with_reducible apply crestOn_kept
    | with_reducible apply kick_kept
    | with_reducible refine kept_foldl (fun _ _ _ => ?_) ?_
    | with_reducible refine kept_ite ?_ ?_

theorem loadsDone_kept (hk : Kept fc fg z s) :
    Kept fc fg z (State.loadsDone s) := by
  unfold State.loadsDone
  repeat' first
    | with_reducible assumption
    | with_reducible apply endCmd_kept
    | with_reducible refine kept_foldl (fun _ _ _ => ?_) ?_

theorem loadDone_kept (p h : Nat) (hk : Kept fc fg z s) :
    Kept fc fg z (State.loadDone s p h) := by
  unfold State.loadDone
  repeat' first
    | with_reducible assumption
    | with_reducible apply modCrest_kept
    | with_reducible apply loadsDone_kept
    | with_reducible apply requeue_kept
    | with_reducible apply kick_kept
    | with_reducible refine kept_ite ?_ ?_
    | split
    | (with_reducible refine kept_upd ?_ ⟨rfl, rfl, rfl⟩ ⟨rfl, rfl, rfl, rfl⟩; first
        | with_reducible assumption
        | with_reducible apply modCrest_kept
        | with_reducible apply loadsDone_kept
        | with_reducible apply requeue_kept
        | with_reducible apply kick_kept
        | with_reducible refine kept_ite ?_ ?_
        | split)
    | dsimp only

theorem loadThrough_kept (p h : Nat) (hk : Kept fc fg z s) :
    Kept fc fg z (State.loadThrough s p h) := by
  unfold State.loadThrough
  repeat' first
    | with_reducible assumption
    | with_reducible apply modCmd_kept
    | with_reducible apply loadDone_kept
    | with_reducible refine kept_foldl (fun _ _ _ => ?_) ?_
    | with_reducible refine kept_foldl_fst (fun _ _ _ => ?_) ?_
    | with_reducible refine kept_ite ?_ ?_
    | split
    | (with_reducible refine kept_upd ?_ ⟨rfl, rfl, rfl⟩ ⟨rfl, rfl, rfl, rfl⟩; with_reducible assumption)
    | dsimp only

theorem reloadOne_kept (p h : Nat) (hk : Kept fc fg z s) :
    Kept fc fg z (State.reloadOne s p h) := by
  unfold State.reloadOne
  repeat' first
    | with_reducible apply modCrest_kept
    | with_reducible apply addLog_kept
    | with_reducible apply touch_kept
    | with_reducible apply abort_kept
    | with_reducible refine kept_foldl (fun _ _ _ => ?_) ?_
    | split
    | (with_reducible refine kept_upd ?_ ⟨rfl, rfl, rfl⟩ ⟨rfl, rfl, rfl, rfl⟩; with_reducible assumption)
    | dsimp only

theorem reload_kept (p waited : Nat) (hk : Kept fc fg z s) :
    Kept fc fg z (State.reload s p waited) := by
  unfold State.reload
  repeat' first
    | with_reducible assumption
    | with_reducible apply modCmd_kept
    | with_reducible apply kick_kept
    | with_reducible apply loadsDone_kept
    | with_reducible apply reloadOne_kept
    | with_reducible refine kept_foldl (fun _ _ _ => ?_) ?_
    | with_reducible refine kept_ite ?_ ?_

theorem sendFlagFlit_kept (dst sid addr value channel : Nat) (noWrite chan abort : Bool) (hk : Kept fc fg z s) :
    Kept fc fg z (State.sendFlagFlit s dst sid addr value channel noWrite chan abort) := by
  unfold State.sendFlagFlit
  repeat' first
    | with_reducible apply enqueue_kept
    | (with_reducible refine kept_upd ?_ ⟨rfl, rfl, rfl⟩ ⟨rfl, rfl, rfl, rfl⟩; with_reducible assumption)

theorem openEmpty_kept (q t stage : Nat) (hk : Kept fc fg z s) :
    Kept fc fg z (State.openEmpty s q t stage) := by
  unfold State.openEmpty
  repeat' first
    | with_reducible assumption
    | with_reducible apply Epi_stage_kept
    | with_reducible apply openStream_kept
    | with_reducible refine kept_ite ?_ ?_
    | split
    | (with_reducible refine kept_upd ?_ ⟨rfl, rfl, rfl⟩ ⟨rfl, rfl, rfl, rfl⟩; with_reducible assumption)
    | dsimp only

theorem abortStreams_kept (c : Cmd) (hk : Kept fc fg z s) :
    Kept fc fg z (State.abortStreams s c) := by
  unfold State.abortStreams
  repeat' first
    | with_reducible assumption
    | with_reducible apply answer_kept
    | with_reducible apply modCmd_kept
    | with_reducible apply Epi_stage_kept
    | with_reducible apply sendFlagFlit_kept
    | with_reducible refine kept_foldl (fun _ _ _ => ?_) ?_
    | with_reducible refine kept_foldl_fst (fun _ _ _ => ?_) ?_
    | with_reducible refine kept_ite ?_ ?_
    | split
    | (with_reducible refine kept_upd ?_ ⟨rfl, rfl, rfl⟩ ⟨rfl, rfl, rfl, rfl⟩; with_reducible assumption)
    | dsimp only

theorem addTile_kept (p : Nat) (c : Cmd) (k rank n : Nat) (hk : Kept fc fg z s) :
    Kept fc fg z (State.addTile s p c k rank n) := by
  unfold State.addTile
  repeat' first
    | with_reducible assumption
    | with_reducible apply bump_kept
    | with_reducible apply modCrest_kept
    | with_reducible apply busyOn_kept
    | with_reducible apply modCmd_kept
    | with_reducible refine kept_foldl (fun _ _ _ => ?_) ?_
    | with_reducible refine kept_foldl_fst (fun _ _ _ => ?_) ?_
    | with_reducible refine kept_ite ?_ ?_
    | split
    | (with_reducible refine kept_upd ?_ ⟨rfl, rfl, rfl⟩ ⟨rfl, rfl, rfl, rfl⟩; with_reducible assumption)
    | dsimp only

theorem recvWaits_kept (q t p : Nat) (hk : Kept fc fg z s) :
    Kept fc fg z (State.recvWaits s q t p) := by
  unfold State.recvWaits
  repeat' first
    | with_reducible assumption
    | with_reducible apply setHold_kept
    | split
    | (with_reducible refine kept_upd ?_ ⟨rfl, rfl, rfl⟩ ⟨rfl, rfl, rfl, rfl⟩; with_reducible assumption)
    | dsimp only

theorem recvAll_kept (hk : Kept fc fg z s) :
    Kept fc fg z (State.recvAll s) := by
  unfold State.recvAll
  repeat' first
    | with_reducible assumption
    | with_reducible apply recvWaits_kept
    | with_reducible refine kept_foldl (fun _ _ _ => ?_) ?_
    | with_reducible refine kept_foldl_fst (fun _ _ _ => ?_) ?_
    | split
    | (with_reducible refine kept_upd ?_ ⟨rfl, rfl, rfl⟩ ⟨rfl, rfl, rfl, rfl⟩; with_reducible assumption)
    | dsimp only

theorem recvWhole_kept (p q t k : Nat) (hk : Kept fc fg z s) :
    Kept fc fg z (State.recvWhole s p q t k) := by
  unfold State.recvWhole
  repeat' first
    | with_reducible assumption
    | with_reducible apply modCmd_kept
    | with_reducible apply modCrest_kept
    | with_reducible refine kept_ite ?_ ?_
    | split
    | (with_reducible refine kept_upd ?_ ⟨rfl, rfl, rfl⟩ ⟨rfl, rfl, rfl, rfl⟩; first
        | with_reducible assumption
        | with_reducible apply modCmd_kept
        | with_reducible apply modCrest_kept
        | with_reducible refine kept_ite ?_ ?_
        | split)
    | dsimp only

theorem vecAt_kept (op p : Nat) (i : VInst) (hk : Kept fc fg z s) :
    KeptO fc fg z (vecAt op p i s) := by
  unfold vecAt
  repeat' first
    | with_reducible apply execVNop_kept
    | with_reducible apply execVEnd_kept
    | with_reducible apply execVBr_kept
    | with_reducible apply execVLoop_kept
    | with_reducible apply execVSalu_kept
    | with_reducible apply execVVget_kept
    | with_reducible apply execVBcast_kept
    | with_reducible apply execVLaneid_kept
    | with_reducible apply execVFadd_kept
    | with_reducible apply execVFsub_kept
    | with_reducible apply execVFmul_kept
    | with_reducible apply execVFma_kept
    | with_reducible apply execVFmax_kept
    | with_reducible apply execVFmin_kept
    | with_reducible apply execVFun_kept
    | with_reducible apply execVFcmp_kept
    | with_reducible apply execVIalu_kept
    | with_reducible apply execVIcmp_kept
    | with_reducible apply execVSel_kept
    | with_reducible apply execVCvt_kept
    | with_reducible apply execVCvtf_kept
    | with_reducible apply execVLda_kept
    | with_reducible apply execVSta_kept
    | with_reducible apply execVLds_kept
    | with_reducible apply execVStc_kept
    | with_reducible apply execVStp_kept
    | with_reducible apply execVRed_kept
    | with_reducible apply execVFn_kept
    | with_reducible refine KeptO.next ?_
    | split
    | (with_reducible refine kept_upd ?_ ⟨rfl, rfl, rfl⟩ ⟨rfl, rfl, rfl, rfl⟩; with_reducible assumption)

theorem orStay_kept {o : Host.Outcome State Fault Refusal} (hk : Kept fc fg z s) (ho : KeptO fc fg z o) :
    Kept fc fg z (orStay s o) := by
  unfold orStay
  split
  · exact ho _ rfl
  · exact hk

theorem crestReady_kept (p : Nat) (hk : Kept fc fg z s) :
    Kept fc fg z (State.crestReady s p) := by
  unfold State.crestReady
  repeat' first
    | with_reducible assumption
    | with_reducible apply recall_kept
    | with_reducible apply crestAwake_kept
    | with_reducible apply reload_kept
    | with_reducible apply loadThrough_kept
    | with_reducible apply unblock_kept
    | with_reducible apply turn_kept
    | with_reducible refine kept_foldl (fun _ _ _ => ?_) ?_
    | with_reducible refine kept_foldl_fst (fun _ _ _ => ?_) ?_
    | with_reducible refine kept_ite ?_ ?_
    | split
    | (with_reducible refine kept_upd ?_ ⟨rfl, rfl, rfl⟩ ⟨rfl, rfl, rfl, rfl⟩; first
        | with_reducible assumption
        | with_reducible apply recall_kept
        | with_reducible apply crestAwake_kept
        | with_reducible apply reload_kept
        | with_reducible apply loadThrough_kept
        | with_reducible apply unblock_kept
        | with_reducible apply turn_kept
        | with_reducible refine kept_foldl (fun _ _ _ => ?_) ?_
        | with_reducible refine kept_foldl_fst (fun _ _ _ => ?_) ?_
        | with_reducible refine kept_ite ?_ ?_
        | split)
    | dsimp only

theorem crestTick_kept (p : Nat) (hk : Kept fc fg z s) :
    Kept fc fg z (State.crestTick s p) := by
  unfold State.crestTick
  repeat' first
    | with_reducible assumption
    | with_reducible apply crestReady_kept
    | with_reducible apply slicesAwake_kept
    | with_reducible apply orStay_kept
    | with_reducible apply vecAt_kept
    | with_reducible apply runUnit_kept
    | with_reducible apply execTileEpilogue_kept
    | with_reducible apply execInvocationStart_kept
    | with_reducible apply fillBank_kept
    | with_reducible apply execRowPass_kept
    | with_reducible refine kept_ite ?_ ?_
    | split
    | (with_reducible refine kept_upd ?_ ⟨rfl, rfl, rfl⟩ ⟨rfl, rfl, rfl, rfl⟩; with_reducible assumption)
    | dsimp only

theorem anyTick_kept (ks : List (Nat × Nat)) (hk : Kept fc fg z s) (e : s.anyTick ks = some t) : Kept fc fg z t := by
  unfold State.anyTick at e
  obtain ⟨p, _, hp⟩ := List.exists_of_findSome?_eq_some e
  have hc : Kept fc fg z (s.crestTick p) := crestTick_kept p hk
  dsimp only at hp
  generalize s.crestTick p = u at hp hc
  split at hp
  · split at hp
    · cases hp
    · cases hp; exact hc
  · cases hp

theorem drive_kept (q op n : Nat) (hk : Kept fc fg z s) : Kept fc fg z (State.drive q op n s) := by
  induction n generalizing s with
  | zero => exact hk
  | succ n ih =>
    unfold State.drive
    dsimp only
    split
    · exact hk
    · split
      · rename_i e; exact ih (anyTick_kept _ (adoptAll_kept hk) e)
      · exact adoptAll_kept hk

theorem driveLoads_kept (q : Nat) (hk : Kept fc fg z s) :
    Kept fc fg z (State.driveLoads s q) := by
  unfold State.driveLoads
  repeat' first
    | with_reducible assumption
    | with_reducible apply crestAwake_kept
    | with_reducible apply loadThrough_kept
    | with_reducible refine kept_foldl (fun _ _ _ => ?_) ?_
    | with_reducible refine kept_foldl_fst (fun _ _ _ => ?_) ?_
    | (with_reducible refine kept_upd ?_ ⟨rfl, rfl, rfl⟩ ⟨rfl, rfl, rfl, rfl⟩; first
        | with_reducible assumption
        | with_reducible apply crestAwake_kept
        | with_reducible apply loadThrough_kept
        | with_reducible refine kept_foldl (fun _ _ _ => ?_) ?_
        | with_reducible refine kept_foldl_fst (fun _ _ _ => ?_) ?_)
    | dsimp only

theorem command_kept (q op : Nat) (h : HostUpd) (hk : Kept fc fg z s) :
    Kept fc fg z (State.command s q op h) := by
  unfold State.command
  repeat' first
    | with_reducible assumption
    | with_reducible apply hostWrites_kept
    | with_reducible apply fetch_kept
    | with_reducible apply retrySignals_kept
    | with_reducible apply driveLoads_kept
    | with_reducible apply drive_kept
    | with_reducible refine kept_ite ?_ ?_
    | split
    | (with_reducible refine kept_upd ?_ ⟨rfl, rfl, rfl⟩ ⟨rfl, rfl, rfl, rfl⟩; first
        | with_reducible assumption
        | with_reducible apply hostWrites_kept
        | with_reducible apply fetch_kept
        | with_reducible apply retrySignals_kept
        | with_reducible apply driveLoads_kept
        | with_reducible apply drive_kept
        | with_reducible refine kept_ite ?_ ?_
        | split)
    | dsimp only

theorem record_kept (c : Cmd) (st sub waited : Nat) (hk : Kept fc fg z s) :
    Kept fc fg z (State.record s c st sub waited) := by
  unfold State.record
  repeat' first
    | with_reducible assumption
    | with_reducible apply abortStreams_kept
    | with_reducible apply release_kept
    | with_reducible apply putRecord_kept
    | with_reducible apply modQueue_kept
    | with_reducible apply addTrace_kept
    | with_reducible apply leaveQueue_kept
    | with_reducible refine kept_ite ?_ ?_
    | split
    | (with_reducible refine kept_upd ?_ ⟨rfl, rfl, rfl⟩ ⟨rfl, rfl, rfl, rfl⟩; first
        | with_reducible assumption
        | with_reducible apply abortStreams_kept
        | with_reducible apply release_kept
        | with_reducible apply putRecord_kept
        | with_reducible apply modQueue_kept
        | with_reducible apply addTrace_kept
        | with_reducible apply leaveQueue_kept
        | with_reducible refine kept_ite ?_ ?_
        | split)
    | dsimp only

theorem execCompletionRecord_kept (q t waited : Nat) (hk : Kept fc fg z s) :
    KeptO fc fg z (execCompletionRecord q t waited s) := by
  unfold execCompletionRecord
  repeat' first
    | with_reducible assumption
    | with_reducible apply record_kept
    | with_reducible apply putOverflow_kept
    | with_reducible apply startWaiting_kept
    | with_reducible apply adoptAll_kept
    | with_reducible refine KeptO.next ?_
    | with_reducible refine kept_ite ?_ ?_
    | split
    | (with_reducible refine kept_upd ?_ ⟨rfl, rfl, rfl⟩ ⟨rfl, rfl, rfl, rfl⟩; first
        | with_reducible assumption
        | with_reducible apply record_kept
        | with_reducible apply putOverflow_kept
        | with_reducible apply startWaiting_kept
        | with_reducible apply adoptAll_kept
        | with_reducible refine KeptO.next ?_
        | with_reducible refine kept_ite ?_ ?_
        | split)
    | dsimp only

theorem holdHost_kept (x : HostAcc) (hk : Kept fc fg z s) :
    Kept fc fg z (State.holdHost s x) := by
  unfold State.holdHost
  repeat' first
    | with_reducible assumption
    | (with_reducible refine kept_upd ?_ ⟨rfl, rfl, rfl⟩ ⟨rfl, rfl, rfl, rfl⟩; with_reducible assumption)
    | dsimp only

theorem hostDrop_kept (a detail : Nat) (hk : Kept fc fg z s) :
    Kept fc fg z (State.hostDrop s a detail) := by
  unfold State.hostDrop
  repeat' first
    | with_reducible assumption
    | with_reducible apply addLog_kept

theorem hostRead_kept (addr : Nat) (ecc : Option EccKind) (word : Nat) (hk : Kept fc fg z s) :
    Kept fc fg z (State.hostRead s addr ecc word) := by
  unfold State.hostRead
  repeat' first
    | with_reducible assumption
    | with_reducible apply hostDrop_kept
    | with_reducible apply emit_kept
    | with_reducible apply bump_kept
    | with_reducible apply reachSlice_kept
    | with_reducible apply storeError_kept
    | with_reducible refine kept_ite ?_ ?_
    | split
    | (with_reducible refine kept_upd ?_ ⟨rfl, rfl, rfl⟩ ⟨rfl, rfl, rfl, rfl⟩; first
        | with_reducible assumption
        | with_reducible apply hostDrop_kept
        | with_reducible apply emit_kept
        | with_reducible apply bump_kept
        | with_reducible apply reachSlice_kept
        | with_reducible apply storeError_kept
        | with_reducible refine kept_ite ?_ ?_
        | split)
    | dsimp only

theorem giveUp_kept (l : Nat) (hk : Kept fc fg z s) :
    Kept fc fg z (State.giveUp s l) := by
  unfold State.giveUp
  repeat' (with_reducible refine kept_upd ?_ ⟨rfl, rfl, rfl⟩ ⟨rfl, rfl, rfl, rfl⟩; first
        | with_reducible assumption | with_reducible apply backLine_kept | with_reducible refine kept_ite ?_ ?_)

theorem hostLine_kept (l : Nat) (m : List (Nat × Byte)) (poison : Bool) (hk : Kept fc fg z s) :
    Kept fc fg z (State.hostLine s l m poison) := by
  unfold State.hostLine
  repeat' first
    | with_reducible assumption
    | with_reducible apply backLine_kept
    | with_reducible apply settle_kept
    | with_reducible apply pendLine_kept
    | with_reducible apply giveUp_kept

theorem hostWrite_kept (addr : Nat) (bytes : List (Option Byte)) (poison : Bool) (hk : Kept fc fg z s) :
    Kept fc fg z (State.hostWrite s addr bytes poison) := by
  unfold State.hostWrite
  repeat' first
    | with_reducible assumption
    | with_reducible apply hostDrop_kept
    | with_reducible apply reachSlice_kept
    | with_reducible apply hostLine_kept
    | with_reducible refine kept_ite ?_ ?_
    | split
    | (with_reducible refine kept_upd ?_ ⟨rfl, rfl, rfl⟩ ⟨rfl, rfl, rfl, rfl⟩; first
        | with_reducible assumption
        | with_reducible apply hostDrop_kept
        | with_reducible apply reachSlice_kept
        | with_reducible apply hostLine_kept
        | with_reducible refine kept_ite ?_ ?_
        | split)
    | dsimp only

theorem serveHeld_kept (hk : Kept fc fg z s) :
    Kept fc fg z (State.serveHeld s) := by
  unfold State.serveHeld
  repeat' first
    | with_reducible assumption
    | with_reducible apply holdHost_kept
    | with_reducible apply hostRead_kept
    | with_reducible apply write_kept
    | with_reducible apply hostWrite_kept
    | with_reducible refine kept_foldl (fun _ _ _ => ?_) ?_
    | with_reducible refine kept_foldl_fst (fun _ _ _ => ?_) ?_
    | with_reducible refine kept_ite ?_ ?_
    | split
    | (with_reducible refine kept_upd ?_ ⟨rfl, rfl, rfl⟩ ⟨rfl, rfl, rfl, rfl⟩; with_reducible assumption)
    | dsimp only

theorem resumeHeld_kept (w : WaitFor) (waited : Nat) (hk : Kept fc fg z s) :
    Kept fc fg z (State.resumeHeld s w waited) := by
  unfold State.resumeHeld
  repeat' first
    | with_reducible assumption
    | with_reducible apply unstall_kept
    | with_reducible apply serveHeld_kept
    | with_reducible apply retrySignals_kept
    | (with_reducible refine kept_upd ?_ ⟨rfl, rfl, rfl⟩ ⟨rfl, rfl, rfl, rfl⟩; with_reducible assumption)
    | dsimp only

theorem snoopEvict_kept (e : Evict) (hk : Kept fc fg z s) :
    Kept fc fg z (State.snoopEvict s e) := by
  unfold State.snoopEvict
  repeat' (with_reducible refine kept_upd ?_ ⟨rfl, rfl, rfl⟩ ⟨rfl, rfl, rfl, rfl⟩; first
        | with_reducible assumption | with_reducible apply emit_kept | with_reducible apply backLine_kept
        | with_reducible apply snoop_kept | with_reducible refine kept_ite ?_ ?_)

theorem snoop_kept (l : Nat) (m e sh : String × Mesi) (keepM : Bool) (hk : Kept fc fg z s) :
    Kept fc fg z (State.snoop s l m e sh keepM) := by
  unfold State.snoop
  repeat' (with_reducible refine kept_upd ?_ ⟨rfl, rfl, rfl⟩ ⟨rfl, rfl, rfl, rfl⟩; first
        | with_reducible assumption | with_reducible apply emit_kept | with_reducible apply backLine_kept
        | with_reducible apply snoopEvict_kept | with_reducible refine kept_ite ?_ ?_ | split)

theorem biasStart_kept (toHost : Bool) (hk : Kept fc fg z s) :
    Kept fc fg z (State.biasStart s toHost) := by
  unfold State.biasStart
  repeat' first
    | with_reducible refine kept_ite ?_ ?_
    | split
    | (with_reducible refine kept_upd ?_ ⟨rfl, rfl, rfl⟩ ⟨rfl, rfl, rfl, rfl⟩; with_reducible assumption)

theorem lineToDevice_kept (r : Returned) (l : Nat) (hk : Kept fc fg z s) : Kept fc fg z (s.lineToDevice r l) := by
  unfold State.lineToDevice
  extract_lets s1
  have h1 : Kept fc fg z s1 := giveUp_kept _ (settle_kept _ (emit_kept _ hk))
  clear_value s1
  split
  · exact h1.trans ⟨rfl, fun m => ⟨m.1, m.2.1, m.2.2.1, twf_tset false s1.hostPoison (2 ^ 47 + l) false m.2.2.2⟩, fun _ => ⟨rfl, rfl, rfl⟩, fun _ => ⟨rfl, rfl, rfl, rfl⟩⟩
  · exact backLine_kept _ _ _ (pendLine_kept _ _ _ h1)

theorem pageToDevice_kept (g : Nat) (r : Returned) (hk : Kept fc fg z s) :
    Kept fc fg z (State.pageToDevice s g r) := by
  unfold State.pageToDevice
  repeat' first
    | with_reducible assumption
    | with_reducible apply lineToDevice_kept
    | with_reducible refine kept_foldl (fun _ _ _ => ?_) ?_
    | with_reducible refine kept_foldl_fst (fun _ _ _ => ?_) ?_
    | (with_reducible refine kept_upd ?_ ⟨rfl, rfl, rfl⟩ ⟨rfl, rfl, rfl, rfl⟩; first
        | with_reducible assumption
        | with_reducible apply lineToDevice_kept
        | with_reducible refine kept_foldl (fun _ _ _ => ?_) ?_
        | with_reducible refine kept_foldl_fst (fun _ _ _ => ?_) ?_)
    | dsimp only

theorem pageToHost_kept (g : Nat) (hk : Kept fc fg z s) :
    Kept fc fg z (State.pageToHost s g) := by
  unfold State.pageToHost
  repeat' first
    | with_reducible assumption
    | with_reducible apply perform_kept
    | (with_reducible refine kept_upd ?_ ⟨rfl, rfl, rfl⟩ ⟨rfl, rfl, rfl, rfl⟩; first
        | with_reducible assumption
        | with_reducible apply perform_kept)
    | dsimp only

theorem hostEvent_kept (m detail : Nat) (hk : Kept fc fg z s) :
    Kept fc fg z (State.hostEvent s m detail) := by
  unfold State.hostEvent
  repeat' first
    | with_reducible assumption
    | with_reducible apply addLog_kept
    | with_reducible apply countErr_kept
    | with_reducible apply retireModule_kept
    | with_reducible refine kept_ite ?_ ?_

theorem joinRetrain_kept (m : Nat) (hk : Kept fc fg z s) :
    Kept fc fg z (State.joinRetrain s m) := by
  unfold State.joinRetrain
  repeat' first
    | with_reducible assumption
    | with_reducible apply modHmod_kept
    | with_reducible apply liveChange_kept
    | with_reducible refine kept_foldl (fun _ _ _ => ?_) ?_
    | with_reducible refine kept_foldl_fst (fun _ _ _ => ?_) ?_
    | with_reducible refine kept_ite ?_ ?_
    | split
    | (with_reducible refine kept_upd ?_ ⟨rfl, rfl, rfl⟩ ⟨rfl, rfl, rfl, rfl⟩; first
        | with_reducible assumption
        | with_reducible apply modHmod_kept
        | with_reducible apply liveChange_kept
        | with_reducible refine kept_foldl (fun _ _ _ => ?_) ?_
        | with_reducible refine kept_foldl_fst (fun _ _ _ => ?_) ?_
        | with_reducible refine kept_ite ?_ ?_
        | split)
    | dsimp only

theorem hostRetrainOne_kept (m : Nat) (hk : Kept fc fg z s) :
    Kept fc fg z (State.hostRetrainOne s m) := by
  unfold State.hostRetrainOne
  repeat' first
    | with_reducible assumption
    | with_reducible apply addLog_kept
    | with_reducible apply modHmod_kept
    | with_reducible apply joinRetrain_kept
    | with_reducible apply hostEvent_kept
    | with_reducible refine kept_ite ?_ ?_
    | split
    | (with_reducible refine kept_upd ?_ ⟨rfl, rfl, rfl⟩ ⟨rfl, rfl, rfl, rfl⟩; with_reducible assumption)
    | dsimp only

theorem hostUp_kept (waited : Nat) (hk : Kept fc fg z s) :
    Kept fc fg z (State.hostUp s waited) := by
  unfold State.hostUp
  repeat' first
    | with_reducible assumption
    | with_reducible apply resumeHeld_kept
    | with_reducible apply linkDone_kept
    | with_reducible refine kept_ite ?_ ?_
    | split
    | (with_reducible refine kept_upd ?_ ⟨rfl, rfl, rfl⟩ ⟨rfl, rfl, rfl, rfl⟩; with_reducible assumption)
    | dsimp only

theorem idleFlit_kept (k : Nat) (hk : Kept fc fg z s) :
    Kept fc fg z (State.idleFlit s k) := by
  unfold State.idleFlit
  repeat' first
    | with_reducible apply modPort_kept
    | with_reducible apply emit_kept
    | (with_reducible refine kept_upd ?_ ⟨rfl, rfl, rfl⟩ ⟨rfl, rfl, rfl, rfl⟩; with_reducible assumption)

theorem markVia_kept (f : Flit) (m : Nat) (hk : Kept fc fg z s) :
    Kept fc fg z (State.markVia s f m) := by
  unfold State.markVia
  repeat' first
    | with_reducible refine kept_ite ?_ ?_
    | split
    | (with_reducible refine kept_upd ?_ ⟨rfl, rfl, rfl⟩ ⟨rfl, rfl, rfl, rfl⟩; with_reducible assumption)

theorem dropRelayed_kept (hk : Kept fc fg z s) :
    Kept fc fg z (State.dropRelayed s) := by
  unfold State.dropRelayed
  repeat' first
    | with_reducible apply modPort_kept
    | with_reducible refine kept_foldl (fun _ _ _ => ?_) ?_
    | with_reducible refine kept_ite ?_ ?_
    | split
    | (with_reducible refine kept_upd ?_ ⟨rfl, rfl, rfl⟩ ⟨rfl, rfl, rfl, rfl⟩; with_reducible assumption)

theorem dropStreams_kept (c : Cmd) (hk : Kept fc fg z s) :
    Kept fc fg z (State.dropStreams s c) := by
  unfold State.dropStreams
  repeat' first
    | with_reducible assumption
    | with_reducible apply modCmd_kept
    | with_reducible apply answer_kept
    | with_reducible refine kept_ite ?_ ?_
    | split
    | (with_reducible refine kept_upd ?_ ⟨rfl, rfl, rfl⟩ ⟨rfl, rfl, rfl, rfl⟩; with_reducible assumption)
    | dsimp only

theorem routesChanged_kept (st sub : Nat) (hk : Kept fc fg z s) :
    Kept fc fg z (State.routesChanged s st sub) := by
  unfold State.routesChanged
  repeat' first
    | with_reducible assumption
    | with_reducible apply dropRelayed_kept
    | with_reducible apply abort_kept
    | with_reducible apply dropStreams_kept
    | with_reducible refine kept_foldl (fun _ _ _ => ?_) ?_
    | with_reducible refine kept_foldl_fst (fun _ _ _ => ?_) ?_
    | with_reducible refine kept_ite ?_ ?_
    | split
    | (with_reducible refine kept_upd ?_ ⟨rfl, rfl, rfl⟩ ⟨rfl, rfl, rfl, rfl⟩; first
        | with_reducible assumption
        | with_reducible apply dropRelayed_kept
        | with_reducible apply abort_kept
        | with_reducible apply dropStreams_kept
        | with_reducible refine kept_foldl (fun _ _ _ => ?_) ?_
        | with_reducible refine kept_foldl_fst (fun _ _ _ => ?_) ?_
        | with_reducible refine kept_ite ?_ ?_
        | split)
    | dsimp only

theorem reroute_kept (k : Nat) (hk : Kept fc fg z s) :
    Kept fc fg z (State.reroute s k) := by
  unfold State.reroute
  repeat' first
    | with_reducible assumption
    | with_reducible apply modPort_kept
    | with_reducible apply enqueue_kept
    | with_reducible refine kept_foldl (fun _ _ _ => ?_) ?_
    | with_reducible refine kept_foldl_fst (fun _ _ _ => ?_) ?_
    | split
    | (with_reducible refine kept_upd ?_ ⟨rfl, rfl, rfl⟩ ⟨rfl, rfl, rfl, rfl⟩; with_reducible assumption)
    | dsimp only

theorem loseLink_kept (k : Nat) (hk : Kept fc fg z s) :
    Kept fc fg z (State.loseLink s k) := by
  unfold State.loseLink
  repeat' first
    | with_reducible assumption
    | with_reducible apply modPort_kept
    | with_reducible apply reroute_kept
    | with_reducible apply putEgress_kept
    | split
    | (with_reducible refine kept_upd ?_ ⟨rfl, rfl, rfl⟩ ⟨rfl, rfl, rfl, rfl⟩; with_reducible assumption)
    | dsimp only

theorem linkLost_kept (k st sub : Nat) (hk : Kept fc fg z s) :
    Kept fc fg z (State.linkLost s k st sub) := by
  unfold State.linkLost
  repeat' first
    | with_reducible assumption
    | with_reducible apply loseLink_kept
    | with_reducible apply sendLinkmap_kept
    | with_reducible apply routesChanged_kept
    | (with_reducible refine kept_upd ?_ ⟨rfl, rfl, rfl⟩ ⟨rfl, rfl, rfl, rfl⟩; with_reducible assumption)
    | dsimp only

theorem peersFollow_kept (s old : State) (hk : Kept fc fg z s) :
    Kept fc fg z (State.peersFollow s old) := by
  unfold State.peersFollow
  repeat' first
    | with_reducible assumption
    | with_reducible apply loseLink_kept
    | with_reducible apply sendLinkmap_kept
    | with_reducible apply routesChanged_kept
    | with_reducible refine kept_foldl (fun _ _ _ => ?_) ?_
    | with_reducible refine kept_foldl_fst (fun _ _ _ => ?_) ?_
    | with_reducible refine kept_ite ?_ ?_
    | split
    | (with_reducible refine kept_upd ?_ ⟨rfl, rfl, rfl⟩ ⟨rfl, rfl, rfl, rfl⟩; with_reducible assumption)
    | dsimp only

theorem disablePort_kept (k cause : Nat) (hk : Kept fc fg z s) :
    Kept fc fg z (State.disablePort s k cause) := by
  unfold State.disablePort
  repeat' first
    | with_reducible apply modPort_kept
    | with_reducible apply addLog_kept
    | with_reducible apply linkLost_kept
    | (with_reducible refine kept_upd ?_ ⟨rfl, rfl, rfl⟩ ⟨rfl, rfl, rfl, rfl⟩; with_reducible assumption)

theorem peerEvent_kept (k detail : Nat) (hk : Kept fc fg z s) :
    Kept fc fg z (State.peerEvent s k detail) := by
  unfold State.peerEvent
  repeat' first
    | with_reducible assumption
    | with_reducible apply addLog_kept
    | with_reducible apply countErr_kept
    | with_reducible apply retirePort_kept
    | with_reducible apply peersFollow_kept
    | with_reducible refine kept_ite ?_ ?_

theorem peerRetrainOne_kept (k : Nat) (hk : Kept fc fg z s) :
    Kept fc fg z (State.peerRetrainOne s k) := by
  unfold State.peerRetrainOne
  repeat' first
    | with_reducible apply modPort_kept
    | with_reducible apply sendLinkmap_kept
    | with_reducible apply peerEvent_kept
    | with_reducible refine kept_ite ?_ ?_
    | split
    | (with_reducible refine kept_upd ?_ ⟨rfl, rfl, rfl⟩ ⟨rfl, rfl, rfl, rfl⟩; with_reducible assumption)

theorem replay_kept (k : Nat) (hk : Kept fc fg z s) :
    Kept fc fg z (State.replay s k) := by
  unfold State.replay
  repeat' first
    | with_reducible apply modPort_kept
    | with_reducible apply peerRetrainOne_kept
    | with_reducible refine kept_ite ?_ ?_
    | split
    | (with_reducible refine kept_upd ?_ ⟨rfl, rfl, rfl⟩ ⟨rfl, rfl, rfl, rfl⟩; with_reducible assumption)

theorem sendHello_kept (k : Nat) (hk : Kept fc fg z s) :
    Kept fc fg z (State.sendHello s k) := by
  unfold State.sendHello
  repeat' first
    | with_reducible apply putEgress_kept
    | (with_reducible refine kept_upd ?_ ⟨rfl, rfl, rfl⟩ ⟨rfl, rfl, rfl, rfl⟩; with_reducible assumption)

theorem takeAck_kept (k : Nat) (f : Flit) (hk : Kept fc fg z s) :
    Kept fc fg z (State.takeAck s k f) := by
  unfold State.takeAck
  repeat' first
    | with_reducible apply modPort_kept
    | with_reducible apply replay_kept
    | with_reducible refine kept_ite ?_ ?_
    | split
    | (with_reducible refine kept_upd ?_ ⟨rfl, rfl, rfl⟩ ⟨rfl, rfl, rfl, rfl⟩; with_reducible assumption)

theorem badFlit_kept (k : Nat) (hk : Kept fc fg z s) :
    Kept fc fg z (State.badFlit s k) := by
  unfold State.badFlit
  repeat' first
    | with_reducible apply modPort_kept
    | (with_reducible refine kept_upd ?_ ⟨rfl, rfl, rfl⟩ ⟨rfl, rfl, rfl, rfl⟩; with_reducible assumption)

theorem accept_kept (k : Nat) (f : Flit) (hk : Kept fc fg z s) :
    Kept fc fg z (State.accept s k f) := by
  unfold State.accept
  repeat' first
    | with_reducible apply modPort_kept
    | with_reducible apply takeAck_kept
    | (with_reducible refine kept_upd ?_ ⟨rfl, rfl, rfl⟩ ⟨rfl, rfl, rfl, rfl⟩; with_reducible assumption)

theorem receive_kept (k : Nat) (f : Flit) (any : Bool) {act : State → State} (g : ∀ s, Kept fc fg z s → Kept fc fg z (act s))
    (hk : Kept fc fg z s) : Kept fc fg z (s.receive k f any act) := by
  unfold State.receive
  dsimp only
  repeat' first
    | with_reducible assumption
    | with_reducible apply modPort_kept
    | with_reducible apply addLog_kept
    | with_reducible apply bump_kept
    | with_reducible apply badFlit_kept
    | with_reducible apply accept_kept
    | with_reducible apply g
    | split

theorem receiveType_kept (k : Nat) (f : Flit) (typ : Nat) {act : State → State}
    (g : ∀ s, Kept fc fg z s → Kept fc fg z (act s)) (hk : Kept fc fg z s) : KeptO fc fg z (s.receiveType k f typ act) := by
  unfold State.receiveType
  split
  · exact .next (receive_kept _ _ _ g hk)
  · exact .next hk

theorem receiveMsg_kept (k : Nat) (f : Flit) (msg : Nat) {act : State → State}
    (g : ∀ s, Kept fc fg z s → Kept fc fg z (act s)) (hk : Kept fc fg z s) : KeptO fc fg z (s.receiveMsg k f msg act) := by
  unfold State.receiveMsg
  split
  · exact .next (receive_kept _ _ _ g hk)
  · exact .next hk

theorem markRefused_kept (src sid : Nat) (hk : Kept fc fg z s) :
    Kept fc fg z (State.markRefused s src sid) := by
  unfold State.markRefused
  repeat' first
    | with_reducible refine kept_ite ?_ ?_
    | split
    | (with_reducible refine kept_upd ?_ ⟨rfl, rfl, rfl⟩ ⟨rfl, rfl, rfl, rfl⟩; with_reducible assumption)

theorem peerDrop_kept (k detail a : Nat) (hk : Kept fc fg z s) :
    Kept fc fg z (State.peerDrop s k detail a) := by
  unfold State.peerDrop
  repeat' first
    | with_reducible assumption
    | with_reducible apply addLog_kept

theorem peerWrite_kept (a : Nat) (bs : List Byte) (hk : Kept fc fg z s) :
    Kept fc fg z (State.peerWrite s a bs) := by
  unfold State.peerWrite
  repeat' first
    | with_reducible assumption
    | with_reducible apply wakeSlice_kept
    | with_reducible apply write_kept
    | (with_reducible refine kept_upd ?_ ⟨rfl, rfl, rfl⟩ ⟨rfl, rfl, rfl, rfl⟩; with_reducible assumption)
    | dsimp only

theorem dataStore_kept (k : Nat) (f : Flit) (hk : Kept fc fg z s) :
    Kept fc fg z (State.dataStore s k f) := by
  unfold State.dataStore
  repeat' first
    | with_reducible assumption
    | with_reducible apply markRefused_kept
    | with_reducible apply peerDrop_kept
    | with_reducible apply peerWrite_kept
    | with_reducible refine kept_foldl (fun _ _ _ => ?_) ?_
    | with_reducible refine kept_ite ?_ ?_

theorem decideTile_kept (k : Nat) (f : Flit) (hk : Kept fc fg z s) :
    Kept fc fg z (State.decideTile s k f) := by
  unfold State.decideTile
  repeat' first
    | with_reducible apply addLog_kept
    | with_reducible apply sendMgmt_kept
    | with_reducible apply abort_kept
    | with_reducible apply markRefused_kept
    | with_reducible refine kept_ite ?_ ?_
    | split
    | (with_reducible refine kept_upd ?_ ⟨rfl, rfl, rfl⟩ ⟨rfl, rfl, rfl, rfl⟩; with_reducible assumption)

theorem landRows_kept (c : Cmd) (f : Flit) (hk : Kept fc fg z s) :
    Kept fc fg z (State.landRows s c f) := by
  unfold State.landRows
  repeat' first
    | with_reducible assumption
    | with_reducible apply writeAt_kept
    | with_reducible refine kept_ite ?_ ?_

theorem landed_kept (c : Cmd) (f : Flit) (hk : Kept fc fg z s) :
    Kept fc fg z (State.landed s c f) := by
  unfold State.landed
  repeat' (with_reducible refine kept_upd ?_ ⟨rfl, rfl, rfl⟩ ⟨rfl, rfl, rfl, rfl⟩; with_reducible assumption)

theorem landFlit_kept (f : Flit) (hk : Kept fc fg z s) :
    Kept fc fg z (State.landFlit s f) := by
  unfold State.landFlit
  repeat' first
    | with_reducible assumption
    | with_reducible apply landRows_kept
    | with_reducible apply landed_kept
    | with_reducible apply recvAll_kept
    | split
    | (with_reducible refine kept_upd ?_ ⟨rfl, rfl, rfl⟩ ⟨rfl, rfl, rfl, rfl⟩; first
        | with_reducible assumption
        | with_reducible apply landRows_kept
        | with_reducible apply landed_kept
        | with_reducible apply recvAll_kept
        | split)
    | dsimp only

theorem endStream_kept (src sid : Nat) (hk : Kept fc fg z s) :
    Kept fc fg z (State.endStream s src sid) := by
  unfold State.endStream
  repeat' (with_reducible refine kept_upd ?_ ⟨rfl, rfl, rfl⟩ ⟨rfl, rfl, rfl, rfl⟩; with_reducible assumption)

theorem flagArrives_kept (src chan : Nat) (hk : Kept fc fg z s) :
    Kept fc fg z (State.flagArrives s src chan) := by
  unfold State.flagArrives
  repeat' first
    | with_reducible apply modCmd_kept
    | with_reducible apply tryComplete_kept
    | with_reducible refine kept_foldl (fun _ _ _ => ?_) ?_
    | (with_reducible refine kept_upd ?_ ⟨rfl, rfl, rfl⟩ ⟨rfl, rfl, rfl, rfl⟩; with_reducible assumption)

theorem flagFlit_kept (k : Nat) (f : Flit) (hk : Kept fc fg z s) :
    Kept fc fg z (State.flagFlit s k f) := by
  unfold State.flagFlit
  repeat' first
    | with_reducible assumption
    | with_reducible apply write_kept
    | with_reducible apply peerDrop_kept
    | with_reducible apply peerWrite_kept
    | with_reducible apply endStream_kept
    | with_reducible apply recvAll_kept
    | with_reducible apply flagArrives_kept
    | with_reducible apply enqueue_kept
    | with_reducible refine kept_ite ?_ ?_
    | split
    | (with_reducible refine kept_upd ?_ ⟨rfl, rfl, rfl⟩ ⟨rfl, rfl, rfl, rfl⟩; with_reducible assumption)
    | dsimp only

theorem performFlit_kept (k : Nat) (f : Flit) (hk : Kept fc fg z s) :
    Kept fc fg z (State.performFlit s k f) := by
  unfold State.performFlit
  repeat' first
    | with_reducible assumption
    | with_reducible apply dataStore_kept
    | with_reducible apply landFlit_kept
    | with_reducible apply flagFlit_kept
    | split
    | (with_reducible refine kept_upd ?_ ⟨rfl, rfl, rfl⟩ ⟨rfl, rfl, rfl, rfl⟩; first
        | with_reducible assumption
        | with_reducible apply dataStore_kept
        | with_reducible apply landFlit_kept
        | with_reducible apply flagFlit_kept
        | split)
    | dsimp only

theorem ingest_kept (k : Nat) (f : Flit) (hk : Kept fc fg z s) :
    Kept fc fg z (State.ingest s k f) := by
  unfold State.ingest
  repeat' first
    | with_reducible assumption
    | with_reducible apply performFlit_kept
    | with_reducible refine kept_ite ?_ ?_
    | split
    | (with_reducible refine kept_upd ?_ ⟨rfl, rfl, rfl⟩ ⟨rfl, rfl, rfl, rfl⟩; first
        | with_reducible assumption
        | with_reducible apply performFlit_kept
        | with_reducible refine kept_ite ?_ ?_
        | split)
    | dsimp only

theorem serveIngress_kept (hk : Kept fc fg z s) :
    Kept fc fg z (State.serveIngress s) := by
  unfold State.serveIngress
  repeat' first
    | with_reducible assumption
    | with_reducible apply ingest_kept
    | with_reducible refine kept_foldl (fun _ _ _ => ?_) ?_
    | with_reducible refine kept_foldl_fst (fun _ _ _ => ?_) ?_
    | (with_reducible refine kept_upd ?_ ⟨rfl, rfl, rfl⟩ ⟨rfl, rfl, rfl, rfl⟩; first
        | with_reducible assumption
        | with_reducible apply ingest_kept
        | with_reducible refine kept_foldl (fun _ _ _ => ?_) ?_
        | with_reducible refine kept_foldl_fst (fun _ _ _ => ?_) ?_)
    | dsimp only

theorem flagAck_kept (f : Flit) (hk : Kept fc fg z s) :
    Kept fc fg z (State.flagAck s f) := by
  unfold State.flagAck
  try dsimp only
  repeat' first
    | with_reducible apply modCmd_kept
    | with_reducible apply tryComplete_kept
    | with_reducible apply abort_kept
    | with_reducible refine kept_ite ?_ ?_
    | split
    | (with_reducible refine kept_upd ?_ ⟨rfl, rfl, rfl⟩ ⟨rfl, rfl, rfl, rfl⟩; with_reducible assumption)

theorem resynced_kept (j next : Nat) (hk : Kept fc fg z s) :
    Kept fc fg z (State.resynced s j next) := by
  unfold State.resynced
  repeat' first
    | with_reducible apply modPort_kept
    | with_reducible apply putEgress_kept
    | with_reducible refine kept_foldl (fun _ _ _ => ?_) ?_
    | split
    | (with_reducible refine kept_upd ?_ ⟨rfl, rfl, rfl⟩ ⟨rfl, rfl, rfl, rfl⟩; with_reducible assumption)
    | dsimp only

theorem ptResult_kept (part status detail : Nat) (hk : Kept fc fg z s) :
    Kept fc fg z (State.ptResult s part status detail) := by
  unfold State.ptResult
  repeat' first
    | with_reducible apply modPart_kept
    | with_reducible apply mgResult_kept
    | (with_reducible refine kept_upd ?_ ⟨rfl, rfl, rfl⟩ ⟨rfl, rfl, rfl, rfl⟩; with_reducible assumption)

theorem freshQueues_kept (m : Nat) (hk : Kept fc fg z s) :
    Kept fc fg z (State.freshQueues s m) := by
  unfold State.freshQueues
  repeat' first
    | with_reducible assumption
    | with_reducible apply modQueue_kept
    | with_reducible refine kept_foldl (fun _ _ _ => ?_) ?_

theorem zeroTrace_kept (p : Nat) (hk : Kept fc fg z s) :
    Kept fc fg z (State.zeroTrace s p) := by
  unfold State.zeroTrace
  repeat' (with_reducible refine kept_upd ?_ ⟨rfl, rfl, rfl⟩ ⟨rfl, rfl, rfl, rfl⟩; with_reducible assumption)

theorem releaseEnergy_kept (p : Nat) (hk : Kept fc fg z s) :
    Kept fc fg z (State.releaseEnergy s p) := by
  unfold State.releaseEnergy
  repeat' (with_reducible refine kept_upd ?_ ⟨rfl, rfl, rfl⟩ ⟨rfl, rfl, rfl, rfl⟩; first
        | with_reducible assumption | with_reducible apply modPart_kept)

theorem freeTransit_kept (hk : Kept fc fg z s) :
    Kept fc fg z (State.freeTransit s) := by
  unfold State.freeTransit
  repeat' first
    | with_reducible assumption
    | with_reducible apply zeroSlice_kept
    | with_reducible apply modSlice_kept
    | with_reducible refine kept_foldl (fun _ _ _ => ?_) ?_
    | with_reducible refine kept_foldl_fst (fun _ _ _ => ?_) ?_
    | with_reducible refine kept_ite ?_ ?_
    | split
    | (with_reducible refine kept_upd ?_ ⟨rfl, rfl, rfl⟩ ⟨rfl, rfl, rfl, rfl⟩; with_reducible assumption)
    | dsimp only

theorem ptCreate_kept (path : Path) (p : Nat) (hk : Kept fc fg z s) :
    Kept fc fg z (State.ptCreate s path p) := by
  unfold State.ptCreate
  repeat' first
    | with_reducible assumption
    | with_reducible apply freeTransit_kept
    | with_reducible apply ptResult_kept
    | with_reducible apply freshQueues_kept
    | with_reducible apply zeroTrace_kept
    | with_reducible apply releaseEnergy_kept
    | with_reducible apply modPart_kept
    | with_reducible apply liveChange_kept
    | with_reducible refine kept_ite ?_ ?_
    | split
    | (with_reducible refine kept_upd ?_ ⟨rfl, rfl, rfl⟩ ⟨rfl, rfl, rfl, rfl⟩; with_reducible assumption)
    | dsimp only

theorem reshapeStart_kept (op p newC newSl newQ ctl guar : Nat) (hk : Kept fc fg z s) :
    Kept fc fg z (State.reshapeStart s op p newC newSl newQ ctl guar) := by
  unfold State.reshapeStart
  repeat' (with_reducible refine kept_upd ?_ ⟨rfl, rfl, rfl⟩ ⟨rfl, rfl, rfl, rfl⟩; first
        | with_reducible assumption | with_reducible apply modPart_kept | with_reducible apply mgRuns_kept)

theorem ptReshape_kept (path : Path) (p : Nat) (hk : Kept fc fg z s) :
    Kept fc fg z (State.ptReshape s path p) := by
  unfold State.ptReshape
  repeat' first
    | with_reducible apply ptResult_kept
    | with_reducible apply reshapeStart_kept
    | with_reducible refine kept_ite ?_ ?_
    | split
    | (with_reducible refine kept_upd ?_ ⟨rfl, rfl, rfl⟩ ⟨rfl, rfl, rfl, rfl⟩; with_reducible assumption)

theorem ptDestroy_kept (p : Nat) (hk : Kept fc fg z s) :
    Kept fc fg z (State.ptDestroy s p) := by
  unfold State.ptDestroy
  repeat' first
    | with_reducible assumption
    | with_reducible apply ptResult_kept
    | with_reducible apply reshapeStart_kept
    | with_reducible refine kept_ite ?_ ?_

theorem recordNow_kept (q t : Nat) (hk : Kept fc fg z s) :
    Kept fc fg z (State.recordNow s q t) := by
  unfold State.recordNow
  repeat' first
    | with_reducible assumption
    | with_reducible apply orStay_kept
    | with_reducible apply execCompletionRecord_kept

theorem endAll_kept (sel : Cmd → Bool) (st sub : Nat) (hk : Kept fc fg z s) :
    Kept fc fg z (State.endAll s sel st sub) := by
  unfold State.endAll
  repeat' first
    | with_reducible apply endCmd_kept
    | with_reducible apply recordNow_kept
    | with_reducible refine kept_foldl (fun _ _ _ => ?_) ?_
    | with_reducible refine kept_ite ?_ ?_
    | split
    | (with_reducible refine kept_upd ?_ ⟨rfl, rfl, rfl⟩ ⟨rfl, rfl, rfl, rfl⟩; with_reducible assumption)

theorem ptReset_kept (p : Nat) (hk : Kept fc fg z s) :
    Kept fc fg z (State.ptReset s p) := by
  unfold State.ptReset
  repeat' first
    | with_reducible assumption
    | with_reducible apply ptResult_kept
    | with_reducible apply stopQueue_kept
    | with_reducible apply endAll_kept
    | with_reducible apply modCrest_kept
    | with_reducible apply modPart_kept
    | with_reducible apply mgRuns_kept
    | with_reducible apply recall_kept
    | with_reducible apply resetEnds_kept
    | with_reducible apply adoptAll_kept
    | with_reducible refine kept_foldl (fun _ _ _ => ?_) ?_
    | with_reducible refine kept_foldl_fst (fun _ _ _ => ?_) ?_
    | with_reducible refine kept_ite ?_ ?_
    | split
    | (with_reducible refine kept_upd ?_ ⟨rfl, rfl, rfl⟩ ⟨rfl, rfl, rfl, rfl⟩; first
        | with_reducible assumption
        | with_reducible apply ptResult_kept
        | with_reducible apply stopQueue_kept
        | with_reducible apply endAll_kept
        | with_reducible apply modCrest_kept
        | with_reducible apply modPart_kept
        | with_reducible apply mgRuns_kept
        | with_reducible apply recall_kept
        | with_reducible apply resetEnds_kept
        | with_reducible apply adoptAll_kept
        | with_reducible refine kept_foldl (fun _ _ _ => ?_) ?_
        | with_reducible refine kept_foldl_fst (fun _ _ _ => ?_) ?_
        | with_reducible refine kept_ite ?_ ?_
        | split)
    | dsimp only

theorem heldReset_kept (hk : Kept fc fg z s) :
    Kept fc fg z (State.heldReset s) := by
  unfold State.heldReset
  repeat' first
    | with_reducible assumption
    | with_reducible apply ptReset_kept
    | with_reducible apply modMg_kept
    | with_reducible exact fun _ => ⟨rfl, rfl, rfl⟩
    | with_reducible refine kept_foldl (fun _ _ _ => ?_) ?_
    | with_reducible refine kept_foldl_fst (fun _ _ _ => ?_) ?_
    | with_reducible refine kept_ite ?_ ?_
    | split
    | (with_reducible refine kept_upd ?_ ⟨rfl, rfl, rfl⟩ ⟨rfl, rfl, rfl, rfl⟩; first
        | with_reducible assumption
        | with_reducible apply ptReset_kept
        | with_reducible apply modMg_kept
        | with_reducible refine kept_foldl (fun _ _ _ => ?_) ?_
        | with_reducible refine kept_foldl_fst (fun _ _ _ => ?_) ?_
        | with_reducible refine kept_ite ?_ ?_
        | split)
    | dsimp only

theorem remap_kept (j : Journal) (hk : Kept fc fg z s) :
    Kept fc fg z (State.remap s j) := by
  unfold State.remap
  repeat' first
    | with_reducible assumption
    | with_reducible apply modSlice_kept
    | with_reducible apply modCrest_kept
    | with_reducible apply modReg_kept
    | with_reducible apply freshQueues_kept
    | with_reducible apply modPart_kept
    | with_reducible apply zeroTrace_kept
    | with_reducible apply releaseEnergy_kept
    | with_reducible apply liveChange_kept
    | with_reducible apply readyOrRun_kept
    | with_reducible apply ptResult_kept
    | with_reducible apply heldReset_kept
    | with_reducible apply adoptAll_kept
    | with_reducible refine kept_foldl (fun _ _ _ => ?_) ?_
    | with_reducible refine kept_foldl_fst (fun _ _ _ => ?_) ?_
    | with_reducible refine kept_ite ?_ ?_
    | split
    | (with_reducible refine kept_upd ?_ ⟨rfl, rfl, rfl⟩ ⟨rfl, rfl, rfl, rfl⟩; first
        | with_reducible assumption
        | with_reducible apply modSlice_kept
        | with_reducible apply modCrest_kept
        | with_reducible apply modReg_kept
        | with_reducible apply freshQueues_kept
        | with_reducible apply modPart_kept
        | with_reducible apply zeroTrace_kept
        | with_reducible apply releaseEnergy_kept
        | with_reducible apply liveChange_kept
        | with_reducible apply readyOrRun_kept
        | with_reducible apply ptResult_kept
        | with_reducible apply heldReset_kept
        | with_reducible apply adoptAll_kept
        | with_reducible refine kept_foldl (fun _ _ _ => ?_) ?_
        | with_reducible refine kept_foldl_fst (fun _ _ _ => ?_) ?_
        | with_reducible refine kept_ite ?_ ?_
        | split)
    | dsimp only

theorem goOn_kept (hk : Kept fc fg z s) :
    Kept fc fg z (State.goOn s) := by
  unfold State.goOn
  repeat' first
    | with_reducible assumption
    | with_reducible apply serveHeld_kept
    | with_reducible apply retrySignals_kept
    | with_reducible apply serveIngress_kept
    | (with_reducible refine kept_upd ?_ ⟨rfl, rfl, rfl⟩ ⟨rfl, rfl, rfl, rfl⟩; first
        | with_reducible assumption
        | with_reducible apply serveHeld_kept
        | with_reducible apply retrySignals_kept
        | with_reducible apply serveIngress_kept)
    | dsimp only

theorem ivr23Lost_kept (hk : Kept fc fg z s) :
    Kept fc fg z (State.ivr23Lost s) := by
  unfold State.ivr23Lost
  repeat' first
    | with_reducible assumption
    | with_reducible apply bump_kept
    | with_reducible apply modMg_kept
    | with_reducible apply endCmd_kept
    | with_reducible apply checkMin_kept
    | with_reducible exact fun _ => ⟨rfl, rfl, rfl⟩
    | with_reducible refine kept_foldl (fun _ _ _ => ?_) ?_
    | with_reducible refine kept_foldl_fst (fun _ _ _ => ?_) ?_
    | (with_reducible refine kept_upd ?_ ⟨rfl, rfl, rfl⟩ ⟨rfl, rfl, rfl, rfl⟩; first
        | with_reducible assumption
        | with_reducible apply bump_kept
        | with_reducible apply modMg_kept
        | with_reducible apply endCmd_kept
        | with_reducible apply checkMin_kept
        | with_reducible refine kept_foldl (fun _ _ _ => ?_) ?_
        | with_reducible refine kept_foldl_fst (fun _ _ _ => ?_) ?_)
    | dsimp only

theorem regDead_kept (r code detail : Nat) (hk : Kept fc fg z s) :
    Kept fc fg z (State.regDead s r code detail) := by
  unfold State.regDead
  repeat' first
    | with_reducible assumption
    | with_reducible apply addLog_kept
    | (with_reducible refine kept_upd ?_ ⟨rfl, rfl, rfl⟩ ⟨rfl, rfl, rfl, rfl⟩; with_reducible assumption)
    | dsimp only

theorem bistRetire_kept (p : Nat) (hk : Kept fc fg z s) :
    Kept fc fg z (State.bistRetire s p) := by
  unfold State.bistRetire
  repeat' first
    | with_reducible apply modRep_kept
    | with_reducible apply addLog_kept
    | with_reducible apply notice_kept
    | with_reducible refine kept_ite ?_ ?_
    | split
    | (with_reducible refine kept_upd ?_ ⟨rfl, rfl, rfl⟩ ⟨rfl, rfl, rfl, rfl⟩; with_reducible assumption)

theorem regFault_kept (r cause : Nat) (hk : Kept fc fg z s) :
    Kept fc fg z (State.regFault s r cause) := by
  unfold State.regFault
  repeat' first
    | with_reducible assumption
    | with_reducible apply modReg_kept
    | with_reducible apply alert_kept
    | with_reducible apply addLog_kept
    | with_reducible apply Epi_stage_kept
    | with_reducible apply notice_kept
    | with_reducible apply bistRetire_kept
    | with_reducible apply retireCrest_kept
    | with_reducible apply retireSlice_kept
    | with_reducible apply goOn_kept
    | with_reducible apply ivr23Lost_kept
    | with_reducible exact fun _ => ⟨rfl, rfl, rfl⟩
    | with_reducible refine kept_foldl (fun _ _ _ => ?_) ?_
    | with_reducible refine kept_foldl_fst (fun _ _ _ => ?_) ?_
    | with_reducible refine kept_ite ?_ ?_
    | split
    | (with_reducible refine kept_upd ?_ ⟨rfl, rfl, rfl⟩ ⟨rfl, rfl, rfl, rfl⟩; first
        | with_reducible assumption
        | with_reducible apply modReg_kept
        | with_reducible apply alert_kept
        | with_reducible apply addLog_kept
        | with_reducible apply Epi_stage_kept
        | with_reducible apply notice_kept
        | with_reducible apply bistRetire_kept
        | with_reducible apply retireCrest_kept
        | with_reducible apply retireSlice_kept
        | with_reducible apply goOn_kept
        | with_reducible apply ivr23Lost_kept
        | with_reducible refine kept_foldl (fun _ _ _ => ?_) ?_
        | with_reducible refine kept_foldl_fst (fun _ _ _ => ?_) ?_
        | with_reducible refine kept_ite ?_ ?_
        | split)
    | dsimp only

theorem regError_kept (r code cls alert detail : Nat) (now : Bool) (hk : Kept fc fg z s) :
    Kept fc fg z (State.regError s r code cls alert detail now) := by
  unfold State.regError
  repeat' first
    | with_reducible assumption
    | with_reducible apply alert_kept
    | with_reducible apply addLog_kept
    | with_reducible apply countErr_kept
    | with_reducible apply regFault_kept
    | with_reducible refine kept_ite ?_ ?_

theorem regFail_kept (r : Nat) (hk : Kept fc fg z s) :
    Kept fc fg z (State.regFail s r) := by
  unfold State.regFail
  repeat' first
    | with_reducible apply modReg_kept
    | with_reducible apply regError_kept
    | (with_reducible refine kept_upd ?_ ⟨rfl, rfl, rfl⟩ ⟨rfl, rfl, rfl, rfl⟩; with_reducible assumption)

theorem trainHost_kept (hk : Kept fc fg z s) :
    Kept fc fg z (State.trainHost s) := by
  unfold State.trainHost
  repeat' first
    | with_reducible apply modHmod_kept
    | with_reducible refine kept_foldl (fun _ _ _ => ?_) ?_
    | with_reducible refine kept_ite ?_ ?_
    | split
    | (with_reducible refine kept_upd ?_ ⟨rfl, rfl, rfl⟩ ⟨rfl, rfl, rfl, rfl⟩; with_reducible assumption)

theorem trainPorts_kept (hk : Kept fc fg z s) :
    Kept fc fg z (State.trainPorts s) := by
  unfold State.trainPorts
  repeat' first
    | with_reducible assumption
    | with_reducible apply modPort_kept
    | with_reducible refine kept_foldl (fun _ _ _ => ?_) ?_
    | with_reducible refine kept_foldl_fst (fun _ _ _ => ?_) ?_
    | with_reducible refine kept_ite ?_ ?_
    | split
    | (with_reducible refine kept_upd ?_ ⟨rfl, rfl, rfl⟩ ⟨rfl, rfl, rfl, rfl⟩; first
        | with_reducible assumption
        | with_reducible apply modPort_kept
        | with_reducible refine kept_foldl (fun _ _ _ => ?_) ?_
        | with_reducible refine kept_foldl_fst (fun _ _ _ => ?_) ?_
        | with_reducible refine kept_ite ?_ ?_
        | split)
    | dsimp only

theorem linksUp_kept (hk : Kept fc fg z s) :
    Kept fc fg z (State.linksUp s) := by
  unfold State.linksUp
  repeat' first
    | with_reducible assumption
    | with_reducible apply Epi_stage_kept
    | with_reducible apply trainHost_kept
    | with_reducible apply trainPorts_kept
    | with_reducible refine kept_ite ?_ ?_
    | split
    | (with_reducible refine kept_upd ?_ ⟨rfl, rfl, rfl⟩ ⟨rfl, rfl, rfl, rfl⟩; first
        | with_reducible assumption
        | with_reducible apply Epi_stage_kept
        | with_reducible apply trainHost_kept
        | with_reducible apply trainPorts_kept
        | with_reducible refine kept_ite ?_ ?_
        | split)
    | dsimp only

theorem tierUp_kept (r : Nat) (hk : Kept fc fg z s) :
    Kept fc fg z (State.tierUp s r) := by
  unfold State.tierUp
  repeat' first
    | with_reducible assumption
    | with_reducible apply zeroSlice_kept
    | with_reducible apply modSlice_kept
    | with_reducible apply Epi_stage_kept
    | with_reducible refine kept_foldl (fun _ _ _ => ?_) ?_
    | with_reducible refine kept_foldl_fst (fun _ _ _ => ?_) ?_
    | with_reducible refine kept_ite ?_ ?_
    | split
    | (with_reducible refine kept_upd ?_ ⟨rfl, rfl, rfl⟩ ⟨rfl, rfl, rfl, rfl⟩; with_reducible assumption)
    | dsimp only

theorem factoryBind_kept (hk : Kept fc fg z s) :
    Kept fc fg z (State.factoryBind s) := by
  unfold State.factoryBind
  repeat' first
    | with_reducible apply modRep_kept
    | with_reducible refine kept_ite ?_ ?_
    | split
    | (with_reducible refine kept_upd ?_ ⟨rfl, rfl, rfl⟩ ⟨rfl, rfl, rfl, rfl⟩; with_reducible assumption)

theorem regUp_kept (r : Nat) (hk : Kept fc fg z s) :
    Kept fc fg z (State.regUp s r) := by
  unfold State.regUp
  repeat' first
    | with_reducible assumption
    | with_reducible apply modReg_kept
    | with_reducible apply tierUp_kept
    | with_reducible apply Epi_stage_kept
    | with_reducible apply modCrest_kept
    | with_reducible apply factoryBind_kept
    | with_reducible apply linksUp_kept
    | with_reducible refine kept_ite ?_ ?_
    | split
    | (with_reducible refine kept_upd ?_ ⟨rfl, rfl, rfl⟩ ⟨rfl, rfl, rfl, rfl⟩; first
        | with_reducible assumption
        | with_reducible apply modReg_kept
        | with_reducible apply tierUp_kept
        | with_reducible apply Epi_stage_kept
        | with_reducible apply modCrest_kept
        | with_reducible apply factoryBind_kept
        | with_reducible apply linksUp_kept
        | with_reducible refine kept_ite ?_ ?_
        | split)
    | dsimp only

theorem bootTiers_kept (hk : Kept fc fg z s) :
    Kept fc fg z (State.bootTiers s) := by
  unfold State.bootTiers
  repeat' first
    | with_reducible apply modMg_kept
    | with_reducible exact fun _ => ⟨rfl, rfl, rfl⟩
    | with_reducible refine kept_ite ?_ ?_
    | split
    | (with_reducible refine kept_upd ?_ ⟨rfl, rfl, rfl⟩ ⟨rfl, rfl, rfl, rfl⟩; with_reducible assumption)

theorem crestLost_kept (p : Nat) (hk : Kept fc fg z s) :
    Kept fc fg z (State.crestLost s p) := by
  unfold State.crestLost
  repeat' first
    | with_reducible apply modCrest_kept
    | with_reducible apply endHeld_kept
    | (with_reducible refine kept_upd ?_ ⟨rfl, rfl, rfl⟩ ⟨rfl, rfl, rfl, rfl⟩; with_reducible assumption)

theorem loadLost_kept (r : Nat) (hk : Kept fc fg z s) :
    Kept fc fg z (State.loadLost s r) := by
  unfold State.loadLost
  repeat' first
    | with_reducible assumption
    | with_reducible apply crestLost_kept
    | with_reducible apply zeroSlice_kept
    | with_reducible apply modSlice_kept
    | with_reducible apply unstall_kept
    | with_reducible apply alert_kept
    | with_reducible apply goOn_kept
    | with_reducible apply ivr23Lost_kept
    | with_reducible exact fun _ => ⟨rfl, rfl, rfl⟩
    | with_reducible refine kept_foldl (fun _ _ _ => ?_) ?_
    | with_reducible refine kept_foldl_fst (fun _ _ _ => ?_) ?_
    | with_reducible refine kept_ite ?_ ?_
    | split
    | (with_reducible refine kept_upd ?_ ⟨rfl, rfl, rfl⟩ ⟨rfl, rfl, rfl, rfl⟩; first
        | with_reducible assumption
        | with_reducible apply crestLost_kept
        | with_reducible apply zeroSlice_kept
        | with_reducible apply modSlice_kept
        | with_reducible apply unstall_kept
        | with_reducible apply alert_kept
        | with_reducible apply goOn_kept
        | with_reducible apply ivr23Lost_kept
        | with_reducible refine kept_foldl (fun _ _ _ => ?_) ?_
        | with_reducible refine kept_foldl_fst (fun _ _ _ => ?_) ?_
        | with_reducible refine kept_ite ?_ ?_
        | split)
    | dsimp only

theorem sampleOne_kept (vin : Nat) (m : RegMeas) (hk : Kept fc fg z s) :
    Kept fc fg z (State.sampleOne s vin m) := by
  unfold State.sampleOne
  repeat' first
    | with_reducible assumption
    | with_reducible apply modReg_kept
    | with_reducible apply tierUp_kept
    | with_reducible apply linksUp_kept
    | with_reducible apply modPwr_kept
    | with_reducible exact fun _ => ⟨rfl, rfl, rfl⟩
    | with_reducible refine kept_foldl (fun _ _ _ => ?_) ?_
    | with_reducible refine kept_foldl_fst (fun _ _ _ => ?_) ?_
    | with_reducible refine kept_ite ?_ ?_
    | split
    | (with_reducible refine kept_upd ?_ ⟨rfl, rfl, rfl⟩ ⟨rfl, rfl, rfl, rfl⟩; first
        | with_reducible assumption
        | with_reducible apply modReg_kept
        | with_reducible apply tierUp_kept
        | with_reducible apply linksUp_kept
        | with_reducible apply modPwr_kept
        | with_reducible refine kept_foldl (fun _ _ _ => ?_) ?_
        | with_reducible refine kept_foldl_fst (fun _ _ _ => ?_) ?_
        | with_reducible refine kept_ite ?_ ?_
        | split)
    | dsimp only

theorem linkTimer_kept (hk : Kept fc fg z s) :
    Kept fc fg z (State.linkTimer s) := by
  unfold State.linkTimer
  repeat' first
    | with_reducible assumption
    | with_reducible apply modMg_kept
    | with_reducible apply liveChange_kept
    | with_reducible apply linkGone_kept
    | with_reducible exact fun _ => ⟨rfl, rfl, rfl⟩
    | with_reducible refine kept_ite ?_ ?_
    | split
    | (with_reducible refine kept_upd ?_ ⟨rfl, rfl, rfl⟩ ⟨rfl, rfl, rfl, rfl⟩; first
        | with_reducible assumption
        | with_reducible apply modMg_kept
        | with_reducible apply liveChange_kept
        | with_reducible apply linkGone_kept
        | with_reducible refine kept_ite ?_ ?_
        | split)
    | dsimp only

theorem phaseOpen_kept (r k : Nat) (hk : Kept fc fg z s) :
    Kept fc fg z (State.phaseOpen s r k) := by
  unfold State.phaseOpen
  repeat' first
    | with_reducible assumption
    | with_reducible apply modReg_kept
    | with_reducible apply countErr_kept
    | with_reducible apply alert_kept
    | with_reducible apply addLog_kept
    | with_reducible apply notice_kept
    | with_reducible apply regFault_kept
    | with_reducible exact fun _ => ⟨rfl, rfl, rfl⟩
    | with_reducible refine kept_ite ?_ ?_
    | split
    | (with_reducible refine kept_upd ?_ ⟨rfl, rfl, rfl⟩ ⟨rfl, rfl, rfl, rfl⟩; with_reducible assumption)
    | dsimp only

theorem phaseCheck_kept (r k on cur : Nat) (pulsed : Option Nat) (hk : Kept fc fg z s) :
    Kept fc fg z (State.phaseCheck s r k on cur pulsed) := by
  unfold State.phaseCheck
  repeat' first
    | with_reducible assumption
    | with_reducible apply modReg_kept
    | with_reducible apply phaseOpen_kept
    | with_reducible refine kept_ite ?_ ?_
    | split
    | (with_reducible refine kept_upd ?_ ⟨rfl, rfl, rfl⟩ ⟨rfl, rfl, rfl, rfl⟩; first
        | with_reducible assumption
        | with_reducible apply modReg_kept
        | with_reducible apply phaseOpen_kept
        | with_reducible refine kept_ite ?_ ?_
        | split)
    | dsimp only

theorem limitLevels_kept (hk : Kept fc fg z s) :
    Kept fc fg z (State.limitLevels s) := by
  unfold State.limitLevels
  repeat' first
    | with_reducible assumption
    | with_reducible apply applyCeilings_kept
    | with_reducible apply applyHw_kept
    | with_reducible refine kept_ite ?_ ?_
    | split
    | (with_reducible refine kept_upd ?_ ⟨rfl, rfl, rfl⟩ ⟨rfl, rfl, rfl, rfl⟩; with_reducible assumption)
    | dsimp only

theorem nap_kept (p : Nat) (hk : Kept fc fg z s) :
    Kept fc fg z (State.nap s p) := by
  unfold State.nap
  repeat' first
    | with_reducible apply modCrest_kept
    | with_reducible apply modReg_kept
    | (with_reducible refine kept_upd ?_ ⟨rfl, rfl, rfl⟩ ⟨rfl, rfl, rfl, rfl⟩; with_reducible assumption)

theorem toRetain_kept (n : Nat) (hk : Kept fc fg z s) :
    Kept fc fg z (State.toRetain s n) := by
  unfold State.toRetain
  repeat' first
    | with_reducible apply modSlice_kept
    | (with_reducible refine kept_upd ?_ ⟨rfl, rfl, rfl⟩ ⟨rfl, rfl, rfl, rfl⟩; with_reducible assumption)

theorem setTarget_kept (p l : Nat) (hk : Kept fc fg z s) :
    Kept fc fg z (State.setTarget s p l) := by
  unfold State.setTarget
  repeat' first
    | with_reducible assumption
    | with_reducible apply toLevel_kept
    | with_reducible apply modCrest_kept
    | with_reducible apply modReg_kept
    | with_reducible refine kept_ite ?_ ?_
    | split
    | (with_reducible refine kept_upd ?_ ⟨rfl, rfl, rfl⟩ ⟨rfl, rfl, rfl, rfl⟩; with_reducible assumption)
    | dsimp only

theorem setAll_kept (l : Nat) (hk : Kept fc fg z s) :
    Kept fc fg z (State.setAll s l) := by
  unfold State.setAll
  repeat' first
    | with_reducible apply setTarget_kept
    | with_reducible refine kept_foldl (fun _ _ _ => ?_) ?_
    | split
    | (with_reducible refine kept_upd ?_ ⟨rfl, rfl, rfl⟩ ⟨rfl, rfl, rfl, rfl⟩; with_reducible assumption)

theorem capLevels_kept (c : Rat) (hk : Kept fc fg z s) :
    Kept fc fg z (State.capLevels s c).1 := by
  unfold State.capLevels
  repeat' first
    | with_reducible apply modPwr_kept
    | with_reducible apply setTarget_kept
    | with_reducible apply setAll_kept
    | with_reducible exact fun _ => ⟨rfl, rfl, rfl⟩
    | with_reducible refine kept_foldl (fun _ _ _ => ?_) ?_
    | split
    | (with_reducible refine kept_upd ?_ ⟨rfl, rfl, rfl⟩ ⟨rfl, rfl, rfl, rfl⟩; with_reducible assumption)

theorem lagCheck_kept (hk : Kept fc fg z s) :
    Kept fc fg z (State.lagCheck s) := by
  unfold State.lagCheck
  repeat' first
    | with_reducible apply modPwr_kept
    | with_reducible exact fun _ => ⟨rfl, rfl, rfl⟩
    | (with_reducible refine kept_upd ?_ ⟨rfl, rfl, rfl⟩ ⟨rfl, rfl, rfl, rfl⟩; with_reducible assumption)

theorem crestWindow_kept (p : Nat) (a : List Nat) (hk : Kept fc fg z s) :
    Kept fc fg z (State.crestWindow s p a) := by
  unfold State.crestWindow
  repeat' first
    | with_reducible apply modCrest_kept
    | (with_reducible refine kept_upd ?_ ⟨rfl, rfl, rfl⟩ ⟨rfl, rfl, rfl, rfl⟩; with_reducible assumption)

theorem giveCmd_kept (k : Nat × Nat) (n : Nat) (hk : Kept fc fg z s) :
    Kept fc fg z (State.giveCmd s k n).1 := by
  unfold State.giveCmd
  repeat' first
    | with_reducible apply modPart_kept
    | with_reducible apply modCmd_kept
    | split
    | (with_reducible refine kept_upd ?_ ⟨rfl, rfl, rfl⟩ ⟨rfl, rfl, rfl, rfl⟩; with_reducible assumption)

theorem giveShares_kept (ws : List ((Nat × Nat) × Nat)) (n : Nat) (hk : Kept fc fg z s) :
    Kept fc fg z (State.giveShares s ws n).1 := by
  unfold State.giveShares
  repeat' first
    | with_reducible assumption
    | with_reducible apply giveCmd_kept
    | with_reducible refine kept_foldl_fst (fun _ _ _ => ?_) ?_
    | split
    | dsimp only

theorem giveCrest_kept (p n : Nat) (busy : List ((Nat × Nat) × Nat)) (hk : Kept fc fg z s) :
    Kept fc fg z (State.giveCrest s p n busy).1 := by
  unfold State.giveCrest
  repeat' first
    | with_reducible apply modPart_kept
    | with_reducible apply giveShares_kept
    | split
    | (with_reducible refine kept_upd ?_ ⟨rfl, rfl, rfl⟩ ⟨rfl, rfl, rfl, rfl⟩; with_reducible assumption)

theorem divide_kept (total : Nat) (ws : List WinMeas) (moved : List ((Nat × Nat) × Nat)) (hk : Kept fc fg z s) :
    Kept fc fg z (State.divide s total ws moved) := by
  unfold State.divide
  repeat' (with_reducible refine kept_upd ?_ ⟨rfl, rfl, rfl⟩ ⟨rfl, rfl, rfl, rfl⟩; first
        | with_reducible assumption | with_reducible apply giveShares_kept | with_reducible apply giveCrest_kept
        | with_reducible refine KeptF.get (by with_reducible assumption) ?_
        | with_reducible refine KeptE.get_state (by with_reducible assumption) ?_
        | with_reducible refine KeptE.get_pair (by with_reducible assumption) ?_
        | with_reducible refine KeptE.get_err (g := fun s => s) (by with_reducible assumption) ?_
        | with_reducible refine KeptE.get_err (g := Prod.fst) (by with_reducible assumption) ?_
        | with_reducible refine KeptE.get_err (g := Epi.s) (by with_reducible assumption) ?_
        | with_reducible refine KeptE.get (g := Epi.s) (by with_reducible assumption) ?_
        | with_reducible refine kept_pair (by with_reducible assumption) ?_
        | with_reducible refine kept_foldl (fun _ _ _ => ?_) ?_
        | with_reducible refine kept_foldl_fst (fun _ _ _ => ?_) ?_)

theorem trip_kept (i : Nat) (hk : Kept fc fg z s) :
    Kept fc fg z (State.trip s i) := by
  unfold State.trip
  repeat' first
    | with_reducible assumption
    | with_reducible apply modPwr_kept
    | with_reducible apply modMg_kept
    | with_reducible apply haltReq_kept
    | with_reducible apply endCmd_kept
    | with_reducible apply endHeld_kept
    | with_reducible apply modCrest_kept
    | with_reducible apply modReg_kept
    | with_reducible apply toRetain_kept
    | with_reducible apply alert_kept
    | with_reducible apply addLog_kept
    | with_reducible apply adoptAll_kept
    | with_reducible exact fun _ => ⟨rfl, rfl, rfl⟩
    | with_reducible refine kept_foldl (fun _ _ _ => ?_) ?_
    | with_reducible refine kept_foldl_fst (fun _ _ _ => ?_) ?_
    | with_reducible refine kept_ite ?_ ?_
    | split
    | (with_reducible refine kept_upd ?_ ⟨rfl, rfl, rfl⟩ ⟨rfl, rfl, rfl, rfl⟩; first
        | with_reducible assumption
        | with_reducible apply modPwr_kept
        | with_reducible apply modMg_kept
        | with_reducible apply haltReq_kept
        | with_reducible apply endCmd_kept
        | with_reducible apply endHeld_kept
        | with_reducible apply modCrest_kept
        | with_reducible apply modReg_kept
        | with_reducible apply toRetain_kept
        | with_reducible apply alert_kept
        | with_reducible apply addLog_kept
        | with_reducible apply adoptAll_kept
        | with_reducible refine kept_foldl (fun _ _ _ => ?_) ?_
        | with_reducible refine kept_foldl_fst (fun _ _ _ => ?_) ?_
        | with_reducible refine kept_ite ?_ ?_
        | split)
    | dsimp only

theorem regionStep_kept (f : Nat) (hk : Kept fc fg z s) :
    Kept fc fg z (State.regionStep s f) := by
  unfold State.regionStep
  repeat' first
    | with_reducible apply modPwr_kept
    | with_reducible exact fun _ => ⟨rfl, rfl, rfl⟩
    | with_reducible refine kept_ite ?_ ?_
    | split
    | (with_reducible refine kept_upd ?_ ⟨rfl, rfl, rfl⟩ ⟨rfl, rfl, rfl, rfl⟩; with_reducible assumption)

theorem crestReset_kept (l : Nat) (hk : Kept fc fg z s) :
    Kept fc fg z (State.crestReset s l) := by
  unfold State.crestReset
  repeat' first
    | with_reducible assumption
    | with_reducible apply endAll_kept
    | with_reducible apply unhalt_kept
    | with_reducible apply modCrest_kept
    | with_reducible apply nap_kept
    | with_reducible apply wakeIdle_kept
    | with_reducible apply adoptAll_kept
    | with_reducible refine kept_ite ?_ ?_
    | split
    | (with_reducible refine kept_upd ?_ ⟨rfl, rfl, rfl⟩ ⟨rfl, rfl, rfl, rfl⟩; with_reducible assumption)
    | dsimp only

theorem resetBound_kept (hk : Kept fc fg z s) :
    Kept fc fg z (State.resetBound s) := by
  unfold State.resetBound
  repeat' first
    | with_reducible assumption
    | with_reducible apply modMg_kept
    | with_reducible apply crestReset_kept
    | with_reducible apply mgResult_kept
    | with_reducible exact fun _ => ⟨rfl, rfl, rfl⟩
    | split
    | (with_reducible refine kept_upd ?_ ⟨rfl, rfl, rfl⟩ ⟨rfl, rfl, rfl, rfl⟩; first
        | with_reducible assumption
        | with_reducible apply modMg_kept
        | with_reducible apply crestReset_kept
        | with_reducible apply mgResult_kept
        | split)
    | dsimp only

theorem bindSpare_kept (l p : Nat) (hk : Kept fc fg z s) :
    Kept fc fg z (State.bindSpare s l p) := by
  unfold State.bindSpare
  repeat' first
    | with_reducible assumption
    | with_reducible apply modRep_kept
    | with_reducible apply modCrest_kept
    | with_reducible apply addLog_kept
    | with_reducible apply notice_kept
    | with_reducible apply retireDone_kept
    | with_reducible apply resetBound_kept
    | with_reducible apply adoptAll_kept
    | with_reducible refine kept_ite ?_ ?_
    | split
    | (with_reducible refine kept_upd ?_ ⟨rfl, rfl, rfl⟩ ⟨rfl, rfl, rfl, rfl⟩; first
        | with_reducible assumption
        | with_reducible apply modRep_kept
        | with_reducible apply modCrest_kept
        | with_reducible apply addLog_kept
        | with_reducible apply notice_kept
        | with_reducible apply retireDone_kept
        | with_reducible apply resetBound_kept
        | with_reducible apply adoptAll_kept
        | with_reducible refine kept_ite ?_ ?_
        | split)
    | dsimp only

theorem deliverBad_kept (d : Delivery) (addr : Nat) (hk : Kept fc fg z s) : Kept fc fg z (s.deliverBad d addr) := by
  unfold State.deliverBad
  split
  · exact endCmd_kept _ _ _ _ hk
  · split
    · exact hk
    · exact kept_poison _ _ hk
  · exact emit_kept _ hk

theorem cold_kept (cause : Nat) (hk : Kept false false z s) : Kept false false z (s.cold cause) :=
  hk.trans ⟨rfl, fun m => ⟨rfl, m.2.1, rfl, twf_tclear _ _ _ _ m.2.2.2⟩, nofun, nofun⟩

theorem setTaint_kept (b : Nat) (hk : Kept fc false z s) :
    Kept fc false z (State.setTaint s b) := by
  unfold State.setTaint
  repeat' first
    | with_reducible apply modMg_any
    | with_reducible apply liveChange_kept
    | with_reducible refine kept_ite ?_ ?_
    | split
    | (with_reducible refine kept_upd_mg ?_ ⟨rfl, rfl, rfl⟩; with_reducible assumption)

theorem bistRow_kept (n row : Nat) (hk : Kept fc fg z s) :
    Kept fc fg z (State.bistRow s n row) := by
  unfold State.bistRow
  repeat' first
    | with_reducible apply modSlice_kept
    | with_reducible apply addLog_kept
    | with_reducible apply retireSlice_kept
    | with_reducible refine kept_ite ?_ ?_
    | split
    | (with_reducible refine kept_upd ?_ ⟨rfl, rfl, rfl⟩ ⟨rfl, rfl, rfl, rfl⟩; with_reducible assumption)

theorem bistSettle_kept (hk : Kept fc fg z s) :
    Kept fc fg z (State.bistSettle s) := by
  unfold State.bistSettle
  repeat' first
    | with_reducible apply modRep_kept
    | with_reducible apply addLog_kept
    | with_reducible apply notice_kept
    | with_reducible apply makeAbsent_kept
    | with_reducible refine kept_foldl (fun _ _ _ => ?_) ?_
    | with_reducible refine kept_ite ?_ ?_
    | split
    | (with_reducible refine kept_upd ?_ ⟨rfl, rfl, rfl⟩ ⟨rfl, rfl, rfl, rfl⟩; with_reducible assumption)

theorem mbEnd_kept (result outLen : Nat) (hk : Kept fc fg z s) :
    Kept fc fg z (State.mbEnd s result outLen) := by
  unfold State.mbEnd
  repeat' first
    | with_reducible apply modFw_kept
    | with_reducible apply sendMsix_kept
    | with_reducible refine kept_ite ?_ ?_
    | (with_reducible refine kept_upd ?_ ⟨rfl, rfl, rfl⟩ ⟨rfl, rfl, rfl, rfl⟩; with_reducible assumption)

theorem fwStart_kept (hk : Kept fc fg z s) :
    Kept fc fg z (State.fwStart s) := by
  unfold State.fwStart
  repeat' first
    | with_reducible assumption
    | with_reducible apply modFw_kept
    | with_reducible apply modMg_kept
    | with_reducible apply Epi_stage_kept
    | with_reducible apply freeTransit_kept
    | with_reducible apply trainHost_kept
    | with_reducible exact fun _ => ⟨rfl, rfl, rfl⟩
    | with_reducible refine kept_ite ?_ ?_
    | split
    | (with_reducible refine kept_upd ?_ ⟨rfl, rfl, rfl⟩ ⟨rfl, rfl, rfl, rfl⟩; first
        | with_reducible assumption
        | with_reducible apply modFw_kept
        | with_reducible apply modMg_kept
        | with_reducible apply Epi_stage_kept
        | with_reducible apply freeTransit_kept
        | with_reducible apply trainHost_kept
        | with_reducible refine kept_ite ?_ ?_
        | split)
    | dsimp only

theorem fwWait_kept (hk : Kept fc fg z s) :
    Kept fc fg z (State.fwWait s) := by
  unfold State.fwWait
  repeat' first
    | with_reducible apply modMg_kept
    | with_reducible apply addLog_kept
    | with_reducible apply fwStart_kept
    | with_reducible exact fun _ => ⟨rfl, rfl, rfl⟩
    | with_reducible refine kept_ite ?_ ?_
    | split
    | (with_reducible refine kept_upd ?_ ⟨rfl, rfl, rfl⟩ ⟨rfl, rfl, rfl, rfl⟩; with_reducible assumption)

theorem acceptImage_kept (img : List Byte) (slot : Option Nat) (unsigned : Bool) (hk : Kept fc false z s) :
    Kept fc false z (State.acceptImage s img slot unsigned) := by
  unfold State.acceptImage
  repeat' first
    | with_reducible apply modMg_any
    | (with_reducible refine kept_upd_mg ?_ ⟨rfl, rfl, rfl⟩; with_reducible assumption)

theorem imageRefused_kept (who : Nat) (hk : Kept fc fg z s) :
    Kept fc fg z (State.imageRefused s who) := by
  unfold State.imageRefused
  repeat' first
    | with_reducible apply modFw_kept
    | with_reducible apply mgResult_kept
    | with_reducible apply mbEnd_kept
    | with_reducible apply fwWait_kept
    | with_reducible refine kept_ite ?_ ?_
    | split
    | (with_reducible refine kept_upd ?_ ⟨rfl, rfl, rfl⟩ ⟨rfl, rfl, rfl, rfl⟩; with_reducible assumption)

theorem imageAccepted_kept (who len : Nat) (img : List Byte) (slot : Option Nat) (unsigned : Bool) (hk : Kept fc false z s) :
    Kept fc false z (State.imageAccepted s who len img slot unsigned) := by
  unfold State.imageAccepted
  repeat' first
    | with_reducible apply modFw_kept
    | with_reducible apply mgResult_kept
    | with_reducible apply mbEnd_kept
    | with_reducible apply fwStart_kept
    | with_reducible apply acceptImage_kept
    | with_reducible refine kept_ite ?_ ?_
    | split
    | (with_reducible refine kept_upd_mg ?_ ⟨rfl, rfl, rfl⟩; with_reducible assumption)

theorem writeBack_kept (hk : Kept fc fg z s) :
    Kept fc fg z (State.writeBack s) := by
  unfold State.writeBack
  repeat' first
    | with_reducible assumption
    | with_reducible apply backLine_kept
    | with_reducible apply emit_kept
    | with_reducible refine kept_foldl (fun _ _ _ => ?_) ?_
    | with_reducible refine kept_foldl_fst (fun _ _ _ => ?_) ?_
    | with_reducible refine kept_ite ?_ ?_
    | split
    | (with_reducible refine kept_upd ?_ ⟨rfl, rfl, rfl⟩ ⟨rfl, rfl, rfl, rfl⟩; first
        | with_reducible assumption
        | with_reducible apply backLine_kept
        | with_reducible apply emit_kept
        | with_reducible refine kept_foldl (fun _ _ _ => ?_) ?_
        | with_reducible refine kept_foldl_fst (fun _ _ _ => ?_) ?_
        | with_reducible refine kept_ite ?_ ?_
        | split)
    | dsimp only

theorem warmEnds_kept (hk : Kept fc fg z s) :
    Kept fc fg z (State.warmEnds s) := by
  unfold State.warmEnds
  repeat' first
    | with_reducible assumption
    | with_reducible apply endCmd_kept
    | with_reducible apply record_kept
    | with_reducible apply overflow_kept
    | with_reducible refine kept_foldl (fun _ _ _ => ?_) ?_
    | with_reducible refine kept_foldl_fst (fun _ _ _ => ?_) ?_
    | with_reducible refine kept_ite ?_ ?_
    | split
    | (with_reducible refine kept_upd ?_ ⟨rfl, rfl, rfl⟩ ⟨rfl, rfl, rfl, rfl⟩; first
        | with_reducible assumption
        | with_reducible apply endCmd_kept
        | with_reducible apply record_kept
        | with_reducible apply overflow_kept
        | with_reducible refine kept_foldl (fun _ _ _ => ?_) ?_
        | with_reducible refine kept_foldl_fst (fun _ _ _ => ?_) ?_
        | with_reducible refine kept_ite ?_ ?_
        | split)
    | dsimp only

theorem warmUnits_kept (hk : Kept fc fg z s) :
    Kept fc fg z (State.warmUnits s) := by
  unfold State.warmUnits
  repeat' first
    | with_reducible apply modCrest_kept
    | with_reducible apply modSlice_kept
    | with_reducible apply modReg_kept
    | with_reducible apply modHmod_kept
    | with_reducible apply modPort_kept
    | with_reducible apply addLog_kept
    | with_reducible apply bindSpare_kept
    | with_reducible refine kept_foldl (fun _ _ _ => ?_) ?_
    | with_reducible refine kept_ite ?_ ?_
    | split
    | (with_reducible refine kept_upd ?_ ⟨rfl, rfl, rfl⟩ ⟨rfl, rfl, rfl, rfl⟩; with_reducible assumption)
    | dsimp only

theorem warm_kept (cause : Nat) (hk : Kept false false z s) : Kept false false z (s.warm cause) := by
  unfold State.warm
  extract_lets s1 s2 s3 go s4 s5
  have h3 : Kept false false z s3 :=
    kept_foldl (fun _ _ h => releaseEnergy_kept _ h) (warmUnits_kept (writeBack_kept (abufFlush_kept _ (warmEnds_kept hk))))
  clear_value s3
  have h4 : Kept false false z s4 :=
    h3.trans ⟨rfl, fun m => ⟨rfl, m.2.1, rfl, twf_tclear false s3.hostPoison (2 ^ 47) (2 ^ 48) m.2.2.2⟩, nofun, nofun⟩
  clear_value s4
  have h5 : Kept false false z s5 := by
    dsimp only [s5]
    split
    · exact modMg_any _ h4
    · exact h4
  clear_value s5
  refine applyHw_kept ?_
  split
  · exact h5
  · exact fwWait_kept h5

theorem doResetCrest_kept (l : Nat) (hk : Kept fc fg z s) :
    Kept fc fg z (State.doResetCrest s l) := by
  unfold State.doResetCrest
  repeat' first
    | with_reducible assumption
    | with_reducible apply mgRuns_kept
    | with_reducible apply modMg_kept
    | with_reducible apply mgResult_kept
    | with_reducible apply crestReset_kept
    | with_reducible exact fun _ => ⟨rfl, rfl, rfl⟩
    | with_reducible refine kept_ite ?_ ?_
    | split
    | (with_reducible refine kept_upd ?_ ⟨rfl, rfl, rfl⟩ ⟨rfl, rfl, rfl, rfl⟩; first
        | with_reducible assumption
        | with_reducible apply mgRuns_kept
        | with_reducible apply modMg_kept
        | with_reducible apply mgResult_kept
        | with_reducible apply crestReset_kept
        | with_reducible refine kept_ite ?_ ?_
        | split)
    | dsimp only

theorem mailboxCut_kept (hk : Kept fc fg z s) :
    Kept fc fg z (State.mailboxCut s) := by
  unfold State.mailboxCut
  repeat' first
    | with_reducible assumption
    | with_reducible apply modFw_kept
    | with_reducible apply Epi_stage_kept
    | with_reducible apply fwWait_kept
    | with_reducible apply bump_kept
    | with_reducible apply mbEnd_kept
    | with_reducible refine kept_ite ?_ ?_
    | split
    | (with_reducible refine kept_upd ?_ ⟨rfl, rfl, rfl⟩ ⟨rfl, rfl, rfl, rfl⟩; first
        | with_reducible assumption
        | with_reducible apply modFw_kept
        | with_reducible apply Epi_stage_kept
        | with_reducible apply fwWait_kept
        | with_reducible apply bump_kept
        | with_reducible apply mbEnd_kept
        | with_reducible refine kept_ite ?_ ?_
        | split)
    | dsimp only

theorem hostLinkReset_kept (hk : Kept fc fg z s) :
    Kept fc fg z (State.hostLinkReset s) := by
  unfold State.hostLinkReset
  repeat' first
    | with_reducible assumption
    | with_reducible apply modHmod_kept
    | with_reducible apply mailboxCut_kept
    | with_reducible apply writeBack_kept
    | with_reducible apply modMg_kept
    | with_reducible apply liveChange_kept
    | with_reducible apply hostEvent_kept
    | with_reducible exact fun _ => ⟨rfl, rfl, rfl⟩
    | with_reducible refine kept_foldl (fun _ _ _ => ?_) ?_
    | with_reducible refine kept_foldl_fst (fun _ _ _ => ?_) ?_
    | (with_reducible refine kept_upd ?_ ⟨rfl, rfl, rfl⟩ ⟨rfl, rfl, rfl, rfl⟩; first
        | with_reducible assumption
        | with_reducible apply modHmod_kept
        | with_reducible apply mailboxCut_kept
        | with_reducible apply writeBack_kept
        | with_reducible apply modMg_kept
        | with_reducible apply liveChange_kept
        | with_reducible apply hostEvent_kept
        | with_reducible refine kept_foldl (fun _ _ _ => ?_) ?_
        | with_reducible refine kept_foldl_fst (fun _ _ _ => ?_) ?_)
    | dsimp only

theorem portReset_kept (k : Nat) (hk : Kept fc fg z s) :
    Kept fc fg z (State.portReset s k) := by
  unfold State.portReset
  repeat' first
    | with_reducible assumption
    | with_reducible apply modPort_kept
    | with_reducible apply linkLost_kept
    | with_reducible apply sendLinkmap_kept
    | with_reducible apply peerEvent_kept
    | with_reducible apply liveChange_kept
    | with_reducible refine kept_ite ?_ ?_
    | split
    | (with_reducible refine kept_upd ?_ ⟨rfl, rfl, rfl⟩ ⟨rfl, rfl, rfl, rfl⟩; first
        | with_reducible assumption
        | with_reducible apply modPort_kept
        | with_reducible apply linkLost_kept
        | with_reducible apply sendLinkmap_kept
        | with_reducible apply peerEvent_kept
        | with_reducible apply liveChange_kept
        | with_reducible refine kept_ite ?_ ?_
        | split)
    | dsimp only

theorem doResetLink_kept (target : Nat) (hk : Kept fc fg z s) :
    Kept fc fg z (State.doResetLink s target) := by
  unfold State.doResetLink
  repeat' first
    | with_reducible apply modMg_kept
    | with_reducible apply mgResult_kept
    | with_reducible apply mgRuns_kept
    | with_reducible apply linkDone_kept
    | with_reducible apply hostLinkReset_kept
    | with_reducible apply portReset_kept
    | with_reducible exact fun _ => ⟨rfl, rfl, rfl⟩
    | with_reducible refine kept_ite ?_ ?_
    | split
    | (with_reducible refine kept_upd ?_ ⟨rfl, rfl, rfl⟩ ⟨rfl, rfl, rfl, rfl⟩; with_reducible assumption)

theorem sbReply_kept (status data : Nat) (hk : Kept fc fg z s) :
    Kept fc fg z (State.sbReply s status data) := by
  unfold State.sbReply
  repeat' first
    | with_reducible assumption
    | with_reducible apply emit_kept

theorem answer_kept (status data : Nat) (hk : Kept fc fg z s) :
    Kept fc fg z (State.answer s status data) := by
  unfold State.answer
  repeat' first
    | with_reducible apply modSb_kept
    | with_reducible apply sbReply_kept
    | with_reducible exact fun _ => rfl
    | with_reducible refine kept_ite ?_ ?_
    | split
    | (with_reducible refine kept_upd ?_ ⟨rfl, rfl, rfl⟩ ⟨rfl, rfl, rfl, rfl⟩; with_reducible assumption)

theorem access_kept (p : Path) (write : Bool) {f : State → State × Nat × Nat}
    (g : ∀ s, Kept fc fg z s → Kept fc fg z (f s).1) (hk : Kept fc fg z s) : Kept fc fg z (s.access p write f) := by
  unfold State.access
  dsimp only
  split
  · exact hk
  · split
    · exact answer_kept _ _ (g _ hk)
    · split
      · exact g _ hk
      · exact emit_kept _ (g _ hk)

theorem written_kept (p : Path) {f : State → State} (g : ∀ s, Kept fc fg z s → Kept fc fg z (f s))
    (hk : Kept fc fg z s) : Kept fc fg z (s.written p f) := access_kept p true g hk

theorem badEnc_kept (hk : Kept fc fg z s) :
    Kept fc fg z (State.badEnc s) := by
  unfold State.badEnc
  repeat' first
    | with_reducible apply modMg_kept
    | with_reducible exact fun _ => ⟨rfl, rfl, rfl⟩
    | (with_reducible refine kept_upd ?_ ⟨rfl, rfl, rfl⟩ ⟨rfl, rfl, rfl, rfl⟩; with_reducible assumption)

theorem retireUnit_kept (kind unit : Nat) (hk : Kept fc fg z s) :
    Kept fc fg z (State.retireUnit s kind unit) := by
  unfold State.retireUnit
  repeat' first
    | with_reducible assumption
    | with_reducible apply retireCrest_kept
    | with_reducible apply retireSlice_kept
    | with_reducible apply goOn_kept
    | with_reducible apply retireCol_kept
    | with_reducible apply peersFollow_kept
    | with_reducible apply retireModule_kept
    | with_reducible apply retirePort_kept
    | split
    | (with_reducible refine kept_upd ?_ ⟨rfl, rfl, rfl⟩ ⟨rfl, rfl, rfl, rfl⟩; first
        | with_reducible assumption
        | with_reducible apply retireCrest_kept
        | with_reducible apply retireSlice_kept
        | with_reducible apply goOn_kept
        | with_reducible apply retireCol_kept
        | with_reducible apply peersFollow_kept
        | with_reducible apply retireModule_kept
        | with_reducible apply retirePort_kept
        | split)
    | dsimp only

theorem doRetire_kept (kind unit : Nat) (hk : Kept fc fg z s) :
    Kept fc fg z (State.doRetire s kind unit) := by
  unfold State.doRetire
  repeat' first
    | with_reducible assumption
    | with_reducible apply mgResult_kept
    | with_reducible apply mgRuns_kept
    | with_reducible apply retireUnit_kept
    | with_reducible refine kept_ite ?_ ?_

theorem doSbOpen_kept (hk : Kept fc fg z s) :
    Kept fc fg z (State.doSbOpen s) := by
  unfold State.doSbOpen
  repeat' first
    | with_reducible apply modFw_kept
    | with_reducible apply mgResult_kept
    | (with_reducible refine kept_upd ?_ ⟨rfl, rfl, rfl⟩ ⟨rfl, rfl, rfl, rfl⟩; with_reducible assumption)

theorem doSbActivate_kept (hk : Kept fc fg z s) :
    Kept fc fg z (State.doSbActivate s) := by
  unfold State.doSbActivate
  repeat' first
    | with_reducible apply modMg_kept
    | with_reducible apply modFw_kept
    | with_reducible apply mgResult_kept
    | with_reducible apply mgRuns_kept
    | with_reducible exact fun _ => ⟨rfl, rfl, rfl⟩
    | with_reducible refine kept_ite ?_ ?_
    | split
    | (with_reducible refine kept_upd ?_ ⟨rfl, rfl, rfl⟩ ⟨rfl, rfl, rfl, rfl⟩; with_reducible assumption)

theorem mgStart_kept (path : Path) (v : Nat) (hk : Kept false false z s) :
    Kept false false z (State.mgStart s path v) := by
  unfold State.mgStart
  repeat' first
    | with_reducible apply mgResult_kept
    | with_reducible apply ptCreate_kept
    | with_reducible apply ptReshape_kept
    | with_reducible apply ptDestroy_kept
    | with_reducible apply ptReset_kept
    | with_reducible apply cold_kept
    | with_reducible apply warm_kept
    | with_reducible apply doResetCrest_kept
    | with_reducible apply doResetLink_kept
    | with_reducible apply doRetire_kept
    | with_reducible apply doSbOpen_kept
    | with_reducible apply doSbActivate_kept
    | split
    | (with_reducible refine kept_upd_any ?_; with_reducible assumption)

theorem mgCmd_kept (path : Path) (v : Nat) (hk : Kept false false z s) :
    Kept false false z (State.mgCmd s path v) := by
  unfold State.mgCmd
  repeat' first
    | with_reducible apply modMg_any
    | with_reducible apply mgStart_kept
    | with_reducible refine kept_ite ?_ ?_
    | split
    | (with_reducible refine kept_upd_any ?_; with_reducible assumption)

theorem modStaging_kept (p : Path) (f : Staging → Staging) (hk : Kept fc fg z s) :
    Kept fc fg z (State.modStaging s p f) := by
  unfold State.modStaging
  repeat' first
    | split
    | (with_reducible refine kept_upd ?_ ⟨rfl, rfl, rfl⟩ ⟨rfl, rfl, rfl, rfl⟩; with_reducible assumption)

theorem loadStaging_kept (p : Path) (v : Nat) (hk : Kept fc fg z s) :
    Kept fc fg z (State.loadStaging s p v) := by
  unfold State.loadStaging
  repeat' first
    | with_reducible assumption
    | with_reducible apply modStaging_kept

theorem writePtCtl_kept (p : Path) (v : Nat) (hk : Kept fc fg z s) :
    Kept fc fg z (State.writePtCtl s p v) := by
  unfold State.writePtCtl
  repeat' first
    | with_reducible apply modPart_kept
    | with_reducible apply modStaging_kept
    | with_reducible refine kept_ite ?_ ?_
    | (with_reducible refine kept_upd ?_ ⟨rfl, rfl, rfl⟩ ⟨rfl, rfl, rfl, rfl⟩; with_reducible assumption)

theorem releaseHalt_kept (l : Nat) (hk : Kept fc fg z s) :
    Kept fc fg z (State.releaseHalt s l) := by
  unfold State.releaseHalt
  repeat' first
    | with_reducible apply modCrest_kept
    | with_reducible apply setHold_kept
    | with_reducible apply modMg_kept
    | with_reducible apply addTrace_kept
    | with_reducible apply kick_kept
    | with_reducible exact fun _ => ⟨rfl, rfl, rfl⟩
    | with_reducible refine kept_foldl (fun _ _ _ => ?_) ?_
    | with_reducible refine kept_ite ?_ ?_
    | split
    | (with_reducible refine kept_upd ?_ ⟨rfl, rfl, rfl⟩ ⟨rfl, rfl, rfl, rfl⟩; with_reducible assumption)

theorem toDebug_kept (lvl : Nat) (hk : Kept fc false z s) :
    Kept fc false z (State.toDebug s lvl) := by
  unfold State.toDebug
  repeat' first
    | with_reducible assumption
    | with_reducible apply releaseHalt_kept
    | with_reducible apply modCrest_kept
    | with_reducible apply modMg_any
    | with_reducible apply liveChange_kept
    | with_reducible apply setTaint_kept
    | with_reducible exact fun _ => ⟨rfl, rfl, rfl⟩
    | with_reducible refine kept_foldl (fun _ _ _ => ?_) ?_
    | with_reducible refine kept_foldl_fst (fun _ _ _ => ?_) ?_
    | with_reducible refine kept_ite ?_ ?_
    | split
    | (with_reducible refine kept_upd_mg ?_ ⟨rfl, rfl, rfl⟩; first
        | with_reducible assumption
        | with_reducible apply releaseHalt_kept
        | with_reducible apply modCrest_kept
        | with_reducible apply modMg_any
        | with_reducible apply liveChange_kept
        | with_reducible apply setTaint_kept
        | with_reducible refine kept_foldl (fun _ _ _ => ?_) ?_
        | with_reducible refine kept_foldl_fst (fun _ _ _ => ?_) ?_
        | with_reducible refine kept_ite ?_ ?_
        | split)
    | dsimp only

theorem debugReq_kept (p : Path) (lvl : Nat) (hk : Kept fc false z s) :
    Kept fc false z (State.debugReq s p lvl) := by
  unfold State.debugReq
  repeat' first
    | with_reducible apply modMg_any
    | with_reducible apply badEnc_kept
    | with_reducible apply toDebug_kept
    | with_reducible refine kept_ite ?_ ?_
    | (with_reducible refine kept_upd_mg ?_ ⟨rfl, rfl, rfl⟩; with_reducible assumption)

theorem haltReq_kept (v : Nat) (hk : Kept fc fg z s) :
    Kept fc fg z (State.haltReq s v) := by
  unfold State.haltReq
  repeat' first
    | with_reducible apply modMg_kept
    | with_reducible apply releaseHalt_kept
    | with_reducible exact fun _ => ⟨rfl, rfl, rfl⟩
    | with_reducible refine kept_foldl (fun _ _ _ => ?_) ?_
    | (with_reducible refine kept_upd ?_ ⟨rfl, rfl, rfl⟩ ⟨rfl, rfl, rfl, rfl⟩; with_reducible assumption)

theorem writeMailbox_kept (off v : Nat) (hk : Kept fc fg z s) :
    Kept fc fg z (State.writeMailbox s off v) := by
  unfold State.writeMailbox
  repeat' first
    | with_reducible apply modFw_kept
    | with_reducible apply mbEnd_kept
    | with_reducible refine kept_ite ?_ ?_
    | (with_reducible refine kept_upd ?_ ⟨rfl, rfl, rfl⟩ ⟨rfl, rfl, rfl, rfl⟩; with_reducible assumption)

theorem bankWrite_kept (path : Path) (bank w v : Nat) (hk : Kept fc fg z s) :
    Kept fc fg z (State.bankWrite s path bank w v) := by
  unfold State.bankWrite
  repeat' first
    | with_reducible apply modFw_kept
    | with_reducible refine kept_ite ?_ ?_
    | split
    | (with_reducible refine kept_upd ?_ ⟨rfl, rfl, rfl⟩ ⟨rfl, rfl, rfl, rfl⟩; with_reducible assumption)

theorem setIndAddr_kept (p : Path) (v : Nat) (hk : Kept fc fg z s) :
    Kept fc fg z (State.setIndAddr s p v) := by
  unfold State.setIndAddr
  repeat' first
    | with_reducible apply modMg_kept
    | with_reducible exact fun _ => ⟨rfl, rfl, rfl⟩
    | split
    | (with_reducible refine kept_upd ?_ ⟨rfl, rfl, rfl⟩ ⟨rfl, rfl, rfl, rfl⟩; with_reducible assumption)

theorem indirect_kept (p : Path) (w : Option Word) (inc reachable : Bool) (hk : Kept fc fg z s) :
    Kept fc fg z (State.indirect s p w inc reachable).1 := by
  unfold State.indirect
  repeat' first
    | with_reducible apply modMg_kept
    | with_reducible apply bankWrite_kept
    | with_reducible apply setIndAddr_kept
    | with_reducible exact fun _ => ⟨rfl, rfl, rfl⟩
    | split
    | (with_reducible refine kept_upd ?_ ⟨rfl, rfl, rfl⟩ ⟨rfl, rfl, rfl, rfl⟩; with_reducible assumption)

theorem dbgStore_kept (a : Nat) (w : Option Word) (hk : Kept fc fg z s) : Kept fc fg z (s.dbgStore a w).1 := by
  unfold State.dbgStore
  dsimp only
  repeat' split
  all_goals first
    | exact hk
    | exact modSlice_kept _ _ hk
    | exact wakeSlice_kept _ hk
    | exact (wakeSlice_kept _ hk).trans ⟨rfl, fun m => ⟨twf_tsetFrom _ _ _ _ m.1, m.2⟩, fun _ => ⟨rfl, rfl, rfl⟩, fun _ => ⟨rfl, rfl, rfl, rfl⟩⟩

theorem dbgAccess_kept (w : Option Word) (hk : Kept fc fg z s) :
    Kept fc fg z (State.dbgAccess s w).1 := by
  unfold State.dbgAccess
  repeat' first
    | with_reducible assumption
    | with_reducible apply dbgStore_kept
    | with_reducible apply wakeIdle_kept
    | with_reducible apply modCrest_kept
    | with_reducible apply modCmd_kept
    | with_reducible refine kept_foldl (fun _ _ _ => ?_) ?_
    | with_reducible refine kept_foldl_fst (fun _ _ _ => ?_) ?_
    | with_reducible refine kept_ite ?_ ?_
    | split
    | (with_reducible refine kept_upd ?_ ⟨rfl, rfl, rfl⟩ ⟨rfl, rfl, rfl, rfl⟩; with_reducible assumption)
    | dsimp only

theorem dbgPort_kept (w : Option Word) (inc : Bool) (hk : Kept fc fg z s) :
    Kept fc fg z (State.dbgPort s w inc).1 := by
  unfold State.dbgPort
  repeat' first
    | with_reducible apply modMg_kept
    | with_reducible apply dbgAccess_kept
    | with_reducible exact fun _ => ⟨rfl, rfl, rfl⟩
    | split
    | (with_reducible refine kept_upd ?_ ⟨rfl, rfl, rfl⟩ ⟨rfl, rfl, rfl, rfl⟩; with_reducible assumption)
    | dsimp only

theorem writeMode_kept (v : Nat) (hk : Kept fc fg z s) :
    Kept fc fg z (State.writeMode s v) := by
  unfold State.writeMode
  repeat' first
    | with_reducible apply modPwr_kept
    | with_reducible apply applyHw_kept
    | with_reducible apply badEnc_kept
    | with_reducible exact fun _ => ⟨rfl, rfl, rfl⟩
    | with_reducible refine kept_ite ?_ ?_
    | split
    | (with_reducible refine kept_upd ?_ ⟨rfl, rfl, rfl⟩ ⟨rfl, rfl, rfl, rfl⟩; with_reducible assumption)

theorem clearLearned_kept (hk : Kept fc fg z s) :
    Kept fc fg z (State.clearLearned s) := by
  unfold State.clearLearned
  repeat' first
    | with_reducible apply modCrest_kept
    | with_reducible refine kept_foldl (fun _ _ _ => ?_) ?_
    | (with_reducible refine kept_upd ?_ ⟨rfl, rfl, rfl⟩ ⟨rfl, rfl, rfl, rfl⟩; with_reducible assumption)

theorem writePw_kept (a v : Nat) (hk : Kept false fg z s) :
    Kept false fg z (State.writePw s a v) := by
  unfold State.writePw
  repeat' first
    | with_reducible apply modPwr_any
    | with_reducible apply badEnc_kept
    | with_reducible apply writeMode_kept
    | with_reducible apply clearLearned_kept
    | with_reducible refine kept_ite ?_ ?_
    | split
    | (with_reducible refine kept_upd_pwr ?_ ⟨rfl, rfl, rfl, rfl⟩; with_reducible assumption)

theorem writePolicy_kept (v : Nat) (hk : Kept fc fg z s) :
    Kept fc fg z (State.writePolicy s v) := by
  unfold State.writePolicy
  repeat' first
    | with_reducible apply modMg_kept
    | with_reducible exact fun _ => ⟨rfl, rfl, rfl⟩
    | (with_reducible refine kept_upd ?_ ⟨rfl, rfl, rfl⟩ ⟨rfl, rfl, rfl, rfl⟩; with_reducible assumption)

theorem writeThresh_kept (v : Nat) (hk : Kept fc fg z s) :
    Kept fc fg z (State.writeThresh s v) := by
  unfold State.writeThresh
  repeat' first
    | with_reducible apply modMg_kept
    | with_reducible apply liveChange_kept
    | with_reducible apply badEnc_kept
    | with_reducible exact fun _ => ⟨rfl, rfl, rfl⟩
    | with_reducible refine kept_ite ?_ ?_
    | split
    | (with_reducible refine kept_upd ?_ ⟨rfl, rfl, rfl⟩ ⟨rfl, rfl, rfl, rfl⟩; with_reducible assumption)

theorem writeDiag_kept (v : Nat) (hk : Kept fc fg z s) :
    Kept fc fg z (State.writeDiag s v) := by
  unfold State.writeDiag
  repeat' first
    | with_reducible apply modMg_kept
    | with_reducible apply badEnc_kept
    | with_reducible exact fun _ => ⟨rfl, rfl, rfl⟩
    | with_reducible refine kept_ite ?_ ?_
    | split
    | (with_reducible refine kept_upd ?_ ⟨rfl, rfl, rfl⟩ ⟨rfl, rfl, rfl, rfl⟩; with_reducible assumption)

theorem writePt_kept (p : Path) (a v : Nat) (hk : Kept fc fg z s) :
    Kept fc fg z (State.writePt s p a v) := by
  unfold State.writePt
  repeat' first
    | with_reducible apply modPart_kept
    | with_reducible apply modStaging_kept
    | with_reducible apply loadStaging_kept
    | with_reducible refine kept_ite ?_ ?_
    | split
    | (with_reducible refine kept_upd ?_ ⟨rfl, rfl, rfl⟩ ⟨rfl, rfl, rfl, rfl⟩; with_reducible assumption)

theorem writeSb_kept (a v : Nat) (hk : Kept fc fg z s) :
    Kept fc fg z (State.writeSb s a v) := by
  unfold State.writeSb
  repeat' first
    | with_reducible apply modSb_kept
    | with_reducible exact fun _ => rfl
    | split
    | (with_reducible refine kept_upd ?_ ⟨rfl, rfl, rfl⟩ ⟨rfl, rfl, rfl, rfl⟩; with_reducible assumption)

theorem writeDbg_kept (a v : Nat) (hk : Kept fc fg z s) :
    Kept fc fg z (State.writeDbg s a v) := by
  unfold State.writeDbg
  repeat' first
    | with_reducible apply modMg_kept
    | with_reducible apply badEnc_kept
    | with_reducible apply haltReq_kept
    | with_reducible exact fun _ => ⟨rfl, rfl, rfl⟩
    | with_reducible refine kept_ite ?_ ?_
    | split
    | (with_reducible refine kept_upd ?_ ⟨rfl, rfl, rfl⟩ ⟨rfl, rfl, rfl, rfl⟩; with_reducible assumption)

theorem writeBank_kept (p : Path) (v : Nat) (hk : Kept fc fg z s) :
    Kept fc fg z (State.writeBank s p v) := by
  unfold State.writeBank
  repeat' first
    | with_reducible apply modMg_kept
    | with_reducible apply badEnc_kept
    | with_reducible exact fun _ => ⟨rfl, rfl, rfl⟩
    | with_reducible refine kept_ite ?_ ?_
    | split
    | (with_reducible refine kept_upd ?_ ⟨rfl, rfl, rfl⟩ ⟨rfl, rfl, rfl, rfl⟩; with_reducible assumption)

theorem writeDebugReq_kept (p : Path) (v : Nat) (hk : Kept fc false z s) :
    Kept fc false z (State.writeDebugReq s p v) := by
  unfold State.writeDebugReq
  repeat' first
    | with_reducible apply modMg_any
    | with_reducible apply debugReq_kept
    | with_reducible refine kept_ite ?_ ?_
    | split
    | (with_reducible refine kept_upd_mg ?_ ⟨rfl, rfl, rfl⟩; with_reducible assumption)

theorem regWrite_kept (p : Path) (a v : Nat) (hk : Kept false false z s) :
    Kept false false z (State.regWrite s p a v) := by
  unfold State.regWrite
  repeat' first
    | with_reducible apply modMg_any
    | with_reducible apply mgCmd_kept
    | with_reducible apply writePtCtl_kept
    | with_reducible apply setIndAddr_kept
    | with_reducible apply indirect_kept
    | with_reducible apply dbgPort_kept
    | with_reducible apply writePw_kept
    | with_reducible apply writePolicy_kept
    | with_reducible apply writeThresh_kept
    | with_reducible apply writeDiag_kept
    | with_reducible apply writePt_kept
    | with_reducible apply writeSb_kept
    | with_reducible apply writeDbg_kept
    | with_reducible apply writeBank_kept
    | with_reducible apply writeDebugReq_kept
    | with_reducible refine kept_ite ?_ ?_
    | (with_reducible refine kept_upd_any ?_; with_reducible assumption)

theorem writeBias_kept (off v : Nat) (hk : Kept fc fg z s) :
    Kept fc fg z (State.writeBias s off v) := by
  unfold State.writeBias
  repeat' first
    | with_reducible apply biasStart_kept
    | with_reducible refine kept_ite ?_ ?_
    | (with_reducible refine kept_upd ?_ ⟨rfl, rfl, rfl⟩ ⟨rfl, rfl, rfl, rfl⟩; with_reducible assumption)

theorem writeMsix_kept (vec w v : Nat) (hk : Kept fc fg z s) :
    Kept fc fg z (State.writeMsix s vec w v) := by
  unfold State.writeMsix
  try dsimp only
  repeat' first
    | with_reducible apply emit_kept
    | with_reducible refine kept_ite ?_ ?_
    | split
    | (with_reducible refine kept_upd ?_ ⟨rfl, rfl, rfl⟩ ⟨rfl, rfl, rfl, rfl⟩; with_reducible assumption)

theorem indRow_kept (p : Path) (w : Option Word) (inc reachable : Bool) (hk : Kept fc fg z s) :
    Kept fc fg z (State.indRow s p w inc reachable) := by
  unfold State.indRow
  repeat' first
    | with_reducible assumption
    | with_reducible refine access_kept _ _ (fun _ _ => ?_) ?_
    | with_reducible apply indirect_kept
    | with_reducible refine kept_ite ?_ ?_
    | split
    | (with_reducible refine kept_upd ?_ ⟨rfl, rfl, rfl⟩ ⟨rfl, rfl, rfl, rfl⟩; with_reducible assumption)
    | dsimp only

theorem dbgRow_kept (p : Path) (w : Option Word) (inc : Bool) (hk : Kept fc fg z s) :
    Kept fc fg z (State.dbgRow s p w inc) := by
  unfold State.dbgRow
  repeat' first
    | with_reducible assumption
    | with_reducible refine access_kept _ _ (fun _ _ => ?_) ?_
    | with_reducible apply dbgPort_kept
    | split
    | (with_reducible refine kept_upd ?_ ⟨rfl, rfl, rfl⟩ ⟨rfl, rfl, rfl, rfl⟩; with_reducible assumption)
    | dsimp only

theorem energyLo_kept (hk : Kept fc fg z s) :
    Kept fc fg z (State.energyLo s).1 := by
  unfold State.energyLo
  repeat' first
    | with_reducible apply modPwr_kept
    | with_reducible exact fun _ => ⟨rfl, rfl, rfl⟩
    | (with_reducible refine kept_upd ?_ ⟨rfl, rfl, rfl⟩ ⟨rfl, rfl, rfl, rfl⟩; with_reducible assumption)

theorem sbFrame_kept (op addr : Nat) (data : Option Nat) (crc : Nat) {f : State → State × Nat × Nat}
    (g : ∀ s, Kept fc fg z s → Kept fc fg z (f s).1) (hk : Kept fc fg z s) :
    Kept fc fg z (s.sbFrame op addr data crc f) := by
  unfold State.sbFrame
  dsimp only
  repeat' first
    | with_reducible assumption
    | with_reducible apply answer_kept
    | with_reducible apply g
    | split

theorem portRead_kept (a : Nat) (reachable : Bool) (hk : Kept fc fg z s) :
    Kept fc fg z (State.portRead a reachable s).1 := by
  unfold State.portRead
  repeat' first
    | with_reducible assumption
    | with_reducible apply indirect_kept
    | with_reducible apply dbgPort_kept
    | with_reducible apply energyLo_kept
    | split

theorem portWrite_kept (a v : Nat) (reachable : Bool) (hk : Kept false false z s) :
    Kept false false z (State.portWrite a v reachable s).1 := by
  unfold State.portWrite
  repeat' first
    | with_reducible assumption
    | with_reducible apply indirect_kept
    | with_reducible apply dbgPort_kept
    | with_reducible apply regWrite_kept
    | split

theorem portReadInc_kept (a : Nat) (reachable : Bool) (hk : Kept fc fg z s) :
    Kept fc fg z (State.portReadInc a reachable s).1 := by
  unfold State.portReadInc
  repeat' first
    | with_reducible assumption
    | with_reducible apply setIndAddr_kept
    | with_reducible apply indirect_kept
    | split
    | dsimp only

theorem latchEpoch_kept (hk : Kept fc fg z s) :
    Kept fc fg z (State.latchEpoch s) := by
  unfold State.latchEpoch
  repeat' first
    | with_reducible assumption
    | with_reducible apply modSb_kept
    | with_reducible exact fun _ => rfl
    | (with_reducible refine kept_upd ?_ ⟨rfl, rfl, rfl⟩ ⟨rfl, rfl, rfl, rfl⟩; first
        | with_reducible assumption
        | with_reducible apply modSb_kept)
    | dsimp only

theorem arm_kept (hk : Kept fc fg z s) :
    Kept fc fg z (State.arm s) := by
  unfold State.arm
  repeat' first
    | with_reducible assumption
    | with_reducible apply modSb_kept
    | with_reducible exact fun _ => rfl
    | (with_reducible refine kept_upd ?_ ⟨rfl, rfl, rfl⟩ ⟨rfl, rfl, rfl, rfl⟩; first
        | with_reducible assumption
        | with_reducible apply modSb_kept)
    | dsimp only

theorem disarm_kept (hk : Kept fc fg z s) :
    Kept fc fg z (State.disarm s) := by
  unfold State.disarm
  repeat' first
    | with_reducible assumption
    | with_reducible apply modSb_kept
    | with_reducible apply latchEpoch_kept
    | with_reducible exact fun _ => rfl
    | with_reducible refine kept_ite ?_ ?_
    | split
    | (with_reducible refine kept_upd ?_ ⟨rfl, rfl, rfl⟩ ⟨rfl, rfl, rfl, rfl⟩; first
        | with_reducible assumption
        | with_reducible apply modSb_kept
        | with_reducible apply latchEpoch_kept
        | with_reducible refine kept_ite ?_ ?_
        | split)
    | dsimp only

theorem sync_kept (addr : Nat) (hk : Kept fc fg z s) :
    Kept fc fg z (State.sync s addr).1 := by
  unfold State.sync
  repeat' first
    | with_reducible assumption
    | with_reducible apply arm_kept
    | with_reducible apply disarm_kept
    | with_reducible refine kept_ite ?_ ?_
    | split
    | (with_reducible refine kept_upd ?_ ⟨rfl, rfl, rfl⟩ ⟨rfl, rfl, rfl, rfl⟩; with_reducible assumption)
    | dsimp only

theorem slot4_kept (asserted : Bool) (hk : Kept fc fg z s) :
    Kept fc fg z (State.slot4 s asserted) := by
  unfold State.slot4
  repeat' first
    | with_reducible apply modPwr_kept
    | with_reducible apply modSb_kept
    | with_reducible apply alert_kept
    | with_reducible apply addLog_kept
    | with_reducible exact fun _ => ⟨rfl, rfl, rfl⟩
    | with_reducible exact fun _ => rfl
    | with_reducible refine kept_ite ?_ ?_
    | (with_reducible refine kept_upd ?_ ⟨rfl, rfl, rfl⟩ ⟨rfl, rfl, rfl, rfl⟩; with_reducible assumption)

theorem slot5_kept (asserted : Bool) (hk : Kept fc fg z s) :
    Kept fc fg z (State.slot5 s asserted) := by
  unfold State.slot5
  repeat' first
    | with_reducible apply modPwr_kept
    | with_reducible apply modSb_kept
    | with_reducible exact fun _ => ⟨rfl, rfl, rfl⟩
    | with_reducible exact fun _ => rfl
    | with_reducible refine kept_ite ?_ ?_
    | split
    | (with_reducible refine kept_upd ?_ ⟨rfl, rfl, rfl⟩ ⟨rfl, rfl, rfl, rfl⟩; with_reducible assumption)

theorem validSlots_kept (r : Nat) (hk : Kept fc fg z s) :
    Kept fc fg z (State.validSlots s r) := by
  unfold State.validSlots
  repeat' first
    | with_reducible apply modSb_kept
    | with_reducible exact fun _ => rfl
    | (with_reducible refine kept_upd ?_ ⟨rfl, rfl, rfl⟩ ⟨rfl, rfl, rfl, rfl⟩; with_reducible assumption)

end Sys2Proof.Machine
end

