-- ==== Sys2Proof/Laws/Lanes.lean ====
section
/-!
SUPPORT. What a register or an accumulator row reads after a write to masked lanes (R78), and what one issued vector
instruction does (R74, R75, R95).
-/
namespace Sys2Proof.Machine

/-- A lane after a write of masked lanes from key `k` on. -/
theorem tget_putLanes (t : Tbl Word) (k : Nat) (m : LaneMask) (vs : List Word) (j : Nat) :
    tget 0#32 (putLanes t k m vs) j =
      if k ≤ j ∧ j < k + vs.length ∧ m (j - k) = true then vs.getD (j - k) 0#32 else tget 0#32 t j := by
  have go : ∀ (l : List Nat) (u : Tbl Word),
      tget 0#32 (l.foldl (fun t i => if m i then tset 0#32 t (k + i) (vs.getD i 0#32) else t) u) j =
        if k ≤ j ∧ j - k ∈ l ∧ m (j - k) = true then vs.getD (j - k) 0#32 else tget 0#32 u j := by
    intro l
    induction l with
    | nil => intro u; simp
    | cons i l ih =>
      intro u
      rw [List.foldl_cons, ih]
      by_cases hin : k ≤ j ∧ j - k ∈ l ∧ m (j - k) = true
      · rw [if_pos hin, if_pos ⟨hin.1, by simp [hin.2.1], hin.2.2⟩]
      · rw [if_neg hin]
        by_cases hj : j = k + i
        · subst hj
          have hs : k + i - k = i := by omega
          rw [hs] at hin ⊢
          by_cases hm : m i = true
          · simp [hm]
          · simp [hm]
        · have hne : ¬ (k ≤ j ∧ j - k = i) := by omega
          have e : (k ≤ j ∧ j - k ∈ i :: l ∧ m (j - k) = true) ↔ (k ≤ j ∧ j - k ∈ l ∧ m (j - k) = true) := by
            constructor
            · rintro ⟨h1, h2, h3⟩
              rcases List.mem_cons.1 h2 with h | h
              · exact absurd ⟨h1, h⟩ hne
              · exact ⟨h1, h, h3⟩
            · rintro ⟨h1, h2, h3⟩; exact ⟨h1, by simp [h2], h3⟩
          rw [if_neg (fun h => hin (e.1 h))]
          split
          · exact tget_tset_other _ _ _ _ hj
          · rfl
  unfold putLanes
  rw [go]
  by_cases h : k ≤ j ∧ j - k < vs.length ∧ m (j - k) = true
  · have h2 : k ≤ j ∧ j < k + vs.length ∧ m (j - k) = true := ⟨h.1, by omega, h.2.2⟩
    simp only [List.mem_range, if_pos h, if_pos h2]
  · have h2 : ¬ (k ≤ j ∧ j < k + vs.length ∧ m (j - k) = true) := fun h' => h ⟨h'.1, by omega, h'.2.2⟩
    simp only [List.mem_range, if_neg h, if_neg h2]

/-- Lane `k` of a register that is read whole. -/
theorem vreg_getD (x : Crest) (r k : Nat) (d : Word) (h : k < 128) : (x.vreg r).getD k d = tget 0#32 x.V (r * 128 + k) := by
  simp [Crest.vreg, tgetFrom, h]

@[simp] theorem vreg_length (x : Crest) (r : Nat) : (x.vreg r).length = 128 := by simp [Crest.vreg, tgetFrom]

/-- A lane of V[q] after V[r] has been written in the lanes of a mask (R78). -/
theorem lane_setV (x : Crest) (r : Nat) (m : LaneMask) (vs : List Word) (q k : Nat) (h : k < 128)
    (hl : vs.length = 128) :
    tget 0#32 (x.setV r m vs).V (q * 128 + k) =
      if q = r ∧ m k = true then vs.getD k 0#32 else tget 0#32 x.V (q * 128 + k) := by
  simp only [Crest.setV, tget_putLanes, hl]
  by_cases hq : q = r
  · subst hq
    have h1 : q * 128 + k - q * 128 = k := by omega
    rw [h1]
    have h2 : q * 128 ≤ q * 128 + k ∧ q * 128 + k < q * 128 + 128 := by omega
    simp [h2]
  · have : ¬ (r * 128 ≤ q * 128 + k ∧ q * 128 + k < r * 128 + 128 ∧ m (q * 128 + k - r * 128) = true) := by omega
    simp [this, hq]

@[simp] theorem sreg_setS (x : Crest) (r : Nat) (v : Word) (q : Nat) :
    (x.setS r v).sreg q = if q = r then v else x.sreg q := by simp [Crest.setS, Crest.sreg, tget_tset]

theorem mreg_setM (x : Crest) (r : Nat) (v : BitVec 128) (q : Nat) :
    (x.setM r v).mreg q = if q = r ∧ r ≠ 0 then v else x.mreg q := by
  unfold Crest.setM Crest.mreg
  by_cases hr : r = 0
  · simp [hr]
  · by_cases hq : q = r
    · subst hq; simp [hr]
    · simp [hr, hq, tget_tset]

/-- What one vector instruction does, said once: nothing where no invocation runs or the word at PC is not it; the
command's end at STEP_LIMIT; else its body on the state with the instruction issued, or the abort that it meets. -/
theorem vstep_cases (s : State) (p op : Nat) (i : VInst) (n : Nat) (body : VBody) :
    (s.vstep p op i n body = .next s) ∨
    (∃ v c, (s.crest p).inv = some v ∧ s.cmd? v.q v.t = some c ∧ (s.crest p).works = true ∧
      (((tget {} (s.crest p).handles v.handle).limit ≤ (s.crest p).steps ∧
          s.vstep p op i n body = .next (s.abort v.q v.t sFault 0x44)) ∨
        ((s.crest p).steps < (tget {} (s.crest p).handles v.handle).limit ∧
          let u := s.issue p v.q v.t ((s.crest p).waitFor op i + n)
          ((∃ t, body u c = .ok t ∧ s.vstep p op i n body = .next t) ∨
            (∃ r, body u c = .error r ∧ s.vstep p op i n body = .next (u.abort v.q v.t r.1 r.2)))))) := by
  unfold State.vstep
  cases hv : (s.crest p).inv with
  | none => left; simp [hv]
  | some v =>
    cases hc : s.cmd? v.q v.t with
    | none => left; simp [hv, hc]
    | some c =>
      simp only [hv, hc]
      split
      · left; rfl
      · rename_i hw
        right
        refine ⟨v, c, rfl, hc, ?_, ?_⟩
        · simp at hw; exact hw.1.1
        · split
          · left; exact ⟨by assumption, rfl⟩
          · right
            refine ⟨by omega, ?_⟩
            cases hb : body _ c with
            | ok t => left; exact ⟨t, rfl, rfl⟩
            | error r => right; exact ⟨r, rfl, rfl⟩

/-- An instruction that is issued does what its body says, if that is no abort. -/
theorem vstep_ok (s : State) (p op : Nat) (i : VInst) (n : Nat) (body : VBody) (v : Inv) (c : Cmd) (t : State)
    (hw : (s.crest p).works = true) (ho : vOp (tget 0#64 (s.crest p).prog (s.crest p).pc) = op)
    (hi : vDec (tget 0#64 (s.crest p).prog (s.crest p).pc) = i) (hv : (s.crest p).inv = some v)
    (hc : s.cmd? v.q v.t = some c) (hl : (s.crest p).steps < (tget {} (s.crest p).handles v.handle).limit)
    (hb : body (s.issue p v.q v.t ((s.crest p).waitFor op i + n)) c = .ok t) :
    s.vstep p op i n body = .next t := by
  have h : ¬ (tget {} (s.crest p).handles v.handle).limit ≤ (s.crest p).steps := by omega
  simp only [State.vstep, hv, hc]
  rw [if_neg (by simp [hw, ho, hi]), if_neg h, hb]

/-- An instruction whose body meets an abort ends its command with it. -/
theorem vstep_error (s : State) (p op : Nat) (i : VInst) (n : Nat) (body : VBody) (v : Inv) (c : Cmd) (r : Nat × Nat)
    (hw : (s.crest p).works = true) (ho : vOp (tget 0#64 (s.crest p).prog (s.crest p).pc) = op)
    (hi : vDec (tget 0#64 (s.crest p).prog (s.crest p).pc) = i) (hv : (s.crest p).inv = some v)
    (hc : s.cmd? v.q v.t = some c) (hl : (s.crest p).steps < (tget {} (s.crest p).handles v.handle).limit)
    (hb : body (s.issue p v.q v.t ((s.crest p).waitFor op i + n)) c = .error r) :
    s.vstep p op i n body = .next ((s.issue p v.q v.t ((s.crest p).waitFor op i + n)).abort v.q v.t r.1 r.2) := by
  have h : ¬ (tget {} (s.crest p).handles v.handle).limit ≤ (s.crest p).steps := by omega
  simp only [State.vstep, hv, hc]
  rw [if_neg (by simp [hw, ho, hi]), if_neg h, hb]

end Sys2Proof.Machine
end

