-- ==== Sys2Proof/Tests/Slice0.lean ====
section
/-!
SUPPORT. Tests: an ill-formed command for each check of `Instr.wf`; a state and operands that meet the hypotheses of each
statement, clause by clause; and single steps whose results the spec states.
-/
set_option Elab.async false

namespace Sys2Proof.Tests
open Sys2Proof Sys2Proof.Machine Sys2Proof.Claim

/-! Small states. -/

/-- A die that serves, its register port in SERVICE phase at position 0. -/
def boot : State :=
  { State.reset with
    mg := { State.reset.mg with stage := 8, fwRunning := true, device := 2, capBuilt := true, cause := 0 }
    sb := { State.reset.sb with service := true }
    hostConfig := 1 }

/-- With an ACTIVE partition 0 that owns crests 0 and 1, slices 0 and 1 and queues 0 and 1. -/
def owned : State :=
  { boot with parts := [(0, { crests := 3, slices := 3, queues := 3, st := 1 })]
              slices := [(0, { pw := .on }), (1, { pw := .on })] }

/-- The instruction whose fields are all zero. -/
def i0 : VInst := ⟨0, 0, 0, 0, 0, 0, 0, 0⟩
/-- A command that runs. -/
def vCmd : Cmd := { q := 0, t := 0, started := true, total := 1, next := 1 }
/-- Crest 0 runs an invocation of it, the word `w` at PC 0, with scalars `S`. -/
def vState (w : DWord) (S : Tbl Word) (ph : Nat) : State :=
  { owned with
    cmds := [vCmd]
    crests := [(0, { pw := .run, held := [(0, 0)], work := [{ phase := ph }], inv := some {}, prog := [(0, w)], S := S
                     handles := [(0, { bound := true, count := 4, limit := 10 })] })] }

theorem vState_runs (w : DWord) (S : Tbl Word) (ph op : Nat) (i : VInst) (ho : vOp w = op) (hd : vDec w = i) :
    Runs (vState w S ph) 0 op i vCmd := ⟨rfl, ho, hd, {}, rfl, rfl, show (0 : Nat) < 10 by decide⟩

/-- The opcodes of Table VEC-5. -/
def ops : List Nat :=
  [0x00, 0x01, 0x02, 0x03, 0x08, 0x09, 0x0A, 0x0B, 0x10, 0x11, 0x12, 0x13, 0x14, 0x15, 0x16, 0x17, 0x20, 0x21, 0x22, 0x28,
   0x29, 0x30, 0x31, 0x32, 0x33, 0x34, 0x38, 0x40]

theorem ops_encode : ∀ op ∈ ops, vOp (vEnc op i0) = op ∧ vDec (vEnc op i0) = i0 := by decide

theorem runs_of (op : Nat) (h : op ∈ ops) (S : Tbl Word) (ph : Nat) : Runs (vState (vEnc op i0) S ph) 0 op i0 vCmd :=
  vState_runs _ S ph op i0 (ops_encode op h).1 (ops_encode op h).2

/-! What the statements assume can be met. -/

theorem witness_StepRunsTheFrontCommandOrIdles :
    ({ boot with pending := [.portIdle, .vinHigh] } : State).pending = .portIdle :: [.vinHigh] ∧ boot.pending = [] := by decide

theorem witness_ExecLeavesTheQueueAlone : exec .portIdle boot = .next boot := rfl

theorem witness_VectorFloatLanes : ∀ op ∈ [0x10, 0x11, 0x12, 0x13, 0x14, 0x15, 0x16],
    Runs (vState (vEnc op i0) [] 4) 0 op i0 vCmd := fun op h => runs_of op (by revert op; decide) [] 4

theorem witness_VectorIntegerAndMoveLanes : ∀ op ∈ [0x20, 0x0A, 0x0B, 0x22, 0x29, 0x40],
    Runs (vState (vEnc op i0) [] 4) 0 op i0 vCmd := fun op h => runs_of op (by revert op; decide) [] 4

theorem witness_VectorMasksAndScalars : ∀ op ∈ [0x17, 0x21, 0x08, 0x09, 0x38],
    Runs (vState (vEnc op i0) [] 4) 0 op i0 vCmd := fun op h => runs_of op (by revert op; decide) [] 4

/-- A BR that is not taken: sub 2, S[0] = 0. -/
def i2 : VInst := { i0 with sub := 2 }

theorem witness_VectorBranches :
    Runs (vState (vEnc 0 i0) [] 4) 0 0 i0 vCmd ∧
    (Runs (vState (vEnc 2 i2) [] 4) 0 2 i2 vCmd ∧ brTaken i2 ((vState (vEnc 2 i2) [] 4).crest 0) = false) ∧
    (Runs (vState (vEnc 2 i0) [] 4) 0 2 i0 vCmd ∧ brTaken i0 ((vState (vEnc 2 i0) [] 4).crest 0) = true) ∧
    Runs (vState (vEnc 3 i0) [(0, 1#32)] 4) 0 3 i0 vCmd :=
  ⟨runs_of 0 (by decide) [] 4, ⟨vState_runs _ _ _ _ _ (by decide) (by decide), by decide⟩,
    ⟨runs_of 2 (by decide) [] 4, by decide⟩, runs_of 3 (by decide) _ 4⟩

/-- Rows 127 and 128: the last row and the first beyond it. -/
theorem witness_AccumulatorRowsMove : ∀ op ∈ [0x30, 0x31],
    (Runs (vState (vEnc op i0) [(0, 127#32)] 4) 0 op i0 vCmd ∧
      vRowOk i0 ((vState (vEnc op i0) [(0, 127#32)] 4).crest 0) = true) ∧
    (Runs (vState (vEnc op i0) [(0, 128#32)] 4) 0 op i0 vCmd ∧
      vRowOk i0 ((vState (vEnc op i0) [(0, 128#32)] 4).crest 0) = false) :=
  fun op h => ⟨⟨runs_of op (by revert op; decide) _ 4, by revert op; decide⟩,
    ⟨runs_of op (by revert op; decide) _ 4, by revert op; decide⟩⟩

/-- Slice 0 copies its row 0 to a spare. -/
def copying (s : State) : State := s.modSlice 0 fun x => { x with sparing := some (0, false) }

/-- The bytes of `gs` lie open in a state with nothing pending, cached or disturbed. -/
theorem plain_low (s : State) (gs : List Nat) (hf : s.flaws = []) (hp : s.pend = []) (hb : s.bias = {}) (he : s.evict = [])
    (h : (gs.all fun g => decide (g < hostBase ∧ (s.slice (g / 2 ^ 24)).pw = .on ∧ (s.slice (g / 2 ^ 24)).unavailable = false ∧
      (s.slice (g / 2 ^ 24)).sparing = none ∧ s.sliceRetired (g / 2 ^ 24) = false ∧ s.linePoison (g / 64) = false ∧
      s.inAbuf g = false)) = true) : Plain s gs := by
  simp only [List.all_eq_true, decide_eq_true_eq] at h
  refine ⟨fun g m => ?_, fun g m => ?_, hf, by rw [hb]⟩
  · obtain ⟨a, b, c, d, e, _⟩ := h g m
    exact ⟨a, b, c, d, e⟩
  · obtain ⟨_, _, _, _, _, f, k⟩ := h g m
    exact ⟨by simp [State.hostBias, hb, tget], f, by simp [hp], k, by simp [he]⟩

/-- INT8: 128 bytes. -/
def i9 : VInst := { i0 with sub := 9 }

theorem witness_VectorStoreAccesses :
    ((let s := vState (vEnc 0x32 i9) [] 4
      let gs := s.gaddrs 0 0 128
      Runs s 0 0x32 i9 vCmd ∧ s.mayReach vCmd 0 128 = true ∧ Plain s gs ∧ s.heldBy false gs = none ∧
        ((issued s 0 0x32 i9 vCmd 1).crestReads 0 0 gs []).accessFault gs = none) ∧
     (let s := vState (vEnc 0x32 i9) [(0, 0x2000000#32)] 4
      Runs s 0 0x32 i9 vCmd ∧ s.mayReach vCmd 0x2000000 128 = false) ∧
     (let s := copying (vState (vEnc 0x32 i9) [] 4)
      s.mayReach vCmd 0 128 = true ∧ s.heldBy false (s.gaddrs 0 0 128) = some (.sparing 0))) ∧
    ((let s := vState (vEnc 0x33 i9) [] 4
      Runs s 0 0x33 i9 vCmd ∧ rowArray 9 ≠ 0 ∧ rowScales 9 = 0 ∧ s.mayReach vCmd 0 (rowArray 9) = true ∧
        Plain s (s.gaddrs 0 0 (rowArray 9) ++ s.gaddrs 0 0 0)) ∧
     (let s := vState (vEnc 0x33 i9) [(0, 0x2000000#32)] 4
      Runs s 0 0x33 i9 vCmd ∧ s.mayReach vCmd 0x2000000 (rowArray 9) = false) ∧
     (let s := copying (vState (vEnc 0x33 i9) [] 4)
      s.mayReach vCmd 0 (rowArray 9) = true ∧ s.heldBy true (s.gaddrs 0 0 (rowArray 9) ++ s.gaddrs 0 0 0) = some (.sparing 0)) ∧
     (let s := vState (vEnc 0x34 i0) [] 4
      Runs s 0 0x34 i0 vCmd ∧ s.mayReach vCmd 0 256 = true ∧ Plain s (s.gaddrs 0 0 256 ++ s.gaddrs 0 0 256)) ∧
     (let s := vState (vEnc 0x34 i0) [(0, 0x2000000#32)] 4
      Runs s 0 0x34 i0 vCmd ∧ s.mayReach vCmd 0x2000000 256 = false)) :=
  ⟨⟨⟨vState_runs _ _ _ _ _ (by decide) (by decide), by decide +kernel, plain_low _ _ rfl rfl rfl rfl (by decide +kernel), by decide +kernel⟩,
      ⟨vState_runs _ _ _ _ _ (by decide) (by decide), by decide +kernel⟩, by decide +kernel⟩,
    ⟨vState_runs _ _ _ _ _ (by decide) (by decide), by decide, by decide, by decide +kernel,
      plain_low _ _ rfl rfl rfl rfl (by decide +kernel)⟩,
    ⟨vState_runs _ _ _ _ _ (by decide) (by decide), by decide +kernel⟩, by decide +kernel,
    ⟨vState_runs _ _ _ _ _ (by decide) (by decide), by decide +kernel, plain_low _ _ rfl rfl rfl rfl (by decide +kernel)⟩,
    ⟨vState_runs _ _ _ _ _ (by decide) (by decide), by decide +kernel⟩⟩

theorem witness_VectorConvertCounts : Runs (vState (vEnc 0x28 i0) [] 4) 0 0x28 i0 vCmd := runs_of _ (by decide) [] 4

theorem witness_VectorEndEndsTheInvocation :
    (Runs (vState (vEnc 1 i0) [] 1) 0 1 i0 vCmd ∧ ((vState (vEnc 1 i0) [] 1).crest 0).work = [{ phase := 1 }]) ∧
    (Runs (vState (vEnc 1 i0) [] 4) 0 1 i0 vCmd ∧ ((vState (vEnc 1 i0) [] 4).crest 0).work = [{ phase := 4 }] ∧
      vCmd.fu.stages = []) ∧
    (let d : Cmd := { vCmd with fu := { stages := [{}] } }
     let s : State := { vState (vEnc 1 i0) [] 4 with cmds := [d] }
     Runs s 0 1 i0 d ∧ d.fu.stages ≠ []) :=
  ⟨⟨runs_of 1 (by decide) _ _, rfl⟩, ⟨runs_of 1 (by decide) _ _, rfl, rfl⟩,
    ⟨rfl, by decide, by decide, {}, rfl, rfl, by decide⟩, by decide⟩

/-- The step limit is reached: 10 steps of 10. -/
theorem witness_VectorStepLimitEndsTheCommand :
    let s := (vState (vEnc 0 i0) [] 4).modCrest 0 fun x => { x with steps := 10 }
    (0, Instr.vNop 0 i0) ∈ vecRow 0 i0 ∧ (s.crest 0).works = true ∧ (s.crest 0).inv = some {} ∧ s.cmd? 0 0 = some vCmd ∧
    vOp (tget 0#64 (s.crest 0).prog (s.crest 0).pc) = 0 ∧ vDec (tget 0#64 (s.crest 0).prog (s.crest 0).pc) = i0 ∧
    (tget {} (s.crest 0).handles 0).limit ≤ (s.crest 0).steps := by decide +kernel

/-! Queues. -/

/-- Queue 0 in a state, of 16 entries and 16 records, its rings at 0 and 0x1000 of slice 0. -/
def qState (st : QSt) (k : Queue) : State := { owned with queues := [(0, { k with st := st, cqBase := 0x1000 })] }
/-- Nothing comes from the host. -/
def hNone : HostUpd := ⟨[], [], []⟩

/-- Doorbells at the ring's last place and one beyond it. -/
theorem witness_DoorbellMovesTheTailOrOverflows : ∀ st ∈ [QSt.run, .halted, .disabled, .stopping],
    let u := (qState st { tail := 4 }).hostWrites hNone
    u.serving = true ∧ (u.queueOwner 0).isSome = true ∧ (u.queue 0).st = st ∧
      sub32 (16 % m32) (u.queue 0).tail ≤ 2 ^ (u.queue 0).sqLog - sub32 (u.queue 0).tail (u.queue 0).head ∧
      2 ^ (u.queue 0).sqLog - sub32 (u.queue 0).tail (u.queue 0).head < sub32 (17 % m32) (u.queue 0).tail := by decide +kernel

theorem witness_QueueControlMovesItsState :
    (let s := qState .disabled {}
     s.serving = true ∧ s.queueOwner 0 = some 0 ∧ (s.queue 0).st = .disabled ∧ s.canEnable 0 = true ∧ (s.queue 0).ovf = none) ∧
    (let s := qState .disabled { sqBase := 0x2000000 }
     s.serving = true ∧ s.queueOwner 0 = some 0 ∧ (s.queue 0).st = .disabled ∧ s.canEnable 0 = false) ∧
    (∀ st ∈ [QSt.run, .halted], let s := qState st {}
     s.serving = true ∧ s.queueOwner 0 = some 0 ∧ (s.queue 0).st = st) := by decide +kernel

theorem witness_UnlistedQueueWordsReadZero : owned.queueOwner 5 = none ∧
    0x01D ∉ [0x000, 0x008, 0x010, 0x014, 0x018, 0x01C, 0x020, 0x024, 0x028, 0x02C, 0x030, 0x034, 0x038] := by decide +kernel

/-- Cap writes at their bounds: 0x1400 is PW_CAP_SUST's reset value, 0x77F lies below its range. -/
theorem witness_RegisterWritesTakeTheirFields :
    (let s := qState .disabled {}
     s.serving = true ∧ (s.queueOwner 0).isSome = true ∧ (s.queue 0).st = .disabled ∧ (s.queue 1).st = .disabled) ∧
    (qState .run {}).serving = true ∧ ((qState .run {}).queueOwner 0).isSome = true ∧ ((qState .run {}).queue 0).st ≠ .disabled ∧
    boot.mailboxLive = true ∧ boot.fw.go = false ∧ boot.serving = true ∧ 65536 % 2 ^ 17 ≠ 0 ∧ 65536 % 2 ^ 17 ≤ 65536 ∧
    boot.pathReady .port = true ∧ 0x101 % 16 ≠ 0 ∧ bits 0x101 15 8 ≠ 0 ∧
    boot.capOk 0x10 0x780 = true ∧ boot.capOk 0x10 0x77F = false ∧ boot.capOk 0x11 0x1CC0 = true ∧ boot.capOk 0x11 0x1CC1 = false ∧
    boot.capOk 0x12 0x1A40 = true ∧ boot.capOk 0x12 0x1A41 = false := by decide +kernel

/-- Queue 0 runs, with one entry of opcode `op` waiting at store address 0, its LOADPROG flags `fl`. -/
def due (op fl : Nat) : State :=
  { qState .run { tail := 1 } with store := if fl = 0 then [(0, BitVec.ofNat 8 op)] else [(0, BitVec.ofNat 8 op), (0x1B, BitVec.ofNat 8 fl)] }

theorem witness_QueueCommandsRunFromTheirQueue : ∀ op ∈ [1, 2, 3, 4, 5, 6, 7, 8, 10, 11],
    Due ((due op 0).hostWrites hNone) 0 op := by
  have h : ∀ op ∈ [1, 2, 3, 4, 5, 6, 7, 8, 10, 11], ((due op 0).hostWrites hNone).nextQueue = some 0 ∧
      fld (((due op 0).hostWrites hNone).nextEntry 0) 0 1 = op ∧ ((due op 0).hostWrites hNone).fetchable 0 = true := by decide +kernel
  exact h

theorem witness_RowsTakeTheirOwnEntry :
    (Due (((due 9 0).hostWrites hNone).hostWrites hNone) 0 9 ∧ ((due 9 0).hostWrites hNone).nextUnloads 0 = false) ∧
    (Due (((due 9 1).hostWrites hNone).hostWrites hNone) 0 9 ∧ ((due 9 1).hostWrites hNone).nextUnloads 0 = true) ∧
    ((due 9 1).hostWrites hNone).nextQueue = some 0 ∧ ((due 9 1).hostWrites hNone).fetchable 0 = true ∧
    ((due 9 1).hostWrites hNone).nextQueue ≠ some 1 := by
  unfold Due
  decide +kernel

/-- Command (0, 0) has ended OK. -/
def ended : State :=
  { qState .run {} with cmds := [{ vCmd with fin := some (0, 0) }], ends := [(0, 0)] }

theorem witness_CompletionRecordEndsTheCommand :
    ended.cmd? 0 0 = some { vCmd with fin := some (0, 0) } ∧ ended.ringReachable 0 = true ∧
      ended.heldBy true (ended.recordLine 0) = none ∧ ended.ends.find? (fun e => e.1 = 0) = some (0, 0) := by decide +kernel

theorem witness_RecordsAndInterruptTimers :
    (let s := qState .run { ovf := some {} }
     let k := s.queue 0
     let a := k.cqBase + k.cqTail % 2 ^ k.cqLog * 32
     s.queueOwner 0 = some 0 ∧ isHostAddr k.cqBase = false ∧ isHostAddr a = false ∧ k.ovf = some {} ∧ 1 ≤ s.freeRecords 0 ∧ a % 32 = 0 ∧
      (s.part 0).interleave = false ∧ s.ownsStore 0 a 32 = true ∧ Plain s (s.gaddrs 0 a 32)) ∧
    (∀ m ∈ [0, 1], let s : State := { qState .run { irq := 0x10080, unsig := 1 } with msixMask := [(3, m)] }
     (s.queue 0).irqEn = true ∧ (s.queue 0).unsig ≠ 0 ∧ (s.queue 0).irqTimer ≠ 0 ∧ (s.queue 0).irqVec = 0 ∧
      (s.msixWord 0 3).testBit 0 = decide (m = 0)) :=
  ⟨⟨by decide +kernel, by decide, by decide, by decide, by decide +kernel, by decide, by decide, by decide +kernel,
    plain_low _ _ rfl rfl rfl rfl (by decide +kernel)⟩, by decide +kernel⟩

/-! The crest. -/

/-- The 64 bytes of an entry with these bytes set. -/
def entry (l : List (Nat × Nat)) : List Byte := (List.range 64).map (fun i => BitVec.ofNat 8 ((l.lookup i).getD 0))
/-- A GEMM of one row, one column and one K element, INT8 at store address 0. -/
def gemmE : List Byte := entry [(0, 1), (0x30, 1), (0x34, 1), (0x38, 1), (0x3E, 1)]
/-- Its command. -/
def gCmd : Cmd := { vCmd with e := gemmE, dA := { format := 9 }, dB := { format := 9 } }
/-- Crest 0 holds `c`, its tile in phase `ph`, its weight bank `b`; store byte 0 is 1. -/
def gState (c : Cmd) (ph : Nat) (b : Bank) : State :=
  { owned with
    cmds := [c], store := [(0, 1#8)]
    crests := [(0, { pw := .run, held := [(0, 0)], work := [{ phase := ph }], w0 := b })] }
/-- The block of that GEMM's only K-block, filled in from the store. -/
def gBank : Bank := { full := true, data := [padBlock [decodeElem 9 1 0]] }

theorem inHand_of (s : State) (p : Nat) (w : Work) (c : Cmd)
    (h : (decide (((s.turn p).crest p).work.head? = some w) && decide ((s.turn p).cmd? w.q w.t = some c)) = true) : InHand s p w c := by
  simp only [Bool.and_eq_true, decide_eq_true_eq] at h
  refine ⟨?_, h.2⟩
  cases e : ((s.turn p).crest p).work with
  | nil => rw [e] at h; exact absurd h.1 (by simp)
  | cons v vs => rw [e] at h; exact ⟨vs, by rw [Option.some.inj h.1]⟩

theorem witness_RowsAndBanksOfTheArray :
    (let s := gState gCmd 0 gBank
     let u := (s.turn 0).modCrest 0 fun _ => (s.turn 0).crest 0
     let w : Work := {}
     let gs := u.actAddrs 0 gCmd w
     let v := u.crestReads 0 0 gs []
     InHand s 0 w gCmd ∧ (s.turn 0).streams 0 w = true ∧
      ((s.turn 0).crest 0).withBank w (gCmd.blockOf w) = some ((s.turn 0).crest 0) ∧ u.heldBy false gs = none ∧
      ∃ f, v.actRow 0 gCmd w = .ok f ∧
        gCmd.checked 0 ((v.processed 0 gCmd w f).crest 0).activeBank.data
          (partOf (gCmd.partsA 0) ((gCmd.passes 0).getD 0 (0, 0)).1 (padBlock f.elems)) = true ∧
        ∀ n ∈ [1, 2], ((((v.processed 0 gCmd w f).modCrest 0 fun x => { x with
            rowBuf := partOf (gCmd.partsA 0) ((gCmd.passes 0).getD 0 (0, 0)).1 (padBlock f.elems) }).residueSeen 0 gCmd n).busyOn
              0 0 0 (11 * n)).atThresh kCrest 0 = false) ∧
    (let s := gState gCmd 0 gBank
     ({ s with mg := { s.mg with threshCount := 1 } } : State).residueSeen 0 gCmd 1 |>.atThresh kCrest 0) = true ∧
    (let s := copying (gState gCmd 0 gBank)
     let u := (s.turn 0).modCrest 0 fun _ => (s.turn 0).crest 0
     InHand s 0 {} gCmd ∧ (s.turn 0).streams 0 {} = true ∧ u.heldBy false (u.actAddrs 0 gCmd {}) = some (.sparing 0)) ∧
    (let s : State := { gState gCmd 0 gBank with poison := [(0, true)] }
     let u := (s.turn 0).modCrest 0 fun _ => (s.turn 0).crest 0
     InHand s 0 {} gCmd ∧ (s.turn 0).streams 0 {} = true ∧ u.heldBy false (u.actAddrs 0 gCmd {}) = none ∧
      ∃ r, (u.crestReads 0 0 (u.actAddrs 0 gCmd {}) []).actRow 0 gCmd {} = .error r) ∧
    (∀ e ∈ [0, 1, 2],
     let s := if e = 0 then gState gCmd 0 {} else if e = 1 then { gState gCmd 0 {} with poison := [(0, true)] }
       else copying (gState gCmd 0 {})
     let u := s.turn 0
     let w : Work := {}
     let gs := u.blockAddrs gCmd w
     (u.crest 0).work.head? = some w ∧ u.cmd? 0 0 = some gCmd ∧ u.streams 0 w = true ∧ (u.crest 0).fillTarget gCmd w = some w ∧
      u.heldBy false gs = (if e = 2 then some (.sparing 0) else none) ∧
      ((u.crestReads 0 0 gs []).modCmd 0 0 fun c => c.charge wStore 7).accessFault gs =
        if e = 1 then some (sPoison, 0x50) else none) := by
  refine ⟨⟨inHand_of _ _ _ _ (by decide +kernel), by decide +kernel, by decide +kernel, by decide +kernel, ⟨[decodeElem 9 1 0], 0, 0⟩, ?_,
      by decide +kernel, by decide +kernel⟩, by decide +kernel, ⟨inHand_of _ _ _ _ (by decide +kernel), by decide +kernel⟩,
    ⟨inHand_of _ _ _ _ (by decide +kernel), by decide +kernel, by decide +kernel, (sPoison, 0x50), ?_⟩, by decide +kernel⟩ <;> rfl

/-- The same GEMM with no stage, and with a SEND to a die that is not there. -/
def oCmd (sends : Bool) : Cmd := { gCmd with fu := { stages := if sends then [{ kind := 8, arg8 := 1 }] else [] } }

theorem witness_TileEpilogueEndsTheTile :
    (∀ b ∈ [false, true], let s := gState (oCmd b) 3 {}
     let u := s.turn 0
     let w : Work := { phase := 3 }
     (u.crest 0).work.head? = some w ∧ u.cmd? 0 0 = some (oCmd b) ∧ (u.crest 0).works = true ∧ (u.crest 0).inv = none ∧
      u.runnable 0 (0, 0) = true ∧ u.peerHeld (oCmd b) ((oCmd b).fu.sends.map (fun g => (g.1, g.2.arg8))) = false ∧
      u.workHeld (u.epilogueAddrs (oCmd b) w) (u.epilogueWrites (oCmd b) w) = none ∧ (oCmd b).useProg = false) ∧
    (let v := ((gState (oCmd false) 3 {}).turn 0).setHold 0 0 0 wPeer false
     ∃ e, (v.crestReads 0 0 (v.epilogueAddrs (oCmd false) { phase := 3 }) []).epilogue 0 (oCmd false) { phase := 3 } = .ok e) ∧
    (let v := ((gState (oCmd true) 3 {}).turn 0).setHold 0 0 0 wPeer false
     ∃ e, (v.crestReads 0 0 (v.epilogueAddrs (oCmd true) { phase := 3 }) []).epilogue 0 (oCmd true) { phase := 3 } = .error e) ∧
    (let s : State := { gState (oCmd true) 3 {} with ports := [(0, { st := 3 })] }
     (s.turn 0).peerHeld (oCmd true) ((oCmd true).fu.sends.map (fun g => (g.1, g.2.arg8))) = true) ∧
    (let c : Cmd := { gCmd with dOut := { format := 0x12 } }
     let u := (copying (gState c 3 {})).turn 0
     u.peerHeld c (c.fu.sends.map (fun g => (g.1, g.2.arg8))) = false ∧
      u.workHeld (u.epilogueAddrs c { phase := 3 }) (u.epilogueWrites c { phase := 3 }) = some (.sparing 0)) :=
  ⟨by decide +kernel, ⟨_, rfl⟩, ⟨_, rfl⟩, by decide +kernel, by decide +kernel⟩

/-- Crest 0 holds `c` in hand, and a command of a higher class, tag 1. -/
def pState (c : Cmd) (x : Crest → Crest) : State :=
  { gState c 0 {} with
    cmds := [{ c with cls := 1 }, { c with t := 1, cls := 0, next := 0 }]
    crests := [(0, x { pw := .run, held := [(0, 0), (0, 1)], work := [{}] })] }

/-- A crest lent to partition 1 that holds nothing; its owner is RESHAPING. -/
def lent : State :=
  { gState gCmd 0 {} with
    cmds := [], parts := [(0, { crests := 3, slices := 3, queues := 3, st := 2 })]
    crests := [(0, { pw := .run, lentTo := some 1 })] }

/-- The same with ACC_INIT KEEP and SHARED_ACC: it only accumulates. -/
def kCmd : Cmd := { gCmd with e := entry [(0, 1), (1, 16), (2, 8), (0x30, 1), (0x34, 1), (0x38, 1), (0x3E, 1)] }

theorem witness_CrestPassesBetweenCommands :
    (∀ a ∈ [false, true], let s := if a then pState gCmd id else
        { pState kCmd id with cmds := [{ kCmd with cls := 1 }, { kCmd with t := 1, cls := 1, next := 0 }] }
     let c : Cmd := if a then { gCmd with cls := 1 } else { kCmd with cls := 1 }
     (s.crest 0).work = [{}] ∧ s.runnable 0 (0, 0) = true ∧ s.cmd? 0 0 = some c ∧ (s.crest 0).works = true ∧
      (s.crest 0).inv = none ∧ c.atBoundary {} = true ∧
      (List.range c.cls).findSome? (fun n => ((s.candidates 0).filter (· != (0, 0))).find? (fun c => s.clsOf c = n)) =
        (if a then some (0, 1) else none) ∧
      (s.candidates 0).find? (fun j => j != (0, 0) && s.mayInterleave (0, 0) j) = if a then none else some (0, 1)) ∧
    (let s := gState gCmd 0 {}
     (s.crest 0).work = [{}] ∧ s.runnable 0 (0, 0) = true ∧ (s.candidates 0).find? (fun j => j != (0, 0)) = none) ∧
    (let s := (pState gCmd fun x => { x with stopped := [(0, 0)] })
     (s.crest 0).stopped.find? (fun k => !s.blocked 0 k) = some (0, 0)) ∧
    ((lent.crest 0).lentTo = some 1 ∧ lent.ownersOn 0 1 = [] ∧ lent.calledBack 0 = true ∧ (lent.crest 0).inv = none ∧
      (lent.crest 0).work = []) ∧
    (let s : State := { lent with cmds := [gCmd], crests := [(0, { pw := .run, lentTo := some 1, held := [(0, 0)] })] }
     (s.crest 0).lentTo = some 1 ∧ s.ownersOn 0 1 ≠ [] ∧ (s.crest 0).inv = none ∧ (s.crest 0).work = []) := by
  decide +kernel

/-- That GEMM with USE_PROG. -/
def iCmd : Cmd := { gCmd with e := entry [(0, 1), (7, 0x80), (0x30, 1), (0x34, 1), (0x38, 1), (0x3E, 1)] }
/-- Crest 0 with a bound program of one instruction, END. -/
def iState (ph : Nat) : State :=
  (gState iCmd ph {}).modCrest 0 fun x =>
    { x with ready := [(0, 0, 0)], prog := [(0, vEnc 1 i0)], handles := [(0, { bound := true, count := 1, limit := 10 })] }

theorem witness_ProgramsLoadAndInvocationsStart :
    ((boot.crest 3).waking = false ∧
      (let s := boot.modCrest 3 fun x => { x with pw := .run, handles := [(2, { bound := true, stale := true })] }
       (s.crest 3).staleHandles ≠ [] ∧ (s.crest 3).waking = false ∧ (s.crest 3).pw ≠ .off ∧ s.reloadHeld 3 = false)) ∧
    (∀ ph ∈ [1, 4], let u := (iState ph).turn 0
     (u.crest 0).work = [{ phase := ph }] ∧
      (u.crest 0).ready.find? (fun e => u.runnable 0 (e.1, e.2.1)) = some (0, 0, 0)) ∧
    (∀ ph ∈ [1, 4], let u := ((iState ph).turn 0).firstReady 0
     let h := tget {} (u.crest 0).handles iCmd.handle
     (u.crest 0).work.head? = some { phase := ph } ∧ u.cmd? 0 0 = some iCmd ∧ (u.crest 0).works = true ∧ (u.crest 0).inv = none ∧
      u.runnable 0 (0, 0) = true ∧ h.bound = true ∧ (u.crest 0).handleOk h = true) := by
  decide +kernel

theorem witness_UnitsWakeAndAreGated :
    (let s := boot.modCrest 2 fun x => { x with waking := true }
     (s.crest 2).waking = true ∧ s.crestRetired 2 = false ∧ s.canWake 2 = true) ∧
    (∀ pw ∈ [SlicePw.off, .retain], let s : State := { boot.modSlice 95 (fun x => { x with pw := pw, waking := true }) with
       regs := [(22, { st := 2, setpoint := 780, vout := 757 })] }
     (s.slice 95).waking = true ∧ s.sliceRetired 95 = false ∧ (s.slice 95).unavailable = false ∧ (s.slice 95).pw = pw ∧
      sliceTier 95 = 5 ∧ (s.reg 22).st = 2 ∧ 97 * (s.reg 22).setpoint ≤ 100 * (s.reg 22).vout ∧
      100 * (s.reg 22).vout ≤ 103 * (s.reg 22).setpoint) ∧
    (∀ l ∈ [0, 2], let s : State := { owned with mg := { boot.mg with debugLevel := l }, crests := [(1, { pw := .idle })] }
     (s.crest 1).held = [] ∧ (s.crest 1).quiet = false ∧ (s.crest 1).waking = false ∧ (s.crest 1).pw = .idle ∧
      s.logicalOf 1 = some 1 ∧ s.crestOwner 1 = some 0 ∧ s.mg.debugLevel = l) ∧
    (∀ l ∈ [0, 2], let s : State := { boot with mg := { boot.mg with debugLevel := l }, crests := [(16, { pw := .idle })] }
     (s.crest 16).held = [] ∧ (s.crest 16).quiet = false ∧ (s.crest 16).waking = false ∧ (s.crest 16).pw = .idle ∧
      s.mg.debugLevel = l ∧ s.mayOff 16 = true ∧ (s.reg 16).permanent = false) ∧
    ((owned.sliceOwner 1).isSome = true ∧ owned.sliceRetired 1 = false ∧ (owned.slice 1).waking = false ∧
      (owned.slice 1).sparing = none ∧ (owned.slice 1).pw = .on) ∧
    (let s := boot.modSlice 95 fun x => { x with pw := .on }
     s.sliceOwner 95 = none ∧ (s.slice 95).transit = false ∧ s.sliceRetired 95 = false ∧ (s.slice 95).sparing = none) := by
  decide +kernel

/-! Peers, waits and atomics. -/

/-- A command with one stream to die 1, SID 5, of which tile 2 is kept. -/
def sCmd : Cmd :=
  { vCmd with total := 0, fu := { stages := [{ kind := 8, arg8 := 1, sub := 1 }] }
              streams := [{ stage := 0, dst := 1, sid := 5, kept := [(2, 0, [])] }] }

/-- A SEND of no bytes to die 1. -/
def zCmd : Cmd := { vCmd with e := entry [(0, 5), (0x34, 1)], total := 0, next := 0 }

theorem witness_StreamsEndWithTheirFlag :
    (let s : State := { owned with cmds := [sCmd] }
     s.cmd? 0 0 = some sCmd ∧ sCmd.streams.find? (fun y => y.stage = 0) = sCmd.streams.head? ∧ sCmd.fin = none ∧
      sCmd.doneTiles = sCmd.total ∧ s.streamQueued 1 5 = false ∧ (∀ r ∈ s.retries, ¬(r.1 = 0 ∧ r.2.1 = 0 ∧ r.2.2.1 = 5))) ∧
    (let s : State := { owned with cmds := [zCmd] }
     s.cmd? 0 0 = some zCmd ∧ zCmd.opcode = 5 ∧ zCmd.total = 0 ∧ zCmd.doneTiles = 0 ∧ zCmd.started = true ∧ zCmd.fin = none ∧
      zCmd.streams = [] ∧ s.freeSid (zCmd.f8 0x34) = some 0 ∧ s.streamQueued (zCmd.f8 0x34) 0 = false ∧ s.retries = []) ∧
    (∀ h ∈ [false, true], let s : State := { owned with
       cmds := [sCmd], retries := [(0, 0, 5, 2)], crests := [(0, { halted := h })], ports := [(0, { st := 2 })] }
     s.cmd? 0 0 = some sCmd ∧
      sCmd.streams.find? (fun y => y.sid = 5 && y.kept.any (fun k => k.1 = 2)) = sCmd.streams.head? ∧ sCmd.streams ≠ [] ∧
      (0, 0, 5, 2) ∈ s.retries ∧ (sCmd.crests.head?.map s.physOf).getD 0 = 0 ∧ (s.crest 0).halted = h ∧ s.sendHeld 1 = false ∧
      (∃ r ∈ s.retries, r.1 = 0 ∧ r.2.1 = 0)) ∧
    ({ owned with cmds := [sCmd], ports := [(0, { st := 3 })] } : State).sendHeld 1 = true := by
  refine ⟨?_, ?_, ?_, ?_⟩ <;> decide +kernel

/-- A REDUCE_RECV of one tile from source 1, one row of FP32. -/
def rCmd : Cmd := { vCmd with e := entry [(0, 11), (0x29, 2), (0x2A, 1), (0x2B, 1), (0x31, 0x12), (0x38, 1)] }
/-- Crest 0 holds it, the tile from source 1 landed. -/
def rState : State :=
  { owned with
    cmds := [rCmd], crests := [(0, { pw := .run, held := [(0, 0)] })]
    tiles := [((1, 0, 0), some (0, 0))], landing := [((1, 0, 0), (0, 0), 1, true)] }
/-- A WAIT on 8 bytes at 0. -/
def wCmd : Cmd := { vCmd with e := entry [(0, 8), (0x29, 8)] }

theorem witness_ReceiversAndWaitsGoOnOrTimeOut :
    (let gs := (List.range rCmd.rRows).flatMap (fun r => rState.gaddrs rCmd.part (rCmd.stageRow 0 0 r) (128 * recvWidth rCmd.rFmt))
     rState.cmd? 0 0 = some rCmd ∧ rState.readyAdd rCmd = some (0, 0, 1, 1) ∧ rState.holders 0 0 = [0] ∧
      (rState.crest 0).works = true ∧ rState.runnable 0 (0, 0) = true ∧ rCmd.opcode = 11 ∧ rState.heldBy false gs = none ∧
      (((rState.setHold 0 0 0 wPeer false).reads 0 0 gs).accessFault gs = none) ∧
      (copying rState).heldBy false gs = some (.sparing 0) ∧ (copying rState).readyAdd rCmd = some (0, 0, 1, 1) ∧
      (let p : State := { rState with poison := [(0, true)] }
       ((p.setHold 0 0 0 wPeer false).reads 0 0 gs).accessFault gs = some (sPoison, 0x50) ∧ p.heldBy false gs = none) ∧
      rState.above 0 rCmd = none ∧
      (let c : Cmd := { rCmd with cls := 1 }
       let s : State := { rState with cmds := [c, { gCmd with t := 1, next := 0 }]
                                      crests := [(0, { pw := .run, held := [(0, 0), (0, 1)] })] }
       s.readyAdd c = some (0, 0, 1, 1) ∧ s.runnable 0 (0, 0) = true ∧ s.above 0 c = some (0, 1)) ∧
      rCmd.total ≠ 0 ∧ rCmd.fin = none ∧ rCmd.flagsDone = false ∧ 0 < rCmd.rNtile ∧ rCmd.addedTo 0 ≠ rCmd.sources.length) ∧
    (let c : Cmd := { rCmd with e := entry [(0, 11), (2, 8), (0x29, 2), (0x2A, 1), (0x2B, 1), (0x31, 0x12), (0x38, 1)] }
     c.keep = true ∧ ({ rState with cmds := [c] } : State).readyAdd c = some (0, 0, 1, 1)) ∧
    (let s : State := { owned with cmds := [wCmd] }
     (s.hostWrites hNone).cmd? 0 0 = some wCmd ∧ wCmd.opcode = 8 ∧ wCmd.started = true ∧ wCmd.fin = none ∧
      (s.hostWrites hNone).waitHeld wCmd = none ∧ ((copying s).hostWrites hNone).waitHeld wCmd = some (.sparing 0)) ∧
    (let s : State := { owned with abuf := [⟨64, 8, 3⟩] }
     s.abuf.find? (fun w => w.addr = 64) = some ⟨64, 8, 3⟩ ∧ s.flushHeld (· = ⟨64, 8, 3⟩) = none ∧
      (copying s).flushHeld (· = ⟨64, 8, 3⟩) = some (.sparing 0)) := by
  refine ⟨?_, ?_, ?_, ?_⟩ <;> decide +kernel

/-! Management. -/

/-- A die whose BAR0 staging copy is `g`. -/
def staged (g : Staging) (s : State) : State := { s with stBar0 := g }
/-- Crest 15, slice 95 and queue 63, for partition 7. -/
def g7 : Staging := { sel := 7, crests := 2 ^ 15, slices := 2 ^ 95, queues := 2 ^ 63 }
/-- Partition 0 without crest 1 and queue 1. -/
def g0 : Staging := { sel := 0, crests := 1, slices := 3, queues := 1 }

theorem heard_of (s : State) (path : Path) (op : Nat) (h : s.pathReady path = true)
    (g : (path == .port || (s.mg.policy.testBit 0 && opBar0 op)) = true) (r : s.coreBusy = false) : Heard s path op :=
  ⟨h, fun hp => by subst hp; simpa using g, r⟩

theorem witness_PartitionCommandsTakeThePathsStaging :
    (boot.pathReady .bar0 = true ∧ boot.allows .bar0 0 = true) ∧
    (Heard (staged g7 boot) .bar0 0x10 ∧ ((staged g7 boot).staging .bar0).sel ≠ 6 ∧ Heard (staged g7 boot) .bar0 0x11) ∧
    (Heard (staged g7 boot) .bar0 0x10 ∧
      (let s := staged g7 boot
       (s.staging .bar0).sel = 7 ∧ (s.part 7).st = 0 ∧ g7.crests ≠ 0 ∧ g7.slices ≠ 0 ∧ g7.queues ≠ 0 ∧
        s.freeTransit.gainChecks g7.crests g7.slices g7.queues = none)) ∧
    (Heard (staged g0 owned) .bar0 0x11 ∧
      (let s := staged g0 owned
       (s.staging .bar0).sel = 0 ∧ (s.part 0).st = 1 ∧ g0.crests ≠ 0 ∧ g0.slices ≠ 0 ∧ g0.queues ≠ 0 ∧
        s.gainChecks (andNot g0.crests (s.part 0).crests) (andNot g0.slices (s.part 0).slices)
          (andNot g0.queues (s.part 0).queues) = none ∧
        s.reshapeChecks 0 g0.slices (andNot (s.part 0).slices g0.slices) (andNot (s.part 0).queues g0.queues) = none)) :=
  ⟨by decide, ⟨heard_of _ _ _ (by decide) (by decide) rfl, by decide, heard_of _ _ _ (by decide) (by decide) rfl⟩,
    ⟨heard_of _ _ _ (by decide) (by decide) rfl, by decide +kernel⟩,
    ⟨heard_of _ _ _ (by decide) (by decide) rfl, by decide +kernel⟩⟩

theorem witness_PartitionsAreCreatedDestroyedAndReset :
    (let s := staged g0 owned
     Heard s .bar0 0x10 ∧ (s.staging .bar0).sel = 0 ∧ (s.part 0).st ≠ 0) ∧
    (let s := staged { sel := 7 } boot
     Heard s .bar0 0x10 ∧ (s.staging .bar0).sel = 7 ∧ (s.part 7).st = 0 ∧ (s.staging .bar0).crests = 0) ∧
    (let s := staged { g7 with crests := 1 } owned
     Heard s .bar0 0x10 ∧ (s.part 7).st = 0 ∧ s.freeTransit.gainChecks 1 g7.slices g7.queues = some (3, 4) ∧ s.journal = none) ∧
    (let s := staged g7 boot
     Heard s .bar0 0x10 ∧ (s.part 7).st = 0 ∧ s.freeTransit.gainChecks g7.crests g7.slices g7.queues = none) ∧
    Heard owned .port 0x13 ∧ ((owned.part 0).st = 1 ∧ (∀ c ∈ owned.cmds, c.part ≠ 0) ∧
      (∀ l ∈ maskList (owned.part 0).crests 16, (owned.crest (owned.physOf l)).lentTo = none) ∧
      ({ owned with slices := [(95, { transit := true })] } : State).journal = none) ∧
    (Heard owned .port 0x12 ∧ (owned.part 0).st = 1 ∧ ∀ q ∈ maskList (owned.part 0).queues 64, (owned.queue q).st = .disabled) ∧
    (Heard (qState .run {}) .port 0x12 ∧ ((qState .run {}).part 0).st = 1 ∧
      ∃ q ∈ maskList ((qState .run {}).part 0).queues 64, ((qState .run {}).queue q).st ≠ .disabled) ∧
    (Heard owned .port 0x13 ∧ (owned.part 7).st ≠ 1) ∧
    (let s : State := { owned with journal := some {}, mg := { owned.mg with running := some 0x11 } }
     s.pathReady .port = true ∧ s.allows .port 0 = true ∧ s.mg.running ≠ none ∧ s.journal = some {} ∧
      (∀ j, s.journal = some j → j.part = 0) ∧ (∀ j, s.journal = some j → j.part ≠ 7)) :=
  ⟨⟨heard_of _ _ _ (by decide) (by decide) rfl, by decide⟩, ⟨heard_of _ _ _ (by decide) (by decide) rfl, by decide⟩,
    ⟨heard_of _ _ _ (by decide) (by decide) rfl, by decide +kernel⟩,
    ⟨heard_of _ _ _ (by decide) (by decide) rfl, by decide +kernel⟩,
    heard_of _ _ _ (by decide) (by decide) rfl, by decide,
    ⟨heard_of _ _ _ (by decide) (by decide) rfl, by decide +kernel⟩,
    ⟨heard_of _ _ _ (by decide) (by decide) rfl, by decide +kernel⟩,
    ⟨heard_of _ _ _ (by decide) (by decide) rfl, by decide⟩,
    ⟨by decide, by decide, by decide, rfl, fun j h => by cases h; rfl, fun j h => by cases h; decide⟩⟩

theorem witness_ReshapePhasesFollowEachOther :
    (let s : State := { owned with journal := some { phase := 1 } }
     s.quiescing 0 = false ∧ s.mg.pending = [] ∧ ({ s with cmds := [vCmd] } : State).quiescing 0 = true) ∧
    (let j : Journal := { phase := 2, remSlices := 2 }
     ∃ n ∈ maskList j.remSlices 96, ({ owned with journal := some j } : State).sliceRetired n = false) ∧
    maskList ({ phase := 3, transit := 2 ^ 95 + 1 } : Journal).transit 96 = [0, 95] ∧
    (let j : Journal := { phase := 3, transit := 2 ^ 95 + 1 }
     clrBit j.transit 0 ≠ 0 ∧ maskList (2 ^ 95) 96 = [95] ∧ clrBit (2 ^ 95) 95 = 0) ∧
    maskList ({ phase := 2 } : Journal).remSlices 96 = [] ∧ owned.bias.hostPages = [] := by
  decide +kernel

/-- Slice 95 retired. -/
def retired95 : State := { boot with rep := { boot.rep with retSlice := 2 ^ 95 } }

theorem witness_RetireAndRegisterPortFirmware :
    (Heard boot .port 0x20 ∧ kindCount 2 ≤ 96 ∧ 95 < kindCount 2 ∧ boot.unitRetired 2 95 = false) ∧
    (Heard retired95 .port 0x20 ∧ retired95.unitRetired 2 95 = true) ∧
    Heard boot .port 0x30 ∧
    (let s : State := { boot with fw := { boot.fw with stageOpen := true } }
     Heard s .port 0x31 ∧ s.fw.verifying = none ∧ s.fw.stageOpen = true) ∧
    (Heard boot .port 0x31 ∧ boot.fw.verifying = none ∧ boot.fw.stageOpen = false) :=
  ⟨⟨heard_of _ _ _ (by decide) (by decide) rfl, by decide +kernel⟩, ⟨heard_of _ _ _ (by decide) (by decide) rfl, by decide +kernel⟩,
    heard_of _ _ _ (by decide) (by decide) rfl, ⟨heard_of _ _ _ (by decide) (by decide) rfl, by decide⟩,
    ⟨heard_of _ _ _ (by decide) (by decide) rfl, by decide⟩⟩

theorem witness_ColdResetsAndStraps :
    (Heard boot .port 0x40 ∧ ({ boot with mg := { boot.mg with released := false } } : State).mg.released = false) ∧
    (let s := State.reset
     s.mg.released = true ∧ s.sb.service = false ∧ s.sb.strapHold = false ∧
      (let read (m : Nat) : Nat := if m = 0 then 0 else if m = 255 then 1 else 2
       strapDecode (strapLevel (read 0) (read 0)) (strapLevel (read 0) (read 128)) = some (2, 1) ∧
        strapDecode (strapLevel (read 1) (read 254)) (strapLevel (read 255) (read 0)) = none ∧
        strapDecode (strapLevel (read 0) (read 0)) (strapLevel (read 255) (read 255)) = some (1, 0))) :=
  ⟨⟨heard_of _ _ _ (by decide) (by decide) rfl, by decide⟩, by decide⟩

theorem witness_WarmResetsKeepWhatTableBoot4Keeps : Heard boot .bar0 0x41 ∧ boot.mg.fwRunning = true :=
  ⟨heard_of _ _ _ (by decide) (by decide) rfl, by decide⟩

theorem witness_CrestAndLinkResets :
    (let s : State := { boot with rep := { boot.rep with bistPassed := 2 ^ 17 - 1 } }
     Heard s .bar0 0x42 ∧ s.crestPresent 15 = true ∧ s.crestRetired (s.physOf 15) = false ∧ s.rep.bindDue ≠ some 15) ∧
    (let s : State := { boot with rep := { boot.rep with bindDue := some 15, retCrest := 2 ^ 15, bistPassed := 2 ^ 17 - 1 } }
     Heard s .bar0 0x42 ∧ s.crestPresent 15 = true ∧ s.rep.bindDue = some 15) ∧
    (let s : State := { boot with rep := { boot.rep with retCrest := 1 } }
     Heard s .bar0 0x42 ∧ s.rep.bindDue ≠ some 0 ∧ s.crestRetired (s.physOf 0) = true) ∧
    (Heard boot .bar0 0x43 ∧ (∃ m, m < 4 ∧ (boot.hmod m).st ≠ 5)) ∧
    (let s : State := { boot with mods := (List.range 4).map fun m => (m, { st := 5 }) }
     Heard s .bar0 0x43 ∧ ∀ m, m < 4 → (s.hmod m).st = 5) ∧
    (∀ st ∈ [2, 5, 0], let s := boot.modPort 2 fun x => { x with st := st }
      s.pathReady .bar0 = true ∧ s.mg.policy.testBit 0 = true ∧ opBar0 0x43 = true ∧ s.coreBusy = false ∧ (s.port 2).st = st ∧
        s.serving = true ∧ s.rep.retPort.testBit 2 = false ∧ s.errsIn kPort 2 + 1 < s.mg.threshCount) ∧
    (∀ m, m < 4 → boot.errsIn kHost m + 1 < boot.mg.threshCount) ∧ boot.hostConfig ≠ 0 :=
  ⟨⟨heard_of _ _ _ (by decide) (by decide) rfl, by decide +kernel⟩, ⟨heard_of _ _ _ (by decide) (by decide) rfl, by decide +kernel⟩,
    ⟨heard_of _ _ _ (by decide) (by decide) rfl, by decide +kernel⟩,
    ⟨heard_of _ _ _ (by decide) (by decide) rfl, 0, by decide⟩, ⟨heard_of _ _ _ (by decide) (by decide) rfl, by decide⟩,
    by decide +kernel, by decide +kernel, by decide⟩

/-! Registers, debug and the sideband. -/

/-- FULL, with crest 0 in RUN. -/
def full : State :=
  { boot with mg := { boot.mg with debugLevel := 2 }, sb := { boot.sb with straps := 0x40 }, crests := [(0, { pw := .run })] }

theorem witness_IndirectAndDebugAccess :
    boot.pathReady .port = true ∧ boot.pathReady .bar0 = true ∧ Path.port ≠ .bar0 ∧ boot.allows .port 2 = true ∧ boot.mg.debugLevel ≠ 2 ∧
    full.pathReady .port = true ∧ full.mg.debugLevel = 2 ∧ full.mg.dbgSpace = 0 ∧ full.dbgCrest 0 full.mg.dbgAddr = some (0, 0) ∧
    (full.crest 0).pw = .run ∧
    (∀ sp ∈ [0, 1, 2, 4], ∀ pw ∈ [CrestPw.off, .nap, .idle, .run],
      let s : State := { full with mg := { full.mg with dbgSpace := sp }, crests := [(0, { pw := pw })] }
      s.pathReady .port = true ∧ s.mg.debugLevel = 2 ∧ s.mg.dbgSpace = sp ∧ s.dbgCrest sp s.mg.dbgAddr = some (0, 0) ∧
        (s.crest 0).pw = pw ∧ ({ s with rep := { s.rep with retCrest := 1 } } : State).dbgCrest sp s.mg.dbgAddr = none) ∧
    (∀ pw ∈ [SlicePw.off, .on], ∀ r ∈ [false, true],
      let s : State := { full with mg := { full.mg with dbgSpace := 3 }, slices := [(0, { pw := pw })]
                                   rep := { full.rep with retSlice := if r then 1 else 0 } }
      s.mg.dbgSpace = 3 ∧ 4 * s.mg.dbgAddr / 2 ^ 24 = 0 ∧ s.sliceRetired 0 = r ∧ (s.slice 0).pw = pw ∧
        (s.slice 0).unavailable = false ∧ (s.slice 0).sparing = none) ∧
    96 ≤ 4 * (96 * 2 ^ 22) / 2 ^ 24 ∧
    (∀ l ∈ [0, 1], let s : State := { full with mg := { full.mg with debugLevel := l } }
      s.pathReady .port = true ∧ s.mg.debugLevel = l) := by decide +kernel

theorem witness_UnreachableIndirectAccess : boot.pathReady .port = true ∧ boot.pathReady .bar0 = true := by
  decide

theorem witness_DebugLevelsAndHalts :
    (boot.pathReady .bar0 = true ∧ ({ boot with mg := { boot.mg with policy := 0xF } } : State).allows .bar0 3 = true ∧
      boot.allows .port 3 = true ∧ full.pathReady .port = true ∧ full.allows .port 3 = true ∧ full.debugStrap = true ∧
      boot.debugStrap = false ∧ boot.serving = true ∧ boot.pathReady .port = true ∧ boot.mg.debugLevel = 0) ∧
    (let s : State := { boot with mg := { boot.mg with device := 1 } }
     s.pathReady .port = true ∧ s.allows .port 3 = true ∧ s.serving = false ∧ s.mg.debugLevel < 1) ∧
    full.mg.debugLevel = 2 ∧
    (let s : State := { full with mg := { full.mg with haltReq := 1 } }
     s.logicalOf 0 = some 0 ∧ s.mg.haltReq.testBit 0 = true ∧ s.mg.debugLevel = 2 ∧ (s.crest 0).halted = false ∧
      (s.crest 0).inv = none ∧ (s.crest 0).work = []) := by
  decide +kernel

theorem witness_RegisterPortFramesAndAlignment :
    (boot.pathReady .port = true ∧ (0xDF : Nat) < 0xE0 ∧ (boot.regWrite .port 0xDF 0).mg.released = true ∧ 0 = boot.mg.iaPort % 256 ∧
      boot.sb.armed = false ∧ 1 ≠ reqCrc 0 0 none ∧ 0 ≠ reqCrc 1 0 (some 0) ∧ 0 ≠ reqCrc 2 0 none ∧
      (∀ a ∈ [0, 1, 255], 256 ≠ reqCrc 3 a none) ∧ 255 = (boot.mg.iaPort + 2 ^ 24 - 1) % 2 ^ 24 % 256 ∧
      boot.mg.iaPort < 2 ^ 24 ∧ 255 ≠ boot.mg.iaPort % 256 ∧ 254 ≠ boot.mg.iaPort % 256 ∧
      254 ≠ (boot.mg.iaPort + 2 ^ 24 - 1) % 2 ^ 24 % 256 ∧ boot.mg.debugLevel = 0) ∧
    (let s : State := { boot with sb := { boot.sb with frameBusy := true } }
     s.pathReady .port = false ∧ s.pathLive .port = true) ∧
    (let s : State := { boot with sb := { boot.sb with armed := true } }
     s.pathReady .port = true ∧ s.pathLive .port = true ∧ s.sb.armed = true) ∧
    (4 ≤ boot.sb.alarmClear ∧ 4 ≤ boot.sb.dropClear) ∧
    (let s : State := { boot with sb := { boot.sb with alarmClear := 3, dropClear := 3 } }
     s.sb.alarmClear < 4 ∧ s.sb.dropClear < 4) := by
  decide +kernel

theorem witness_IalFrameCarriesTheAlert :
    (let s : State := { boot with sb := { boot.sb with aligned := true }, mg := { boot.mg with fatalSupply := true } }
     s.pathLive .port = true ∧ s.sb.aligned = true ∧ s.sb.armed = false ∧ s.mg.fatalSupply = true) ∧
    State.reset.mg.released = true ∧ State.reset.sb.service = false := by decide

/-! The firmware mailbox and bias control. -/

/-- A mailbox command `op` of `len` payload bytes is due; the payload's first word is `arg`. -/
def mb (op len arg : Nat) : State :=
  { boot with fw := { boot.fw with go := true, opcode := op, len := len, payload := tsetFrom 0#8 [] 0 (toBytes arg 4) } }

theorem witness_MailboxCommandsEnd :
    (boot.mg.running = none ∧ boot.fw.verifying = none) ∧
    ((mb 2 0 0).mailboxLive = true ∧ (1 : Nat).testBit 0 = true ∧
      (∀ o ∈ [1, 0x10, 0x11, 0x20], (mb 2 0 0).fw.opcode ≠ o)) ∧
    (∀ o ∈ [0x01, 0x10, 0x11, 0x20], (mb o 3841 0).mbDue o = true ∧ (mb o 3841 0).fw.len = 3841 ∧
      (∀ b ∈ [false, true], let x := mb o (if o = 1 then 0 else 4) 4
       let s : State := { x with mg := { x.mg with running := if b then none else some 0x11 }
                                 fw := { x.fw with verifying := if b then some (4096, 1) else none } }
       s.mbDue o = true ∧ s.fw.len = (if o = 1 then 0 else 4) ∧ s.mbArg 4 = 4 ∧
        (s.mg.running ≠ none ∨ s.fw.verifying ≠ none)) ∧
      (let x := mb o 4 4
       let s : State := { x with mg := { x.mg with policy := 1 } }
       s.mbDue o = true ∧ s.mg.running = none ∧ s.fw.verifying = none ∧ s.mg.policy.testBit 1 = false)) ∧
    ((mb 1 0 0).mbDue 1 = true ∧ (mb 1 0 0).fw.len = 0 ∧ (mb 1 4 0).mbDue 1 = true ∧ (mb 1 4 0).fw.len ≠ 0) ∧
    (let s := mb 0x10 3840 (2 ^ 22 - 3836)
     s.mbDue 0x10 = true ∧ 4 ≤ s.fw.len ∧ s.fw.len ≤ 3840 ∧ s.mbArg 4 + (s.fw.len - 4) ≤ 2 ^ 22 ∧ s.mg.policy.testBit 1 = true) ∧
    (let s := mb 0x11 4 (2 ^ 22)
     s.mbDue 0x11 = true ∧ s.fw.len = 4 ∧ 0 < s.mbArg 4 ∧ s.mbArg 4 ≤ 2 ^ 22) ∧
    ((mb 0x20 4 0).mbDue 0x20 = true ∧ (mb 0x20 4 0).fw.len = 4) := by
  decide +kernel

theorem witness_BiasCommandsChangePages :
    (let s : State := { owned with bias := { count := 1 } }
     s.serving = true ∧ s.biasOk = true) ∧
    (boot.serving = true ∧ boot.biasOk = false) ∧
    ({ owned with bias := { busy := true, left := 1 } } : State).bias.busy = true := by
  decide +kernel

/-! Supply, boot, power control. -/

theorem witness_VinAndSequencerEvents :
    (boot.mg.released = true ∧ boot.pwr.vinLow = false) ∧
    (let s : State := { boot with pwr := { boot.pwr with seqPresent := false } }
     s.mg.released = true ∧ s.pwr.seqPresent = false ∧ s.pwr.seqTimeout = false) := by decide

/-- A die in boot stage `st`, regulator 23 ON, the crests of `m` tested. -/
def boot0 (st m : Nat) : State :=
  { State.reset with
    mg := { State.reset.mg with stage := st, fwRunning := decide (st = 8) }
    rep := { State.reset.rep with bistPassed := m }
    regs := [(23, { st := 2 })] }

theorem witness_BootTestsLeadToReady :
    (boot0 5 0).mg.stage = 5 ∧
    (∀ g ∈ [0, 4], ∀ st ∈ [2, 5], let s := boot0 st (if g = 0 then 0 else 0xFFFF)
      (s.reg 23).st = 2 ∧ s.mg.stage = st ∧ (∀ h, h < g → ∀ p ∈ bistGroup h, s.bistDone p = true) ∧
        (∀ p ∈ bistGroup g, s.rep.bistPassed.testBit p = false) ∧
        (∀ p ∈ bistGroup g, s.crestRetired p = true ∨ ((s.reg p).st ≠ 1 ∧ (s.reg p).st ≠ 4))) ∧
    (∀ st ∈ [4, 5], ∀ h ∈ [false, true], let s : State := { boot0 st 0x1FFFF with
       fw := { boot.fw with handover := h }, slices := [(95, { transit := true })] }
     s.mg.stage = st ∧ s.fw.handover = h ∧ (∀ n, n < 96 → (s.slice n).pw ≠ .on) ∧ (∀ p, p < 17 → s.bistDone p = true) ∧
      s.minMissing ≠ none ∧ s.journal = none) ∧
    (∀ st ∈ [2, 5], let s : State := { boot0 st 0 with regs := [(23, { st := 5, permanent := true })] }
     (s.reg 23).permanent = true ∧ 2 ≤ s.mg.stage ∧ s.mg.stage ≤ 5) ∧
    (∀ k ∈ [none, some 4], let s : State := { boot0 8 0x1FFFF with hostConfig := if k = none then 1 else 0 }
      s.mg.fwRunning = true ∧ s.mg.stage = 8 ∧ s.mg.capBuilt = false ∧ (∀ m, m < 4 → (s.hmod m).st ≠ 1 ∧ (s.hmod m).st ≠ 4) ∧
        s.minMissing = k ∧ s.mg.minLost = false ∧
        ({ s with mg := { s.mg with minLost := true } } : State).mg.minLost = true) := by
  decide +kernel

/-- A 4,096-byte image's header: MAGIC, HDR_VERSION 1, LENGTH, ENTRY 0x200. -/
def header : Tbl Byte :=
  tsetFrom 0#8 (tsetFrom 0#8 [] 0 (toBytes 0x4F46574B 4 ++ toBytes 1 2 ++ toBytes 0 2 ++ toBytes 4096 4)) 0x14 (toBytes 0x200 4)
/-- A die that verifies `len` bytes of STAGE for the mailbox. -/
def verifying (len straps : Nat) : State :=
  { boot with fw := { boot.fw with stage := header, verifying := some (len, 0) }
              sb := { boot.sb with straps := straps }, mg := { boot.mg with rollback := 1 } }

theorem witness_FirmwareVerification :
    (headerOk (tgetFrom 0#8 (verifying 4160 0).fw.stage 0 0x200) 4160 = false) ∧
    (headerOk (tgetFrom 0#8 (verifying 4096 0x40).fw.stage 0 0x200) 4096 = true ∧ (verifying 4096 0x40).debugStrap = true) ∧
    (headerOk (tgetFrom 0#8 (verifying 4096 0).fw.stage 0 0x200) 4096 = true ∧ (verifying 4096 0).debugStrap = false ∧
      fld (tgetFrom 0#8 (verifying 4096 0).fw.stage 0 4096) 0xC 4 < (verifying 4096 0).blown) ∧
    (let s : State := { boot with fw := { boot.fw with handover := true } }
     s.fw.handover = true ∧ s.mg.fwRunning = true) := by
  refine ⟨by decide +kernel, by decide +kernel, ⟨by decide +kernel, by decide +kernel, ?_⟩, by decide⟩
  have h : fld (tgetFrom 0#8 (verifying 4096 0).fw.stage 0 4096) 0xC 4 = 0 := by decide +kernel
  have k : (1 : Nat) ≤ (verifying 4096 0).blown := Nat.le_max_right _ _
  omega

/-- A second of RUN on crest 0. -/
def quietS : State := { boot with time := 1000000, crests := [(0, { pw := .run })] }

theorem witness_PowerControlPeriods :
    (boot.mg.released = true ∧ boot.mg.linkSince = none ∧ boot.pwr.seqPresent = true ∧
      ∀ n, n < 96 → (boot.slice n).unavailable = false) ∧
    (let s : State := { boot with mg := { boot.mg with linkSince := some 0 }, time := 999 }
     s.mg.linkSince = some 0 ∧ 0 + 1000 ≤ s.time + 1 ∧ ∀ m, m < 4 → (s.hmod m).st ≠ 2) ∧
    ({ quietS with pwr := { quietS.pwr with seqPresent := false, vinLow := true } } : State).ceilNow 0 = 15 ∧
    (let s := quietS.modCrest 0 fun x => { x with pendLevel := some 15 }
     (s.crest 0).pendLevel = some 15 ∧ (s.crest 0).pw ≠ .off ∧
      ((({ s with regs := [(0, { st := 2 })] } : State).reg 0).st = 2)) ∧
    (quietS.pwr.seqPresent = true ∧ quietS.pwr.quietEn = true ∧ quietS.pwr.modeNow ≠ 1 ∧ 1000000 ≤ quietS.quietAge ∧
      (∀ k, k < 17 → (quietS.crest k).quiet = false) ∧ quietS.quietOk 0 = true ∧ (quietS.crest 0).inv = none ∧
      (quietS.crest 0).work = [] ∧ (∀ k, k < 17 → quietS.quietOk k = true → quietS.entryTime 0 ≤ quietS.entryTime k)) ∧
    (let s := quietS.modCrest 0 fun x => { x with quiet := true }
     (s.crest 0).quiet = true) ∧
    10000000 ≤ ({ boot with time := 10000000 } : State).quietAge := by
  decide +kernel

/-- CRITICAL_PATH in force at position `pos`, the port to the die at position `1 - pos` ACTIVE. -/
def critAt (pos : Nat) : State :=
  { boot with pwr := { boot.pwr with modeNow := 3 }, sb := { boot.sb with straps := 16 * pos }
              ports := [(if pos = 0 then 0 else 2, { st := 2 })] }

theorem witness_HeatDroopAndTheCriticalPath :
    (boot.mg.released = true ∧ tget false boot.pwr.excluded 63 = false ∧ boot.pwr.seqPresent = true ∧ boot.pwr.tripped = false) ∧
    (let s : State := { boot with pwr := { boot.pwr with hotOnce := [(0, true)], temps := [(0, 400)] } }
     s.mg.released = true ∧ tget false s.pwr.excluded 0 = false ∧ tget false s.pwr.hotOnce 0 = true ∧ s.pwr.tripped = false ∧
      0 ∈ regionList ∧ s.regionTemp 0 = some 400) ∧
    (let s : State := { boot with pwr := { boot.pwr with excluded := (List.range 64).map (fun i => (i, true)), tripped := true } }
     tget false s.pwr.excluded 63 = true ∧ (-161 : Int) < -160 ∧ (-160 : Int) ≤ 600 ∧ s.regionTemp 0 = none ∧ s.pwr.tripped = true ∧ s.pwr.seqPresent = true ∧
      (∀ i, i < 64 → tget false s.pwr.excluded i = true ∨ tget 0 s.pwr.temps i < 380)) ∧
    (quietS.crest 0).pw ≠ .off ∧
    ((critAt 0).critical = true ∧ (critAt 0).leader = (critAt 0).position) ∧
    ((critAt 1).critical = true ∧ (critAt 1).leader ≠ (critAt 1).position ∧ (critAt 1).wayIn (critAt 1).leader = some 2) := by
  decide +kernel

/-- Regulator `r` as given. -/
def regS (r : Nat) (x : Reg) : State := { boot with regs := [(23, { st := 2 }), (r, x)] }

theorem witness_RegulatorsStartRetryAndStop :
    (let s := regS 17 {}
     (s.reg 17).st = 0 ∧ (s.reg 17).permanent = false ∧ s.regWanted 17 = true) ∧
    (let s := regS 17 { st := 1, setpoint := 780 }
     (s.reg 17).st = 1 ∧ 30 * (s.reg 17).setpoint ≤ 234 * 100 ∧ 233 * 100 < 30 * (s.reg 17).setpoint ∧
      (s.reg 17).senseFail = false) ∧
    (let s := regS 17 { st := 1, setpoint := 780, tries := 3 }
     (s.reg 17).st = 1 ∧ (s.reg 17).permanent = false ∧ 3 ≤ (s.reg 17).tries) ∧
    (∀ r ∈ [0, 17], let s := regS r { st := 4 }
     (s.reg r).st = 4 ∧ s.pwr.tripped = false) ∧
    (∀ st ∈ [2, 3], let s := regS 17 { st := st }
     (s.reg 17).st = st ∧ (s.reg 17).permanent = false ∧ (s.countErr kReg 17).atThresh kReg 17 = false ∧
      0 ∈ tierSlices (17 - 17) ∧ s.sliceRetired 0 = false ∧ NoneHeld s ∧ s.ingress = []) ∧
    (let s := { regS 17 { st := 2, lowOnce := 15, pulse := 15 } with time := 10001 }
     let r := s.reg 17
     r.permanent = false ∧ r.senseFail = false ∧ regPhases 17 ≤ 4 ∧
      (∀ k, k < regPhases 17 → 200 ≤ [200, 200, 200, 200].getD k 0 ∧ [249, 249, 249, 249].getD k 0 < 250 ∧ r.lowOnce.testBit k = true) ∧
      [249].sum * 100 ≤ 20 * regRating 17 ∧ 20 * regRating 17 < [2001].sum * 100 ∧ r.stillDue s.time = 15 ∧
      s.mg.diag.testBit 0 = true ∧ s.pwr.seqPresent = true ∧
      ({ s with pwr := { s.pwr with seqPresent := false } } : State).pwr.seqPresent = false ∧
      ({ s with mg := { s.mg with diag := 0 } } : State).mg.diag.testBit 0 = false) ∧
    (∀ st ∈ [1, 2, 3], let s := regS 17 { st := st }
     (s.reg 17).st = st ∧ (s.reg 17).senseFail = false ∧ (s.reg 17).permanent = false ∧ s.pwr.seqPresent = true) ∧
    ((regS 17 { st := 5, permanent := true }).reg 17).permanent = true ∧
    (let s := { regS 17 { st := 2 } with time := 10001 }
     (s.reg 17).st = 2 ∧ (s.reg 17).senseFail = false ∧ (s.reg 17).openMask.testBit 0 = false ∧ 200 ≤ [200].getD 0 0 ∧
      250 ≤ [250].getD 0 0 ∧ s.pwr.seqPresent = true ∧ s.mg.diag.testBit 0 = true ∧ (s.reg 17).load * 100 < 20 * regRating 17 ∧
      0 < regPhases 17) := by
  unfold NoneHeld
  refine ⟨?_, ?_, ?_, ?_, ?_, ?_, ?_, ?_, ?_⟩ <;> decide +kernel

/-! Repair. -/

theorem witness_RepairInService :
    (let s : State := { boot with rep := { boot.rep with bindDue := some 3 }, regs := [(16, { st := 2 })] }
     s.rep.bindDue = some 3 ∧ s.colRetired (s.crestCol (s.physOf 3)) = false ∧ (s.reg 16).st = 2 ∧ s.physOf 3 < 16 ∧
      s.mg.resetDue = none ∧ (0, 0) ∈ (({ s with crests := [(3, { held := [(0, 0)] })] } : State).crest (s.physOf 3)).held) ∧
    (let s : State := { boot with rep := { boot.rep with bindDue := some 3, retCol := 1 } }
     s.rep.bindDue = some 3 ∧ s.colRetired (s.crestCol (s.physOf 3)) = true) ∧
    (let s := boot.modSlice 95 fun x => { x with pw := .on, spareQ := [7, 8] }
     (s.slice 95).sparing = none ∧ (s.slice 95).spareQ = [7, 8] ∧ s.sliceRetired 95 = false ∧ (s.slice 95).pw = .on ∧
      (s.slice 95).spares ≠ 0 ∧ ((s.modSlice 95 fun x => { x with spares := 0 }).slice 95).spares = 0) ∧
    (∀ b ∈ [false, true], let s := boot.modSlice 0 fun x => { x with sparing := some (7, b) }
     (s.slice 0).sparing = some (7, b)) ∧
    (let s : State := { copying owned with cmds := [vCmd], stalled := [((0, 0), .sparing 0)] }
     (s.slice 0).sparing = some (0, false) ∧ NoneHeld s ∧ s.ingress = [] ∧ s.stalled.Nodup ∧ ((0, 0), .sparing 0) ∈ s.stalled ∧ s.cmd? 0 0 = some vCmd) ∧
    (let s := boot.modSlice 95 fun x => { x with pw := .on, scrub := 2 ^ 18 - 1 }
     s.mg.diag.testBit 1 = true ∧ s.sliceRetired 95 = false ∧ (s.slice 95).unavailable = false ∧ (s.slice 95).pw = .on ∧
      (s.slice 95).scrub < 2 ^ 18 ∧ s.hostBias (95 * 2 ^ 18 + (s.slice 95).scrub) = false) ∧
    (boot.mg.released = true ∧ boot.colRetired 3 = false ∧ (boot.countErr kCol 3).atThresh kCol 3 = false ∧
      boot.sliceRetired 95 = false ∧ (gState gCmd 0 {}).cmd? 0 0 = some gCmd ∧ gCmd.fin = none) := by
  unfold NoneHeld
  refine ⟨?_, ?_, ?_, ?_, ?_, ?_, ?_⟩ <;> decide +kernel

/-! The host port. -/

theorem witness_HostReadsAndWritesTheStore :
    (let s := owned
     s.hostHeld 0 = false ∧ s.serving = true ∧ s.hostServes (s.hdmAddr 0 / 2 ^ 24) = true ∧ (s.slice (s.hdmAddr 0 / 2 ^ 24)).pw = .on ∧
      s.hdmAddr 0 % 64 = 0 ∧ s.hostBias (s.hdmAddr 0 / 64) = false ∧ tget {} s.cache (s.hdmAddr 0 / 64) = {} ∧
      (∀ e ∈ s.pend, e.line ≠ s.hdmAddr 0 / 64) ∧ (∀ e ∈ s.evict, e.line ≠ s.hdmAddr 0 / 64) ∧
      (List.replicate 64 (some 0xFF#8)).length = 64) ∧
    (0x5FFFFFC0 % 64 = 0 ∧ 0x5FFFFFC0 < 0x60000000 ∧ boot.hostHeld 0x5FFFFFC0 = false ∧ boot.serving = true ∧
      boot.hostServes (boot.hdmAddr 0x5FFFFFC0 / 2 ^ 24) = false) ∧ (copying owned).hostHeld 0 = true := by
  decide +kernel

theorem witness_SnoopsAndEvictions :
    (∀ st ∈ [Mesi.M, .E, .S, .I], let s : State := { boot with cache := [(9, { st := st })] }
     (tget {} s.cache 9).st = st ∧ (∀ e ∈ s.evict, e.line = 9 → (e.pulled = true ∨ e.snooped = true)) ∧ s.mg.device ≠ 1) ∧
    (∀ pu ∈ [false, true], let e : Evict := ⟨9, true, pu, !pu, [], false⟩
     let s : State := { boot with evict := [e] }
     (tget {} s.cache 9).st = .I ∧ e.line = 9 ∧ (e.pulled = true ∨ e.snooped = true)) ∧
    (∀ m ∈ [false, true], let e : Evict := ⟨9, m, false, false, List.replicate 64 1#8, false⟩
     let s : State := { boot with evict := [⟨8, true, false, false, [], false⟩, e] }
     (tget {} s.cache 9).st = .I ∧ e ∈ s.evict ∧ e.line = 9 ∧ e.pulled = false ∧ e.snooped = false ∧
      (∀ x ∈ s.evict, x.line = 9 → x = e) ∧ e.data.length = 64 ∧ isHostLine 9 = false) ∧
    (let s : State := { boot with mg := { boot.mg with device := 1, cause := 3 } }
     s.mg.device = 1 ∧ s.mg.cause = 3) ∧
    (∀ m ∈ [false, true], ∀ sn ∈ [false, true], let e : Evict := ⟨9, m, false, sn, [], false⟩
     let s : State := { boot with evict := [e] }
     s.evict.find? (fun x => x.line = 9) = some e ∧ NoneHeld s) := by
  unfold NoneHeld
  refine ⟨?_, ?_, ?_, ?_, ?_⟩ <;> decide +kernel

theorem witness_HostModulesRetrain : boot.rep.retMod.testBit 3 = false ∧ NoneHeld boot ∧
    ({ boot with rep := { boot.rep with retMod := 8 } } : State).rep.retMod.testBit 3 = true ∧
    (∀ st ∈ [1, 2, 3, 4], ((boot.modHmod 3 fun h => { h with st := st }).hmod 3).st = st) ∧
    (∀ a ∈ [1, 2], let s := boot.modHmod 3 fun h => { h with st := 4, attempt := a }
      (s.hmod 3).st = 4 ∧ (s.hmod 3).attempt = a ∧ (∀ k, k < 4 → k ≠ 3 → (s.hmod k).st ≠ 1 ∧ (s.hmod k).st ≠ 4)) ∧
    (let s := (boot.modHmod 3 fun h => { h with st := 4 }).modHmod 2 fun h => { h with st := 4 }
     (s.hmod 3).st = 4 ∧ (s.hmod 2).st = 4) ∧
    (let s := (boot.modHmod 3 fun h => { h with st := 2 }).modHmod 2 fun h => { h with st := 3 }
     (s.countErr kHost 3).atThresh kHost 3 = false ∧ s.rep.retMod.testBit 3 = false ∧ (s.hmod 2).st = 3) := by
  unfold NoneHeld
  decide +kernel

/-! Trelkai. -/

/-- A flit of a type from the die at position 1 to the one at position 0, with a body of MSG `msg`, its CRC not yet filled in. -/
def flit0 (typ msg : Nat) : Flit :=
  { typ := typ, seq := 0, ack := 4095, nak := false, fwd := false, src := 1, dst := 0, lines := 3, crData := 1
    crFlag := false, crMgmt := false, crRelay := 0, sid := 5, place := 0
    body := toBytes msg 1 ++ toBytes 1 1 ++ toBytes 5 1 ++ toBytes 2 4 ++ List.replicate 249 0#8, crc := 0#32 }
/-- That flit with its CRC plus `e`: a good one where `e` is 0. -/
def flitOf (typ msg : Nat) (e : Word) : Flit := { flit0 typ msg with crc := (flit0 typ msg).crcOf + e }
/-- Position 0 with `x` on port 0. -/
def linked (x : PPort) : State := { owned with ports := [(0, x)] }

theorem crcOf_crc (f : Flit) (c : Word) : ({ f with crc := c } : Flit).crcOf = f.crcOf := by cases f; rfl

theorem good_crc (f : Flit) (e : Word) : ({ f with crc := f.crcOf + e } : Flit).good = (decide (e = 0#32) && decide (f.typ ≤ 6)) := by
  have h : (f.crcOf + e = f.crcOf) = (e = 0#32) := by
    generalize f.crcOf = x
    exact propext ⟨fun h => by bv_omega, fun h => by rw [h]; exact BitVec.add_zero x⟩
  unfold Flit.good
  rw [crcOf_crc f (f.crcOf + e)]
  simp only [h]

theorem flitOf_good (typ msg : Nat) (h : typ ≤ 6) : (flitOf typ msg 0#32).good = true := by
  unfold flitOf
  rw [good_crc, decide_eq_true rfl, Bool.true_and]
  exact decide_eq_true h

theorem flitOf_bad (typ msg : Nat) : (flitOf typ msg 1#32).good = false := by
  unfold flitOf
  rw [good_crc, decide_eq_false (by decide), Bool.false_and]

theorem witness_PortsSendInOrder :
    (let f := flit0 5 1
     let s := linked { st := 2, held := [f], resend := 1 }
     (s.port 0).st = 2 ∧ (s.port 0).resend ≠ 0 ∧ (s.port 0).held[(s.port 0).held.length - (s.port 0).resend]? = some f) ∧
    (let f := flit0 5 1
     let s := linked { st := 2, qMgmt := [f] }
     (s.port 0).st = 2 ∧ (s.port 0).resend = 0 ∧ (s.port 0).held.length < 256 ∧
      (s.port 0).nextNew (s.peerOf 0) = some (f, { s.port 0 with qMgmt := [] })) ∧
    (let s := linked { st := 2, oweData := 3 }
     (s.port 0).resend = 0 ∧ (s.port 0).held.length < 256 ∧ (s.port 0).nextNew (s.peerOf 0) = none ∧ (s.port 0).owes = true) ∧
    (let s := linked { st := 2 }
     (s.port 0).resend = 0 ∧ (s.port 0).nextNew (s.peerOf 0) = none ∧ (s.port 0).owes = false) := by
  decide +kernel

theorem accepted_of (x : PPort) (typ msg : Nat) (h : typ ≤ 6) (hs : x.st = 2) (he : x.expect = 0) :
    Accepted (linked x) 0 (flitOf typ msg 0#32) := ⟨by decide, hs, flitOf_good typ msg h, he.symm,
    show 0 = owned.position by decide⟩

theorem witness_AcceptedFlitsAreCarriedOut :
    (∀ typ ∈ [1, 2, 3, 4, 5, 6], ∀ msg ∈ [0, 1, 2, 3, 4, 5, 6, 7], Accepted (linked { st := 2 }) 0 (flitOf typ msg 0#32)) ∧
    (∀ msg ∈ [1, 2, 3, 4, 5, 6, 7], (flitOf 5 msg 0#32).typ = 5 ∧ fld (flitOf 5 msg 0#32).body 0 1 = msg ∧
      fld (flitOf 5 msg 0#32).body 1 1 = 1) ∧
    ((linked { st := 2 }).peerOf 0 = 1 ∧ (linked {}).position = 0 ∧ (linked { st := 2 }).ingress = [] ∧
      ∀ typ ∈ [1, 2, 3], ((linked { st := 2 }).accept 0 (flitOf typ 1 0#32)).flitHeld (flitOf typ 1 0#32) = false) ∧
    (let s := { linked { st := 2 } with ports := [(0, { st := 2 }), (1, { resync := true })] }
     Accepted s 0 (flitOf 5 4 0#32) ∧ ((s.accept 0 (flitOf 5 4 0#32)).port 1).resync = true) ∧
    (let s := { linked { st := 2 } with cmds := [sCmd] }
     let f := flitOf 5 5 0#32
     Accepted s 0 f ∧ (s.accept 0 f).cmds.find? (fun c => c.fin.isNone && c.streams.any (fun x =>
       x.dst = f.src && x.sid = fld f.body 2 1 && x.kept.any (fun e => e.1 = fld f.body 3 4))) = some sCmd) ∧
    ((flitOf 5 1 0#32).good = true ∧ (flitOf 5 1 0#32).seq = 0 ∧ (flitOf 5 1 0#32).fwd = false ∧
      (∀ p ∈ [0, 16, 32], let s : State := { linked { st := 2 } with sb := { boot.sb with straps := p } }
       (s.port 0).st = 2 ∧ (p = 0 → 1 = s.peerOf 0) ∧ (p = 16 → 1 = s.position) ∧ (p = 32 → 1 ≠ s.position ∧ 1 ≠ s.peerOf 0))) :=
  ⟨fun typ h msg _ => accepted_of _ _ _ (by revert typ; decide) rfl rfl, by decide +kernel, by decide +kernel,
    ⟨⟨by decide, rfl, flitOf_good 5 4 (by decide), rfl, rfl⟩, by decide +kernel⟩,
    ⟨⟨by decide, rfl, flitOf_good 5 5 (by decide), rfl, rfl⟩, by decide +kernel⟩,
    flitOf_good 5 1 (by decide), rfl, rfl, by decide +kernel⟩

theorem witness_UnlistedMessagesAreLogged : ∀ msg ∈ [0, 8], Accepted (linked { st := 2 }) 0 (flitOf 5 msg 0#32) ∧
    (flitOf 5 msg 0#32).typ = 5 ∧ (fld (flitOf 5 msg 0#32).body 0 1 = 0 ∨ 7 < fld (flitOf 5 msg 0#32).body 0 1) ∧
    (flitOf 5 msg 0#32).nak = false :=
  fun msg h => ⟨accepted_of _ _ _ (by decide) rfl rfl, by revert msg; decide +kernel⟩

theorem witness_BadIdleAndRelayedFlits :
    (((linked { st := 2 }).port 0).st = 2 ∧ (flitOf 0 0 1#32).good = false) ∧
    (let s := linked { st := 2, sendNak := true }
     (s.port 0).st = 2 ∧ (s.port 0).sendNak = true ∧ (s.port 0).resend ≤ (s.port 0).held.length) ∧
    ((flitOf 0 0 0#32).good = true ∧ (flitOf 0 0 0#32).typ = 0 ∧ (flitOf 0 0 0#32).nak = false ∧ (linked { st := 2 }).ingress = []) ∧
    (let g := { flit0 1 0 with dst := 2 }
     let s := { linked { st := 2, relayIn := [g] } with ports := [(0, { st := 2, relayIn := [g] }), (1, { st := 2 })] }
     (s.port 0).relayIn = [g] ∧ s.linkUp g.dst = true ∧ (s.port (s.portTo g.dst)).credits (g.cls false) ≠ 0 ∧ s.portTo g.dst ≠ 0) :=
  ⟨⟨rfl, flitOf_bad 0 0⟩, by decide, ⟨flitOf_good 0 0 (by decide), rfl, rfl, rfl⟩, by decide +kernel⟩

theorem witness_PortsTrainAndAreLost :
    (∀ st ∈ [1, 2, 3], ((linked { st := st }).port 0).st = st) ∧
    (let s := linked { st := 2, held := [flit0 5 1], resends := 7 }
     (s.port 0).held ≠ [] ∧ (s.port 0).resends < 8 ∧ (s.port 0).helloSeen = false) ∧
    (let s := linked { st := 3, attempt := 1 }
     s.rep.retPort.testBit 0 = false ∧ (s.port 0).attempt < 2) ∧
    (let s := linked { st := 3, attempt := 2 }
     s.rep.retPort.testBit 0 = false ∧ 2 ≤ (s.port 0).attempt) ∧
    ({ boot with rep := { boot.rep with retPort := 1 } } : State).rep.retPort.testBit 0 = true := by
  decide +kernel

/-! Rules of the whole machine. -/

theorem witness_StepsKeepTheCapsInOrder : CapsOrdered State.reset ∧ step State.reset = .next State.reset :=
  ⟨by unfold CapsOrdered; decide, rfl⟩

theorem witness_FullDebugAndTaintAreGuarded :
    (let s : State := { full with mg := { full.mg with debugLevel := 0 } }
     ∃ t, exec (.seDebugReq .port 2) s = .next t ∧ s.mg.debugLevel ≠ 2 ∧ t.mg.debugLevel = 2) ∧
    (let s : State := { boot with mg := { boot.mg with taint := 8 } }
     ∃ t, exec .portIdle s = .next t ∧ s.mg.taint.testBit 3 = true) :=
  ⟨⟨_, rfl, by decide, by decide +kernel⟩, ⟨_, rfl, by decide⟩⟩

theorem witness_StepsKeepMemoryCanonical : State.reset.memWf ∧ step State.reset = .next State.reset := ⟨by unfold State.memWf; decide +kernel, rfl⟩

/-! Commands of the dispatcher and of its engine. -/

/-- A SIGNAL of scope `sc` and width `w` on the word at 64, its result at 128. -/
def sgCmd (sc w : Nat) : Cmd := { vCmd with e := entry [(0, 7), (2, sc), (0x10, 64), (0x18, 5), (0x28, 128), (0x31, w)] }
/-- A COPY (0) or GATHER (1) of one row of two bytes from 0 to 1024, the index list at 512. -/
def mvCmd (mode : Nat) : Cmd :=
  { vCmd with e := entry [(0, 3), (0x19, 4), (0x21, 2), (0x28, 1), (0x2C, 2), (0x30, 2), (0x34, 2), (0x38, mode), (0x3C, 1)] }
/-- Its state, the index bytes all `b`. -/
def mvState (b : Byte) : State := { owned with store := if b = 0#8 then [(0, 7#8)] else [(0, 7#8), (512, b), (513, b), (514, b), (515, b)] }
/-- A CONVERT of one row of two FP32 elements at 0 to a format at 1024. -/
def cvCmd (f : Nat) : Cmd :=
  { vCmd with e := entry [(0, 4), (0x20, 1), (0x24, 2)], dA := { format := 0x12 }, dOut := { format := f, addr := 1024 } }

theorem witness_DispatcherCommandsAndMovesTakeEffect :
    (∀ sc ∈ [0, 1, 2], ∀ w ∈ [4, 8], let c := sgCmd sc w
     let s : State := { owned with cmds := [c] }
     s.cmd? 0 0 = some c ∧ c.fin = none ∧ c.dbg = false ∧ c.scope = sc ∧ c.f8 0x31 = w ∧ s.gaddr 0 (c.f64 0x10) = 64 ∧ 64 % w = 0 ∧
      s.gaddrs 0 (c.f64 0x10) w = (List.range w).map (64 + ·) ∧ (s.gaddrs 0 (c.f64 0x28) 8).Nodup ∧ s.abuf.length < 16 ∧ s.abuf = []) ∧
    (Plain owned ((List.range 8).map (64 + ·) ++ owned.gaddrs 0 128 8)) ∧
    (let s : State := { owned with cmds := [sgCmd 1 8], abuf := [⟨64, 8, 3⟩] }
     s.flushHeld (fun _ => true) = none ∧ (copying s).flushHeld (fun _ => true) = some (.sparing 0)) ∧
    (∀ op ∈ [10, 6], let c : Cmd := { vCmd with e := entry [(0, op)] }
     let s : State := { owned with cmds := [c] }
     c.started = true ∧ c.opcode = op ∧ s.cmds.find? (fun d => d.q = c.q) = some c) ∧
    (∀ m ∈ [0, 1], (mvCmd m).f8 0x38 = m ∧ (mvCmd m).moveOverlap = false ∧ (mvCmd m).f32 0x3C = 1 ∧
      ((mvState 0#8).gaddrs 0 ((mvCmd m).f64 0x18) 2).Nodup) ∧
    (∀ b ∈ [0#8, 1#8, 0xFF#8], ofBytes (((mvState b).gaddrs 0 ((mvCmd 1).f64 0x20) 4).map (tget 0#8 (mvState b).store)) =
      b.toNat * 0x1010101) ∧
    (∀ b ∈ [0#8, 1#8, 0xFF#8], Plain (mvState b) ((mvState 0#8).gaddrs 0 512 4 ++ (mvState 0#8).gaddrs 0 1024 2 ++ (mvState 0#8).gaddrs 0 0 2)) ∧
    (∀ f ∈ [0x01, 0x02, 0x09, 0x10, 0x11, 0x12, 0x13], (cvCmd f).f32 0x24 = 2 ∧ (cvCmd f).dOut.format = f ∧
      (owned.outAddrs (cvCmd f) 0 0 2).Nodup ∧ owned.outAddrs (cvCmd f) 0 0 2 = owned.gaddrs 0 1024 (elemBits f / 4) ∧
      owned.convertAddrs (cvCmd f) 0 = owned.gaddrs 0 0 8) ∧
    Plain owned (owned.gaddrs 0 0 8 ++ owned.gaddrs 0 1024 8) := by
  exact ⟨by decide +kernel, plain_low _ _ rfl rfl rfl rfl (by decide +kernel), by decide +kernel, by decide +kernel, by decide +kernel,
    by decide +kernel, fun b h => plain_low _ _ rfl rfl rfl rfl (by revert b; decide +kernel), by decide +kernel, plain_low _ _ rfl rfl rfl rfl (by decide +kernel)⟩

/-! Ill-formed commands: one for each check of `Instr.wf`. -/

/-- Operands at their bounds. -/
theorem test_well_formed_at_bounds : ∀ i ∈
    [Instr.gemm 63 hNone, .completionRecord 63 65535 0, .rowPass 16 (.residue 3) [], .vNop 16 ⟨31, 31, 31, 31, 7, 7, 63, 2 ^ 24 - 1⟩,
      .progLoadDone 16 7, .sendFlag 0 0 8, .registerWrite (.queue 63 4092) 0, .registerWrite (.msix 127 3) 0, .ptCreate .port 7,
      .rpRetire .bar0 15 255, .resetCrest .port 15, .resetLink .port 3, .sbWrite 255 (2 ^ 32 - 1) 255 true, .ialFrame 0xFFFF,
      .strapDecode 255 255 255 255, .storeBistDone [(95, 4095)], .sensorRead 63 2047, .softstart 23, .hostRetrainDone 3 true 63 ⟨false, 0⟩,
      .peerRetrainDone 2 true 3 16, .rowCopyEnd ⟨95, 0⟩, .colReplay 3 false ⟨0, .slice, 0⟩, .syncDisarm ⟨255, 255⟩, .powerGating (.sliceRetain 95), .powerGating (.sliceOff 95), .hostMemRead 0x5FFFFFC0 none 7], i.wf = true := by decide

/-- Queues, tags, crests, instructions, events, lines. -/
theorem test_ill_formed_commands : ∀ i ∈
    [Instr.gemm 64 hNone, .gemm 0 ⟨[(2 ^ 52, 0#8)], [], []⟩, .gemm 0 ⟨[], [2 ^ 46], []⟩, .entryFetch 64 hNone 0,
      .completionRecord 0 65536 0, .irqTimer 64, .preempt 17, .scoreboardRelease 17 0, .rowPass 17 .clean [],
      .rowPass 0 (.residue 0) [], .rowPass 0 (.residue 4) [], .rowPass 0 .clean [⟨0, 8, .ce⟩], .weightBankFill 17 0 [],
      .tileEpilogue 17 [] false, .invocationStart 17, .vNop 17 i0, .vNop 0 { i0 with vd := 32 }, .vNop 0 { i0 with mask := 8 },
      .vNop 0 { i0 with sub := 64 }, .vNop 0 { i0 with imm := 2 ^ 24 }, .vLda 17 i0 false, .vLds 0 i0 [⟨96 * 2 ^ 24, 0, .ue⟩],
      .progLoadDone 0 8, .progReload 17 0, .sendFlag 0 0 9, .channelTileRetry 0 0 256 0, .sendTmo 64 0, .waitPoll 64 0 hNone,
      .atomicWriteback 2, .qDoorbell 0 (2 ^ 32) hNone, .queueEnable 64, .qCqHead 0 (2 ^ 32)], i.wf = false := by decide

/-- Registers, partitions, paths and pins. -/
theorem test_ill_formed_registers : ∀ i ∈
    [Instr.registerWrite (.mgmt .port 256) 0, .registerWrite (.queue 0 2) 0, .registerWrite (.queue 0 4096) 0,
      .registerWrite (.mailbox 1) 0, .registerWrite (.bias 2) 0, .registerWrite (.msix 128 0) 0, .registerWrite (.msix 0 4) 0,
      .biasPageDone ⟨[(2 ^ 52, 0#8)], [], 0⟩, .biasPageDone ⟨[], [2 ^ 46], 0⟩, .ptCreate .port 8, .rpRetire .port 16 0, .rpRetire .port 0 256, .resetCrest .port 16,
      .resetLink .port 4, .dbgHaltReq .port (2 ^ 32), .crestHalt 17, .seDebugReq .port 4, .ptSel .port (2 ^ 32),
      .sbRead 256 0 true, .sbRead 0 256 true, .sbWrite 0 (2 ^ 32) 0 true, .syncArm 256, .syncDisarm ⟨256, 0⟩, .ialFrame (2 ^ 16),
      .strapDecode 256 0 0 0], i.wf = false := by decide

/-- Boot, supply, repair, the host port and Trelkai. -/
theorem test_ill_formed_events : ∀ i ∈
    [Instr.storeBistDone [(96, 0)], .storeBistDone [(0, 4096)], .crestBistGroupDone 5 [], .crestBistGroupDone 0 [17],
      .levelSwitch 17, .estimatorWindow [⟨17, [0, 0, 0, 0, 0, 0, 0, 0], []⟩] [], .estimatorWindow [⟨0, [], []⟩] [],
      .estimatorWindow [] [((64, 0), 1)], .quietSlotEnd 17 0, .sensorRead 64 0, .sensorRead 0 2048, .droop 17,
      .regSample [⟨24, 0, 0, []⟩] 0, .phaseWindow 24 [] [], .senseFail 0 16, .softstart 24, .softstartEnd 24 0, .crestWakeDone 17 0,
      .sliceWakeDone 96 0, .rowSpare 96, .rowTestDone 96 true, .scrubRead 0 (2 ^ 18) none 0, .colReplay 4 true ⟨0, .slice, 0⟩,
      .hostMemRead 1 none 0, .hostMemRead 0x60000000 none 0, .hostMemRead 0 none 8, .hostMemWrite 0 [] false, .hostRetrain ⟨4, 0⟩,
      .hostRetrainDone 0 true 64 ⟨false, 0⟩, .flitSend 3, .dataStore 3 (flit0 1 0), .dataStore 0 { flit0 1 0 with typ := 16 },
      .dataStore 0 { flit0 1 0 with body := [] }, .dataStore 0 { flit0 1 0 with crData := 4 }, .peerRetrainDone 0 true 4 0,
      .powerGating (.crestNap 17), .powerGating (.crestOff 17), .powerGating (.sliceRetain 96), .powerGating (.sliceOff 96), .rowCopyEnd ⟨96, 0⟩],
    i.wf = false := by decide

/-! Worked cases of the spec. -/

/-- 14_sideband.md, worked case of R297: a READ of MG_ID, request CRC 0x00, is answered ACK, 0x4F11_1620, CRC 0x49. -/
theorem test_read_of_mg_id : reqCrc 0 0 none = 0 ∧
    ∃ t, exec (.sbRead 0 0 true) boot = .next t ∧ t.out = [.sb 0 0x4F111620#32 0x49] := ⟨by decide +kernel, _, rfl, by decide +kernel⟩

/-- 00_scope.md, worked case: slice 37 lies in tier 2 and is served by col 1. -/
theorem test_slice_37 : sliceTier 37 = 2 ∧ sliceCol 37 = 1 := by decide

/-- 07_memory_model.md, worked case: interleave over slices 4, 5, 20 and 37 takes 0x0500_3ABC to 0x2540_0ABC. -/
theorem test_interleave : ({ boot with
    parts := [(0, { crests := 1, slices := 2 ^ 4 + 2 ^ 5 + 2 ^ 20 + 2 ^ 37, queues := 1, ctl := 1, st := 1 })] } : State).gaddr
      0 0x05003ABC = 0x25400ABC := by decide +kernel

/-- 03_crest.md, worked case: one group of E5M2 by E4M3 leaves 0x4BC3_FFFE. -/
theorem test_group : fastPass 0#32 one32
    (products (padBlock ([0x7B, 0x01, 0x05, 0xC1].map (fun v => decodeElem 2 v 0)))
      (padBlock ([0x7E, 0x8B, 0x3B, 0x40].map (fun v => decodeElem 1 v 0)))) = (0x4BC3FFFE#32, false) := by decide +kernel

/-- 02_numbers.md, worked case: a block of MXFP8-E4M3 has scale 0x82, its elements, and two vanished. -/
theorem test_mx_block : (let c := convMx 3 [] true (([0x453B8000#32, 0x3B800000#32, 0xBFC00000#32, 0xBB400000#32, 0x3CC00000#32].map fp32)
      ++ List.replicate 27 (.zero false))
    (c.scale, c.elems.take 6, c.sat, c.van)) = (0x82, [0x7C, 0x00, 0xA4, 0x80, 0x02, 0x00], 0, 2) := by decide +kernel

/-- 02_numbers.md, worked case: 0x3EAB by 0x4040 as PAIR2 by PAIR2, the parts and the sum of the three passes. -/
theorem test_pair2 : (let a := padBlock [decodeElem 0x10 0x3EAB 0]
    let b := padBlock [decodeElem 0x10 0x4040 0]
    let p (i j : Nat) (acc : Word) : Word := (fastPass acc one32 (products (partOf 2 i a) (partOf 2 j b))).1
    ((partOf 2 0 a).head?, (partOf 2 1 a).head?, p 0 0 (p 1 0 (p 0 1 0#32))) =
      (some (.fin false 11 (-5)), some (.fin true 10 (-10)), 0x3F804000#32)) ∧ passOrder 2 2 = [(0, 1), (1, 0), (0, 0)] := by
  decide +kernel

/-- 04_vector_engine.md, worked case: the generator's step, and 1.3 to E4M3 by SR with 12 bits. -/
theorem test_stochastic_rounding : genStep 0x8000000000000001#64 = 0x8100000040822041#64 ∧
    (convFloat fE4M3 (.sr 12 0x810) true (fp32 0x3FA66666#32)).bits = 0x3A ∧
    (convFloat fE4M3 (.sr 12 2458) true (fp32 0x3FA66666#32)).bits = 0x3B ∧
    (convFloat fE4M3 .rne true (fp32 0x3FA66666#32)).bits = 0x3A := by decide +kernel

/-- 06_work_submission.md, worked case: queue 5 of 16 entries, head 10, tail 20. -/
def queue5 : State := { owned with
  parts := [(0, { crests := 3, slices := 3, queues := 32, st := 1 })]
  queues := [(5, { cfg := 0x64, st := .halted, cqBase := 0x1000, head := 10, tail := 20 })] }

/-- Its refused doorbell leaves the tail and its overflow record, words 0 to 3 and 5; the next one moves the tail. -/
theorem test_refused_doorbell : (let t := orStay queue5 (exec (.qDoorbell 5 30 hNone) queue5)
    ((t.queue 5).tail, (t.queue 5).ovfBit, [0, 1, 2, 3, 5].map (fun i => t.wordAt (0x1000 + 4 * i) 4),
      ((orStay t (exec (.qDoorbell 5 26 hNone) t)).queue 5).tail)) = (20, true, [0x80050010, 0x14, 0x1E, 0xA, 1], 26) := by
  decide +kernel

/-- The record of tag 20: 300 CCLK of QUEUE, 900 of STORE, one element saturated. -/
theorem test_record_words : (let c : Cmd := ({ q := 5, t := 20, sat := 1, satHit := true } : Cmd)
    let r := ((c.charge wQueue 300).charge wStore 900).recordWords c.okStatus 0 1 6 false
    [0, 1, 3, 4, 6].map (fun i => r.getD i 0)) = [0x81050001, 0x14, 0x4B0, 0x409, 0x10000] := by decide +kernel

/-- 16_registers.md, worked case: physical crest 9 replaced by the spare, slice 37 retired. -/
theorem test_capability_list : (let s : State := { boot with
      rep := { boot.rep with crestMap := [(9, 16)], spareSt := 1, replaces := 9, retCrest := 2 ^ 9, retSlice := 2 ^ 37 } }
    [0x10, 0x11, 0x12, 0x16, 0x17].map s.capWord) = [0x00166101, 0xFFFF0630, 0x005F05F0, 0x001E8102, 0x00000FFE] := by
  decide +kernel

/-- 14_sideband.md, Table SB-3: the straps. -/
theorem test_straps : [(0, 0), (0, 1), (1, 0), (1, 1), (2, 0), (2, 1), (0, 2), (1, 2), (2, 2)].map (fun e => strapDecode e.1 e.2) =
    [some (0, 0), some (1, 0), some (2, 0), some (3, 0), some (0, 1), some (1, 1), some (2, 1), some (3, 1), none] := by decide

end Sys2Proof.Tests
end

section
/-!
Register writes (O15): what a write over each path leaves, and what each register's own write does.
-/
namespace Sys2Proof.Machine
open Sys2Proof.Claim

/-! Writes to the management file: who is heard, and what the path answers. -/

theorem pathLive_of_pathReady {s : State} {p : Path} (h : s.pathReady p = true) : s.pathLive p = true :=
  (Bool.and_eq_true_iff.1 h).1

theorem released_of_pathReady_port {s : State} (h : s.pathReady .port = true) : s.mg.released = true :=
  (Bool.and_eq_true_iff.1 (pathLive_of_pathReady h)).1

/-- Outside the always-on reset a frame's response is driven (R286). -/
theorem answer_eq_answered {s : State} (h : s.mg.released = true) (status d : Nat) :
    s.answer status d = answered s status d := by
  simp only [State.answer, h, if_true, State.sbReply, answered]

/-- Below the debug registers no write is answered with NAK_PERM (R296). -/
theorem nakWrite_eq_false (s : State) {a : Nat} (h : a < 0xE0) : s.nakWrite a = false := by
  have hd : decide (0xE0 ≤ a) = false := decide_eq_false (Nat.not_le.2 h)
  simp only [State.nakWrite, hd, Bool.false_and]

/-- A write to a path that hears it, of a register below the debug registers, has the register's effect and is
acknowledged, provided that the effect lets the always-on reset be. -/
theorem exec_registerWrite_mgmt {s t : State} {p : Path} {a v : Nat} (hp : s.pathReady p = true) (ha : a < 0xE0)
    (hw : s.regWrite p a v = t) (hr : t.mg.released = s.mg.released) :
    exec (.registerWrite (.mgmt p a) v) s = .next (acked p t) := by
  change Host.Outcome.next (s.access p true _) = _
  cases p with
  | bar0 => simp [State.access, hp, hw, acked]
  | port =>
    have ht : t.mg.released = true := hr.trans (released_of_pathReady_port hp)
    simp [State.access, hp, nakWrite_eq_false s ha, hw, answer_eq_answered ht, acked]

/-! RP_THRESH. -/

theorem regWrite_thresh {s : State} (h : s.pathLive .port = true) (v : Nat) :
    s.regWrite .port 0x39 v = s.writeThresh v := by
  simp [State.regWrite, h]

/-- A COUNT and a WINDOW that Table FLT-2 lists are taken. -/
theorem writeThresh_listed (s : State) {v : Nat} (hc : v % 16 ≠ 0) (hw : bits v 15 8 ≠ 0) :
    s.writeThresh v = (s.modMg fun m => { m with threshCount := v % 16, threshWindow := bits v 15 8 }).liveChange := by
  simp [State.writeThresh, hc, hw]

theorem liveChange_released (s : State) : s.liveChange.mg.released = s.mg.released := by
  obtain ⟨-, -, h, -⟩ := (liveChange_kept (Kept.refl true true s)).guarded rfl
  exact h

/-! The caps (R249). -/

theorem regWrite_pw {s : State} {p : Path} {a : Nat} (hl : s.pathLive p = true) (hp : s.allows p polPw = true)
    (h : 0x10 ≤ a) (h' : a < 0x20) (v : Nat) : s.regWrite p a v = s.writePw a v := by
  have : a ≠ 0x03 ∧ a ≠ 0x04 ∧ a ≠ 0x05 ∧ a ≠ 0x06 ∧ a ≠ 0x07 ∧ a ≠ 0x08 ∧ a ≠ 0x09 ∧ a ≠ 0x0A ∧ a ≠ 0x0B := by omega
  simp [State.regWrite, hl, hp, h, h', this]

/-- A cap write in range and order sets its own cap. -/
theorem writePw_cap_taken {s : State} {a v : Nat} (h : 0x10 ≤ a) (h' : a ≤ 0x12) (hok : s.capOk a (v % 65536) = true) :
    s.writePw a v = s.modPwr fun w =>
      if a = 0x10 then { w with capSust := v % 65536 } else if a = 0x11 then { w with capPk1 := v % 65536 }
      else { w with capPk2 := v % 65536 } := by
  obtain rfl | rfl | rfl : a = 0x10 ∨ a = 0x11 ∨ a = 0x12 := by omega
  all_goals simp [State.writePw, hok]

/-- Any other cap write is an unlisted encoding. -/
theorem writePw_cap_refused {s : State} {a v : Nat} (h : 0x10 ≤ a) (h' : a ≤ 0x12) (hok : s.capOk a (v % 65536) = false) :
    s.writePw a v = s.badEnc := by
  obtain rfl | rfl | rfl : a = 0x10 ∨ a = 0x11 ∨ a = 0x12 := by omega
  all_goals simp [State.writePw, hok]

/-- A cap write over a path that SE_POLICY lets write the PW_ registers is that register's own write, acknowledged. -/
theorem exec_registerWrite_cap {s t : State} {p : Path} {a v : Nat} (hp : s.pathReady p = true)
    (hal : s.allows p 2 = true) (h : 0x10 ≤ a) (h' : a ≤ 0x12) (hw : s.writePw a v = t)
    (hr : t.mg.released = s.mg.released) : exec (.registerWrite (.mgmt p a) v) s = .next (acked p t) :=
  exec_registerWrite_mgmt hp (by omega) ((regWrite_pw (pathLive_of_pathReady hp) hal h (by omega) v).trans hw) hr

/-! Queue pages. -/

theorem exec_registerWrite_queue {s : State} {q : Nat} (hs : s.serving = true) (hq : q < 64) (off v : Nat) :
    exec (.registerWrite (.queue q off) v) s = .next (s.writeQueue q off v) := by
  change Host.Outcome.next (if _ then _ else s) = _
  simp [hs, hq]

/-- An update of a queue's record is told by what it makes of that record. -/
theorem modQueue_congr (s : State) (q : Nat) {f g : Queue → Queue} (h : f (s.queue q) = g (s.queue q)) :
    s.modQueue q f = s.modQueue q g := by
  have h' : f (tget {} s.queues q) = g (tget {} s.queues q) := h
  simp only [State.modQueue, tmod, h']

theorem writeQueue_irq {s : State} {q : Nat} (ho : (s.queueOwner q).isSome = true) (v : Nat) :
    s.writeQueue q 0x014 v = s.modQueue q fun k => k.ifDisabled fun k => { k with irq := v % m32 } := by
  have : (s.queueOwner q).isNone = false := by simpa [Option.isSome_iff_ne_none] using ho
  simp [State.writeQueue, this]

/-- Q_IRQ of a queue in DISABLED takes what is written; in any other state it stays and sets CFG_LOCKED (R120). -/
theorem exec_registerWrite_irq {s : State} {q v : Nat} {g : Queue → Queue} (hs : s.serving = true) (hq : q < 64)
    (ho : (s.queueOwner q).isSome = true)
    (hg : ((s.queue q).ifDisabled fun k => { k with irq := v % m32 }) = g (s.queue q)) :
    exec (.registerWrite (.queue q 0x014) v) s = .next (s.modQueue q g) := by
  rw [exec_registerWrite_queue hs hq, writeQueue_irq ho, modQueue_congr s q hg]

/-! The mailbox, HB_COUNT and the MSI-X table. -/

/-- MB_CMD takes any OPCODE and LEN while no command runs (log 115). -/
theorem writeMailbox_cmd {s : State} (hl : s.mailboxLive = true) (hg : s.fw.go = false) (v : Nat) :
    s.writeMailbox 4 v = s.modFw fun f => { f with opcode := bits v 15 0, len := bits v 27 16 } := by
  simp [State.writeMailbox, hl, hg]

/-- HB_COUNT takes 1 to 65536 pages (Table HOST-6). -/
theorem writeBias_count (s : State) {v : Nat} (h0 : v % 2 ^ 17 ≠ 0) (h : v % 2 ^ 17 ≤ 65536) :
    s.writeBias 8 v = { s with bias := { s.bias with count := v % 2 ^ 17 } } := by
  have hin : ¬ (v % 2 ^ 17 = 0 ∨ v % 2 ^ 17 > 65536) := by omega
  simp only [State.writeBias, if_neg hin]
  rfl

/-- The address and data words of a vector take what is written; its mask is the fourth word (R144). -/
theorem writeMsix_word (s : State) {vec w : Nat} (hv : vec < 128) (hw : w < 3) (v : Nat) :
    s.writeMsix vec w v = { s with msixMask := tset 0 s.msixMask (4 * vec + w) (v % 2 ^ 32) } := by
  have hin : ¬ (vec ≥ 128 ∨ w ≥ 4) := by omega
  have hw3 : w ≠ 3 := by omega
  simp [State.writeMsix, hin, hw3]

/-- Settles O15: each register's write is computed by its own law, and what is left is the path that carries it. -/
theorem registerWritesTakeTheirFields : Obligations.RegisterWritesTakeTheirFields := by
  refine ⟨fun s v => ⟨?irq, ?irqLocked, ?mailbox, ?count, ?msix, ?thresh⟩,
    fun s path a v hp hal h h' => ⟨?capTaken, ?capRefused⟩⟩
  case irq =>
    intro q hs hq ho hd
    exact exec_registerWrite_irq hs hq ho (if_pos hd)
  case irqLocked =>
    intro q hs hq ho hd
    exact exec_registerWrite_irq hs hq ho (if_neg hd)
  case mailbox =>
    intro hl hg
    exact congrArg Host.Outcome.next (writeMailbox_cmd hl hg v)
  case count =>
    intro hs h0 h
    exact congrArg Host.Outcome.next ((if_pos hs).trans (writeBias_count s h0 h))
  case msix =>
    intro vec w hl hv hw
    exact congrArg Host.Outcome.next ((if_pos hl).trans (writeMsix_word s hv hw v))
  case thresh =>
    intro hp hc hw
    exact exec_registerWrite_mgmt hp (by decide)
      ((regWrite_thresh (pathLive_of_pathReady hp) v).trans (writeThresh_listed s hc hw)) (liveChange_released _)
  case capTaken =>
    intro hok
    exact exec_registerWrite_cap hp hal h h' (writePw_cap_taken h h' hok) rfl
  case capRefused =>
    intro hok
    exact exec_registerWrite_cap hp hal h h' (writePw_cap_refused h h' hok) rfl

end Sys2Proof.Machine
end

section
/-!
The cold resets and the straps (O31): what each source of a COLD reset leaves, and how a word of SB_STRAPS is read back.
-/
namespace Sys2Proof.Machine
open Sys2Proof.Claim

/-! A management command that is heard. -/

theorem pathReady_of_heard {s : State} {path : Path} {op : Nat} (h : Heard s path op) : s.pathReady path = true := h.1

/-- A heard command of Table REG-5 starts in the step of its write, acknowledged on its path; FW_SB_ACTIVATE looks at the
verification under way besides, and is left out here. -/
theorem mgCmd_of_heard {s : State} {path : Path} {v : Nat} (h : Heard s path (v % 256)) (hv : v % 256 ≠ 0x31) :
    s.mgCmd path v = s.mgStart path v := by
  obtain ⟨hready, hbar0, hbusy⟩ := h
  have hlive : s.pathLive path = true := pathLive_of_pathReady hready
  have hgate : (!s.pathLive path || (decide (path = .bar0) && !(s.allows path polPt && opBar0 (v % 256)))) = false := by
    cases path with
    | port => simp [hlive]
    | bar0 =>
      obtain ⟨hpol, hop⟩ := hbar0 rfl
      simp [hlive, State.allows, polPt, hpol, hop]
  rw [State.mgCmd, hgate]
  simp [hbusy, hv]

theorem written_port {s : State} (h : s.pathReady .port = true) (f : State → State) :
    s.written .port f = (f s).answer 0 0 := by
  simp [State.written, State.access, h]

/-! The sources of a COLD reset. -/

/-- The model's COLD reset is the claim's. -/
theorem cold_eq_coldState (s : State) (cause : Nat) : s.cold cause = coldState s cause := rfl

/-- Under the always-on reset no pin is driven (R286), so the frame of a RESET_COLD gets no answer. -/
theorem answer_cold (s : State) (cause status d : Nat) : (s.cold cause).answer status d = s.cold cause := rfl

theorem exec_alwaysOnReset (s : State) : exec .alwaysOnReset s = .next (coldState s 0) :=
  congrArg Host.Outcome.next (cold_eq_coldState s 0)

theorem exec_refclkInvalid (s : State) :
    exec .refclkInvalid s = .next (coldState s (if s.mg.device = 0 then 0 else 1)) := by
  change (if s.mg.device = 0 then Host.Outcome.next (s.cold 0) else .next (s.cold 1)) = _
  split <;> rw [cold_eq_coldState]

/-- RESET_COLD is a command of the register port alone: Table REG-5 does not mark it for BAR0. -/
theorem exec_resetCold {s : State} {path : Path} (h : Heard s path 0x40) :
    exec (.resetCold path) s = .next (coldState s 2) := by
  change Host.Outcome.next (s.written path fun s => s.mgCmd path 0x40) = _
  cases path with
  | bar0 =>
    obtain ⟨-, hbar0, -⟩ := h
    exact absurd (hbar0 rfl).2 (by decide)
  | port =>
    have hcmd : s.mgCmd .port 0x40 = s.cold 2 := mgCmd_of_heard (v := 0x40) h (by decide)
    rw [written_port (pathReady_of_heard h), hcmd, answer_cold, cold_eq_coldState]

theorem exec_alwaysOnRelease {s : State} (h : s.mg.released = false) :
    exec .alwaysOnRelease s = .next { s with mg := { s.mg with released := true, device := 1 } } := by
  change (if s.mg.released then Host.Outcome.next s else _) = _
  rw [h]
  rfl

/-! Straps: what a pin reads, and the fields of SB_STRAPS (Table SB-3). -/

theorem strapRead_of_lt {m : Nat} (h : m < 256) : strapRead m = if m = 0 then 0 else if m = 255 then 1 else 2 := by
  rw [strapRead, Nat.mod_eq_of_lt h]

theorem strapLevel_lt (up down : Nat) : strapLevel up down < 3 := by
  unfold strapLevel
  split
  · decide
  · split <;> decide

/-- A position has two bits and the debug strap one. -/
theorem strapDecode_lt {a b c d pos dbg : Nat} (h : strapDecode (strapLevel a b) (strapLevel c d) = some (pos, dbg)) :
    pos < 4 ∧ dbg < 2 :=
  have hall : ∀ i < 3, ∀ j < 3, ∀ e ∈ strapDecode i j, e.1 < 4 ∧ e.2 < 2 := by decide
  hall _ (strapLevel_lt a b) _ (strapLevel_lt c d) (pos, dbg) h

/-- SB_STRAPS below its position and debug fields: the levels of the two pins, and from bit 8 what they read. -/
def strapBase (a b c d : Nat) : Nat :=
  strapLevel (strapRead a) (strapRead b) + 4 * strapLevel (strapRead c) (strapRead d)
    + 2 ^ 8 * (strapRead a + 4 * strapRead b + 16 * strapRead c + 64 * strapRead d)

theorem strapBase_fields (a b c d : Nat) {pos dbg : Nat} (hpos : pos < 4) (hdbg : dbg < 2) :
    let w := strapBase a b c d + 2 ^ 4 * pos + 2 ^ 6 * dbg
    bits w 1 0 = strapLevel (strapRead a) (strapRead b) ∧ bits w 3 2 = strapLevel (strapRead c) (strapRead d) ∧
      bits w 5 4 = pos ∧ w.testBit 6 = decide (dbg = 1) := by
  have hick := strapLevel_lt (strapRead a) (strapRead b)
  have hida := strapLevel_lt (strapRead c) (strapRead d)
  simp only [strapBase, bits, Nat.testBit_eq_decide_div_mod_eq, decide_eq_decide]
  omega

/-- SERVICE phase begins with SB_STRAPS `w` (R289). -/
def State.strapped (s : State) (w : Nat) : State :=
  (s.modSb fun b => { b with straps := w, service := true }).modMg fun m => { m with stage := 1 }

/-- The straps are read once, in STRAP phase: the reset released, and neither SERVICE phase nor strap hold begun. -/
theorem exec_strapDecode {s : State} {a b c d : Nat} (hr : s.mg.released = true) (hs : s.sb.service = false)
    (hh : s.sb.strapHold = false) :
    exec (.strapDecode a b c d) s =
      match strapDecode (strapLevel (strapRead a) (strapRead b)) (strapLevel (strapRead c) (strapRead d)) with
      | none => .next (s.modSb fun x => { x with straps := strapBase a b c d, strapHold := true })
      | some (pos, dbg) =>
        let u := s.strapped (strapBase a b c d + 2 ^ 4 * pos + 2 ^ 6 * dbg)
        .next (if dbg = 1 then u.setTaint 0 else u) := by
  have hfirst : ¬(!s.mg.released || s.sb.service || s.sb.strapHold) = true := by simp [hr, hs, hh]
  exact if_neg hfirst

theorem setTaint_frame (s : State) (b : Nat) :
    (s.setTaint b).sb = s.sb ∧ (s.setTaint b).mg.stage = s.mg.stage := by
  simp only [State.setTaint, State.liveChange]
  repeat' split
  all_goals exact ⟨rfl, rfl⟩

theorem liveChange_taint (s : State) : s.liveChange.mg.taint = s.mg.taint := by
  rw [State.liveChange]
  split <;> rfl

theorem setTaint_testBit (s : State) (b : Nat) : (s.setTaint b).mg.taint.testBit b = true := by
  rw [State.setTaint]
  split
  · assumption
  · rw [liveChange_taint, State.modMg_mg, orBit, Nat.testBit_or, Nat.testBit_two_pow_self, Bool.or_true]

/-- Settles O31: each source leaves the model's one cold state, which is the claim's; the levels of the two pins lie in
SB_STRAPS where the register's fields read them back. -/
theorem coldResetsAndStraps : Obligations.ColdResetsAndStraps := by
  refine ⟨fun s path => ⟨exec_alwaysOnReset s, exec_refclkInvalid s, exec_resetCold, exec_alwaysOnRelease⟩, by decide, ?_⟩
  intro s a b c d hr hs hh ha hb hc hd read ick ida
  have hick : ick = strapLevel (strapRead a) (strapRead b) :=
    congr (congrArg strapLevel (strapRead_of_lt ha).symm) (strapRead_of_lt hb).symm
  have hida : ida = strapLevel (strapRead c) (strapRead d) :=
    congr (congrArg strapLevel (strapRead_of_lt hc).symm) (strapRead_of_lt hd).symm
  clear_value ick ida
  subst hick hida
  have hexec := exec_strapDecode (a := a) (b := b) (c := c) (d := d) hr hs hh
  refine ⟨fun pos dbg h => ?decoded, fun h => ?hold⟩
  case hold =>
    rw [h] at hexec
    exact ⟨_, hexec, rfl, rfl, rfl⟩
  case decoded =>
    rw [h] at hexec
    obtain ⟨hpos, hdbg⟩ := strapDecode_lt h
    obtain ⟨hick, hida, hposition, hdebug⟩ := strapBase_fields a b c d hpos hdbg
    refine ⟨_, hexec, ?_⟩
    split
    · next hd1 =>
      simp only [State.position, State.debugStrap, setTaint_frame]
      exact ⟨hposition, hdebug, rfl, rfl, fun _ => setTaint_testBit _ 0, fun hn => absurd hd1 hn, hick, hida⟩
    · next hd1 =>
      exact ⟨hposition, hdebug, rfl, rfl, fun hp => absurd hp hd1, fun _ => rfl, hick, hida⟩

end Sys2Proof.Machine
end

section
/-!
What a crest that turns to a tile leaves alone (R136): the frame of `State.kick`, for whatever ends in one.
-/
namespace Sys2Proof.Machine

/-- The state but for what a turn of a crest writes: the crests, the commands and their holds, PEER's past, the trace, and
the free values that its entries use. -/
def State.unturned (s : State) : State :=
  { s with crests := [], cmds := [], holds := [], peerPast := [], trace := [], traceNext := 0, freeCtr := 0 }

/-- A crest but for its tiles and the accumulator rows that a tile begins with. -/
def Crest.unturned (x : Crest) : Crest := { x with work := [], counts := [], acc := [], past := [] }

/-- From `s` to `t` crest `p` may have turned to a tile, and nothing else has changed. -/
structure Turned (p : Nat) (s t : State) : Prop where
  rest : t.unturned = s.unturned
  crest : (t.crest p).unturned = (s.crest p).unturned
  others : ∀ k, k ≠ p → t.crest k = s.crest k

section
variable {p : Nat} {s t u : State}

theorem Turned.refl (p : Nat) (s : State) : Turned p s s := ⟨rfl, rfl, fun _ _ => rfl⟩

theorem Turned.trans (h : Turned p s t) (g : Turned p t u) : Turned p s u :=
  ⟨g.rest.trans h.rest, g.crest.trans h.crest, fun k hk => (g.others k hk).trans (h.others k hk)⟩

theorem Turned.of_crests (hr : t.unturned = s.unturned) (hc : t.crests = s.crests) : Turned p s t :=
  have hcrest (k : Nat) : t.crest k = s.crest k := congrArg (fun cs : Tbl Crest => tget ({} : Crest) cs k) hc
  ⟨hr, congrArg Crest.unturned (hcrest p), fun k _ => hcrest k⟩

theorem Turned.ite {c : Prop} [Decidable c] (ht : Turned p s t) (hu : Turned p s u) : Turned p s (if c then t else u) := by
  split
  · exact ht
  · exact hu

theorem Turned.foldl {β : Type} {f : State → β → State} (hf : ∀ s x, Turned p s (f s x)) (l : List β) (s : State) :
    Turned p s (l.foldl f s) :=
  List.foldlRecOn l f (.refl p s) fun _ h x _ => h.trans (hf _ x)

/-! The parts of a turn. -/

theorem turned_modCmd (p : Nat) (s : State) (q t : Nat) (f : Cmd → Cmd) : Turned p s (s.modCmd q t f) := .of_crests rfl rfl

theorem turned_addTrace (p : Nat) (s : State) (ev c q part st tag : Nat) : Turned p s (s.addTrace ev c q part st tag) :=
  .of_crests rfl rfl

theorem turned_modCrest (s : State) {f : Crest → Crest} (hf : (f (s.crest p)).unturned = (s.crest p).unturned) :
    Turned p s (s.modCrest p f) :=
  ⟨rfl, by rwa [State.crest_modCrest_same], fun k hk => State.crest_modCrest_other s p f k hk⟩

theorem turned_chargeHold (p : Nat) (s : State) (h : Hold) : Turned p s (s.chargeHold h) := by
  unfold State.chargeHold
  split
  · exact .refl p s
  · refine .trans ?_ (turned_modCmd ..)
    exact .ite (.of_crests rfl rfl) (.refl p s)

theorem turned_setHold (p : Nat) (s : State) (q t c cause : Nat) (on : Bool) : Turned p s (s.setHold q t c cause on) := by
  rw [State.setHold]
  cases s.holds.find? fun h => decide (h.q = q ∧ h.t = t ∧ h.p = c) with
  | none => exact .ite (.of_crests rfl rfl) (.refl p s)
  | some h => exact .ite (.refl p s) ((turned_chargeHold p s h).trans (.of_crests rfl rfl))

theorem turned_requeue (p : Nat) (s : State) : Turned p s (s.requeue p) :=
  Turned.foldl (fun _ _ => turned_setHold ..) _ s

theorem turned_startTile (p : Nat) (s : State) (k : Nat × Nat) : Turned p s (s.startTile p k) := by
  unfold State.startTile
  split
  · exact .refl p s
  · refine .ite (.trans ?tile (turned_addTrace ..)) ?tile
    refine .trans (turned_modCmd ..) (turned_modCrest _ ?_)
    rfl

theorem turned_turnTo (p : Nat) (s : State) (k : Nat × Nat) : Turned p s (s.turnTo p k) := by
  refine .trans ?_ (turned_requeue p _)
  split
  · next w _ =>
    have hwork := turned_modCrest (p := p) s (f := fun x =>
      { x with work := ({ w with pre := false } : Work) :: x.work.filter (fun v : Work => !(v.q = k.1 && v.t = k.2)) }) rfl
    exact .ite (hwork.trans (turned_addTrace ..)) hwork
  · exact turned_startTile p s k

theorem turned_kick (p : Nat) (s : State) : Turned p s (s.kick p) := by
  refine .ite (.refl p s) ?_
  cases s.bestCandidate p with
  | none => exact .refl p s
  | some k => exact turned_turnTo p s k

end

end Sys2Proof.Machine
end

section
/-!
Crests and slices that wake and are gated (O24): what each row of power control does to its unit, and what it leaves alone.
-/
namespace Sys2Proof.Machine

/-! A crest that wakes. -/

theorem fixedCheck_frame (s : State) :
    s.fixedCheck.crests = s.crests ∧ s.fixedCheck.store = s.store ∧ s.fixedCheck.parts = s.parts := by
  unfold State.fixedCheck
  split
  · exact ⟨rfl, rfl, rfl⟩
  · exact ⟨rfl, rfl, rfl⟩

theorem crestOn_frame (s : State) (p : Nat) : (s.crestOn p).store = s.store ∧ (s.crestOn p).parts = s.parts :=
  (fixedCheck_frame _).2

/-- The crests after one has come on are as before but for its own wake. -/
theorem crest_crestOn (s : State) (p k : Nat) : ∃ l : Nat, (s.crestOn p).crest k =
    (s.modCrest p fun x => { x with pw := .run, waking := false, level := l, pendLevel := none }).crest k :=
  ⟨_, congrArg (fun cs : Tbl Crest => tget ({} : Crest) cs k) (fixedCheck_frame _).1⟩

theorem crestOn_awake (s : State) (p : Nat) :
    ((s.crestOn p).crest p).pw = .run ∧ ((s.crestOn p).crest p).waking = false := by
  obtain ⟨l, h⟩ := crest_crestOn s p p
  rw [h, State.crest_modCrest_same]
  exact ⟨rfl, rfl⟩

theorem crestOn_others (s : State) {p k : Nat} (hk : k ≠ p) : (s.crestOn p).crest k = s.crest k := by
  obtain ⟨l, h⟩ := crest_crestOn s p k
  rw [h, State.crest_modCrest_other s p _ k hk]

/-- Once a crest has come on, its wake charges the commands there and turns it to a tile. -/
theorem crestAwake_turned {s : State} {p : Nat} (w : Option Nat) (hw : (s.crest p).waking = true)
    (hr : s.crestRetired p = false) (hc : s.canWake p = true) : Turned p (s.crestOn p) (s.crestAwake p w) := by
  have hgo : (!(s.crest p).waking || s.crestRetired p || !s.canWake p) = false := by rw [hw, hr, hc]; rfl
  rw [State.crestAwake, hgo]
  exact (Turned.foldl (fun _ _ => turned_modCmd ..) _ _).trans (turned_kick p _)

/-! A slice that wakes. -/

theorem maskList_two_pow {n m : Nat} (h : n < m) : maskList (2 ^ n) m = [n] := by
  have hbelow : (List.range n).filter (fun i => (2 ^ n).testBit i) = [] := by
    refine List.filter_eq_nil_iff.2 fun i hi => ?_
    rw [Nat.testBit_two_pow_of_ne (Nat.ne_of_gt (List.mem_range.1 hi))]
    exact Bool.false_ne_true
  induction m with
  | zero => exact absurd h (Nat.not_lt_zero n)
  | succ m ih =>
    rw [maskList, List.range_succ, List.filter_append]
    obtain hlt | rfl := Nat.lt_succ_iff_lt_or_eq.1 h
    · have htop : ¬(2 ^ n).testBit m = true := by
        rw [Nat.testBit_two_pow_of_ne (Nat.ne_of_lt hlt)]
        exact Bool.false_ne_true
      have hrest : (List.range m).filter (fun i => (2 ^ n).testBit i) = [n] := ih hlt
      rw [hrest, List.filter_cons_of_neg htop]
      rfl
    · rw [hbelow, List.filter_cons_of_pos Nat.testBit_two_pow_self]
      rfl

@[simp] theorem slice_zeroSlice (s : State) (n k : Nat) : (s.zeroSlice n).slice k = s.slice k := rfl

theorem tget_zeroSlice_store (s : State) (n g : Nat) :
    tget 0#8 (s.zeroSlice n).store g = if g / 2 ^ 24 = n then 0#8 else tget 0#8 s.store g := by
  have hrange : n * 2 ^ 24 ≤ g ∧ g < (n + 1) * 2 ^ 24 ↔ g / 2 ^ 24 = n := by omega
  simp only [State.zeroSlice, tget_tclear, hrange]

/-- What a wake needs of its slice, and of the regulator of its tier (R178, R235). -/
structure MayWake (s : State) (n : Nat) : Prop where
  lt : n < 96
  asleep : (s.slice n).pw ≠ .on
  inService : s.sliceRetired n = false
  available : (s.slice n).unavailable = false
  tier : s.tierOn n = true

theorem tierOn_of_band {s : State} {n : Nat} (hst : (s.reg (17 + sliceTier n)).st = 2)
    (hlo : 97 * (s.reg (17 + sliceTier n)).setpoint ≤ 100 * (s.reg (17 + sliceTier n)).vout)
    (hhi : 100 * (s.reg (17 + sliceTier n)).vout ≤ 103 * (s.reg (17 + sliceTier n)).setpoint) : s.tierOn n = true := by
  simp [State.tierOn, Reg.inBand, hst, hlo, hhi]

section
variable {s : State} {n : Nat}

/-- A slice that may wake is ON, zeroised on the way where it was OFF. -/
theorem wakeSlice_of_mayWake (h : MayWake s n) :
    s.wakeSlice n = (if (s.slice n).pw = .off then (s.zeroSlice n).modSlice n Slice.wakeSparing else s).modSlice n
      fun x => { x with pw := .on, waking := false, scrub := 0 } := by
  simp [State.wakeSlice, h.lt, h.asleep, h.inService, h.available, h.tier]

theorem wakeSlice_awake (h : MayWake s n) :
    ((s.wakeSlice n).slice n).pw = .on ∧ ((s.wakeSlice n).slice n).waking = false ∧ ((s.wakeSlice n).slice n).scrub = 0 := by
  rw [wakeSlice_of_mayWake h, State.slice_modSlice_same]
  exact ⟨rfl, rfl, rfl⟩

theorem wakeSlice_others (h : MayWake s n) {k : Nat} (hk : k ≠ n) : (s.wakeSlice n).slice k = s.slice k := by
  rw [wakeSlice_of_mayWake h, State.slice_modSlice_other _ _ _ _ hk]
  split
  · rw [State.slice_modSlice_other _ _ _ _ hk, slice_zeroSlice]
  · rfl

theorem tget_wakeSlice_store (h : MayWake s n) (g : Nat) : tget 0#8 (s.wakeSlice n).store g =
    if (s.slice n).pw = .off ∧ g / 2 ^ 24 = n then 0#8 else tget 0#8 s.store g := by
  rw [wakeSlice_of_mayWake h]
  by_cases hoff : (s.slice n).pw = .off
  · simp [hoff, tget_zeroSlice_store]
  · simp [hoff]

theorem kickAll_unturned (s : State) : ((List.range 17).foldl
    (fun s p => if (s.crest p).held.isEmpty then s else s.kick p) s).unturned = s.unturned := by
  refine List.foldlRecOn (motive := fun u => State.unturned u = s.unturned) _ _ rfl fun u hu p _ => ?_
  split
  · exact hu
  · exact (turned_kick p u).rest.trans hu

/-- A wake of one slice alone charges the commands that named it and lets the crests turn: of the rest it is the wake of the
slice. -/
theorem slicesAwake_one (h : MayWake s n) (hw : (s.slice n).waking = true) (w : Nat) :
    ∃ cs : List Cmd, (s.slicesAwake (2 ^ n) (some w)).unturned = (({ s with cmds := cs } : State).wakeSlice n).unturned := by
  have hup : ((maskList (2 ^ n) 96).filter fun n =>
      (s.slice n).waking && !s.sliceRetired n && !(s.slice n).unavailable && s.tierOn n) = [n] := by
    rw [maskList_two_pow h.lt]
    simp [hw, h.inService, h.available, h.tier]
  rw [State.slicesAwake, hup, if_neg (by simp)]
  exact ⟨_, kickAll_unturned _⟩

end

/-! Power gating. -/

@[simp] theorem crest_modReg (s : State) (r : Nat) (f : Reg → Reg) (k : Nat) : (s.modReg r f).crest k = s.crest k := rfl

@[simp] theorem reg_modCrest (s : State) (p : Nat) (f : Crest → Crest) (k : Nat) : (s.modCrest p f).reg k = s.reg k := rfl

theorem exec_crestNap {s : State} {p l o : Nat} (hp : p ≤ 16) (hh : (s.crest p).held = []) (hq : (s.crest p).quiet = false)
    (hw : (s.crest p).waking = false) (hpw : (s.crest p).pw = .run ∨ (s.crest p).pw = .idle)
    (hl : s.logicalOf p = some l) (ho : s.crestOwner l = some o) :
    exec (.powerGating (.crestNap p)) s = .next (s.nap p) := by
  change execPowerGating (.crestNap p) s = _
  have hp' : ¬ 16 < p := Nat.not_lt.2 hp
  simp [execPowerGating, hp', hh, hq, hw, hpw, hl, ho]

/-- What is left of a crest in NAP (R226): its weight banks and vector state only at FULL. -/
def Crest.napped (full : Bool) (c : Crest) : Crest :=
  let c := { c with pw := .nap, waking := false }
  if full then c else { c with w0 := {}, w1 := {}, V := [], S := [], M := [] }

theorem nap_eq (s : State) (p : Nat) : s.nap p =
    (s.modCrest p (Crest.napped (decide (s.mg.debugLevel = 2)))).modReg p fun r =>
      { r with st := 3, setpoint := 550, lowOnce := 0, pulse := 0 } := rfl

theorem exec_crestOff {s : State} {p : Nat} (hp : p ≤ 16) (hh : (s.crest p).held = []) (hq : (s.crest p).quiet = false)
    (hw : (s.crest p).waking = false) (hpw : (s.crest p).pw ≠ .off) (hm : s.mayOff p = true) :
    exec (.powerGating (.crestOff p)) s =
      .next ((s.modCrest p fun c => { c.powerLoss with lentTo := none, lastPart := none }).modReg p
        fun r => r.turnOff s.time 4) := by
  change execPowerGating (.crestOff p) s = _
  have hp' : ¬ 16 < p := Nat.not_lt.2 hp
  simp [execPowerGating, hp', hh, hq, hw, hpw, hm]

theorem turnOff_st {r : Reg} (h : r.permanent = false) (time n : Nat) : (r.turnOff time n).st = 0 := by
  simp [Reg.turnOff, h]

theorem exec_sliceRetain {s : State} {n : Nat} (hn : n < 96) (ho : (s.sliceOwner n).isSome = true)
    (hr : s.sliceRetired n = false) (hw : (s.slice n).waking = false) (hs : (s.slice n).sparing = none)
    (hpw : (s.slice n).pw = .on) : exec (.powerGating (.sliceRetain n)) s = .next (s.toRetain n) := by
  change execPowerGating (.sliceRetain n) s = _
  have hn' : ¬ 96 ≤ n := Nat.not_le.2 hn
  have ho' : (s.sliceOwner n).isNone = false := by rw [← Option.not_isSome, ho]; rfl
  simp [execPowerGating, hn', ho', hr, hw, hs, hpw]

theorem exec_sliceOff {s : State} {n : Nat} (hn : n < 96) (ho : s.sliceOwner n = none) (ht : (s.slice n).transit = false)
    (hr : s.sliceRetired n = false) (hs : (s.slice n).sparing = none) :
    exec (.powerGating (.sliceOff n)) s = .next (s.modSlice n fun x => { x with pw := .off, waking := false, scrub := 0 }) := by
  change execPowerGating (.sliceOff n) s = _
  have hn' : ¬ 96 ≤ n := Nat.not_le.2 hn
  simp [execPowerGating, hn', ho, ht, hr, hs]

/-- Settles O24: a wake is its unit's own followed by turns of crests, whose frame leaves power, slices and store alone; a
gating is the update of its unit. -/
theorem unitsWakeAndAreGated : Obligations.UnitsWakeAndAreGated := by
  intro s p n waited
  refine ⟨?crestWakes, ?sliceWakes, ?nap, ?crestOff, ?retain, ?sliceOff⟩
  case crestWakes =>
    intro hw hr hc
    have hturn := crestAwake_turned (some waited) hw hr hc
    obtain ⟨hpw, hwaking⟩ := crestOn_awake s p
    obtain ⟨hstore, hparts⟩ := crestOn_frame s p
    exact ⟨_, rfl, (congrArg Crest.pw hturn.crest).trans hpw, (congrArg Crest.waking hturn.crest).trans hwaking,
      fun k hk => (hturn.others k hk).trans (crestOn_others s hk), (congrArg State.store hturn.rest).trans hstore,
      (congrArg State.parts hturn.rest).trans hparts⟩
  case sliceWakes =>
    intro hn hw hpw hr hu hst hlo hhi
    have hmay : MayWake s n := ⟨hn, hpw, hr, hu, tierOn_of_band hst hlo hhi⟩
    obtain ⟨cs, hrest⟩ := slicesAwake_one hmay hw waited
    have hslice (k : Nat) := congrArg (fun u => State.slice u k) hrest
    have hstore (g : Nat) := congrArg (fun u => tget 0#8 (State.store u) g) hrest
    have hmay' : MayWake { s with cmds := cs } n := ⟨hn, hpw, hr, hu, hmay.tier⟩
    obtain ⟨hon, hwaking, hscrub⟩ := wakeSlice_awake hmay'
    refine ⟨_, rfl, (congrArg Slice.pw (hslice n)).trans hon, (congrArg Slice.waking (hslice n)).trans hwaking,
      (congrArg Slice.scrub (hslice n)).trans hscrub, fun k hk => (hslice k).trans (wakeSlice_others hmay' hk),
      fun hoff g hg => ?_, fun g hg => ?_⟩
    · exact ((hstore g).trans (tget_wakeSlice_store hmay' g)).trans (if_pos ⟨hoff, hg⟩)
    · exact ((hstore g).trans (tget_wakeSlice_store hmay' g)).trans (if_neg fun h => hg.elim (· h.2) (· h.1))
  case nap =>
    rintro hp hh hq hw hpw ⟨l, o, hl, ho⟩
    refine ⟨s.nap p, exec_crestNap hp hh hq hw hpw hl ho, ?_⟩
    by_cases hfull : s.mg.debugLevel = 2 <;>
      simp +contextual [nap_eq, Crest.napped, hfull, State.crest_modCrest_other]
  case crestOff =>
    intro hp hh hq hw hpw hm
    refine ⟨_, exec_crestOff hp hh hq hw hpw hm, ?_⟩
    simp +contextual [Crest.powerLoss, turnOff_st, State.crest_modCrest_other]
  case retain =>
    intro hn ho hr hw hs hpw
    exact ⟨s.toRetain n, exec_sliceRetain hn ho hr hw hs hpw, congrArg Slice.pw (State.slice_modSlice_same ..),
      fun k hk => State.slice_modSlice_other s n _ k hk, rfl, rfl⟩
  case sliceOff =>
    intro hn ho ht hr hs
    exact exec_sliceOff hn ho ht hr hs

end Sys2Proof.Machine
end

section
/-!
Rows and banks of the array (O20): what a row that streams meets on its way, and what the feeder leaves in the inactive bank.
-/
namespace Sys2Proof.Machine
open Sys2Proof.Claim

/-! A row. -/

section
variable {s : State} {p : Nat} {w : Work} {c : Cmd} {es : List Ecc}

/-- With the block of its pass in a bank, the row of the tile in hand streams from the crest with that bank active. -/
theorem exec_rowPass {x : Crest} (hin : InHand s p w c) (hstr : (s.turn p).streams p w = true)
    (hbank : ((s.turn p).crest p).withBank w (c.blockOf w) = some x) (ev : PassEvent) :
    exec (.rowPass p ev es) s = .next (((s.turn p).modCrest p fun _ => x).streamRow p c w ev es) := by
  obtain ⟨⟨ws, hw⟩, hc⟩ := hin
  change execRowPass p ev es s = _
  simp [execRowPass, hw, hc, hstr, hbank]

theorem streamRow_held {h : WaitFor} (hh : s.heldBy false (s.actAddrs p c w) = some h) (ev : PassEvent) :
    s.streamRow p c w ev es = s.stall c.q c.t h := by
  simp only [State.streamRow, hh]

theorem streamRow_aborted {r : Nat × Nat} (hh : s.heldBy false (s.actAddrs p c w) = none)
    (hr : (s.crestReads c.q c.t (s.actAddrs p c w) es).actRow p c w = .error r) (ev : PassEvent) :
    s.streamRow p c w ev es = (s.crestReads c.q c.t (s.actAddrs p c w) es).abort c.q c.t r.1 r.2 := by
  simp only [State.streamRow, hh, hr]

/-- The part of a fed row that the pass at hand takes (R47). -/
def Cmd.passRow (c : Cmd) (w : Work) (f : FedRow) : List Fp :=
  partOf (c.partsA w.phase) ((c.passes w.phase).getD w.pass (0, 0)).1 (padBlock f.elems)

/-- The row `as` enters the array of crest `p`, and the detectors find `ev` (R51, R61, R69). -/
def State.rowEnters (y : State) (p : Nat) (c : Cmd) (w : Work) (as : List Fp) (ev : PassEvent) : State :=
  let b := (y.crest p).activeBank.data
  let o := c.rowPasses w b as (y.crest p).acc
  let z := y.modCrest p fun x => { x with rowBuf := as }
  match ev with
  | .clean => z.rowAdded p c w o
  | .parity => z.parityFails p c
  | .residue n =>
    if n = 0 || !c.checked w.phase b as then z.rowAdded p c w o
    else
      let r := (z.residueSeen p c n).busyOn p c.q c.t (11 * min n 2)
      if n ≥ 3 then r.rowFails p c 0x40 (some 2)
      else if r.atThresh kCrest p then r.rowFails p c 0x40 (some 1)
      else (r.modCmd c.q c.t fun k => { k with retried := true }).rowAdded p c w o

/-- A row that is fed enters the array once the prologue has processed it. -/
theorem streamRow_fed {f : FedRow} (hh : s.heldBy false (s.actAddrs p c w) = none)
    (hf : (s.crestReads c.q c.t (s.actAddrs p c w) es).actRow p c w = .ok f) (ev : PassEvent) :
    s.streamRow p c w ev es = ((s.crestReads c.q c.t (s.actAddrs p c w) es).processed p c w f).rowEnters p c w
      (c.passRow w f) ev := by
  simp only [State.streamRow, hh, hf]
  cases ev <;> rfl

end

/-! The residue check (R68, R69). -/

section
variable {y : State} {p n : Nat} {c : Cmd} {w : Work} {as : List Fp}

/-- A row in which the residue check looks at nothing cannot mismatch. -/
theorem rowEnters_residue_unchecked (hk : c.checked w.phase (y.crest p).activeBank.data as = false) (n : Nat) :
    y.rowEnters p c w as (.residue n) = y.rowEnters p c w as .clean := by
  simp [State.rowEnters, hk]

theorem rowEnters_residue_permanent (hk : c.checked w.phase (y.crest p).activeBank.data as = true) :
    y.rowEnters p c w as (.residue 3) =
      ((((y.modCrest p fun x => { x with rowBuf := as }).residueSeen p c 3).busyOn p c.q c.t 22).rowFails p c 0x40
        (some 2)) := by
  simp [State.rowEnters, hk]

/-- A mismatch that a replay mends lets the row through, unless it brings the crest to its threshold (R69, R275). -/
theorem rowEnters_residue_replayed (hn : n = 1 ∨ n = 2)
    (hk : c.checked w.phase (y.crest p).activeBank.data as = true) :
    y.rowEnters p c w as (.residue n) =
      let r := ((y.modCrest p fun x => { x with rowBuf := as }).residueSeen p c n).busyOn p c.q c.t (11 * n)
      if r.atThresh kCrest p then r.rowFails p c 0x40 (some 1)
      else (r.modCmd c.q c.t fun k => { k with retried := true }).rowAdded p c w
        (c.rowPasses w (y.crest p).activeBank.data as (y.crest p).acc) := by
  have hpos : n ≠ 0 := by omega
  have hlt : ¬ 3 ≤ n := by omega
  have hmin : min n 2 = n := by omega
  simp [State.rowEnters, hk, hpos, hlt, hmin]

end

/-! A bank. -/

/-- The crest's banks swap where the inactive one holds the block at hand (R53). -/
def State.swapped (s : State) (p : Nat) (c : Cmd) (w : Work) : State :=
  match (s.crest p).withBank w (c.blockOf w) with
  | some x => s.modCrest p fun _ => x
  | none => s

/-- The inactive bank takes a block (R53). -/
def Crest.fillIdle (x : Crest) (b : Bank) : Crest := if x.active = 0 then { x with w1 := b } else { x with w0 := b }

theorem fillIdle_banks (x : Crest) (b : Bank) :
    if x.active = 0 then (x.fillIdle b).w1 = b ∧ (x.fillIdle b).w0 = x.w0
    else (x.fillIdle b).w0 = b ∧ (x.fillIdle b).w1 = x.w1 := by
  unfold Crest.fillIdle
  split <;> exact ⟨rfl, rfl⟩

theorem fillIdle_acc (x : Crest) (b : Bank) : (x.fillIdle b).acc = x.acc := by
  unfold Crest.fillIdle
  split <;> rfl

/-- The state once the block `v` of the tile `w` has been read, the wait charged as STORE. -/
def State.blockRead (u : State) (waited : Nat) (w v : Work) (c : Cmd) (es : List Ecc) : State :=
  (u.crestReads w.q w.t (u.blockAddrs c v) es).modCmd w.q w.t fun c => c.charge wStore waited

/-- The bank that holds the block `v` of the tile `w`. -/
def State.blockBank (r : State) (p : Nat) (w v : Work) (c : Cmd) : Bank :=
  { q := w.q, t := w.t, tile := w.tile, kb := (c.blockOf v).1, part := (c.blockOf v).2, full := true
    data := r.blockData (.crest w.q w.t p) c v }

/-- The feeder turns to the block `v` of the tile `w` in hand: it waits for the block's lines, meets an access fault, or fills
the inactive bank (R53). -/
def State.fillBlock (u : State) (p waited : Nat) (w v : Work) (c : Cmd) (es : List Ecc) : State :=
  let r := u.blockRead waited w v c es
  match u.heldBy false (u.blockAddrs c v) with
  | some h => u.stall w.q w.t h
  | none =>
    match r.accessFault (u.blockAddrs c v) with
    | some e => r.abort w.q w.t e.1 e.2
    | none => r.modCrest p fun x => x.fillIdle (r.blockBank p w v c)

section
variable {s u : State} {p waited : Nat} {w v : Work} {c : Cmd} {es : List Ecc}

theorem exec_weightBankFill (hin : InHand s p w c) (hstr : (s.turn p).streams p w = true)
    (hv : (((s.turn p).swapped p c w).crest p).fillTarget c w = some v) :
    exec (.weightBankFill p waited es) s = .next (((s.turn p).swapped p c w).fillBlock p waited w v c es) := by
  obtain ⟨⟨ws, hw⟩, hc⟩ := hin
  have hfill : (s.turn p).fillBank p waited es =
      match (((s.turn p).swapped p c w).crest p).fillTarget c w with
      | none => (s.turn p).swapped p c w
      | some v => ((s.turn p).swapped p c w).fillBlock p waited w v c es := by
    simp only [State.fillBank, hw, hc, hstr]
    rfl
  rw [hv] at hfill
  exact congrArg Host.Outcome.next hfill

theorem fillBlock_held {h : WaitFor} (hh : u.heldBy false (u.blockAddrs c v) = some h) :
    u.fillBlock p waited w v c es = u.stall w.q w.t h := by
  simp only [State.fillBlock, hh]

theorem fillBlock_faulted {e : Nat × Nat} (hh : u.heldBy false (u.blockAddrs c v) = none)
    (hf : (u.blockRead waited w v c es).accessFault (u.blockAddrs c v) = some e) :
    u.fillBlock p waited w v c es = (u.blockRead waited w v c es).abort w.q w.t e.1 e.2 := by
  simp only [State.fillBlock, hh, hf]

theorem fillBlock_filled (hh : u.heldBy false (u.blockAddrs c v) = none)
    (hf : (u.blockRead waited w v c es).accessFault (u.blockAddrs c v) = none) :
    u.fillBlock p waited w v c es = (u.blockRead waited w v c es).modCrest p fun x =>
      x.fillIdle ((u.blockRead waited w v c es).blockBank p w v c) := by
  simp only [State.fillBlock, hh, hf]

end

/-- Settles O20: a streaming row is held, refused or fed, and a fed row meets what its detectors find; the feeder's block is
held, faulted or lies in the inactive bank, of which the frame is that of one crest's update. -/
theorem rowsAndBanksOfTheArray : Obligations.RowsAndBanksOfTheArray := by
  refine ⟨?row, ?bank⟩
  case row =>
    intro s p w c es ev x u gs v hin hstr hbank
    have hexec := exec_rowPass (es := es) hin hstr hbank
    refine ⟨fun h hh => ?held, fun r hh hr => ?aborted, ?fed⟩
    case held => rw [hexec, streamRow_held hh]
    case aborted => rw [hexec, streamRow_aborted hh hr]
    case fed =>
      intro f hh hf y as b z
      have henter (e : PassEvent) : exec (.rowPass p e es) s = .next (y.rowEnters p c w as e) :=
        (hexec e).trans (congrArg Host.Outcome.next (streamRow_fed hh hf e))
      refine ⟨henter .clean, henter .parity, fun hk => ?permanent, fun n hn hk => ?replayed, fun hk n => ?unchecked⟩
      case permanent => rw [henter, rowEnters_residue_permanent hk]
      case replayed =>
        rw [henter, rowEnters_residue_replayed hn hk]
        exact ⟨fun ht => congrArg Host.Outcome.next (if_neg (Bool.eq_false_iff.1 ht)),
          fun ht => congrArg Host.Outcome.next (if_pos ht)⟩
      case unchecked => rw [henter, henter, rowEnters_residue_unchecked hk]
  case bank =>
    intro s p waited w v c es u gs r hin hstr hv b
    have hexec := exec_weightBankFill (waited := waited) (es := es) hin hstr hv
    refine ⟨fun hh hf => ⟨_, hexec.trans (congrArg Host.Outcome.next (fillBlock_filled hh hf)), ?filled⟩,
      fun e hh hf => hexec.trans (congrArg Host.Outcome.next (fillBlock_faulted hh hf)),
      fun h hh => hexec.trans (congrArg Host.Outcome.next (fillBlock_held hh))⟩
    case filled =>
      rw [State.crest_modCrest_same]
      exact ⟨fillIdle_banks _ _, fillIdle_acc _ _, fun k hk => State.crest_modCrest_other _ p _ k hk, rfl⟩

end Sys2Proof.Machine
end

section
/-!
How an abort leaves a command (R140, R141): ended with its status, while every other command stands as it did and the tiles
to be sent again stay listed. For O25 and O26.
-/
namespace Sys2Proof.Machine

/-- How a command stands: its queue and tag, and its end if it has ended. -/
def Cmd.standing (c : Cmd) : Nat × Nat × Option (Nat × Nat) := (c.q, c.t, c.fin)

/-- How every command stands, and the tiles to be sent again. -/
def State.standings (s : State) : List (Nat × Nat × Option (Nat × Nat)) × List (Nat × Nat × Nat × Nat) :=
  (s.cmds.map Cmd.standing, s.retries)

theorem standings_foldl {β : Type} {f : State → β → State} (hf : ∀ s x, (f s x).standings = s.standings) (l : List β)
    (s : State) : (l.foldl f s).standings = s.standings :=
  List.foldlRecOn (motive := fun u => State.standings u = s.standings) l f rfl fun _ h x _ => (hf _ x).trans h

theorem standings_ite {c : Prop} [Decidable c] {s t u : State} (ht : t.standings = s.standings)
    (hu : u.standings = s.standings) : (if c then t else u).standings = s.standings := by
  split
  · exact ht
  · exact hu

theorem standings_modCmd (s : State) (q t : Nat) {f : Cmd → Cmd} (hf : ∀ c, (f c).standing = c.standing) :
    (s.modCmd q t f).standings = s.standings := by
  refine congrArg (·, s.retries) ?_
  rw [State.modCmd, List.map_map]
  refine List.map_congr_left fun c _ => ?_
  simp only [Function.comp]
  split
  · exact hf c
  · rfl

theorem standings_charge (s : State) (q t cause : Nat) (n : Cmd → Nat) :
    (s.modCmd q t fun c => c.charge cause (n c)).standings = s.standings := standings_modCmd s q t fun _ => rfl

theorem standings_modCrest (s : State) (p : Nat) (f : Crest → Crest) : (s.modCrest p f).standings = s.standings := rfl

theorem standings_bump (s : State) : s.bump.standings = s.standings := rfl

/-! Lines written. -/

theorem standings_backLine (s : State) (l : Nat) (d : List Byte) (b : Bool) :
    (s.backLine l d b).standings = s.standings := standings_ite rfl rfl

theorem standings_settle (s : State) (l : Nat) : (s.settle l).standings = s.standings := by
  unfold State.settle
  split
  · exact standings_backLine ..
  · rfl

theorem standings_wayFor (s : State) (l : Nat) : (s.wayFor l).standings = s.standings := standings_ite rfl rfl

theorem standings_fill (s : State) (l : Nat) (st : Mesi) (req : CacheReq) :
    (s.fill l st req).standings = s.standings := by
  have hsettled := (standings_wayFor (s.settle l) l).trans (standings_settle s l)
  cases st with
  | M => exact standings_ite hsettled (standings_ite (c := (tget {} s.cache l).st = .S) (s := s) rfl rfl)
  | E => exact standings_ite hsettled (standings_ite rfl rfl)
  | S | I => exact standings_ite hsettled rfl

theorem standings_wakeSlice (s : State) (n : Nat) : (s.wakeSlice n).standings = s.standings :=
  standings_ite (standings_ite (s := s) rfl rfl) rfl

theorem standings_writeLine (s : State) (l : Nat) (m : List (Nat × Byte)) :
    (s.writeLine l m).standings = s.standings :=
  standings_ite rfl (standings_ite (standings_fill ..) ((standings_backLine ..).trans (standings_wakeSlice ..)))

theorem standings_pendLine (s : State) (o : Obs) (l : Nat) (m : List (Nat × Byte)) :
    (s.pendLine o l m).standings = s.standings := by
  unfold State.pendLine
  split
  · rfl
  · exact standings_ite rfl rfl

theorem standings_write (s : State) (o : Obs) (m : List (Nat × Byte)) : (s.write o m).standings = s.standings :=
  standings_foldl (fun _ _ => (standings_writeLine ..).trans (standings_pendLine ..)) _ s

/-! What an end leaves, and the crests let go. -/

theorem standings_unspecify (s : State) (c : Cmd) (sub : Nat) : (s.unspecify c sub).standings = s.standings := by
  have hwritten : (if (decide (c.opcode = 11) && c.keepsRows sub) = true then s
      else s.write (.crest c.q c.t dispWriter) (s.freeOutput c)).standings = s.standings :=
    standings_ite rfl (standings_write ..)
  dsimp only [State.unspecify]
  rw [standings_bump, ← hwritten]
  exact standings_ite rfl (standings_foldl (fun _ _ => standings_modCrest ..) _ _)

theorem standings_chargeHold (s : State) (h : Hold) : (s.chargeHold h).standings = s.standings := by
  unfold State.chargeHold
  split
  · rfl
  · exact (standings_charge ..).trans (standings_ite rfl rfl)

theorem standings_setHold (s : State) (q t p cause : Nat) (on : Bool) : (s.setHold q t p cause on).standings = s.standings := by
  rw [State.setHold]
  cases s.holds.find? fun h => decide (h.q = q ∧ h.t = t ∧ h.p = p) with
  | none => exact standings_ite rfl rfl
  | some h => exact standings_ite rfl (standings_chargeHold s h)

theorem standings_endHolds (s : State) (q t : Nat) (sel : Nat → Bool) : (s.endHolds q t sel).standings = s.standings :=
  standings_foldl standings_chargeHold _ s

theorem standing_charges (c d : Cmd) (ks : List Nat) :
    (ks.foldl (fun d k => d.charge k (tget 0 c.early k)) d).standing = d.standing :=
  List.foldlRecOn (motive := fun e : Cmd => e.standing = d.standing) ks _ rfl fun _ h _ _ => h

theorem standings_uncharged (s : State) (q t : Nat) : (s.uncharged q t).standings = s.standings := by
  unfold State.uncharged
  refine standings_modCmd s q t fun c => ?_
  have h := standing_charges c c [1, 2, 3, 4, 5, 6]
  generalize ([1, 2, 3, 4, 5, 6].foldl (fun d k => d.charge k (tget 0 c.early k)) c) = d at h ⊢
  exact h

theorem standings_resetEnd (s : State) (p : Nat) : (s.resetEnd p).standings = s.standings :=
  standings_ite rfl (standings_foldl (fun _ _ => standings_modCrest ..) _ s)

theorem standings_resetEnds (s : State) : s.resetEnds.standings = s.standings :=
  standings_ite (standings_foldl standings_resetEnd _ s) rfl

theorem standings_unlend (s : State) (p : Nat) : (s.unlend p).standings = s.standings := by
  rw [State.unlend]
  cases (s.crest p).lentTo with
  | none => rfl
  | some b =>
    refine standings_ite rfl ?_
    cases (s.crest p).held with
    | nil => exact standings_resetEnds _
    | cons k ks =>
      exact (standings_resetEnds _).trans (standings_foldl (fun _ _ => standings_charge ..) _ _)

theorem standings_dropFrom (s : State) (p q t : Nat) : (s.dropFrom p q t).standings = s.standings :=
  (standings_unlend _ p).trans (standings_ite (s := s) rfl rfl)

/-! A crest that turns to its next tile. -/

theorem standings_requeue (s : State) (p : Nat) : (s.requeue p).standings = s.standings :=
  standings_foldl (fun _ _ => standings_setHold ..) _ s

theorem standings_startTile (s : State) (p : Nat) (k : Nat × Nat) : (s.startTile p k).standings = s.standings := by
  unfold State.startTile
  split
  · rfl
  refine standings_ite ?_ ?_ <;>
  · refine standings_modCmd s _ _ fun c => ?_
    split <;> rfl

theorem standings_kick (s : State) (p : Nat) : (s.kick p).standings = s.standings := by
  refine standings_ite rfl ?_
  split
  · refine (standings_requeue _ p).trans ?_
    split
    · exact standings_ite (s := s) rfl rfl
    · exact standings_startTile ..
  · rfl

/-! The end itself. -/

theorem cmd?_key {s : State} {q t : Nat} {c : Cmd} (hc : s.cmd? q t = some c) : c.q = q ∧ c.t = t := by
  simpa using List.find?_some hc

/-- How a command stands once those of queue `q` and tag `t` have ended with `e`; a first end stands (R140). -/
def endedAt (q t : Nat) (e : Nat × Nat) (x : Nat × Nat × Option (Nat × Nat)) : Nat × Nat × Option (Nat × Nat) :=
  if x.1 = q && x.2.1 = t then (x.1, x.2.1, some (x.2.2.getD e)) else x

theorem standing_finish (q t st sub : Nat) (c : Cmd) :
    (if c.q = q && c.t = t then c.finish st sub else c).standing = endedAt q t (st, sub) c.standing := by
  have hended : (c.finish st sub).standing = (c.q, c.t, some (c.fin.getD (st, sub))) := by
    unfold Cmd.finish
    cases h : c.fin with
    | none => simp only [Cmd.standing, Option.getD_none]
    | some e => simp only [Cmd.standing, h, Option.getD_some]
  by_cases hkey : (c.q = q && c.t = t) = true
  · exact (congrArg Cmd.standing (if_pos hkey)).trans (hended.trans (if_pos hkey).symm)
  · exact (congrArg Cmd.standing (if_neg hkey)).trans (if_neg hkey).symm

theorem standings_finish (s : State) (q t st sub : Nat) : (s.modCmd q t fun c => c.finish st sub).standings =
    (s.standings.1.map (endedAt q t (st, sub)), s.standings.2) := by
  refine congrArg (·, s.retries) ?_
  rw [State.modCmd, State.standings, List.map_map, List.map_map]
  exact List.map_congr_left fun c _ => standing_finish q t st sub c

/-- The end of a command is told by the standings. -/
theorem fin_cmd?_of_standings {s u : State} (h : s.standings = u.standings) (q t : Nat) :
    (s.cmd? q t).map Cmd.fin = (u.cmd? q t).map Cmd.fin := by
  have hfind (v : State) : (v.cmd? q t).map Cmd.fin =
      (v.standings.1.find? fun x => x.1 = q && x.2.1 = t).map fun x => x.2.2 := by
    rw [State.standings, List.find?_map, Option.map_map]
    rfl
  rw [hfind, hfind, h]

/-- A command that has not ended ends with the status given, and no other standing changes. -/
theorem standings_endCmd {s : State} {q t : Nat} {c : Cmd} (hc : s.cmd? q t = some c) (hfin : c.fin = none) (st sub : Nat) :
    (s.endCmd q t st sub).standings = (s.modCmd q t fun c => c.finish st sub).standings := by
  have hopen : c.fin.isSome = false := by rw [hfin]; rfl
  have hcharged : ((s.endHolds q t fun _ => true).uncharged q t).standings = s.standings :=
    (standings_uncharged ..).trans (standings_endHolds ..)
  simp only [State.endCmd, hc, hopen, Bool.false_eq_true, if_false]
  refine (standings_foldl (fun _ _ => (standings_modCrest ..).trans (standings_dropFrom ..)) _ _).trans ?_
  rw [standings_finish s, ← hcharged]
  refine (standings_finish ..).trans ?_
  have hleft (p : Prop) [Decidable p] (u : State) : (if p then u.unspecify c sub else u).standings = u.standings :=
    standings_ite (standings_unspecify ..) rfl
  rw [hleft]

theorem standings_abort {s : State} {q t : Nat} {c : Cmd} (hc : s.cmd? q t = some c) (hfin : c.fin = none) (st sub : Nat) :
    (s.abort q t st sub).standings = (s.modCmd q t fun c => c.finish st sub).standings :=
  (standings_foldl standings_kick _ _).trans (standings_endCmd hc hfin st sub)

/-- An abort ends its command with its status, and drops none of the tiles to be sent again. -/
theorem abort_ends {s : State} {q t : Nat} {c : Cmd} (hc : s.cmd? q t = some c) (hfin : c.fin = none) (st sub : Nat) :
    (∀ d, (s.abort q t st sub).cmd? q t = some d → d.fin = some (st, sub)) ∧
      (s.abort q t st sub).retries = s.retries := by
  have hstand := standings_abort hc hfin st sub
  refine ⟨fun d hd => ?_, congrArg Prod.snd hstand⟩
  have h := fin_cmd?_of_standings hstand q t
  obtain ⟨hq, ht⟩ := cmd?_key hc
  have hkeep (c : Cmd) : (c.finish st sub).q = c.q ∧ (c.finish st sub).t = c.t := by
    unfold Cmd.finish
    split <;> exact ⟨rfl, rfl⟩
  rw [State.cmd?_modCmd _ q t _ hkeep, hc, hd] at h
  simpa [hq, ht, Cmd.finish, hfin] using h

end Sys2Proof.Machine
end

section
/-!
Receivers, waits and buffered atomics (O26): what the addition of a landed tile can meet, and what the timers end.
-/
namespace Sys2Proof.Machine

/-- The lines that a source's tile lies in (R199). -/
def State.stagedAddrs (s : State) (c : Cmd) (k rank : Nat) : List Nat :=
  (List.range c.rRows).flatMap fun r => s.gaddrs c.part (c.stageRow k rank r) (128 * recvWidth c.rFmt)

/-- The state once the tile has been read, the wait for it over. -/
def State.tileRead (s : State) (q t p : Nat) (c : Cmd) (k rank : Nat) : State :=
  (s.setHold q t p wPeer false).reads q t (s.stagedAddrs c k rank)

/-- The addition of a landed tile is due on crest `p` (R117): the tile's lines hold it back, an access fault or a bad
accumulator element (R61) ends its command, or it is made and the crest goes on. -/
def State.additionDue (s : State) (q t p : Nat) (c : Cmd) (k rank n : Nat) (bad : Bool) : Host.Outcome State Fault Refusal :=
  match s.heldBy false (s.stagedAddrs c k rank) with
  | some h => .next (s.stall q t h)
  | none =>
    let v := s.tileRead q t p c k rank
    match v.accessFault (s.stagedAddrs c k rank) with
    | some e => .next (v.abort q t e.1 e.2)
    | none =>
      if bad && (c.keep || decide (rank ≠ 0)) then .next (v.parityFails p c)
      else
        let u := v.addTile p c k rank n
        .next ((((if rank + 1 = c.sources.length then u.recvWhole p q t k else u).recvWaits q t p).turn p).requeue p)

section
variable {s : State} {q t p k rank src n : Nat} {c : Cmd} {bad : Bool}

/-- On a working crest a ready addition is due, unless a command of a higher class waits for the crest (R136). -/
theorem exec_recvTileAdd {ps : List Nat} (hc : s.cmd? q t = some c) (hready : s.readyAdd c = some (k, rank, src, n))
    (hholds : s.holders q t = p :: ps) (hworks : (s.crest p).works = true) (hrun : s.runnable p (q, t) = true)
    (hop : c.opcode = 11) : exec (.recvTileAdd q ⟨t, bad⟩) s =
      if (s.above p c).isSome then .next ((s.setHold q t p wPeer false).requeue p)
      else s.additionDue q t p c k rank n bad := by
  change execRecvTileAdd q ⟨t, bad⟩ s = _
  simp only [execRecvTileAdd, hc, hready, hholds, hworks, hrun, hop, decide_eq_true_eq]
  rfl

theorem additionDue_held {h : WaitFor} (hheld : s.heldBy false (s.stagedAddrs c k rank) = some h) :
    s.additionDue q t p c k rank n bad = .next (s.stall q t h) := by
  simp only [State.additionDue, hheld]

section
variable (hheld : s.heldBy false (s.stagedAddrs c k rank) = none)
include hheld

theorem additionDue_fault {e : Nat × Nat}
    (hfault : (s.tileRead q t p c k rank).accessFault (s.stagedAddrs c k rank) = some e) :
    s.additionDue q t p c k rank n bad = .next ((s.tileRead q t p c k rank).abort q t e.1 e.2) := by
  simp only [State.additionDue, hheld, hfault]

variable (hfault : (s.tileRead q t p c k rank).accessFault (s.stagedAddrs c k rank) = none)
include hfault

/-- Only an addition to what a row holds already reads the row (R61). -/
theorem additionDue_parity (hreads : c.keep = true ∨ rank ≠ 0) :
    s.additionDue q t p c k rank n true = .next ((s.tileRead q t p c k rank).parityFails p c) := by
  simp [State.additionDue, hheld, hfault, hreads]

theorem additionDue_made :
    let u := (s.tileRead q t p c k rank).addTile p c k rank n
    s.additionDue q t p c k rank n false = .next
      ((((if rank + 1 = c.sources.length then u.recvWhole p q t k else u).recvWaits q t p).turn p).requeue p) := by
  simp [State.additionDue, hheld, hfault]

end

/-- At its timer a REDUCE_RECV for which a tile or a flag is missing is aborted (R118). -/
theorem exec_recvTmo_missing (hc : s.cmd? q t = some c) (hop : c.opcode = 11) (htot : c.total ≠ 0) (hfin : c.fin = none)
    (hmiss : c.flagsDone = false ∨ ∃ k, k < c.rNtile ∧ c.addedTo k ≠ c.sources.length) :
    exec (.recvTmo q t) s = .next (s.abort q t sTimeout 0x81) := by
  have hall : (c.flagsDone && (List.range c.rNtile).all fun k => decide (c.addedTo k = c.sources.length)) = false := by
    obtain hflags | ⟨k, hk, hne⟩ := hmiss
    · rw [hflags, Bool.false_and]
    · have htiles : ((List.range c.rNtile).all fun k => decide (c.addedTo k = c.sources.length)) = false :=
        List.all_eq_false.2 ⟨k, List.mem_range.2 hk, Bool.eq_false_iff.1 (decide_eq_false hne)⟩
      rw [htiles, Bool.and_false]
  change execRecvTmo q t s = _
  simp [execRecvTmo, hc, hop, htot, hfin, hall]

section
variable {h : HostUpd} (hc : (s.hostWrites h).cmd? q t = some c) (hop : c.opcode = 8) (hst : c.started = true)
  (hfin : c.fin = none)
include hc hop hst hfin

theorem exec_waitPoll_running :
    exec (.waitPoll q t h) s = .next (((s.hostWrites h).modCmd q t fun c => c.charge wPeer 256).readWait c) := by
  change execWaitPoll q t h s = _
  simp [execWaitPoll, hc, hop, hst, hfin]

theorem exec_waitTmo_running : exec (.waitTmo q t h) s =
    .next (((s.hostWrites h).modCmd q t fun c => { c with waits := tset 0 c.waits wPeer c.waitTmo }).finalRead c) := by
  change execWaitTmo q t h s = _
  simp [execWaitTmo, hc, hop, hst, hfin]

end

theorem finalRead_made (hh : s.waitHeld c = none) : s.finalRead c = (s.readWait c).endCmd c.q c.t sTimeout 0x80 := by
  rw [State.finalRead, hh]

/-- A final read that is held stays to be made (DEDUCED, log 127). -/
theorem finalRead_held {x : WaitFor} (hh : s.waitHeld c = some x) :
    s.finalRead c = (s.modCmd c.q c.t fun d => { d with expired := true }).stall c.q c.t x := by
  rw [State.finalRead, hh]

theorem exec_atomicWriteback_buffered {a : Nat} {w : ABuf} (hw : s.abuf.find? (fun w => w.addr = a) = some w) :
    exec (.atomicWriteback a) s = if (s.flushHeld (· = w)).isSome then .next s else .next (s.abufBack w) := by
  change execAtomicWriteback a s = _
  rw [execAtomicWriteback, hw]

end

/-- Settles O26: an addition that is due has four outcomes, one branch each; what a timer finds unfinished it aborts; a
WAIT's final read and a buffered word's return are made, or held. -/
theorem receiversAndWaitsGoOnOrTimeOut : Obligations.ReceiversAndWaitsGoOnOrTimeOut := by
  intro s q t
  refine ⟨?addition, ?recvTimer, ?wait, ?atomic⟩
  case addition =>
    intro c k rank src n p ps hc hready hholds hworks hrun hop gs v u
    have hexec (bad : Bool) := exec_recvTileAdd (bad := bad) hc hready hholds hworks hrun hop
    refine ⟨fun habove => ?due, fun j bad habove => ?higherClass⟩
    case due =>
      have hdue (bad : Bool) : exec (.recvTileAdd q ⟨t, bad⟩) s = s.additionDue q t p c k rank n bad := by
        rw [hexec, habove]
        rfl
      exact ⟨fun hheld hfault => ⟨(hdue false).trans (additionDue_made hheld hfault),
          fun hreads => (hdue true).trans (additionDue_parity hheld hfault hreads)⟩,
        fun h bad hheld => (hdue bad).trans (additionDue_held hheld),
        fun e bad hheld hfault => (hdue bad).trans (additionDue_fault hheld hfault)⟩
    case higherClass =>
      rw [hexec, habove]
      rfl
  case recvTimer =>
    intro c hc hop htot hfin hmiss
    obtain ⟨hends, -⟩ := abort_ends hc hfin sTimeout 0x81
    exact ⟨_, exec_recvTmo_missing hc hop htot hfin hmiss, hends⟩
  case wait =>
    intro h c hc hop hst hfin v
    obtain ⟨rfl, rfl⟩ := cmd?_key hc
    have htmo := exec_waitTmo_running hc hop hst hfin
    exact ⟨exec_waitPoll_running hc hop hst hfin,
      fun hh => htmo.trans (congrArg Host.Outcome.next (finalRead_made hh)),
      fun x hh => htmo.trans (congrArg Host.Outcome.next (finalRead_held hh))⟩
  case atomic =>
    intro a w hw
    have hback := exec_atomicWriteback_buffered hw
    refine ⟨fun hh => ?_, fun x hh => ?_⟩
    · rw [hback, hh]
      rfl
    · rw [hback, hh]
      rfl

end Sys2Proof.Machine
end

section
/-!
The end of streams (O25): the law of each row. The flag of a SEND of no bytes appends its stream in every command of its
queue and tag; the second clause of O25 has it replace the streams there, which is the same only where the command is the
only one.
-/
namespace Sys2Proof.Machine

theorem modCmd_modCmd (s : State) (q t : Nat) {f : Cmd → Cmd} (g : Cmd → Cmd) (hf : ∀ c, (f c).q = c.q ∧ (f c).t = c.t) :
    (s.modCmd q t f).modCmd q t g = s.modCmd q t fun c => g (f c) := by
  simp only [State.modCmd, List.map_map]
  congr 1
  refine List.map_congr_left fun c _ => ?_
  obtain ⟨hq, ht⟩ := hf c
  by_cases h : (c.q = q && c.t = t) = true
  · simp only [Function.comp, h, hq, ht, if_true]
  · simp only [Function.comp, h, Bool.false_eq_true, if_false]

theorem modCmd_congr {s : State} {q t : Nat} {f g : Cmd → Cmd} (h : ∀ d ∈ s.cmds, d.q = q → d.t = t → f d = g d) :
    s.modCmd q t f = s.modCmd q t g := by
  simp only [State.modCmd]
  congr 1
  refine List.map_congr_left fun d hd => ?_
  split
  · next hk =>
    simp only [Bool.and_eq_true, decide_eq_true_eq] at hk
    exact h d hd hk.1 hk.2
  · rfl

/-- The stream of stage `k` has its flag sent. -/
def Cmd.flagged (c : Cmd) (k : Nat) : Cmd :=
  { c with streams := c.streams.map fun y => if y.stage = k then { y with flagSent := true } else y }

section
variable {s : State} {q t stage sid : Nat} {c : Cmd} {x : Stream}

theorem openEmpty_of_open (hc : s.cmd? q t = some c) (hx : c.streams.find? (fun y => y.stage = stage) = some x) :
    s.openEmpty q t stage = s := by
  simp only [State.openEmpty, hc]
  split
  · next h =>
    obtain ⟨⟨⟨-, -, rfl⟩, -⟩, -⟩ : ((c.opcode = 5 ∧ c.total = 0 ∧ stage = 8) ∧ c.started = true) ∧ c.fin.isNone = true := by
      simpa using h
    simp only [State.openStream, hc, hx]
  · rfl

/-- The command with the stream that the flag of a SEND of no bytes opens (R114). -/
def Cmd.opened (c : Cmd) (sid dst : Nat) : Cmd :=
  { c with streams := c.streams ++ [{ stage := 8, dst := dst, sid := sid }] }

theorem openEmpty_opens (hc : s.cmd? q t = some c) (hop : c.opcode = 5) (htot : c.total = 0) (hst : c.started = true)
    (hfin : c.fin = none) (hstr : c.streams = []) (hsid : s.freeSid (c.f8 0x34) = some sid) :
    s.openEmpty q t 8 = s.modCmd q t (·.opened sid (c.f8 0x34)) := by
  simp [State.openEmpty, State.openStream, hc, hop, htot, hst, hfin, hstr, hsid, Cmd.opened]

/-- A stream with nothing left to send has its flag sent (R114, R196). -/
theorem exec_sendFlag {u : State} (hu : s.openEmpty q t stage = u) (hc : u.cmd? q t = some c)
    (hx : c.streams.find? (fun y => y.stage = stage) = some x) (hfin : c.fin = none) (hsent : x.flagSent = false)
    (hdone : c.doneTiles = c.total) (hqd : u.streamQueued x.dst x.sid = false)
    (hret : ∀ r ∈ u.retries, ¬(r.1 = q ∧ r.2.1 = t ∧ r.2.2.1 = x.sid)) :
    let f := c.flagOf stage
    exec (.sendFlag q t stage) s = .next ((u.modCmd q t (·.flagged stage)).sendFlagFlit x.dst x.sid f.2.1 f.1 f.2.2.1
      f.2.2.2.1 f.2.2.2.2 false) := by
  have hnone : u.retries.any (fun r => r.1 = q && r.2.1 = t && r.2.2.1 = x.sid) = false := by
    simpa [and_assoc] using hret
  change execSendFlag q t stage s = _
  simp only [execSendFlag, hu, hc, hx, hfin, hsent, hdone, hqd, hnone, ne_eq, not_true_eq_false, decide_false]
  rfl

/-- A SEND of no bytes opens its stream with its flag (R114), in every command of its queue and tag. -/
theorem exec_sendFlag_empty (hc : s.cmd? q t = some c) (hop : c.opcode = 5) (htot : c.total = 0) (hdone : c.doneTiles = 0)
    (hst : c.started = true) (hfin : c.fin = none) (hstr : c.streams = []) (hsid : s.freeSid (c.f8 0x34) = some sid)
    (hqd : s.streamQueued (c.f8 0x34) sid = false) (hret : ∀ r ∈ s.retries, ¬(r.1 = q ∧ r.2.1 = t)) :
    let f := c.flagOf 8
    exec (.sendFlag q t 8) s = .next ((s.modCmd q t fun d => (d.opened sid (c.f8 0x34)).flagged 8).sendFlagFlit
      (c.f8 0x34) sid f.2.1 f.1 f.2.2.1 f.2.2.2.1 f.2.2.2.2 false) := by
  have hopens := openEmpty_opens hc hop htot hst hfin hstr hsid
  have hkeep (d : Cmd) : (d.opened sid (c.f8 0x34)).q = d.q ∧ (d.opened sid (c.f8 0x34)).t = d.t := ⟨rfl, rfl⟩
  have hc' : (s.modCmd q t (·.opened sid (c.f8 0x34))).cmd? q t = some (c.opened sid (c.f8 0x34)) := by
    obtain ⟨hq, ht⟩ := cmd?_key hc
    rw [State.cmd?_modCmd _ q t _ hkeep, hc]
    simp [hq, ht]
  have hx : (c.opened sid (c.f8 0x34)).streams.find? (fun y => y.stage = 8) =
      some { stage := 8, dst := c.f8 0x34, sid := sid } := by
    rw [Cmd.opened, hstr]
    rfl
  rw [← modCmd_modCmd s q t (·.flagged 8) hkeep]
  exact exec_sendFlag hopens hc' hx hfin rfl (hdone.trans htot.symm) hqd fun r hr h => hret r hr ⟨h.1, h.2.1⟩

end

theorem sendFlagFlit_cmds (s : State) (dst sid addr value channel : Nat) (noWrite chan abort : Bool) :
    (s.sendFlagFlit dst sid addr value channel noWrite chan abort).cmds = s.cmds := by
  unfold State.sendFlagFlit State.enqueue
  split <;> rfl

/-! A tile that is sent again (R115, R199, R204), and one that nobody takes. -/

section
variable {s : State} {q t sid tile : Nat} {c : Cmd} {x : Stream}

theorem exec_channelTileRetry_sent {k : Nat × Nat × List Byte} (hc : s.cmd? q t = some c)
    (hx : c.streams.find? (fun y => y.sid = sid && y.kept.any (fun k => k.1 = tile)) = some x) (hfin : c.fin = none)
    (hmem : (q, t, sid, tile) ∈ s.retries) (hk : x.kept.find? (fun k => k.1 = tile) = some k)
    (hhalt : (s.crest ((c.crests.head?.map s.physOf).getD 0)).halted = false) (hheld : s.sendHeld x.dst = false) :
    exec (.channelTileRetry q t sid tile) s = .next
      ((({ s with retries := s.retries.filter (· != (q, t, sid, tile)) } : State).modCmd q t
        fun d => d.charge wPeer (s.cclkOf ((c.crests.head?.map s.physOf).getD 0) 2000)).sendChannel (c.crests.headD 0)
          x.dst sid (c.fu.stages.getD x.stage {}).arg16 tile k.2.1 k.2.2) := by
  change execChannelTileRetry q t sid tile s = _
  have hdue : s.retries.contains (q, t, sid, tile) = true := List.contains_iff_mem.2 hmem
  simp only [execChannelTileRetry, hc, hx, hfin, hdue, hhalt, hheld, hk]
  rfl

/-- A halted crest, or a port that takes nothing new, keeps the tile for later. -/
theorem exec_channelTileRetry_kept (hc : s.cmd? q t = some c)
    (hx : c.streams.find? (fun y => y.sid = sid && y.kept.any (fun k => k.1 = tile)) = some x)
    (hwait : (s.crest ((c.crests.head?.map s.physOf).getD 0)).halted = true ∨ s.sendHeld x.dst = true) :
    exec (.channelTileRetry q t sid tile) s = .next s := by
  change execChannelTileRetry q t sid tile s = _
  simp only [execChannelTileRetry, hc, hx]
  refine if_pos ?_
  obtain h | h := hwait <;> simp [h]

theorem exec_sendTmo_untaken (hc : s.cmd? q t = some c) (hfin : c.fin = none) (hret : ∃ r ∈ s.retries, r.1 = q ∧ r.2.1 = t) :
    exec (.sendTmo q t) s = .next
      (({ s with retries := s.retries.filter (fun r => !(r.1 = q && r.2.1 = t)) } : State).abort q t sPeer 0x62) := by
  have hany : (s.retries.any fun r => r.1 = q && r.2.1 = t) = true := by simpa using hret
  change execSendTmo q t s = _
  simp only [execSendTmo, hc, hfin, hany]
  rfl

/-- The timer of a tile that nobody takes ends its command PEER, none of its tiles left to be sent again (R115). -/
theorem sendTmo_ends (hc : s.cmd? q t = some c) (hfin : c.fin = none) (hret : ∃ r ∈ s.retries, r.1 = q ∧ r.2.1 = t) :
    ∃ u, exec (.sendTmo q t) s = .next u ∧ (∀ d, u.cmd? q t = some d → d.fin = some (sPeer, 0x62)) ∧
      (∀ r ∈ u.retries, ¬(r.1 = q ∧ r.2.1 = t)) := by
  have hc' : ({ s with retries := s.retries.filter (fun r => !(r.1 = q && r.2.1 = t)) } : State).cmd? q t = some c := hc
  obtain ⟨hends, hleft⟩ := abort_ends hc' hfin sPeer 0x62
  refine ⟨_, exec_sendTmo_untaken hc hfin hret, hends, fun r hr => ?_⟩
  rw [hleft] at hr
  have hother := (List.mem_filter.1 hr).2
  rintro ⟨hq, ht⟩
  simp [hq, ht] at hother

end

/-- What O25 says, its second clause with the premise that it misses: the command is the only one of its queue and tag. -/
theorem streamsEnd_of_onlyOfTag (s : State) (q t : Nat) (c : Cmd) (hc : s.cmd? q t = some c) :
    (∀ stage x, c.streams.find? (fun y => y.stage = stage) = some x → c.fin = none → x.flagSent = false →
      c.doneTiles = c.total → s.streamQueued x.dst x.sid = false →
      (∀ r ∈ s.retries, ¬(r.1 = q ∧ r.2.1 = t ∧ r.2.2.1 = x.sid)) →
      let f := c.flagOf stage
      exec (.sendFlag q t stage) s = .next ((s.modCmd q t fun c => { c with
        streams := c.streams.map (fun y => if y.stage = stage then { y with flagSent := true } else y) }).sendFlagFlit
          x.dst x.sid f.2.1 f.1 f.2.2.1 f.2.2.2.1 f.2.2.2.2 false)) ∧
    (∀ sid, c.opcode = 5 → c.total = 0 → c.doneTiles = 0 → c.started = true → c.fin = none → c.streams = [] →
      (∀ d ∈ s.cmds, d.q = q → d.t = t → d = c) →
      s.freeSid (c.f8 0x34) = some sid → s.streamQueued (c.f8 0x34) sid = false →
      (∀ r ∈ s.retries, ¬(r.1 = q ∧ r.2.1 = t)) →
      let f := c.flagOf 8
      exec (.sendFlag q t 8) s = .next ((s.modCmd q t fun c => { c with
        streams := [{ stage := 8, dst := c.f8 0x34, sid := sid, flagSent := true }] }).sendFlagFlit
          (c.f8 0x34) sid f.2.1 f.1 f.2.2.1 f.2.2.2.1 f.2.2.2.2 false)) ∧
    (∀ sid tile x k, c.streams.find? (fun y => y.sid = sid && y.kept.any (fun k => k.1 = tile)) = some x → c.fin = none →
      (q, t, sid, tile) ∈ s.retries → x.kept.find? (fun k => k.1 = tile) = some k →
      let p := (c.crests.head?.map s.physOf).getD 0
      ((s.crest p).halted = false → s.sendHeld x.dst = false →
        exec (.channelTileRetry q t sid tile) s = .next
          ((({ s with retries := s.retries.filter (· != (q, t, sid, tile)) } : State).modCmd q t
            fun c => c.charge wPeer (s.cclkOf p 2000)).sendChannel (c.crests.headD 0) x.dst sid
            (c.fu.stages.getD x.stage {}).arg16 tile k.2.1 k.2.2)) ∧
      ((s.crest p).halted = true ∨ s.sendHeld x.dst = true → exec (.channelTileRetry q t sid tile) s = .next s)) ∧
    (c.fin = none → (∃ r ∈ s.retries, r.1 = q ∧ r.2.1 = t) →
      ∃ u, exec (.sendTmo q t) s = .next u ∧ (∀ d, u.cmd? q t = some d → d.fin = some (sPeer, 0x62)) ∧
        (∀ r ∈ u.retries, ¬(r.1 = q ∧ r.2.1 = t))) := by
  refine ⟨?follows, ?empty, ?retry, sendTmo_ends hc⟩
  case follows =>
    intro stage x hx hfin hsent hdone hqd hret f
    exact exec_sendFlag (openEmpty_of_open hc hx) hc hx hfin hsent hdone hqd hret
  case empty =>
    intro sid hop htot hdone hst hfin hstr honly hsid hqd hret f
    rw [exec_sendFlag_empty hc hop htot hdone hst hfin hstr hsid hqd hret]
    congr 2
    refine modCmd_congr fun d hd hq ht => ?_
    rw [honly d hd hq ht]
    simp [Cmd.opened, Cmd.flagged, hstr]
  case retry =>
    intro sid tile x k hx hfin hmem hk p
    exact ⟨exec_channelTileRetry_sent hc hx hfin hmem hk, exec_channelTileRetry_kept hc hx⟩

/-- A SEND of no bytes that has started. -/
def emptySend : Cmd := { q := 0, t := 0, e := [5#8], started := true }

/-- Two such commands of one queue and tag, of which the later has a stream already. -/
def twoSends : State := { cmds := [emptySend, { emptySend with streams := [{ dst := 1 }] }] }

/-- Refutes O25: nothing in its second clause makes the command the only one of its queue and tag, and where it is not, the
flag's stream is appended to those of the other command, which keeps its own. -/
theorem not_streamsEndWithTheirFlag : ¬ Obligations.StreamsEndWithTheirFlag := by
  intro h
  obtain ⟨-, hempty, -⟩ := h twoSends 0 0 emptySend rfl
  have hclaim := hempty 0 rfl rfl rfl rfl rfl rfl (by decide) (by decide) (by decide)
  rw [exec_sendFlag_empty (sid := 0) rfl rfl rfl rfl rfl rfl rfl (by decide) (by decide) (by decide)] at hclaim
  have hcmds := congrArg State.cmds (Host.Outcome.next.inj hclaim)
  rw [sendFlagFlit_cmds, sendFlagFlit_cmds] at hcmds
  exact absurd hcmds (by decide)

end Sys2Proof.Machine
end

section
/-!
Tile epilogues (O21): what a crest with an epilogue due does once it has turned, outcome by outcome.
-/
namespace Sys2Proof.Machine
open Sys2Proof.Claim

/-- The crest comes to the due epilogue of its tile `w`: the tile waits for its peers (R192, R196) or its lines, meets a bad
accumulator row (R61), or runs its epilogue, to its end or an abort (R105). -/
def State.epilogueDue (u : State) (p : Nat) (w : Work) (c : Cmd) (es : List Ecc) (bad : Bool) :
    Host.Outcome State Fault Refusal :=
  if u.peerHeld c (c.fu.sends.map fun g => (g.1, g.2.arg8)) then .next (u.setHold w.q w.t p wPeer true)
  else match u.workHeld (u.epilogueAddrs c w) (u.epilogueWrites c w) with
    | some h => .next (u.stall w.q w.t h)
    | none =>
      let x := u.setHold w.q w.t p wPeer false
      if bad && !c.useProg then .next (x.parityFails p c)
      else match (x.crestReads w.q w.t (x.epilogueAddrs c w) es).epilogue p c w with
        | .error r => .next (r.1.abort w.q w.t r.2.1 r.2.2)
        | .ok e => .next (e.s.tileDone p)

section
variable {s u : State} {p : Nat} {w : Work} {c : Cmd} {es : List Ecc} {bad : Bool}

/-- A working crest with no invocation, whose tile in hand has its epilogue due, comes to that epilogue. -/
theorem exec_tileEpilogue (hin : InHand s p w c) (hworks : ((s.turn p).crest p).works = true)
    (hinv : ((s.turn p).crest p).inv = none) (hrun : (s.turn p).runnable p (w.q, w.t) = true) (hph : w.phase = 3) :
    exec (.tileEpilogue p es bad) s = (s.turn p).epilogueDue p w c es bad := by
  obtain ⟨⟨ws, hw⟩, hc⟩ := hin
  change execTileEpilogue p es bad s = _
  simp only [execTileEpilogue, hw, hc, hworks, hinv, hrun, hph]
  rfl

theorem epilogueDue_awaitsPeers (hpeer : u.peerHeld c (c.fu.sends.map fun g => (g.1, g.2.arg8)) = true) :
    u.epilogueDue p w c es bad = .next (u.setHold w.q w.t p wPeer true) :=
  if_pos hpeer

variable (hpeer : u.peerHeld c (c.fu.sends.map fun g => (g.1, g.2.arg8)) = false)
include hpeer

theorem epilogueDue_awaitsLines {h : WaitFor}
    (hheld : u.workHeld (u.epilogueAddrs c w) (u.epilogueWrites c w) = some h) :
    u.epilogueDue p w c es bad = .next (u.stall w.q w.t h) := by
  simp [State.epilogueDue, hpeer, hheld]

variable (hheld : u.workHeld (u.epilogueAddrs c w) (u.epilogueWrites c w) = none)
include hheld

theorem epilogueDue_parity (hprog : c.useProg = false) :
    u.epilogueDue p w c es true = .next ((u.setHold w.q w.t p wPeer false).parityFails p c) := by
  simp [State.epilogueDue, hpeer, hheld, hprog]

theorem epilogueDue_done {e : Epi} (he : ((u.setHold w.q w.t p wPeer false).crestReads w.q w.t
      ((u.setHold w.q w.t p wPeer false).epilogueAddrs c w) es).epilogue p c w = .ok e) :
    u.epilogueDue p w c es false = .next (e.s.tileDone p) := by
  simp [State.epilogueDue, hpeer, hheld, he]

theorem epilogueDue_aborts {r : State × Nat × Nat} (hr : ((u.setHold w.q w.t p wPeer false).crestReads w.q w.t
      ((u.setHold w.q w.t p wPeer false).epilogueAddrs c w) es).epilogue p c w = .error r) :
    u.epilogueDue p w c es false = .next (r.1.abort w.q w.t r.2.1 r.2.2) := by
  simp [State.epilogueDue, hpeer, hheld, hr]

end

/-- Settles O21: the crest comes to the epilogue that is due, and each outcome of that is one branch. -/
theorem tileEpilogueEndsTheTile : Obligations.TileEpilogueEndsTheTile := by
  intro s p w c es bad u x v held hin hworks hinv hrun hph
  have hexec (b : Bool) : exec (.tileEpilogue p es b) s = u.epilogueDue p w c es b :=
    exec_tileEpilogue hin hworks hinv hrun hph
  refine ⟨fun hpeer hheld => ⟨fun e he => ?done, fun r hr => ?aborts, fun hprog => ?parity⟩,
    fun hpeer => ?peers, fun hpeer h hheld => ?lines⟩
  case done => exact (hexec false).trans (epilogueDue_done hpeer hheld he)
  case aborts => exact (hexec false).trans (epilogueDue_aborts hpeer hheld hr)
  case parity => exact (hexec true).trans (epilogueDue_parity hpeer hheld hprog)
  case peers => exact (hexec bad).trans (epilogueDue_awaitsPeers hpeer)
  case lines => exact (hexec bad).trans (epilogueDue_awaitsLines hpeer hheld)

end Sys2Proof.Machine
end

section
/-!
The frame of memory writes and of records: what a write, a completion record and an overflow record leave alone (R123, R139).
-/
namespace Sys2Proof.Machine

/-! A write of memory. -/

/-- The state but for what a write of memory changes: the memories with their cache and buffers, the slices that wake, the
requests that go out and the free values used. -/
def State.unwritten (s : State) : State :=
  { s with store := [], poison := [], hostMem := [], hostPoison := [], cache := [], pend := [], evict := [], abuf := []
           flaws := [], slices := [], out := [], freeCtr := 0, bias := { s.bias with hostPages := [] } }

section
variable {s t u : State}

theorem unwritten_ite {c : Prop} [Decidable c] (ht : t.unwritten = s.unwritten) (hu : u.unwritten = s.unwritten) :
    (if c then t else u).unwritten = s.unwritten := by
  split
  · exact ht
  · exact hu

theorem unwritten_backLine (s : State) (l : Nat) (d : List Byte) (b : Bool) : (s.backLine l d b).unwritten = s.unwritten :=
  unwritten_ite rfl rfl

theorem unwritten_settle (s : State) (l : Nat) : (s.settle l).unwritten = s.unwritten := by
  unfold State.settle
  split
  · exact unwritten_backLine ..
  · rfl

theorem unwritten_wayFor (s : State) (l : Nat) : (s.wayFor l).unwritten = s.unwritten := unwritten_ite rfl rfl

theorem unwritten_fill (s : State) (l : Nat) (st : Mesi) (req : CacheReq) : (s.fill l st req).unwritten = s.unwritten := by
  have hsettled := (unwritten_wayFor (s.settle l) l).trans (unwritten_settle s l)
  cases st with
  | M => exact unwritten_ite hsettled (unwritten_ite (c := (tget {} s.cache l).st = .S) (s := s) rfl rfl)
  | E => exact unwritten_ite hsettled (unwritten_ite rfl rfl)
  | S | I => exact unwritten_ite hsettled rfl

theorem unwritten_wakeSlice (s : State) (n : Nat) : (s.wakeSlice n).unwritten = s.unwritten :=
  unwritten_ite (unwritten_ite (s := s) rfl rfl) rfl

theorem unwritten_writeLine (s : State) (l : Nat) (m : List (Nat × Byte)) : (s.writeLine l m).unwritten = s.unwritten :=
  unwritten_ite rfl (unwritten_ite (unwritten_fill ..) ((unwritten_backLine ..).trans (unwritten_wakeSlice ..)))

theorem unwritten_pendLine (s : State) (o : Obs) (l : Nat) (m : List (Nat × Byte)) :
    (s.pendLine o l m).unwritten = s.unwritten := by
  unfold State.pendLine
  split
  · rfl
  · exact unwritten_ite rfl rfl

theorem unwritten_write (s : State) (o : Obs) (m : List (Nat × Byte)) : (s.write o m).unwritten = s.unwritten :=
  List.foldlRecOn (motive := fun u => State.unwritten u = s.unwritten) _ _ rfl fun _ h _ _ =>
    ((unwritten_writeLine ..).trans (unwritten_pendLine ..)).trans h

end

/-! A record. -/

/-- The state but for what a record changes besides its queue: memory, the log, and the pending messages. -/
def State.unrecorded (s : State) : State := { s.unwritten with queues := [], log := [], logNext := 0, msixPend := [] }

/-- A queue but for what a record changes: the ring's tail, the overflow record, and the records not yet signalled. -/
def Queue.unrecorded (k : Queue) : Queue := { k with cqTail := 0, ovf := none, unsig := 0 }

/-- From `s` to `t` records of queue `q` may have been written, and nothing else has changed. -/
structure Recorded (q : Nat) (s t : State) : Prop where
  rest : t.unrecorded = s.unrecorded
  queue : (t.queue q).unrecorded = (s.queue q).unrecorded
  others : ∀ r, r ≠ q → t.queue r = s.queue r

section
variable {q : Nat} {s t u : State}

theorem Recorded.refl (q : Nat) (s : State) : Recorded q s s := ⟨rfl, rfl, fun _ _ => rfl⟩

theorem Recorded.trans (h : Recorded q s t) (g : Recorded q t u) : Recorded q s u :=
  ⟨g.rest.trans h.rest, g.queue.trans h.queue, fun r hr => (g.others r hr).trans (h.others r hr)⟩

theorem Recorded.ite {c : Prop} [Decidable c] (ht : Recorded q s t) (hu : Recorded q s u) :
    Recorded q s (if c then t else u) := by
  split
  · exact ht
  · exact hu

theorem Recorded.of_queues (hr : t.unrecorded = s.unrecorded) (hq : t.queues = s.queues) : Recorded q s t :=
  have hqueue (r : Nat) : t.queue r = s.queue r := congrArg (fun ks : Tbl Queue => tget ({} : Queue) ks r) hq
  ⟨hr, congrArg Queue.unrecorded (hqueue q), fun r _ => hqueue r⟩

theorem Recorded.of_unwritten (h : t.unwritten = s.unwritten) : Recorded q s t :=
  .of_queues (congrArg (fun v : State => { v with queues := [], log := [], logNext := 0, msixPend := [] }) h)
    (congrArg State.queues h :)

theorem Recorded.crests (h : Recorded q s t) : t.crests = s.crests :=
  (congrArg State.crests h.rest :)

theorem Recorded.cmds (h : Recorded q s t) : t.cmds = s.cmds :=
  (congrArg State.cmds h.rest :)

theorem Recorded.parts (h : Recorded q s t) : t.parts = s.parts :=
  (congrArg State.parts h.rest :)

theorem recorded_modQueue (s : State) {f : Queue → Queue} (hf : ∀ k, (f k).unrecorded = k.unrecorded) :
    Recorded q s (s.modQueue q f) :=
  ⟨rfl, by rw [State.queue_modQueue_same, hf], fun r hr => State.queue_modQueue_other s q f r hr⟩

theorem sendMsix_queues (s : State) (v : Nat) : (s.sendMsix v).queues = s.queues := by
  unfold State.sendMsix
  split <;> rfl

theorem recorded_sendMsix (q : Nat) (s : State) (v : Nat) : Recorded q s (s.sendMsix v) :=
  .ite (.of_queues rfl rfl) (.of_queues rfl rfl)

theorem recorded_signalQueue (q : Nat) (s : State) : Recorded q s (s.signalQueue q) :=
  (recorded_modQueue s (f := fun k => { k with unsig := 0 }) fun _ => rfl).trans (recorded_sendMsix ..)

/-- Is the record that queue `q` writes next lost: its ring lies there in a retired slice, or in none of the partition's
(R139, R274)? -/
def State.recordLost (s : State) (q : Nat) : Bool :=
  let a := (s.queue q).recordAddr (s.queue q).cqTail
  let p := (s.queueOwner q).getD 0
  !isHostAddr a && (s.sliceRetired (s.gaddr p a / 2 ^ 24) || !rangeIn (s.part p).slices a 32)

/-- The record's bytes take their place in the ring, or the log says that they are lost. -/
def State.recordPlaced (s : State) (q : Nat) (ws : List Nat) (tag : Nat) : State :=
  let a := (s.queue q).recordAddr (s.queue q).cqTail
  if s.recordLost q then
    s.addLog { code := 0x06, cls := 3, part := s.queueOwner q, cmd := some (q, tag), addr := a }
  else s.writeAt .disp ((s.queueOwner q).getD 0) a (wordBytes ws)

/-- A queue goes on to its next record. -/
def Queue.recordNext (k : Queue) : Queue := { k with cqTail := (k.cqTail + 1) % m32, unsig := k.unsig + 1 }

/-- Does a record of a queue send its message at once (R144)? -/
def Queue.signals (k : Queue) (status : Nat) (irq : Bool) : Bool :=
  k.irqEn && (decide (k.unsig + 1 ≥ k.irqCount) || irq || decide (status ≥ 0x10))

theorem putRecord_eq (s : State) (q : Nat) (ws : List Nat) (status tag : Nat) (irq : Bool) :
    s.putRecord q ws status tag irq =
      let t := (s.recordPlaced q ws tag).modQueue q Queue.recordNext
      if (s.queue q).signals status irq then t.signalQueue q else t := rfl

theorem recorded_recordPlaced (s : State) (q : Nat) (ws : List Nat) (tag : Nat) : Recorded q s (s.recordPlaced q ws tag) :=
  .ite (.of_queues rfl rfl) (.of_unwritten (unwritten_write ..))

theorem recordPlaced_queues (s : State) (q : Nat) (ws : List Nat) (tag : Nat) : (s.recordPlaced q ws tag).queues = s.queues := by
  unfold State.recordPlaced
  split
  · rfl
  · exact (congrArg State.queues (unwritten_write ..) :)

theorem recorded_putRecord (s : State) (q : Nat) (ws : List Nat) (status tag : Nat) (irq : Bool) :
    Recorded q s (s.putRecord q ws status tag irq) := by
  have hnext := (recorded_recordPlaced s q ws tag).trans (recorded_modQueue _ (f := Queue.recordNext) fun _ => rfl)
  rw [putRecord_eq]
  exact .ite (hnext.trans (recorded_signalQueue ..)) hnext

theorem recorded_overflow (s : State) (q : Nat) (o : Ovf) : Recorded q s (s.overflow q o) :=
  (recorded_putRecord ..).trans (recorded_modQueue _ fun _ => rfl)

theorem recorded_putOverflow (s : State) (q : Nat) : Recorded q s (s.putOverflow q) := by
  unfold State.putOverflow
  split
  · exact .refl q s
  · exact .ite (recorded_overflow ..) (.refl q s)

theorem signalQueue_cqTail (s : State) (q : Nat) : ((s.signalQueue q).queue q).cqTail = (s.queue q).cqTail := by
  have hmod := congrArg Queue.cqTail (State.queue_modQueue_same (s := s) q fun k => { k with unsig := 0 })
  exact (congrArg (fun ks : Tbl Queue => (tget ({} : Queue) ks q).cqTail) (sendMsix_queues ..)).trans hmod

/-- Q_CQ_TAIL advances by one with each record (R139). -/
theorem putRecord_cqTail (s : State) (q : Nat) (ws : List Nat) (status tag : Nat) (irq : Bool) :
    ((s.putRecord q ws status tag irq).queue q).cqTail = ((s.queue q).cqTail + 1) % m32 := by
  have hplaced : (s.recordPlaced q ws tag).queue q = s.queue q :=
    congrArg (fun ks : Tbl Queue => tget ({} : Queue) ks q) (recordPlaced_queues ..)
  have hnext : (((s.recordPlaced q ws tag).modQueue q Queue.recordNext).queue q).cqTail = ((s.queue q).cqTail + 1) % m32 := by
    rw [State.queue_modQueue_same, hplaced, Queue.recordNext]
  rw [putRecord_eq]
  split
  · exact (signalQueue_cqTail ..).trans hnext
  · exact hnext

end

end Sys2Proof.Machine
end

section
/-!
Queue pages (O12, O13, O14): what a doorbell, ENABLE, RESUME and Q_CQ_HEAD make of their queue, and the words that no
register answers.
-/
namespace Sys2Proof.Machine

theorem readyOrRun_frame (s : State) : s.readyOrRun.queues = s.queues ∧ s.readyOrRun.crests = s.crests ∧
    s.readyOrRun.store = s.store ∧ s.readyOrRun.cmds = s.cmds := by
  unfold State.readyOrRun
  split <;> exact ⟨rfl, rfl, rfl, rfl⟩

theorem queue_readyOrRun (s : State) (r : Nat) : s.readyOrRun.queue r = s.queue r :=
  congrArg (fun ks : Tbl Queue => tget ({} : Queue) ks r) (readyOrRun_frame s).1

/-! Doorbells. -/

theorem exec_qDoorbell {s : State} {q tail : Nat} {h : HostUpd} (hs : (s.hostWrites h).serving = true) (hq : q < 64) :
    exec (.qDoorbell q tail h) s = .next ((s.hostWrites h).doorbell q (tail % m32)) := by
  change Host.Outcome.next (if _ then _ else _) = _
  simp [hs, hq]

section
variable {u : State} {q tail : Nat}

/-- An overflowed queue, with the overflow counted in its pending record (R123). -/
def Queue.overflowed (k : Queue) (tail : Nat) : Queue :=
  { k with
    ovfBit := true
    ovf := some (match k.ovf with
      | some o => { o with requested := tail, count := o.count + 1 }
      | none => { first := k.tail, requested := tail, head := k.head, count := 1 }) }

theorem doorbell_ignored (ho : (u.queueOwner q).isSome = true) (hst : (u.queue q).st = .disabled ∨ (u.queue q).st = .stopping) :
    u.doorbell q tail = u.modQueue q fun k => { k with dbDisabled := true } := by
  obtain ⟨p, hp⟩ := Option.isSome_iff_exists.1 ho
  simp only [State.doorbell, hp, hst, if_true]

variable (ho : (u.queueOwner q).isSome = true) (hst : (u.queue q).st = .run ∨ (u.queue q).st = .halted)
include ho hst

theorem doorbell_live : u.doorbell q tail =
    if 2 ^ (u.queue q).sqLog - sub32 (u.queue q).tail (u.queue q).head < sub32 tail (u.queue q).tail then
      (u.modQueue q (·.overflowed tail)).putOverflow q
    else u.modQueue q fun k => { k with tail := tail % m32 } := by
  obtain ⟨p, hp⟩ := Option.isSome_iff_exists.1 ho
  have hlive : ¬((u.queue q).st = .disabled ∨ (u.queue q).st = .stopping) := by
    obtain h | h := hst <;> simp [h]
  simp only [State.doorbell, hp, hlive, if_false]
  rfl

end

/-- Settles O12: a live queue has room or has not, and in the second case what follows the overflow bit is at most an overflow
record, whose frame leaves the queue's indices alone. -/
theorem doorbellMovesTheTailOrOverflows : Obligations.DoorbellMovesTheTailOrOverflows := by
  intro s q tail h u k hs hq ho
  have hexec := exec_qDoorbell (tail := tail) hs hq
  refine ⟨fun hst hroom => ?moves, fun hst hfull => ?overflows, fun hst => ?ignored⟩
  case moves => rw [hexec, doorbell_live ho hst, if_neg (Nat.not_lt.2 hroom), Nat.mod_mod]
  case overflows =>
    have hrec := recorded_putOverflow (u.modQueue q (·.overflowed (tail % m32))) q
    have hqueue := hrec.queue.trans (congrArg Queue.unrecorded (State.queue_modQueue_same ..))
    refine ⟨_, by rw [hexec, doorbell_live ho hst, if_pos hfull], (congrArg Queue.tail hqueue :),
      (congrArg Queue.head hqueue :), (congrArg Queue.ovfBit hqueue :), (congrArg Queue.st hqueue :), fun r hr => ?_, hrec.crests, hrec.cmds, hrec.parts⟩
    rw [hrec.others r hr, State.queue_modQueue_other _ _ _ _ hr]
  case ignored => rw [hexec, doorbell_ignored ho hst]

/-! ENABLE, RESUME and Q_CQ_HEAD. -/

theorem putOverflow_of_none {s : State} {q : Nat} (h : (s.queue q).ovf = none) : s.putOverflow q = s := by
  rw [State.putOverflow, h]

/-- A queue that enters RUN by ENABLE, its partition owning the slices of `m` (R120). -/
def Queue.enabled (k : Queue) (m : Nat) : Queue :=
  { k with st := .run, tail := 0, head := 0, cqHead := 0, cqTail := 0, unsig := 0, hold := none, slicesAtRun := m, energy := 0 }

/-- The state with queue `q` enabled, its pending overflow record not written yet. -/
def State.enabledQueue (s : State) (q p : Nat) : State := (s.modQueue q (·.enabled (s.part p).slices)).readyOrRun

theorem queue_enabledQueue_same (s : State) (q p : Nat) :
    (s.enabledQueue q p).queue q = (s.queue q).enabled (s.part p).slices := by
  rw [State.enabledQueue, queue_readyOrRun, State.queue_modQueue_same]

theorem queue_enabledQueue_other (s : State) {q r : Nat} (p : Nat) (hr : r ≠ q) : (s.enabledQueue q p).queue r = s.queue r := by
  rw [State.enabledQueue, queue_readyOrRun, State.queue_modQueue_other _ _ _ _ hr]

section
variable {s : State} {q p : Nat} (hs : s.serving = true) (hp : s.queueOwner q = some p)
include hs hp

theorem exec_queueEnable : exec (.queueEnable q) s = .next
    (if (s.queue q).st ≠ .disabled then s.modQueue q fun k => { k with cfgLocked := true }
    else if s.canEnable q = true then (s.enabledQueue q p).putOverflow q
    else s.modQueue q fun k => { k with cfgBad := true }) := by
  change Host.Outcome.next (if s.serving = true then s.enableQueue q else s) = _
  simp only [hs, State.enableQueue, hp, if_true, Option.isNone_some, Bool.and_true, Bool.false_eq_true, if_false]
  rfl

theorem exec_queueEnable_free (hst : (s.queue q).st = .disabled) (hen : s.canEnable q = true) :
    exec (.queueEnable q) s = .next ((s.enabledQueue q p).putOverflow q) := by
  rw [exec_queueEnable hs hp, if_neg (not_not_intro hst), if_pos hen]

theorem exec_queueDisable (hst : (s.queue q).st = .run ∨ (s.queue q).st = .halted) : exec (.queueDisable q) s =
    .next (s.modQueue q fun k => { k with
      st := if s.cmds.any (fun c => c.q = q) then .stopping else .disabled, hold := none }).readyOrRun := by
  change Host.Outcome.next (if _ then s.stopQueue q else s) = _
  rw [if_pos (by simp [hs, hp])]
  obtain h | h := hst <;>
  · simp only [State.stopQueue, h]
    cases s.cmds.any fun c => c.q = q <;> rfl

theorem exec_resume (hst : (s.queue q).st = .halted) : exec (.resume q) s =
    .next (s.modQueue q fun k => { k with st := .run, hold := none, slicesAtRun := (s.part p).slices }) := by
  change Host.Outcome.next (if s.serving = true then s.resumeQueue q else s) = _
  simp [hs, State.resumeQueue, hst, hp]

theorem exec_qCqHead {v : Nat} (hv : v < m32) : exec (.qCqHead q v) s = .next
    (if sub32 v (s.queue q).cqHead ≤ sub32 (s.queue q).cqTail (s.queue q).cqHead
      then s.modQueue q fun k => { k with cqHead := v } else s) := by
  change Host.Outcome.next (if s.serving = true then s.setCqHead q v else s) = _
  simp [hs, State.setCqHead, hp, hv]

end

/-- Settles O13: each write is computed once; ENABLE's is followed by at most an overflow record, whose frame leaves the
queue's state and submission indices alone. -/
theorem queueControlMovesItsState : Obligations.QueueControlMovesItsState := by
  intro s q p hs hp
  refine ⟨fun hst hen => ?enabled, fun hst hen => ?bad, fun hst => ?locked, fun hst => ?disabled, fun hst => ?resumed,
    fun v hv => exec_qCqHead hs hp hv⟩
  case enabled =>
    have hexec := exec_queueEnable_free hs hp hst hen
    obtain ⟨-, hcrests, hstore, hcmds⟩ := readyOrRun_frame (s.modQueue q (·.enabled (s.part p).slices))
    refine ⟨fun hovf => ?alone, ?withRecord⟩
    case alone =>
      have hnone : ((s.enabledQueue q p).queue q).ovf = none := by rw [queue_enabledQueue_same]; exact hovf
      rw [putOverflow_of_none hnone] at hexec
      exact ⟨_, hexec, queue_enabledQueue_same s q p, fun r hr => queue_enabledQueue_other s p hr, hcrests, hstore, hcmds⟩
    case withRecord =>
      have hrec := recorded_putOverflow (s.enabledQueue q p) q
      have hqueue := hrec.queue.trans (congrArg Queue.unrecorded (queue_enabledQueue_same s q p))
      exact ⟨_, hexec, (congrArg Queue.st hqueue :), (congrArg Queue.tail hqueue :), (congrArg Queue.head hqueue :),
        (congrArg Queue.cqHead hqueue :), fun r hr => (hrec.others r hr).trans (queue_enabledQueue_other s p hr),
        hrec.crests.trans hcrests, hrec.cmds.trans hcmds⟩
  case bad => rw [exec_queueEnable hs hp, if_neg (not_not_intro hst), if_neg (Bool.eq_false_iff.1 hen)]
  case locked => rw [exec_queueEnable hs hp, if_pos hst]
  case disabled =>
    refine ⟨_, exec_queueDisable hs hp hst, ?_, fun r hr => ?_, (readyOrRun_frame _).2⟩
    · rw [queue_readyOrRun, State.queue_modQueue_same]
    · rw [queue_readyOrRun, State.queue_modQueue_other _ _ _ _ hr]
  case resumed => exact exec_resume hs hp hst

/-! Words that no register answers (Table CMD-1). -/

/-- The offsets of Table CMD-1. -/
def queueOffsets : List Nat :=
  [0x000, 0x008, 0x010, 0x014, 0x018, 0x01C, 0x020, 0x024, 0x028, 0x02C, 0x030, 0x034, 0x038]

theorem readQueue_unowned {s : State} {q : Nat} (ho : s.queueOwner q = none) (off : Nat) : s.readQueue q off = 0 := by
  simp [State.readQueue, ho]

theorem writeQueue_unowned {s : State} {q : Nat} (ho : s.queueOwner q = none) (off v : Nat) : s.writeQueue q off v = s := by
  simp [State.writeQueue, ho]

theorem readQueue_unlisted (s : State) (q : Nat) {off : Nat} (hoff : off ∉ queueOffsets) : s.readQueue q off = 0 := by
  simp only [queueOffsets, List.mem_cons, List.not_mem_nil, not_or] at hoff
  unfold State.readQueue
  split
  · rfl
  · split <;> simp_all

theorem writeQueue_unlisted (s : State) (q v : Nat) {off : Nat} (hoff : off ∉ queueOffsets) : s.writeQueue q off v = s := by
  simp only [queueOffsets, List.mem_cons, List.not_mem_nil, not_or] at hoff
  unfold State.writeQueue
  split
  · rfl
  · split <;> simp_all

/-- Settles O14: a page that nobody owns, and a word that is not listed, answer alike. -/
theorem unlistedQueueWordsReadZero : Obligations.UnlistedQueueWordsReadZero := by
  intro s q off v hnone
  have hread : s.readQueue q off = 0 := hnone.elim (readQueue_unowned · off) (readQueue_unlisted s q)
  have hwrite : s.writeQueue q off v = s := hnone.elim (writeQueue_unowned · off v) (writeQueue_unlisted s q v)
  refine ⟨hread, ?_⟩
  change Host.Outcome.next (if _ then s.writeQueue q off v else s) = _
  rw [hwrite, ite_self]

end Sys2Proof.Machine
end

section
/-!
A write of the dispatcher to one line that lies open (R148, R179): the line alone changes, in the bytes written.
-/
namespace Sys2Proof.Machine
open Sys2Proof.Claim

/-! Bytes put into a line. -/

theorem length_putBytes (d : List Byte) (m : List (Nat × Byte)) : (putBytes d m).length = d.length :=
  List.foldlRecOn (motive := fun e : List Byte => e.length = d.length) m _ rfl fun _ h _ _ => List.length_set.trans h

theorem putBytes_cons (d : List Byte) (e : Nat × Byte) (m : List (Nat × Byte)) :
    putBytes d (e :: m) = putBytes (d.set (e.1 % 64) e.2) m := rfl

theorem getD_putBytes_of_notMem {j : Nat} {m : List (Nat × Byte)} (h : ∀ e ∈ m, e.1 % 64 ≠ j) (d : List Byte) :
    (putBytes d m).getD j 0#8 = d.getD j 0#8 := by
  induction m generalizing d with
  | nil => rfl
  | cons e m ih =>
    rw [putBytes_cons, ih fun e' he' => h e' (List.mem_cons_of_mem e he')]
    have hne : e.1 % 64 ≠ j := h e List.mem_cons_self
    simp [List.getD_eq_getElem?_getD, List.getElem?_set_ne hne]

theorem getD_putBytes_of_mem {g : Nat} {b : Byte} {m : List (Nat × Byte)} (hm : (g, b) ∈ m)
    (hnd : (m.map fun e => e.1 % 64).Nodup) {d : List Byte} (hd : d.length = 64) : (putBytes d m).getD (g % 64) 0#8 = b := by
  induction m generalizing d with
  | nil => exact absurd hm List.not_mem_nil
  | cons e m ih =>
    obtain ⟨hfirst, hrest⟩ := List.nodup_cons.1 hnd
    rw [putBytes_cons]
    obtain rfl | hm := List.mem_cons.1 hm
    · rw [getD_putBytes_of_notMem fun e he hk => hfirst (List.mem_map.2 ⟨e, he, hk⟩)]
      have hlt : g % 64 < d.length := by omega
      simp [List.getD_eq_getElem?_getD, hlt]
    · exact ih hm hrest (List.length_set.trans hd)

/-! A line that lies open. -/

theorem linesOf_one {l : Nat} {gs : List Nat} (hl : ∀ g ∈ gs, g / 64 = l) (hne : gs ≠ []) : linesOf gs = [l] := by
  obtain ⟨g, gs, rfl⟩ := List.exists_cons_of_ne_nil hne
  have hfold (ls : List Nat) (hls : l ∈ ls) (gs : List Nat) (hgs : ∀ g ∈ gs, g / 64 = l) :
      gs.foldl (fun ls g => if ls.contains (g / 64) then ls else ls ++ [g / 64]) ls = ls := by
    refine List.foldlRecOn (motive := fun ks => ks = ls) gs _ rfl fun ks hk g hg => ?_
    rw [hk, hgs g hg, if_pos (List.contains_iff_mem.2 hls)]
  have hfirst := hl g List.mem_cons_self
  rw [linesOf, List.foldl_cons]
  simp only [hfirst, List.contains_nil, Bool.false_eq_true, if_false, List.nil_append]
  exact hfold [l] (List.mem_singleton_self l) gs fun g hg => hl g (List.mem_cons_of_mem _ hg)

section
variable {s : State} {gs : List Nat} {g : Nat} (hp : Plain s gs) (hg : g ∈ gs)
include hp hg

theorem isHostLine_of_plain : isHostLine (g / 64) = false := by
  obtain ⟨hstore, -⟩ := hp.store g hg
  exact decide_eq_false (by unfold hostBase at *; omega)

theorem viaCache_of_plain : s.viaCache (g / 64) = false := by
  obtain ⟨hbias, -⟩ := hp.lines g hg
  rw [State.viaCache, isHostLine_of_plain hp hg, hbias]
  rfl

theorem needsLink_of_plain (wr : Bool) : s.needsLink wr g = false := by
  rw [State.needsLink, viaCache_of_plain hp hg]
  rfl

/-- Each byte of the line is the store's. -/
theorem newest_of_plain {a : Nat} (ha : a / 64 = g / 64) : s.newest a = tget 0#8 s.store a := by
  obtain ⟨-, -, -, -, hevict⟩ := hp.lines g hg
  have hlive : s.liveEvict (g / 64) = none := List.find?_eq_none.2 fun e he => by simp [hevict e he]
  simp only [State.newest, ha, viaCache_of_plain hp hg, hlive, isHostLine_of_plain hp hg]
  rfl

theorem getD_newestLine_of_plain {a : Nat} (ha : a / 64 = g / 64) :
    (s.newestLine (g / 64)).getD (a % 64) 0#8 = tget 0#8 s.store a := by
  have hlt : a % 64 < 64 := Nat.mod_lt _ (by decide)
  have hsplit : 64 * (g / 64) + a % 64 = a := by omega
  simp only [State.newestLine, List.getD_eq_getElem?_getD, List.getElem?_map, List.getElem?_range hlt, Option.map_some,
    Option.getD_some, hsplit, newest_of_plain hp hg ha]

theorem wakeSlice_of_plain : s.wakeSlice (g / 2 ^ 24) = s := by
  obtain ⟨-, hon, -⟩ := hp.store g hg
  simp [-Nat.reducePow, State.wakeSlice, hon]

theorem pendLine_of_plain (m : List (Nat × Byte)) : s.pendLine .disp (g / 64) m = s := by
  obtain ⟨-, -, hpend, -⟩ := hp.lines g hg
  have hnone : (s.pend.any fun e => e.line = g / 64) = false := List.any_eq_false.2 fun e he => by simp [hpend e he]
  simp only [State.pendLine, hnone]
  rfl

theorem writeLine_of_plain (m : List (Nat × Byte)) :
    ∃ b, s.writeLine (g / 64) m = s.backLine (g / 64) (putBytes (s.newestLine (g / 64)) m) b := by
  obtain ⟨-, -, -, -, hret⟩ := hp.store g hg
  have hslice : g / 64 / 2 ^ 18 = g / 2 ^ 24 := by omega
  have hlink : s.needsLink true (64 * (g / 64)) = false := by
    have hline : 64 * (g / 64) / 64 = g / 64 := by omega
    rw [State.needsLink, hline, viaCache_of_plain hp hg]
    rfl
  simp only [State.writeLine, hslice, hret, hlink, viaCache_of_plain hp hg, wakeSlice_of_plain hp hg, Bool.and_false,
    Bool.false_and, Bool.or_false, Bool.false_eq_true, if_false]
  exact ⟨_, rfl⟩

end

/-- A write to an open line changes the bytes that it lists, and nothing else of the store or of host memory. -/
theorem write_of_plain {s : State} {m : List (Nat × Byte)} {l : Nat} (hp : Plain s (m.map (·.1))) (hm : m ≠ [])
    (hl : ∀ e ∈ m, e.1 / 64 = l) (hnd : (m.map (·.1)).Nodup) :
    (∀ e ∈ m, tget 0#8 (s.write .disp m).store e.1 = e.2) ∧
      (∀ g, g ∉ m.map (·.1) → tget 0#8 (s.write .disp m).store g = tget 0#8 s.store g) ∧
      (s.write .disp m).hostMem = s.hostMem := by
  obtain ⟨e, he⟩ := List.exists_mem_of_ne_nil m hm
  have hg : e.1 ∈ m.map (·.1) := List.mem_map_of_mem he
  obtain rfl := hl e he
  have hlines : linesOf (m.map (·.1)) = [e.1 / 64] :=
    linesOf_one (by simpa using hl) (by simpa using hm)
  have hall : (m.filter fun d => d.1 / 64 = e.1 / 64) = m := List.filter_eq_self.2 fun d hd => by simp [hl d hd]
  obtain ⟨b, hback⟩ := writeLine_of_plain hp hg m
  have hwrite : s.write .disp m = s.backLine (e.1 / 64) (putBytes (s.newestLine (e.1 / 64)) m) b := by
    simp only [State.write, hlines, List.foldl_cons, List.foldl_nil, hall, pendLine_of_plain hp hg, hback]
  have hlen : (s.newestLine (e.1 / 64)).length = 64 := by simp [State.newestLine]
  have hstore (g : Nat) : tget 0#8 (s.write .disp m).store g = if g / 64 = e.1 / 64
      then (putBytes (s.newestLine (e.1 / 64)) m).getD (g % 64) 0#8 else tget 0#8 s.store g := by
    rw [hwrite, backLine_store _ _ _ _ (isHostLine_of_plain hp hg), length_putBytes, hlen]
    have hin : 64 * (e.1 / 64) ≤ g ∧ g < 64 * (e.1 / 64) + 64 ↔ g / 64 = e.1 / 64 := by omega
    by_cases h : g / 64 = e.1 / 64
    · rw [if_pos (hin.2 h), if_pos h]
      congr 1
      omega
    · rw [if_neg (mt hin.1 h), if_neg h]
  refine ⟨fun d hd => ?_, fun g hout => ?_, ?_⟩
  · rw [hstore, if_pos (hl d hd)]
    refine getD_putBytes_of_mem hd ?_ hlen
    refine List.pairwise_map.2 ((List.pairwise_map.1 hnd).imp_of_mem fun hx hy hne hmod => hne ?_)
    have := hl _ hx
    have := hl _ hy
    omega
  · rw [hstore]
    split
    · next h =>
      rw [getD_putBytes_of_notMem, getD_newestLine_of_plain hp hg h]
      intro d hd hk
      have := hl d hd
      exact hout (List.mem_map.2 ⟨d, hd, by omega⟩)
    · rfl
  · rw [hwrite, backLine_hostMem _ _ _ _ (isHostLine_of_plain hp hg)]

/-- Nothing holds an access to lines that lie open. -/
theorem heldBy_of_plain {s : State} {gs : List Nat} (hp : Plain s gs) (wr : Bool) : s.heldBy wr gs = none := by
  obtain ⟨-, hbias⟩ := hp.sound
  have hcopy : gs.find? (fun g => decide (g < hostBase)
      && (s.slice (g / 2 ^ 24)).sparing.any (fun r => !r.2 && decide (r.1 = g % 2 ^ 24 / 4096))) = none :=
    List.find?_eq_none.2 fun g hg => by
      obtain ⟨-, -, -, hsparing, -⟩ := hp.store g hg
      simp [-Nat.reducePow, hsparing]
  have hlink (b : Bool) : gs.any (s.needsLink b) = false :=
    List.any_eq_false.2 fun g hg => by simp [needsLink_of_plain hp hg b]
  have hroom : (gs.any fun g => s.needsLink false g && decide ((s.waysOf (cacheSet (g / 64))).length ≥ 16)) = false :=
    List.any_eq_false.2 fun g hg => by simp [needsLink_of_plain hp hg false]
  simp [-Nat.reducePow, State.heldBy, hbias, hcopy, hlink, hroom]

end Sys2Proof.Machine
end

section
/-!
Records and interrupt timers (O19): an overflow record in a ring that lies open, and the message of a queue's timer.
-/
namespace Sys2Proof.Machine
open Sys2Proof.Claim

/-! The messages of a queue. -/

theorem signalQueue_mem (s : State) (q : Nat) :
    (s.signalQueue q).store = s.store ∧ (s.signalQueue q).hostMem = s.hostMem := by
  unfold State.signalQueue State.sendMsix
  split <;> exact ⟨rfl, rfl⟩

theorem exec_irqTimer {s : State} {q : Nat} (hen : (s.queue q).irqEn = true) (hun : (s.queue q).unsig ≠ 0)
    (htimer : (s.queue q).irqTimer ≠ 0) : exec (.irqTimer q) s =
      .next ((s.modQueue q fun k => { k with unsig := 0 }).sendMsix (s.queue q).irqVec) := by
  change (if _ then Host.Outcome.next (s.signalQueue q) else _) = _
  rw [if_pos (by simp [hen, hun, htimer])]
  rfl

theorem sendMsix_unmasked {s : State} {v : Nat} (h : (s.msixWord v 3).testBit 0 = false) : s.sendMsix v = s.emit (.msix v) :=
  if_neg (Bool.eq_false_iff.1 h)

theorem sendMsix_masked {s : State} {v : Nat} (h : (s.msixWord v 3).testBit 0 = true) :
    s.sendMsix v = { s with msixPend := tset false s.msixPend v true } :=
  if_pos h

/-! The bytes of a record. -/

theorem length_toBytes (v n : Nat) : (toBytes v n).length = n := by
  induction n generalizing v with
  | zero => rfl
  | succ n ih => rw [toBytes, List.length_cons, ih]

theorem length_wordBytes (ws : List Nat) : (wordBytes ws).length = 4 * ws.length := by
  induction ws with
  | nil => rfl
  | cons w ws ih =>
    have hcons : wordBytes (w :: ws) = toBytes w 4 ++ wordBytes ws := rfl
    rw [hcons, List.length_append, length_toBytes, ih, List.length_cons]
    omega

/-- A record that is not lost leaves its bytes in the ring. -/
theorem putRecord_mem {s : State} {q p : Nat} (hq : s.queueOwner q = some p) (hkept : s.recordLost q = false) (ws : List Nat)
    (status tag : Nat) (irq : Bool) :
    let t := s.writeAt .disp p ((s.queue q).recordAddr (s.queue q).cqTail) (wordBytes ws)
    (s.putRecord q ws status tag irq).store = t.store ∧ (s.putRecord q ws status tag irq).hostMem = t.hostMem := by
  have hplaced : s.recordPlaced q ws tag =
      s.writeAt .disp p ((s.queue q).recordAddr (s.queue q).cqTail) (wordBytes ws) := by
    simp only [State.recordPlaced, hkept, hq]
    rfl
  rw [putRecord_eq, hplaced]
  split
  · exact signalQueue_mem ..
  · exact ⟨rfl, rfl⟩

/-! A ring in the store of a partition that does not interleave. -/

section
variable {s : State} {p a n : Nat}

theorem ownsStore_bounds (h : s.ownsStore p a n = true) : isHostAddr a = false ∧ rangeIn (s.part p).slices a n = true ∧
    a + n ≤ 2 ^ 31 := by
  obtain ⟨hhost, hrange⟩ := Bool.and_eq_true_iff.1 h
  have hstore : isHostAddr a = false := by simpa using hhost
  refine ⟨hstore, hrange, ?_⟩
  rw [rangeIn, hstore, Bool.false_or, Bool.and_eq_true] at hrange
  exact of_decide_eq_true hrange.1

theorem isHostAddr_of_lt (h : a < 2 ^ 31) : isHostAddr a = false :=
  Nat.testBit_lt_two_pow (Nat.lt_trans h (by decide))

theorem gaddrs_of_ownsStore (hi : (s.part p).interleave = false) (h : s.ownsStore p a n = true) :
    s.gaddrs p a n = (List.range n).map (a + ·) := by
  obtain ⟨-, -, hend⟩ := ownsStore_bounds h
  refine List.map_congr_left fun i hi' => ?_
  have hlt : a + i < 2 ^ 31 := by
    have := List.mem_range.1 hi'
    omega
  rw [State.gaddr, isHostAddr_of_lt hlt, State.xlate, hi]
  exact Nat.mod_eq_of_lt hlt

end

theorem recordLost_of_plain {s : State} {q p : Nat} (hq : s.queueOwner q = some p)
    (hown : s.ownsStore p ((s.queue q).recordAddr (s.queue q).cqTail) 32 = true)
    (hp : Plain s (s.gaddrs p ((s.queue q).recordAddr (s.queue q).cqTail) 32)) : s.recordLost q = false := by
  obtain ⟨-, hrange, -⟩ := ownsStore_bounds hown
  obtain ⟨-, -, -, -, hret⟩ := hp.store (s.gaddr p ((s.queue q).recordAddr (s.queue q).cqTail))
    (List.mem_map.2 ⟨0, by decide, rfl⟩)
  simp only [State.recordLost, hq, Option.getD_some, hret, hrange]
  simp

/-- 32 bytes at a record's place lie in one line. -/
theorem writeAt_record {s : State} {p a : Nat} {bs : List Byte} (hbs : bs.length = 32) (ha : a % 32 = 0)
    (hi : (s.part p).interleave = false) (hown : s.ownsStore p a 32 = true) (hp : Plain s (s.gaddrs p a 32)) :
    (∀ i, i < 32 → tget 0#8 (s.writeAt .disp p a bs).store ((s.gaddrs p a 32).getD i 0) = bs.getD i 0#8) ∧
      (∀ g, g ∉ s.gaddrs p a 32 → tget 0#8 (s.writeAt .disp p a bs).store g = tget 0#8 s.store g) ∧
      (s.writeAt .disp p a bs).hostMem = s.hostMem := by
  have haddrs := gaddrs_of_ownsStore hi hown
  rw [State.writeAt, hbs]
  generalize s.gaddrs p a 32 = gs at haddrs hp ⊢
  have hlen : gs.length = 32 := by rw [haddrs, List.length_map, List.length_range]
  have hfst : (gs.zip bs).map (·.1) = gs := List.map_fst_zip (by omega)
  have hne : gs.zip bs ≠ [] := List.ne_nil_of_length_pos (by rw [List.length_zip]; omega)
  have hline : ∀ e ∈ gs.zip bs, e.1 / 64 = a / 64 := fun e he => by
    have hmem : e.1 ∈ gs := hfst ▸ List.mem_map_of_mem he
    rw [haddrs] at hmem
    obtain ⟨i, hi, hk⟩ := List.mem_map.1 hmem
    have := List.mem_range.1 hi
    omega
  have hnd : gs.Nodup := by
    rw [haddrs]
    exact List.pairwise_map.2 (List.nodup_range.imp fun hne heq => hne (Nat.add_left_cancel heq))
  obtain ⟨hin, hout, hhost⟩ := write_of_plain (hfst ▸ hp) hne hline (hfst.symm ▸ hnd)
  rw [hfst] at hout
  refine ⟨fun i hi => ?_, hout, hhost⟩
  have hi1 : i < gs.length := by omega
  have hi2 : i < bs.length := by omega
  have hzip : i < (gs.zip bs).length := by rw [List.length_zip]; omega
  have hmem := hin _ (List.getElem_mem hzip)
  rw [List.getElem_zip] at hmem
  rwa [List.getD_eq_getElem?_getD, List.getD_eq_getElem?_getD, List.getElem?_eq_getElem hi1, List.getElem?_eq_getElem hi2,
    Option.getD_some, Option.getD_some]

/-! Overflow records. -/

theorem exec_overflowRecordPost {s : State} {q : Nat} {o : Ovf} (hring : s.ringReachable q = true)
    (ho : (s.queue q).ovf = some o) (hfree : 1 ≤ s.freeRecords q) (hheld : s.heldBy true (s.recordLine q) = none) :
    exec (.overflowRecordPost q) s = .next (s.overflow q o) := by
  change (if _ then Host.Outcome.next (s.putOverflow q) else _) = _
  simp [State.putOverflow, hring, ho, hfree, hheld]

/-- An overflow record is the record of its words, and none is pending after it. -/
theorem overflow_eq (s : State) (q : Nat) (o : Ovf) : s.overflow q o =
    (s.putRecord q (overflowWords q o (s.queue q).cqTail (s.queue q).cqLog (decide (s.mg.taint ≠ 0))) sFull o.first
      false).modQueue q fun k => { k with ovf := none } := rfl

/-- Settles O19: what a record changes of its queue; an overflow record's 32 bytes lie in one line of the store; a timer's
message is sent or kept. -/
theorem recordsAndInterruptTimers : Obligations.RecordsAndInterruptTimers := by
  refine ⟨fun s q status tag ws irq => ?record, ?overflow,
    fun s q hen hun htimer => ?timer⟩
  case record =>
    have hrec := recorded_putRecord s q ws status tag irq
    exact ⟨putRecord_cqTail .., (congrArg Queue.head hrec.queue :), hrec.others⟩
  case overflow =>
    intro s q p o k a gs ws hq hring ha ho hfree halign hi hown hp
    have hp' : (s.queueOwner q).getD 0 = p := by rw [hq]; rfl
    have hline : s.recordLine q = gs := by rw [State.recordLine, hp']; rfl
    have hheld : s.heldBy true (s.recordLine q) = none := by rw [hline]; exact heldBy_of_plain hp true
    have hreach : s.ringReachable q = true := by rw [State.ringReachable, hring]; rfl
    have hrec := recorded_overflow s q o
    obtain ⟨hin, hout, hhost⟩ := writeAt_record (length_wordBytes ws) halign hi hown hp
    obtain ⟨hstore, hmem⟩ := putRecord_mem hq (recordLost_of_plain hq hown hp) ws sFull o.first false
    refine ⟨_, exec_overflowRecordPost hreach ho hfree hheld, ?_, ?_, ?_, ?_, hrec.others, hrec.crests, hrec.cmds, ?_⟩
    · rw [overflow_eq, State.queue_modQueue_same]
    · rw [overflow_eq, State.queue_modQueue_same]
      exact putRecord_cqTail ..
    · intro i hlt
      exact (congrArg (fun st => tget 0#8 st (gs.getD i 0)) hstore).trans (hin i hlt)
    · intro g hg
      exact (congrArg (fun st => tget 0#8 st g) hstore).trans (hout g hg)
    · exact hmem.trans hhost
  case timer =>
    have hexec := exec_irqTimer hen hun htimer
    exact ⟨fun h => hexec.trans (congrArg Host.Outcome.next (sendMsix_unmasked h)),
      fun h => hexec.trans (congrArg Host.Outcome.next (sendMsix_masked h))⟩

end Sys2Proof.Machine
end

section
/-!
Completion records (O18) and the rows of the queue commands (O16).
-/
namespace Sys2Proof.Machine
open Sys2Proof.Claim

/-! The record of an ended command. -/

/-- A command as its record tells of it: one that was not refused has waited for its ring as STORE (R139, R143). -/
def Cmd.ringWaited (c : Cmd) (st waited : Nat) : Cmd := if isRefusal st then c else c.charge wStore waited

theorem ringWaited_key (c : Cmd) (st waited : Nat) : (c.ringWaited st waited).q = c.q ∧ (c.ringWaited st waited).t = c.t := by
  unfold Cmd.ringWaited
  split <;> exact ⟨rfl, rfl⟩

theorem exec_completionRecord {s : State} {q t st sub : Nat} {c : Cmd} (hc : s.cmd? q t = some c) (hfin : c.fin = some (st, sub))
    (hring : s.ringReachable q = true) (hheld : s.heldBy true (s.recordLine q) = none)
    (hfirst : s.ends.find? (fun e => e.1 = q) = some (q, t)) (waited : Nat) :
    exec (.completionRecord q t waited) s =
      .next ((((s.record c st sub waited).putOverflow q).startWaiting q).adoptAll) := by
  change execCompletionRecord q t waited s = _
  simp [execCompletionRecord, hc, hfin, hring, hheld, hfirst]

/-- Settles O18: the row is the command's record and what waited for it, and a record is its parts in their order. -/
theorem completionRecordEndsTheCommand : Obligations.CompletionRecordEndsTheCommand := by
  intro s q t waited st sub c hc hfin hring hheld hfirst d u k v w x
  obtain ⟨rfl, rfl⟩ := cmd?_key hc
  obtain ⟨hq, ht⟩ := ringWaited_key c st waited
  have hd : (if isRefusal st then c else c.charge wStore waited) = c.ringWaited st waited := rfl
  have hrecord : s.record c st sub waited = x.leaveQueue ((x.cmd? c.q c.t).getD d) st := by
    -- The trace names the first of the crests, which the model takes by a match.
    cases hl : (c.ringWaited st waited).crests <;>
      simp only [State.record, hd, hq, ht, hl, List.headD_nil, List.headD_cons, x, w, v, k, u, d]
  rw [exec_completionRecord hc hfin hring hheld hfirst, hrecord]

/-! Queue commands. -/

/-- A row whose entry is due takes it, and carries the queue's commands of its opcode on (R125, R130, R134). -/
theorem command_of_due {s : State} {q op : Nat} {h : HostUpd} (hdue : Due (s.hostWrites h) q op) :
    s.command q op h = State.drive q op driveFuel ((((s.hostWrites h).fetch q 0).retrySignals).driveLoads q) := by
  have hturn : (s.hostWrites h).nextQueue = some q ∧ fld ((s.hostWrites h).nextEntry q) 0 1 = op ∧
    (s.hostWrites h).fetchable q = true := hdue
  rw [State.command, if_pos hturn]

/-- Settles O16: each row is the one command row at its own opcode. -/
theorem queueCommandsRunFromTheirQueue : Obligations.QueueCommandsRunFromTheirQueue := by
  intro s q h u after
  have hrow {op : Nat} (hdue : Due u q op) :
      (.next (s.command q op h) : Host.Outcome State Fault Refusal) = .next (after op) :=
    congrArg Host.Outcome.next (command_of_due hdue)
  exact ⟨hrow, hrow, hrow, hrow, hrow, hrow, hrow, hrow, hrow, hrow⟩

end Sys2Proof.Machine
end

section
/-!
A crest between commands (O22): preemption, interleaving, the scoreboard's release and the recall of a lent crest.
-/
namespace Sys2Proof.Machine
open Sys2Proof.Claim

/-! The tile that a crest turns to. -/

theorem chargeHold_crests (s : State) (h : Hold) : (s.chargeHold h).crests = s.crests := by
  unfold State.chargeHold
  split
  · rfl
  · simp only [State.modCmd_frame]
    split <;> rfl

theorem setHold_crests (s : State) (q t p cause : Nat) (on : Bool) : (s.setHold q t p cause on).crests = s.crests := by
  rw [State.setHold]
  cases s.holds.find? fun h => decide (h.q = q ∧ h.t = t ∧ h.p = p) with
  | none =>
    cases on <;> rfl
  | some h =>
    dsimp only
    split
    · rfl
    · exact chargeHold_crests s h

theorem requeue_crests (s : State) (p : Nat) : (s.requeue p).crests = s.crests :=
  List.foldlRecOn (motive := fun u => State.crests u = s.crests) _ _ rfl fun _ h _ _ => (setHold_crests ..).trans h

theorem crest_requeue (s : State) (p k : Nat) : (s.requeue p).crest k = s.crest k :=
  congrArg (fun cs : Tbl Crest => tget ({} : Crest) cs k) (requeue_crests s p)

theorem crest_traced {b : Prop} [Decidable b] (u : State) (ev c q part st tag k : Nat) :
    (if b then u.addTrace ev c q part st tag else u).crest k = u.crest k := by
  split <;> rfl

/-- The tile that a crest begins is the command's. -/
theorem startTile_work {s : State} {k : Nat × Nat} {c : Cmd} (hc : s.cmd? k.1 k.2 = some c) (p : Nat) :
    ∃ w ws, ((s.startTile p k).crest p).work = w :: ws ∧ (w.q, w.t) = k := by
  simp only [State.startTile, hc, crest_traced, State.crest_modCrest_same]
  exact ⟨_, _, rfl, rfl⟩

/-- A crest that turns to a command has a tile of it in hand. -/
theorem turnTo_work {s : State} {k : Nat × Nat} {c : Cmd} (hc : s.cmd? k.1 k.2 = some c) (p : Nat) :
    ∃ w ws, ((s.turnTo p k).crest p).work = w :: ws ∧ (w.q, w.t) = k := by
  simp only [State.turnTo, crest_requeue]
  split
  · next w hw =>
    have hkey : (w.q, w.t) = k := by
      have := List.find?_some hw
      simp only [Bool.and_eq_true, decide_eq_true_eq] at this
      exact Prod.ext this.1 this.2
    simp only [crest_traced, State.crest_modCrest_same]
    exact ⟨_, _, rfl, hkey⟩
  · exact startTile_work hc p

/-- A command that is to take the crest from another is one that the die holds, and another. -/
theorem above_other {s : State} {p : Nat} {c : Cmd} {k : Nat × Nat} (h : s.above p c = some k) :
    ∃ d, s.cmd? k.1 k.2 = some d ∧ k ≠ (c.q, c.t) := by
  obtain ⟨n, -, hn⟩ := List.exists_of_findSome?_eq_some h
  obtain ⟨hcand, hne⟩ := List.mem_filter.1 (List.mem_of_find?_eq_some hn)
  obtain ⟨-, hrun⟩ := List.mem_filter.1 hcand
  have hrunnable : s.runnable p k = true := (Bool.and_eq_true_iff.1 hrun).1
  cases hd : s.cmd? k.1 k.2 with
  | none => simp [State.runnable, hd] at hrunnable
  | some d => exact ⟨d, rfl, by simpa using hne⟩

/-! Preemption. -/

/-- Crest `p` works at a tile `w` of command `c`, which it may go on with (R136). -/
structure AtWork (s : State) (p : Nat) (w : Work) (ws : List Work) (c : Cmd) : Prop where
  work : (s.crest p).work = w :: ws
  fresh : w.pre = false
  runnable : s.runnable p (w.q, w.t) = true
  cmd : s.cmd? w.q w.t = some c
  works : (s.crest p).works = true
  idle : (s.crest p).inv = none

/-- The crest once the tile in hand is marked as preempted and the trace tells of it (R341). -/
def State.preempted (s : State) (p : Nat) (w : Work) (ws : List Work) (c : Cmd) : State :=
  (s.modCrest p fun x => { x with work := { w with pre := true } :: ws }).addTrace 3 ((s.logicalOf p).getD 0) c.q c.part 0 c.t

section
variable {s : State} {p : Nat} {w : Work} {ws : List Work} {c : Cmd} (h : AtWork s p w ws c)
include h

theorem kick_of_atWork : s.kick p = s := by
  simp [State.kick, h.work, h.fresh, h.runnable]

/-- With its tile in hand the crest turns to a higher command at a boundary, and to none elsewhere. -/
theorem turn_of_atWork : s.turn p =
    (s.above p c).elim s fun k => if c.atBoundary w = true then (s.preempted p w ws c).turnTo p k else s := by
  simp only [State.turn, kick_of_atWork h, State.preempt, h.work, h.cmd, h.works, h.idle, Option.isNone_none, Bool.true_and]
  cases s.above p c <;> rfl

theorem exec_preempt_higher {k : Nat × Nat} (hb : c.atBoundary w = true) (ha : s.above p c = some k) :
    exec (.preempt p) s = .next ((s.preempted p w ws c).turnTo p k) := by
  have hturn : s.turn p = (s.preempted p w ws c).turnTo p k := by
    rw [turn_of_atWork h, ha]
    exact if_pos hb
  obtain ⟨d, hd, hne⟩ := above_other ha
  obtain ⟨v, vs, hv, hk⟩ := turnTo_work (s := s.preempted p w ws c) hd p
  obtain ⟨hq, ht⟩ := cmd?_key h.cmd
  have hother : (w.q, w.t) ≠ (v.q, v.t) := by rw [hk, ← hq, ← ht]; exact hne.symm
  change execPreempt p s = _
  simp only [execPreempt, hturn, h.work, hv, if_neg hother]

theorem turn_stays (hstays : c.atBoundary w = false ∨ s.above p c = none) : s.turn p = s := by
  rw [turn_of_atWork h]
  obtain hb | hnone := hstays
  · rw [hb]
    cases s.above p c <;> rfl
  · rw [hnone, Option.elim_none]

/-- A crest that keeps its command passes the row to one that only accumulates with it, where there is one (R71). -/
theorem exec_preempt_stays (hstays : c.atBoundary w = false ∨ s.above p c = none) : exec (.preempt p) s =
    .next (((s.candidates p).find? fun j => j != (w.q, w.t) && s.mayInterleave (w.q, w.t) j).elim s (s.turnTo p)) := by
  change execPreempt p s = _
  simp only [execPreempt, turn_stays h hstays, h.work, h.works, h.idle, Option.isNone_none, Bool.and_true, if_true]
  cases (s.candidates p).find? fun j => j != (w.q, w.t) && s.mayInterleave (w.q, w.t) j <;> rfl

end

/-! The scoreboard, and a lent crest. -/

theorem exec_scoreboardRelease {s : State} {p : Nat} {k : Nat × Nat}
    (hk : (s.crest p).stopped.find? (fun k => !s.blocked p k) = some k) (waited : Nat) :
    exec (.scoreboardRelease p waited) s = .next
      (((s.modCrest p fun x => { x with stopped := x.stopped.filter (· != k) }).measured k.1 k.2 p wAcc waited).kick p) := by
  change Host.Outcome.next (s.unblock p (some waited)) = _
  rw [State.unblock, hk]

theorem mayReturn_of_lent {s : State} {p b : Nat} (hb : (s.crest p).lentTo = some b)
    (hdue : s.ownersOn p b ≠ [] ∨ s.calledBack p = true) (hinv : (s.crest p).inv = none)
    (hbound : ∀ w ws, (s.crest p).work = w :: ws → ∃ c, s.cmd? w.q w.t = some c ∧ c.atBoundary w = true) :
    s.mayReturn p = true := by
  have hrecall : s.recallDue p = true := by simpa [State.recallDue, hb] using hdue
  simp only [State.mayReturn, hrecall, hinv, Option.isNone_none, Bool.true_and]
  split
  · next w ws hw =>
    obtain ⟨c, hc, hat⟩ := hbound w ws hw
    simp [hc, hat]
  · rfl

theorem exec_lentCrestRecall {s : State} {p : Nat} (h : s.mayReturn p = true) (waited : Nat) :
    exec (.lentCrestRecall p waited) s = .next (s.recall p (some waited)) :=
  if_pos h

/-- Settles O22: a crest at its tile turns at most once, to a higher command at a boundary or else to one that only
accumulates with it; the scoreboard's release and the recall are their own rows. -/
theorem crestPassesBetweenCommands : Obligations.CrestPassesBetweenCommands := by
  intro s p waited k w ws c higher
  refine ⟨fun hw hpre hrun hc hworks hinv => ?preempt, fun hk => exec_scoreboardRelease hk waited,
    fun b hb hdue hinv hbound => exec_lentCrestRecall (mayReturn_of_lent hb hdue hinv hbound) waited⟩
  have hat : AtWork s p w ws c := ⟨hw, hpre, hrun, hc, hworks, hinv⟩
  refine ⟨exec_preempt_higher hat, fun hstays => ?_⟩
  have hexec := exec_preempt_stays hat hstays
  exact ⟨fun j hj => by rw [hexec, hj, Option.elim_some], fun hj => by rw [hexec, hj, Option.elim_none]⟩

end Sys2Proof.Machine
end

section
/-!
Lines in device bias (R148, R179), whoever accesses them: what a read answers where they lie open (R150), and what a write
leaves of the store. For O48 and O60.
-/
namespace Sys2Proof.Machine
open Sys2Proof.Claim

/-! A line whose newest bytes are the store's. -/

/-- Line `l` of the store is in device bias, and no eviction of it is under way. -/
structure DeviceLine (s : State) (l : Nat) : Prop where
  home : isHostLine l = false
  bias : s.hostBias l = false
  evict : ∀ e ∈ s.evict, e.line ≠ l

section
variable {s : State} {l : Nat} (h : DeviceLine s l)
include h

theorem viaCache_of_device : s.viaCache l = false := by
  rw [State.viaCache, h.home, h.bias]
  rfl

theorem liveEvict_of_device : s.liveEvict l = none :=
  List.find?_eq_none.2 fun e he => by simp [h.evict e he]

theorem getD_newestLine_of_device {g : Nat} (hg : g / 64 = l) :
    (s.newestLine l).getD (g % 64) 0#8 = tget 0#8 s.store g := by
  have hlt : g % 64 < 64 := Nat.mod_lt _ (by decide)
  have hsplit : 64 * l + g % 64 = g := by omega
  have hnewest : s.newest g = tget 0#8 s.store g := by
    simp only [State.newest, hg, viaCache_of_device h, liveEvict_of_device h, h.home]
    rfl
  simp only [State.newestLine, List.getD_eq_getElem?_getD, List.getElem?_map, List.getElem?_range hlt, Option.map_some,
    Option.getD_some, hsplit, hnewest]

end

theorem length_newestLine (s : State) (l : Nat) : (s.newestLine l).length = 64 := by
  rw [State.newestLine, List.length_map, List.length_range]

/-- A line of the store with bytes put in that goes back reads those bytes, and the rest of the store as before. -/
theorem tget_backLine_putBytes {s u : State} {l : Nat} (h : DeviceLine s l) (hs : u.store = s.store) {m : List (Nat × Byte)}
    (hl : ∀ e ∈ m, e.1 / 64 = l) (hnd : (m.map (·.1)).Nodup) (b : Bool) :
    let t := u.backLine l (putBytes (s.newestLine l) m) b
    (∀ e ∈ m, tget 0#8 t.store e.1 = e.2) ∧ (∀ g, g ∉ m.map (·.1) → tget 0#8 t.store g = tget 0#8 s.store g) := by
  intro t
  have hstore (g : Nat) : tget 0#8 t.store g =
      if g / 64 = l then (putBytes (s.newestLine l) m).getD (g % 64) 0#8 else tget 0#8 s.store g := by
    have hin : 64 * l ≤ g ∧ g < 64 * l + 64 ↔ g / 64 = l := by omega
    rw [backLine_store _ _ _ _ h.home, length_putBytes, length_newestLine, hs]
    refine ite_congr (propext hin) (fun hg => ?_) fun _ => rfl
    congr 1
    omega
  refine ⟨fun e he => ?_, fun g hout => ?_⟩
  · rw [hstore, if_pos (hl e he)]
    refine getD_putBytes_of_mem he ?_ (length_newestLine s l)
    refine List.pairwise_map.2 ((List.pairwise_map.1 hnd).imp_of_mem fun hx hy hne hmod => hne ?_)
    have := hl _ hx
    have := hl _ hy
    omega
  · rw [hstore]
    split
    · next hg =>
      rw [getD_putBytes_of_notMem, getD_newestLine_of_device h hg]
      intro e he hk
      have := hl e he
      exact hout (List.mem_map.2 ⟨e, he, by omega⟩)
    · rfl

/-! Writes. -/

/-- A write reaches the bytes of `gs` where they lie: in device bias, in slices that are ON and in service. -/
structure Writable (s : State) (gs : List Nat) : Prop where
  device : ∀ g ∈ gs, DeviceLine s (g / 64)
  slice : ∀ g ∈ gs, (s.slice (g / 2 ^ 24)).pw = .on ∧ (s.slice (g / 2 ^ 24)).unavailable = false ∧
    s.sliceRetired (g / 2 ^ 24) = false

theorem device_of_plain {s : State} {gs : List Nat} (hp : Plain s gs) {g : Nat} (hg : g ∈ gs) : DeviceLine s (g / 64) := by
  obtain ⟨hbias, -, -, -, hevict⟩ := hp.lines g hg
  exact ⟨isHostLine_of_plain hp hg, hbias, hevict⟩

theorem writable_of_plain {s : State} {gs : List Nat} (hp : Plain s gs) : Writable s gs := by
  refine ⟨fun g hg => device_of_plain hp hg, fun g hg => ?_⟩
  obtain ⟨-, hon, hav, -, hret⟩ := hp.store g hg
  exact ⟨hon, hav, hret⟩

/-- The state but for what a write to such bytes changes: the store and its poison, the writes that wait for their release,
and the count of free values. -/
def State.unstored (s : State) : State :=
  { s with store := [], poison := [], hostPoison := [], pend := [], freeCtr := 0 }

theorem Writable.congr {s t : State} {gs : List Nat} (h : Writable s gs) (ht : t.unstored = s.unstored) :
    Writable t gs := by
  have hkeep : Writable t.unstored gs := by
    rw [ht]
    exact ⟨fun g hg => ⟨(h.device g hg).home, (h.device g hg).bias, (h.device g hg).evict⟩, h.slice⟩
  exact ⟨fun g hg => ⟨(hkeep.device g hg).home, (hkeep.device g hg).bias, (hkeep.device g hg).evict⟩, hkeep.slice⟩

theorem writeFault_of_writable {s : State} {gs : List Nat} (h : Writable s gs) : s.writeFault gs = none := by
  have hretired : s.inRetired gs = false := List.any_eq_false.2 fun g hg => by
    obtain ⟨-, hav, hret⟩ := h.slice g hg
    simp [-Nat.reducePow, hav, hret]
  have hlink : gs.any (s.needsLink true) = false := List.any_eq_false.2 fun g hg => by
    simp [State.needsLink, viaCache_of_device (h.device g hg)]
  rw [State.writeFault, hretired, hlink]
  rfl

theorem unstored_pendLine (s : State) (o : Obs) (l : Nat) (m : List (Nat × Byte)) :
    (s.pendLine o l m).unstored = s.unstored ∧ (s.pendLine o l m).store = s.store := by
  cases o with
  | crest q t p => exact ⟨rfl, rfl⟩
  | disp | host | ingress =>
    unfold State.pendLine
    dsimp only
    split <;> exact ⟨rfl, rfl⟩

theorem unstored_backLine (s : State) {l : Nat} (hl : isHostLine l = false) (d : List Byte) (b : Bool) :
    (s.backLine l d b).unstored = s.unstored := by
  rw [State.backLine, hl]
  rfl

/-- From `s` to `t` the bytes of `m` have been written, and of the rest of the state nothing but what waits with them. -/
structure Wrote (m : List (Nat × Byte)) (s t : State) : Prop where
  bytes : ∀ e ∈ m, tget 0#8 t.store e.1 = e.2
  others : ∀ g, g ∉ m.map (·.1) → tget 0#8 t.store g = tget 0#8 s.store g
  rest : t.unstored = s.unstored

/-- The bytes of one line. -/
theorem wrote_writeLine {s : State} {m : List (Nat × Byte)} {g : Nat} (h : Writable s [g])
    (hl : ∀ e ∈ m, e.1 / 64 = g / 64) (hnd : (m.map (·.1)).Nodup) : Wrote m s (s.writeLine (g / 64) m) := by
  have hdev := h.device g (List.mem_singleton_self g)
  obtain ⟨hon, -, hret⟩ := h.slice g (List.mem_singleton_self g)
  have hslice : g / 64 / 2 ^ 18 = g / 2 ^ 24 := by omega
  have hline : 64 * (g / 64) / 64 = g / 64 := by omega
  have hwake : s.wakeSlice (g / 2 ^ 24) = s := by simp [-Nat.reducePow, State.wakeSlice, hon]
  obtain ⟨b, hback⟩ : ∃ b, s.writeLine (g / 64) m = s.backLine (g / 64) (putBytes (s.newestLine (g / 64)) m) b := by
    simp only [State.writeLine, State.needsLink, hslice, hret, hline, viaCache_of_device hdev, hwake, Bool.and_false,
      Bool.false_and, Bool.or_false, Bool.false_eq_true, if_false]
    exact ⟨_, rfl⟩
  rw [hback]
  obtain ⟨hin, hout⟩ := tget_backLine_putBytes hdev (rfl : s.store = s.store) hl hnd b
  exact ⟨hin, hout, unstored_backLine s hdev.home _ b⟩

theorem mem_linesOf {l : Nat} {gs : List Nat} : l ∈ linesOf gs ↔ ∃ g ∈ gs, g / 64 = l := by
  have hfold (gs ls : List Nat) : l ∈ gs.foldl (fun ls g => if ls.contains (g / 64) then ls else ls ++ [g / 64]) ls ↔
      l ∈ ls ∨ ∃ g ∈ gs, g / 64 = l := by
    induction gs generalizing ls with
    | nil => exact ⟨.inl, fun h => h.elim id fun ⟨_, hg, _⟩ => absurd hg List.not_mem_nil⟩
    | cons g gs ih =>
      have hnew : l ∈ (if ls.contains (g / 64) then ls else ls ++ [g / 64]) ↔ l ∈ ls ∨ g / 64 = l := by
        split
        · next hin => exact ⟨.inl, fun h => h.elim id fun h => h ▸ List.contains_iff_mem.1 hin⟩
        · rw [List.mem_append, List.mem_singleton, eq_comm (a := l)]
      rw [List.foldl_cons, ih, hnew, or_assoc]
      refine or_congr_right ⟨fun h => ?_, fun ⟨a, ha, hl⟩ => ?_⟩
      · obtain hg | ⟨a, ha, hl⟩ := h
        · exact ⟨g, List.mem_cons_self, hg⟩
        · exact ⟨a, List.mem_cons_of_mem _ ha, hl⟩
      · obtain rfl | ha := List.mem_cons.1 ha
        · exact .inl hl
        · exact .inr ⟨a, ha, hl⟩
  exact (hfold gs []).trans ⟨fun h => h.resolve_left List.not_mem_nil, .inr⟩

/-- The bytes of a write that lie in the lines `ls`. -/
def inLines (m : List (Nat × Byte)) (ls : List Nat) : List (Nat × Byte) := m.filter fun e => e.1 / 64 ∈ ls

/-- The bytes of a write have each an address of their own. -/
theorem eq_of_address {m : List (Nat × Byte)} (hnd : (m.map (·.1)).Nodup) {d e : Nat × Byte} (hd : d ∈ m) (he : e ∈ m)
    (hkey : d.1 = e.1) : d = e := by
  induction m with
  | nil => exact absurd hd List.not_mem_nil
  | cons x m ih =>
    obtain ⟨hfirst, hrest⟩ := List.nodup_cons.1 hnd
    have hout {y : Nat × Byte} (hy : y ∈ m) : x.1 ≠ y.1 := fun h => hfirst (List.mem_map.2 ⟨y, hy, h.symm⟩)
    obtain rfl | hd' := List.mem_cons.1 hd <;> obtain rfl | he' := List.mem_cons.1 he
    · rfl
    · exact absurd hkey (hout he')
    · exact absurd hkey.symm (hout hd')
    · exact ih hrest hd' he'

/-- Two parts of a write, one after the other. -/
theorem Wrote.union {s u t : State} {m m₁ m₂ : List (Nat × Byte)} (h₁ : Wrote m₁ s u) (h₂ : Wrote m₂ u t)
    (hnd : (m.map (·.1)).Nodup) (hm : ∀ e, e ∈ m ↔ e ∈ m₁ ∨ e ∈ m₂) : Wrote m s t where
  bytes e he := by
    by_cases hlater : e ∈ m₂
    · exact h₂.bytes e hlater
    · rw [h₂.others e.1 fun hmem => ?_]
      · exact h₁.bytes e (((hm e).1 he).resolve_right hlater)
      · obtain ⟨d, hd, hkey⟩ := List.mem_map.1 hmem
        exact hlater (eq_of_address hnd ((hm d).2 (.inr hd)) he hkey ▸ hd)
  others g hg := by
    have hout (k : List (Nat × Byte)) (hk : ∀ e ∈ k, e ∈ m) : g ∉ k.map (·.1) := fun hmem =>
      hg (List.map_subset _ hk hmem)
    rw [h₂.others g (hout m₂ fun e he => (hm e).2 (.inr he)), h₁.others g (hout m₁ fun e he => (hm e).2 (.inl he))]
  rest := h₂.rest.trans h₁.rest

section
variable {s : State} {m : List (Nat × Byte)} (h : Writable s (m.map (·.1))) (hnd : (m.map (·.1)).Nodup) (o : Obs)
include h hnd

/-- One line of a write, kept till its release first. -/
theorem wrote_line {g : Nat} (hg : g ∈ m.map (·.1)) : let k := m.filter fun e => e.1 / 64 = g / 64
    Wrote k s ((s.pendLine o (g / 64) k).writeLine (g / 64) k) := by
  intro k
  obtain ⟨hpend, hstore⟩ := unstored_pendLine s o (g / 64) k
  have hone : Writable s [g] :=
    ⟨fun a ha => h.device a (List.mem_singleton.1 ha ▸ hg), fun a ha => h.slice a (List.mem_singleton.1 ha ▸ hg)⟩
  obtain ⟨hin, hout, hrest⟩ := wrote_writeLine (hone.congr hpend) (m := k)
    (fun e he => by simpa using (List.mem_filter.1 he).2) (hnd.sublist (List.filter_sublist.map _))
  exact ⟨hin, fun a ha => (hout a ha).trans (by rw [hstore]), hrest.trans hpend⟩

theorem wrote_lines (ls : List Nat) (hls : ∀ l ∈ ls, ∃ g ∈ m.map (·.1), g / 64 = l) :
    Wrote (inLines m ls) s (ls.foldl (fun s l => (s.pendLine o l (m.filter fun e => e.1 / 64 = l)).writeLine l
      (m.filter fun e => e.1 / 64 = l)) s) := by
  induction ls generalizing s with
  | nil => exact ⟨by simp [inLines], fun _ _ => rfl, rfl⟩
  | cons l ls ih =>
    obtain ⟨g, hg, rfl⟩ := hls l List.mem_cons_self
    have hfirst := wrote_line h hnd o hg
    refine hfirst.union (ih (h.congr hfirst.rest) fun l hl => hls l (List.mem_cons_of_mem _ hl))
      (hnd.sublist (List.filter_sublist.map _)) fun e => ?_
    simp only [inLines, List.mem_filter, List.mem_cons, decide_eq_true_eq, and_or_left]

/-- A write leaves each of its bytes as written, and every other byte as it was, whoever writes: line by line. -/
theorem wrote_write : Wrote m s (s.write o m) := by
  have hall : inLines m (linesOf (m.map (·.1))) = m := List.filter_eq_self.2 fun e he =>
    decide_eq_true (mem_linesOf.2 ⟨e.1, List.mem_map_of_mem he, rfl⟩)
  have hlines := wrote_lines h hnd o (linesOf (m.map (·.1))) fun l hl => mem_linesOf.1 hl
  rwa [hall] at hlines

end

/-- The same for a list of bytes at a list of addresses. -/
theorem write_zip {s : State} {gs : List Nat} (h : Writable s gs) (hnd : gs.Nodup) {bs : List Byte}
    (hlen : gs.length ≤ bs.length) (o : Obs) :
    let t := s.write o (gs.zip bs)
    (∀ i, i < gs.length → tget 0#8 t.store (gs.getD i 0) = bs.getD i 0#8) ∧
      (∀ g, g ∉ gs → tget 0#8 t.store g = tget 0#8 s.store g) ∧ t.unstored = s.unstored := by
  have hfst : (gs.zip bs).map (·.1) = gs := List.map_fst_zip hlen
  obtain ⟨hbytes, hothers, hrest⟩ := wrote_write (m := gs.zip bs) (by rwa [hfst]) (by rwa [hfst]) o
  rw [hfst] at hothers
  refine ⟨fun i hi => ?_, hothers, hrest⟩
  have hib : i < bs.length := Nat.lt_of_lt_of_le hi hlen
  have hmem := hbytes (gs[i], bs[i]) (List.mem_iff_getElem.2
    ⟨i, by rw [List.length_zip]; omega, List.getElem_zip⟩)
  simpa [List.getD_eq_getElem?_getD, hi, hib] using hmem

/-! Reads of bytes that lie open. -/

theorem plain_mono {s : State} {gs ks : List Nat} (h : Plain s gs) (hk : ∀ k ∈ ks, k ∈ gs) : Plain s ks :=
  ⟨fun k m => h.store k (hk k m), fun k m => h.lines k (hk k m), h.sound⟩

theorem plain_freeCtr {s : State} {gs : List Nat} (h : Plain s gs) (n : Nat) : Plain { s with freeCtr := n } gs :=
  ⟨h.store, h.lines, h.sound⟩

theorem plain_bump {s : State} {gs : List Nat} (h : Plain s gs) : Plain s.bump gs := plain_freeCtr h _

theorem byteAt_of_plain {s : State} {gs : List Nat} (hp : Plain s gs) {g : Nat} (hg : g ∈ gs) (o : Obs) :
    s.byteAt o g = tget 0#8 s.store g := by
  obtain ⟨-, -, hpend, habuf, -⟩ := hp.lines g hg
  have hword : s.abufByte g = none := by
    rw [State.abufByte, Option.map_eq_none_iff, List.find?_eq_none]
    exact fun w hw hin => List.any_eq_false.1 habuf w hw hin
  have hnone : (s.pend.filter fun e => e.line = g / 64) = [] := List.filter_eq_nil_iff.2 fun e he => by simp [hpend e he]
  simp only [State.byteAt, hword, hnone, List.reverse_nil]
  exact newest_of_plain hp hg rfl

/-- A read of bytes that lie open is of the store, whoever reads. -/
theorem read_of_plain {s : State} {gs : List Nat} (hp : Plain s gs) (o : Obs) : s.read o gs = gs.map (tget 0#8 s.store) :=
  List.map_congr_left fun _ hg => byteAt_of_plain hp hg o

theorem accessFault_of_plain {s : State} {gs : List Nat} (hp : Plain s gs) : s.accessFault gs = none := by
  have hretired : s.inRetired gs = false := List.any_eq_false.2 fun g hg => by
    obtain ⟨-, -, hav, -, hret⟩ := hp.store g hg
    simp [-Nat.reducePow, hav, hret]
  have hlink : gs.any (s.needsLink false) = false := List.any_eq_false.2 fun g hg => by simp [needsLink_of_plain hp hg false]
  have hpoison : s.poisonOf gs = none := by
    rw [State.poisonOf, List.find?_eq_none.2 fun g hg => ?_]
    obtain ⟨-, hclean, -⟩ := hp.lines g hg
    simp [hclean]
  rw [State.accessFault, hretired, hlink, hpoison]
  rfl

theorem on_of_mem_slicesOf {s : State} {gs : List Nat} (hp : Plain s gs) {n : Nat} (hn : n ∈ maskList (slicesOf gs) 96) :
    (s.slice n).pw = .on := by
  have hmask : ∀ n, (slicesOf gs).testBit n = true → (s.slice n).pw = .on := by
    refine List.foldlRecOn (motive := fun m : Nat => ∀ n, m.testBit n = true → (s.slice n).pw = .on) gs _
      (fun n h => by simp at h) fun m hm g hg n h => ?_
    split at h
    · rw [orBit, Nat.testBit_or, Bool.or_eq_true] at h
      obtain h | h := h
      · exact hm n h
      · obtain ⟨-, hon, -⟩ := hp.store g hg
        rwa [← of_decide_eq_true (Nat.testBit_two_pow.symm.trans h)]
    · exact hm n h
  exact hmask n (List.mem_filter.1 hn).2

theorem reachSlice_of_on {s : State} {n : Nat} (h : (s.slice n).pw = .on) : s.reachSlice n = s := by
  have hwake : s.wakeSlice n = s := by simp [State.wakeSlice, h]
  simp [State.reachSlice, hwake, h]

theorem wakes_of_plain {s : State} {gs : List Nat} (hp : Plain s gs) : s.wakes gs = s :=
  List.foldlRecOn (motive := fun u => u = s) _ _ rfl fun u hu n hn => by
    rw [hu]
    exact reachSlice_of_on (on_of_mem_slicesOf hp hn)

theorem touchBy_of_plain {s : State} {gs : List Nat} (hp : Plain s gs) (st : Mesi) (req : CacheReq) :
    State.touchBy st req s gs = s := by
  rw [State.touchBy, wakes_of_plain hp]
  refine List.foldlRecOn (motive := fun u => u = s) _ _ rfl fun u hu g hg => ?_
  rw [hu, viaCache_of_plain hp hg]
  rfl

/-- A command that reads open bytes waits for no slice and meets no error (R21, R270). -/
theorem meets_of_plain {s : State} {gs : List Nat} (hp : Plain s gs) (q t : Nat) : s.meets q t gs [] = s := by
  obtain ⟨hflaws, -⟩ := hp.sound
  have hasleep : s.asleepNs gs = 0 := by
    have hnone : (maskList (slicesOf gs) 96).filter (fun n =>
        decide ((s.slice n).pw ≠ .on) && decide (((s.wakeSlice n).slice n).pw = .on)) = [] :=
      List.filter_eq_nil_iff.2 fun n hn => by simp [on_of_mem_slicesOf hp hn]
    rw [State.asleepNs, hnone]
    rfl
  have hcharge : s.chargeMclk q t wWake (s.asleepNs gs * 8 / 5) = s := by
    rw [hasleep]
    rfl
  simp only [State.meets, hcharge, wakes_of_plain hp, hflaws]
  simp only [errsOf, List.filter_nil, List.append_nil, State.storeErrors, List.foldl_nil]
  rw [← hflaws]

theorem reads_of_plain {s : State} {gs : List Nat} (hp : Plain s gs) (q t : Nat) : s.reads q t gs = s.bump := by
  rw [State.reads, State.readsWith, meets_of_plain hp]
  exact congrArg State.bump (touchBy_of_plain hp .S .rdShared)

end Sys2Proof.Machine
end

section
/-!
CXL.mem accesses of the host (O48): held, answered, or dropped (R170, R178, R181).
-/
namespace Sys2Proof.Machine

section
variable {s : State} {a : Nat} (ha : a % 64 = 0)
include ha

theorem line_of_aligned : a / 64 * 64 = a := Nat.div_mul_cancel (Nat.dvd_of_mod_eq_zero ha)

section
variable (hrange : a < 0x60000000) (hs : s.serving = true)
include hrange hs

theorem exec_hostMemRead (ecc : Option EccKind) (w : Nat) : exec (.hostMemRead a ecc w) s =
    .next (if s.hostHeld a then s.holdHost (.read a ecc w) else s.hostRead a ecc w) := by
  have hin : (decide (a ≥ 0x60000000) || !s.serving) = false := by simp [hs, hrange]
  change execHostMemRead a ecc w s = _
  rw [execHostMemRead, hin, line_of_aligned ha, apply_ite Host.Outcome.next]
  rfl

theorem exec_hostMemWrite (bs : List (Option Byte)) (poison : Bool) : exec (.hostMemWrite a bs poison) s =
    .next (if s.hostHeld a then s.holdHost (.write a bs poison) else s.hostWrite a bs poison) := by
  have hin : (decide (a ≥ 0x60000000) || !s.serving) = false := by simp [hs, hrange]
  change execHostMemWrite a bs poison s = _
  rw [execHostMemWrite, hin, line_of_aligned ha, apply_ite Host.Outcome.next]
  rfl

end

theorem hostRead_unserved (hserves : s.hostServes (s.hdmAddr a / 2 ^ 24) = false) (ecc : Option EccKind) (w : Nat) :
    s.hostRead a ecc w = ((s.hostDrop a 2).emit
      (.hostData ((List.range 64).map fun i => Config.freeByte s.freeCtr (s.hdmAddr a + i)) true)).bump := by
  simp only [State.hostRead, line_of_aligned ha, hserves]
  rfl

theorem hostWrite_unserved (hserves : s.hostServes (s.hdmAddr a / 2 ^ 24) = false) (bs : List (Option Byte))
    (poison : Bool) : s.hostWrite a bs poison = s.hostDrop a 1 := by
  simp only [State.hostWrite, line_of_aligned ha, hserves]
  rfl

/-- The bytes that a host write lists, at their addresses. -/
def listedBytes (g : Nat) (bs : List (Option Byte)) : List (Nat × Byte) :=
  ((List.range 64).zip bs).filterMap fun e => match e.2 with | some b => some (g + e.1, b) | none => none

section
variable (hserves : s.hostServes (s.hdmAddr a / 2 ^ 24) = true) (hon : (s.slice (s.hdmAddr a / 2 ^ 24)).pw = .on)
include hserves hon

theorem hostRead_served (w : Nat) : s.hostRead a none w = (s.emit (.hostData
    (s.read .host ((List.range 64).map (s.hdmAddr a + ·))) (s.linePoison (s.hdmAddr a / 64)))).bump := by
  simp only [State.hostRead, line_of_aligned ha, hserves, reachSlice_of_on hon]
  rfl

theorem hostWrite_served (bs : List (Option Byte)) (poison : Bool) : s.hostWrite a bs poison =
    s.hostLine (s.hdmAddr a / 64) (listedBytes (s.hdmAddr a) bs) poison := by
  simp only [State.hostWrite, line_of_aligned ha, hserves, reachSlice_of_on hon]
  rfl

end
end

/-! The bytes of a write. -/

theorem mem_listedBytes {g k : Nat} {b : Byte} {bs : List (Option Byte)} :
    (k, b) ∈ listedBytes g bs ↔ ∃ i, i < 64 ∧ bs[i]? = some (some b) ∧ k = g + i := by
  rw [listedBytes, List.mem_filterMap]
  constructor
  · rintro ⟨⟨i, x⟩, hmem, hx⟩
    obtain ⟨j, hj, hij⟩ := List.mem_iff_getElem.1 hmem
    simp only [List.length_zip, List.length_range] at hj
    simp only [List.getElem_zip, List.getElem_range, Prod.mk.injEq] at hij
    obtain ⟨rfl, rfl⟩ := hij
    cases hb : bs[j] with
    | none => simp [hb] at hx
    | some c =>
      simp only [hb, Option.some.injEq, Prod.mk.injEq] at hx
      obtain ⟨rfl, rfl⟩ := hx
      exact ⟨j, by omega, List.getElem?_eq_some_iff.2 ⟨by omega, hb⟩, rfl⟩
  · rintro ⟨i, hi, hb, rfl⟩
    obtain ⟨hlt, hb⟩ := List.getElem?_eq_some_iff.1 hb
    exact ⟨(i, some b), List.mem_iff_getElem.2 ⟨i, by rw [List.length_zip, List.length_range]; omega,
      by rw [List.getElem_zip, List.getElem_range, hb]⟩, rfl⟩

theorem nodup_listedBytes (g : Nat) {bs : List (Option Byte)} (hlen : bs.length = 64) :
    ((listedBytes g bs).map (·.1)).Nodup := by
  have hfst : ((List.range 64).zip bs).map (·.1) = List.range 64 := List.map_fst_zip (by simp [hlen])
  have hplaces : ((List.range 64).zip bs).Pairwise fun e f => e.1 ≠ f.1 :=
    List.pairwise_map.1 (hfst.symm ▸ List.nodup_range : (((List.range 64).zip bs).map (·.1)).Nodup)
  refine List.pairwise_map.2 (List.pairwise_filterMap.2 (hplaces.imp ?_))
  rintro ⟨i, x⟩ ⟨j, y⟩ hne e he f hf heq
  cases x with
  | none => cases he
  | some x =>
    cases y with
    | none => cases hf
    | some y =>
      cases he
      cases hf
      exact hne (Nat.add_left_cancel heq)

/-- A host write of a line in device bias, nothing of it cached or pending, puts its bytes into the store and changes nothing
else of it (R148, R178). -/
theorem hostLine_of_device {s : State} {l : Nat} (h : DeviceLine s l) (hc : tget {} s.cache l = {})
    (hpend : ∀ e ∈ s.pend, e.line ≠ l) {m : List (Nat × Byte)} (hl : ∀ e ∈ m, e.1 / 64 = l)
    (hnd : (m.map (·.1)).Nodup) (poison : Bool) :
    let t := s.hostLine l m poison
    (∀ e ∈ m, tget 0#8 t.store e.1 = e.2) ∧ (∀ g, g ∉ m.map (·.1) → tget 0#8 t.store g = tget 0#8 s.store g) ∧
      t.pend = s.pend ∧ t.hostMem = s.hostMem := by
  have hsettle : s.settle l = s := by rw [State.settle, liveEvict_of_device h]
  have hgive : s.giveUp l = { s with cache := tset {} s.cache l {} } := by
    rw [State.giveUp, hc]
    rfl
  have hpended : (s.giveUp l).pendLine .host l m = s.giveUp l := by
    have hnone : (s.pend.any fun e => e.line = l) = false := List.any_eq_false.2 fun e he => by simp [hpend e he]
    rw [hgive]
    simp only [State.pendLine, hnone]
    rfl
  have hdev : DeviceLine (s.giveUp l) l := by
    rw [hgive]
    exact ⟨h.home, h.bias, h.evict⟩
  obtain ⟨b, hline⟩ : ∃ b, s.hostLine l m poison =
      (s.giveUp l).backLine l (putBytes ((s.giveUp l).newestLine l) m) b := by
    simp only [State.hostLine, hsettle, hpended]
    exact ⟨_, rfl⟩
  have hframe : (s.giveUp l).store = s.store ∧ (s.giveUp l).pend = s.pend ∧ (s.giveUp l).hostMem = s.hostMem := by
    rw [hgive]
    exact ⟨rfl, rfl, rfl⟩
  obtain ⟨hstore, hpends, hhost⟩ := hframe
  obtain ⟨hin, hout⟩ := tget_backLine_putBytes hdev rfl hl hnd b
  rw [hstore] at hout
  rw [hline]
  refine ⟨hin, hout, ?_, (backLine_hostMem _ _ _ _ h.home).trans hhost⟩
  rw [State.backLine, h.home]
  exact hpends

/-- Settles O48: an access is held, answered or dropped, one equation each; a served write puts one line back. -/
theorem hostReadsAndWritesTheStore : Obligations.HostReadsAndWritesTheStore := by
  intro s a w bs poison ha hrange hs g
  have hread := exec_hostMemRead ha hrange hs none w
  have hwrite := exec_hostMemWrite ha hrange hs bs poison
  refine ⟨fun hheld => ?held, fun hheld => ⟨fun hserves hon => ?read, fun hserves => ?unread, fun hserves => ?unwritten,
    fun hserves hon hlen hal hbias hcache hpend hevict => ?write⟩⟩
  case held =>
    rw [hheld] at hread hwrite
    exact ⟨hread, hwrite⟩
  all_goals rw [hheld] at hread hwrite
  case read => exact hread.trans (congrArg Host.Outcome.next (hostRead_served ha hserves hon w))
  case unread =>
    exact ⟨_, _, hread.trans (congrArg Host.Outcome.next (hostRead_unserved ha hserves none w)), rfl, rfl, rfl⟩
  case unwritten =>
    exact ⟨_, hwrite.trans (congrArg Host.Outcome.next (hostWrite_unserved ha hserves bs poison)), rfl, rfl, rfl⟩
  case write =>
    have hslice : g / 2 ^ 24 < 96 := by
      simp only [State.hostServes, State.sliceServes, Bool.and_eq_true, decide_eq_true_eq] at hserves
      exact hserves.1.1.1.1
    have hdev : DeviceLine s (g / 64) := ⟨decide_eq_false (by unfold hostBase; omega), hbias, hevict⟩
    have hline : ∀ e ∈ listedBytes g bs, e.1 / 64 = g / 64 := by
      rintro ⟨k, b⟩ he
      obtain ⟨i, hi, -, rfl⟩ := mem_listedBytes.1 he
      dsimp only
      omega
    obtain ⟨hin, hout, hpends, hhost⟩ := hostLine_of_device hdev hcache hpend hline (nodup_listedBytes g hlen) poison
    refine ⟨_, hwrite.trans (congrArg Host.Outcome.next (hostWrite_served ha hserves hon bs poison)), fun i hi => ?_,
      fun k hk => hout k ?_, hpends, hhost⟩
    · have hi' : i < bs.length := hlen ▸ hi
      rw [List.getD_eq_getElem?_getD, List.getElem?_eq_getElem hi', Option.getD_some]
      cases hb : bs[i] with
      | some b => exact hin (g + i, b) (mem_listedBytes.2 ⟨i, hi, List.getElem?_eq_some_iff.2 ⟨hi', hb⟩, rfl⟩)
      | none =>
        refine hout (g + i) fun hmem => ?_
        obtain ⟨⟨k, b⟩, he, hk⟩ := List.mem_map.1 hmem
        obtain ⟨j, -, hj, rfl⟩ := mem_listedBytes.1 he
        obtain rfl : j = i := Nat.add_left_cancel hk
        rw [List.getElem?_eq_getElem hi', hb] at hj
        cases hj
    · intro hmem
      obtain ⟨⟨j, b⟩, he, rfl⟩ := List.mem_map.1 hmem
      obtain ⟨i, hi, -, rfl⟩ := mem_listedBytes.1 he
      dsimp only at hk
      omega

end Sys2Proof.Machine
end

section
/-!
What the end of a command leaves of the memories (R140), and what FENCE and MARKER do (R155, Table CMD-6). For O60.
-/
namespace Sys2Proof.Machine

/-! The end of a command that completes. -/

/-- What a write that waits is told by: the crest and command that issued it, and how far it is performed. -/
def Pend.issued (e : Pend) : Option Nat × Nat × Nat × Option Nat := (e.crest, e.q, e.t, e.scope)

/-- The store, the atomic buffer, and the writes that wait. -/
def State.memories (s : State) : Tbl Byte × List ABuf × List (Option Nat × Nat × Nat × Option Nat) :=
  (s.store, s.abuf, s.pend.map Pend.issued)

theorem store_of_memories {s t : State} (h : t.memories = s.memories) : t.store = s.store := congrArg Prod.fst h

theorem abuf_of_memories {s t : State} (h : t.memories = s.memories) : t.abuf = s.abuf := congrArg (fun m => m.2.1) h

/-- A write that waits after waited before, as far performed. -/
theorem pend_of_memories {s t : State} (h : t.memories = s.memories) {e : Pend} (he : e ∈ t.pend) :
    ∃ d ∈ s.pend, d.issued = e.issued := by
  have hpend : t.pend.map Pend.issued = s.pend.map Pend.issued := congrArg (fun m => m.2.2) h
  exact List.mem_map.1 (hpend ▸ List.mem_map_of_mem he)

theorem memories_foldl {β : Type} {f : State → β → State} (hf : ∀ s x, (f s x).memories = s.memories) (l : List β)
    (s : State) : (l.foldl f s).memories = s.memories :=
  List.foldlRecOn (motive := fun u => State.memories u = s.memories) l f rfl fun _ h x _ => (hf _ x).trans h

theorem memories_ite {c : Prop} [Decidable c] {s t u : State} (ht : t.memories = s.memories) (hu : u.memories = s.memories) :
    (if c then t else u).memories = s.memories := by
  split
  · exact ht
  · exact hu

theorem memories_modCmd (s : State) (q t : Nat) (f : Cmd → Cmd) : (s.modCmd q t f).memories = s.memories := rfl

theorem memories_modCrest (s : State) (p : Nat) (f : Crest → Crest) : (s.modCrest p f).memories = s.memories := rfl

theorem memories_chargeHold (s : State) (h : Hold) : (s.chargeHold h).memories = s.memories :=
  (congrArg State.memories (turned_chargeHold 0 s h).rest :)

theorem memories_endHolds (s : State) (q t : Nat) (sel : Nat → Bool) : (s.endHolds q t sel).memories = s.memories :=
  memories_foldl memories_chargeHold _ s

theorem memories_passOn (s : State) (q t p : Nat) : (s.passOn q t p).memories = s.memories := by
  have hissued : (s.passOn q t p).pend.map Pend.issued = s.pend.map Pend.issued := by
    rw [State.passOn, List.map_map]
    refine List.map_congr_left fun e _ => ?_
    simp only [Function.comp]
    split <;> rfl
  rw [State.memories, hissued]
  rfl

theorem memories_resetEnd (s : State) (p : Nat) : (s.resetEnd p).memories = s.memories :=
  memories_ite rfl (memories_foldl (fun _ _ => memories_modCrest ..) _ s)

theorem memories_resetEnds (s : State) : s.resetEnds.memories = s.memories :=
  memories_ite (memories_foldl memories_resetEnd _ s) rfl

theorem memories_unlend (s : State) (p : Nat) : (s.unlend p).memories = s.memories := by
  rw [State.unlend]
  cases (s.crest p).lentTo with
  | none => rfl
  | some b =>
    refine memories_ite rfl ?_
    cases (s.crest p).held with
    | nil => exact memories_resetEnds _
    | cons k ks => exact (memories_resetEnds _).trans (memories_foldl (fun _ _ => memories_modCmd ..) _ _)

theorem memories_dropFrom (s : State) (p q t : Nat) : (s.dropFrom p q t).memories = s.memories :=
  (memories_unlend _ p).trans (memories_ite (memories_passOn s q t p) rfl)

/-- A command that completes leaves the store, the atomic buffer and the writes that wait as they are. -/
theorem memories_endCmd {s : State} {q t : Nat} {c : Cmd} (hc : s.cmd? q t = some c) (hdbg : c.dbg = false) {st : Nat}
    (hst : st < 0x20) (sub : Nat) : (s.endCmd q t st sub).memories = s.memories := by
  have hquiet : ¬(c.started = true ∧ (st ≥ 0x20 ∨ c.dbg = true)) := by
    rw [hdbg]
    simp
    omega
  simp only [State.endCmd, hc, if_neg hquiet]
  refine memories_ite rfl ?_
  refine (memories_foldl (fun _ _ => (memories_modCrest ..).trans (memories_dropFrom ..)) _ _).trans ?_
  have hcharged : ((s.endHolds q t fun _ => true).uncharged q t).memories = s.memories :=
    (memories_modCmd ..).trans (memories_endHolds ..)
  generalize ((s.endHolds q t fun _ => true).uncharged q t) = u at hcharged ⊢
  exact hcharged

/-- A command that has not ended ends with the status given. -/
theorem fin_endCmd {s : State} {q t : Nat} (h : (s.cmd? q t).map Cmd.fin = some none) (st sub : Nat) :
    ((s.endCmd q t st sub).cmd? q t).map Cmd.fin = some (some (st, sub)) := by
  obtain ⟨c, hc, hfin⟩ := Option.map_eq_some_iff.1 h
  obtain ⟨hq, ht⟩ := cmd?_key hc
  have hkeep (c : Cmd) : (c.finish st sub).q = c.q ∧ (c.finish st sub).t = c.t := by
    unfold Cmd.finish
    split <;> exact ⟨rfl, rfl⟩
  rw [fin_cmd?_of_standings (standings_endCmd hc hfin st sub), State.cmd?_modCmd _ q t _ hkeep, hc]
  simp [hq, ht, Cmd.finish, hfin]

theorem okStatus_lt (c : Cmd) : c.okStatus < 0x20 := by
  unfold Cmd.okStatus
  split
  · decide
  · split <;> decide

/-! Words of the atomic buffer that go back to their lines (R159). -/

/-- From `s` to `t` the dispatcher may have written: no word has come into the atomic buffer, and no write of a crest waits
that did not. -/
structure WroteBack (s t : State) : Prop where
  abuf : ∀ w ∈ t.abuf, w ∈ s.abuf
  pend : ∀ e ∈ t.pend, e ∈ s.pend ∨ e.crest = none

section
variable {s t u : State}

theorem WroteBack.trans (h : WroteBack s t) (g : WroteBack t u) : WroteBack s u :=
  ⟨fun w hw => h.abuf w (g.abuf w hw), fun e he => (g.pend e he).elim (h.pend e) .inr⟩

theorem WroteBack.ite {c : Prop} [Decidable c] (ht : WroteBack s t) (hu : WroteBack s u) :
    WroteBack s (if c then t else u) := by
  split
  · exact ht
  · exact hu

/-- The atomic buffer and the writes that wait. -/
def State.waiting (s : State) : List ABuf × List Pend := (s.abuf, s.pend)

theorem WroteBack.of_waiting (h : t.waiting = s.waiting) : WroteBack s t :=
  have habuf : t.abuf = s.abuf := congrArg Prod.fst h
  have hpend : t.pend = s.pend := congrArg Prod.snd h
  ⟨fun _ hw => habuf ▸ hw, fun _ he => .inl (hpend ▸ he)⟩

theorem waiting_ite {c : Prop} [Decidable c] (ht : t.waiting = s.waiting) (hu : u.waiting = s.waiting) :
    (if c then t else u).waiting = s.waiting := by
  split
  · exact ht
  · exact hu

theorem waiting_backLine (s : State) (l : Nat) (d : List Byte) (b : Bool) : (s.backLine l d b).waiting = s.waiting :=
  waiting_ite rfl rfl

theorem waiting_fill (s : State) (l : Nat) (st : Mesi) (req : CacheReq) : (s.fill l st req).waiting = s.waiting := by
  have hsettle : (s.settle l).waiting = s.waiting := by
    unfold State.settle
    split
    · exact waiting_backLine ..
    · rfl
  have hroom : ((s.settle l).wayFor l).waiting = (s.settle l).waiting := waiting_ite rfl rfl
  have hway := hroom.trans hsettle
  cases st with
  | M => exact waiting_ite hway (waiting_ite (c := (tget {} s.cache l).st = .S) (s := s) rfl rfl)
  | E => exact waiting_ite hway (waiting_ite rfl rfl)
  | S | I => exact waiting_ite hway rfl

theorem wroteBack_zeroSlice (s : State) (n : Nat) : WroteBack s (s.zeroSlice n) :=
  ⟨fun _ h => (List.mem_filter.1 h).1, fun _ h => .inl (List.mem_filter.1 h).1⟩

theorem wroteBack_modSlice (s : State) (n : Nat) (f : Slice → Slice) : WroteBack s (s.modSlice n f) := .of_waiting rfl

theorem wroteBack_wakeSlice (s : State) (n : Nat) : WroteBack s (s.wakeSlice n) :=
  .ite ((WroteBack.ite ((wroteBack_zeroSlice ..).trans (wroteBack_modSlice ..)) (.of_waiting rfl)).trans
    (wroteBack_modSlice ..)) (.of_waiting rfl)

theorem wroteBack_writeLine (s : State) (l : Nat) (m : List (Nat × Byte)) : WroteBack s (s.writeLine l m) :=
  .ite (.of_waiting rfl) (.ite (.of_waiting (waiting_fill ..))
    ((wroteBack_wakeSlice ..).trans (.of_waiting (waiting_backLine ..))))

theorem wroteBack_pendLine (s : State) (l : Nat) (m : List (Nat × Byte)) : WroteBack s (s.pendLine .disp l m) := by
  refine .ite ⟨fun _ h => h, fun e he => ?_⟩ (.of_waiting rfl)
  obtain rfl | he := List.mem_cons.1 he
  · exact .inr rfl
  · exact .inl he

theorem wroteBack_write (s : State) (m : List (Nat × Byte)) : WroteBack s (s.write .disp m) :=
  List.foldlRecOn (motive := WroteBack s) _ _ (.of_waiting rfl) fun _ h _ _ =>
    h.trans ((wroteBack_pendLine ..).trans (wroteBack_writeLine ..))

end

theorem unwritten_abufFlush (s : State) (sel : ABuf → Bool) : (s.abufFlush sel).unwritten = s.unwritten :=
  List.foldlRecOn (motive := fun u => State.unwritten u = s.unwritten) _ _ rfl fun _ h _ _ =>
    (unwritten_write ..).trans h

/-- The words that have gone back are in the buffer no more. -/
theorem wroteBack_abufFlush (s : State) (sel : ABuf → Bool) :
    WroteBack s (s.abufFlush sel) ∧ ∀ w ∈ (s.abufFlush sel).abuf, sel w = false := by
  have hgone (ws : List ABuf) (s : State) :
      WroteBack s (ws.foldl State.abufBack s) ∧ ∀ w ∈ (ws.foldl State.abufBack s).abuf, w ∉ ws := by
    induction ws generalizing s with
    | nil => exact ⟨.of_waiting rfl, fun _ _ => List.not_mem_nil⟩
    | cons w ws ih =>
      have hwrite := wroteBack_write { s with abuf := s.abuf.filter (· != w) }
        ((List.range w.width).map fun i => (w.addr + i, BitVec.ofNat 8 (w.val / 256 ^ i)))
      have hdrop : WroteBack s { s with abuf := s.abuf.filter (· != w) } :=
        ⟨fun _ h => (List.mem_filter.1 h).1, fun _ h => .inl h⟩
      obtain ⟨hrest, hleft⟩ := ih (s.abufBack w)
      refine ⟨(hdrop.trans hwrite).trans hrest, fun v hv hmem => ?_⟩
      obtain rfl | hmem := List.mem_cons.1 hmem
      · have hin := (List.mem_filter.1 (hwrite.abuf v (hrest.abuf v hv))).2
        simp at hin
      · exact hleft v hv hmem
  obtain ⟨hback, hleft⟩ := hgone (s.abuf.filter sel) s
  refine ⟨hback, fun w hw => Bool.eq_false_iff.2 fun hsel => hleft w hw (List.mem_filter.2 ⟨hback.abuf w hw, hsel⟩)⟩

/-! FENCE. -/

theorem prune_sublist (s : State) (ps : List Pend) (kept : List Nat) : (s.prune ps kept).Sublist ps := by
  induction ps generalizing kept with
  | nil => exact .slnil
  | cons e ps ih =>
    rw [State.prune]
    split
    · exact (ih kept).cons e
    · exact (ih _).cons_cons e

/-- A write that waits after some are performed at a scope is one that waited, performed at least so far if it is one of
them. -/
theorem perform_pend {s : State} {sel : Pend → Bool} {scope : Nat} {e : Pend} (he : e ∈ (s.perform sel scope).pend) :
    ∃ d ∈ s.pend, e = if sel d then { d with scope := some (max scope (d.scope.getD 0)) } else d := by
  have hin := (prune_sublist s _ _).subset (List.mem_reverse.1 he)
  obtain ⟨d, hd, rfl⟩ := List.mem_map.1 (List.mem_reverse.1 hin)
  exact ⟨d, hd, rfl⟩

/-- Is a write one that a FENCE performs: of an earlier command of its queue (R155)? -/
def Cmd.fences (c : Cmd) (e : Pend) : Bool := e.crest.isSome && e.q = c.q && decide (e.t ≠ c.t)

/-- What a FENCE leaves before it ends. -/
def State.fenced (s : State) (c : Cmd) : State :=
  if c.scope = 0 then s.perform c.fences c.scope else (s.perform c.fences c.scope).abufFlush fun _ => true

section
variable {s : State} {c : Cmd}

theorem runFence_held {h : WaitFor} (hscope : c.scope ≠ 0) (hh : s.flushHeld (fun _ => true) = some h) :
    s.runFence c = s.stall c.q c.t h := by
  simp only [State.runFence, if_neg hscope, hh]

theorem runFence_free (hfree : c.scope ≠ 0 → s.flushHeld (fun _ => true) = none) :
    s.runFence c = (s.fenced c).endCmd c.q c.t c.okStatus 0 := by
  have hgo : (if c.scope = 0 then none else s.flushHeld fun _ => true) = none := by
    split
    · rfl
    · next h => exact hfree h
  simp only [State.runFence, hgo]
  rfl

theorem fenced_cmd? (q t : Nat) : (s.fenced c).cmd? q t = s.cmd? q t := by
  unfold State.fenced
  split
  · rfl
  · exact (congrArg (fun u : State => u.cmd? q t) (unwritten_abufFlush (s.perform c.fences c.scope) fun _ => true) :)

theorem runFence_ends (hc : s.cmd? c.q c.t = some c) (hfin : c.fin = none)
    (hfree : c.scope ≠ 0 → s.flushHeld (fun _ => true) = none) :
    ((s.runFence c).cmd? c.q c.t).map Cmd.fin = some (some (c.okStatus, 0)) := by
  rw [runFence_free hfree]
  exact fin_endCmd (by rw [fenced_cmd?, hc, Option.map_some, hfin]) _ _

theorem runFence_memories (hc : s.cmd? c.q c.t = some c) (hdbg : c.dbg = false)
    (hfree : c.scope ≠ 0 → s.flushHeld (fun _ => true) = none) : (s.runFence c).memories = (s.fenced c).memories := by
  rw [runFence_free hfree]
  exact memories_endCmd ((fenced_cmd? ..).trans hc) hdbg (okStatus_lt c) 0

/-- Every write of the queue's earlier commands is performed at the FENCE's scope (R155). -/
theorem fenced_performed {e : Pend} (he : e ∈ (s.fenced c).pend) (hc : e.crest.isSome = true) (hq : e.q = c.q)
    (ht : e.t ≠ c.t) : ∃ k, e.scope = some k ∧ c.scope ≤ k := by
  have hperf : e ∈ (s.perform c.fences c.scope).pend := by
    unfold State.fenced at he
    split at he
    · exact he
    · refine ((wroteBack_abufFlush ..).1.pend e he).resolve_right fun hnone => ?_
      simp [hnone] at hc
  obtain ⟨d, -, hd⟩ := perform_pend hperf
  split at hd
  · exact ⟨_, congrArg Pend.scope hd, Nat.le_max_left ..⟩
  · next hsel => exact absurd (by simp [Cmd.fences, ← hd, hc, hq, ht]) hsel

theorem fenced_abuf (hscope : c.scope ≠ 0) : (s.fenced c).abuf = [] := by
  rw [State.fenced, if_neg hscope]
  refine List.eq_nil_iff_forall_not_mem.2 fun w hw => ?_
  exact absurd ((wroteBack_abufFlush ..).2 w hw) (by decide)

end

end Sys2Proof.Machine
end

section
/-!
SIGNAL (R158, R159) on a word that lies open, and MARKER (Table CMD-6). For O60.
-/
namespace Sys2Proof.Machine
open Sys2Proof.Claim

theorem getD_toBytes (v : Nat) {n i : Nat} (hi : i < n) : (toBytes v n).getD i 0#8 = BitVec.ofNat 8 (v / 256 ^ i) := by
  induction n generalizing v i with
  | zero => omega
  | succ n ih =>
    cases i with
    | zero => simp [toBytes]
    | succ i =>
      rw [toBytes, List.getD_cons_succ, ih _ (by omega), Nat.div_div_eq_div_mul, Nat.pow_succ, Nat.mul_comm]

/-! The word. -/

/-- The addresses of a word. -/
def wordAddrs (g w : Nat) : List Nat := (List.range w).map (g + ·)

theorem mem_wordAddrs {g w k : Nat} : k ∈ wordAddrs g w ↔ g ≤ k ∧ k < g + w := by
  simp only [wordAddrs, List.mem_map, List.mem_range]
  exact ⟨fun ⟨i, hi, hk⟩ => by omega, fun h => ⟨k - g, by omega, by omega⟩⟩

theorem nodup_wordAddrs (g w : Nat) : (wordAddrs g w).Nodup :=
  List.pairwise_map.2 (List.nodup_range.imp fun hne heq => hne (Nat.add_left_cancel heq))

/-- The number that the store holds in a word. -/
def State.storeWord (s : State) (g w : Nat) : Nat := ofBytes ((wordAddrs g w).map (tget 0#8 s.store))

/-- The word of `w` bytes at `g` and the addresses `rs` lie open, no buffered word lies in its line, and the atomic buffer has
room (R159). -/
structure WordOpen (s : State) (g w : Nat) (rs : List Nat) : Prop where
  width : w = 4 ∨ w = 8
  aligned : g % w = 0
  plain : Plain s (wordAddrs g w ++ rs)
  room : s.abuf.length < 16
  apart : ∀ b ∈ s.abuf, b.addr / 64 ≠ g / 64

section
variable {s : State} {g w : Nat} {rs : List Nat} (h : WordOpen s g w rs)
include h

theorem plain_word : Plain s (wordAddrs g w) := plain_mono h.plain fun _ hk => List.mem_append_left _ hk

theorem plain_result : Plain s rs := plain_mono h.plain fun _ hk => List.mem_append_right _ hk

/-- No buffered word has to go back first: one that overlaps the word without lying in its line would hold its first byte. -/
theorem clashes_none (scope : Nat) : s.abuf.filter (clashes scope g w) = [] := by
  refine List.filter_eq_nil_iff.2 fun b hb hclash => ?_
  have hapart := h.apart b hb
  unfold clashes at hclash
  split at hclash
  · simp only [Bool.and_eq_true, decide_eq_true_eq] at hclash
    obtain ⟨⟨hend, hstart⟩, -⟩ := hclash
    have hpos : g ∈ wordAddrs g w := mem_wordAddrs.2 (by have := h.width; omega)
    obtain ⟨-, -, -, habuf, -⟩ := (plain_word h).lines g hpos
    have hout := List.any_eq_false.1 habuf b hb
    simp only [decide_eq_true_eq] at hout
    have := h.aligned
    obtain rfl | rfl := h.width <;> omega
  · exact hapart (of_decide_eq_true hclash)

theorem abufFlush_clashes (scope : Nat) : s.abufFlush (clashes scope g w) = s := by
  rw [State.abufFlush, clashes_none h]
  rfl

theorem abufHit_false : s.abufHit g w = false :=
  List.any_eq_false.2 fun b hb => by
    have hapart := h.apart b hb
    simp only [Bool.and_eq_true, decide_eq_true_eq, not_and]
    intro haddr
    exact absurd (congrArg (· / 64) haddr) hapart

theorem wordHeld_none (wr takes : Bool) (scope : Nat) : s.wordHeld wr takes scope g w = none := by
  have hline : s.heldBy wr ((List.range w).map (g + ·)) = none := heldBy_of_plain (plain_word h) wr
  have hroom : ¬ s.abuf.length ≥ 16 := by have := h.room; omega
  simp [State.wordHeld, hline, State.flushHeld, clashes_none h, hroom]

/-! The read-modify-write. -/

theorem wordOpen_bump : WordOpen s.bump g w rs := ⟨h.width, h.aligned, plain_bump h.plain, h.room, h.apart⟩

theorem read_word (o : Obs) : ofBytes (s.bump.read o ((List.range w).map (g + ·))) = s.storeWord g w :=
  congrArg ofBytes (read_of_plain (plain_bump (plain_word h)) o)

theorem signalWord_crest (op x y : Nat) : s.bump.signalWord 0 g w op x y =
    ({ s.bump with abuf := s.abuf ++ [{ addr := g, width := w, val := signalNew op w (s.storeWord g w) x y }] },
      s.storeWord g w) := by
  have hmiss : (s.bump.abuf.any fun b => b.addr = g && b.width = w) = false := abufHit_false (wordOpen_bump h)
  have hword : s.bump.wordAt g w = s.storeWord g w := by
    have hnone := List.find?_eq_none.2 (List.any_eq_false.1 hmiss)
    simp only [State.wordAt, hnone]
    exact read_word h .disp
  have hroom : s.bump.abufRoom = s.bump := if_pos h.room
  simp only [State.signalWord, if_true, hword, hmiss, hroom, Bool.false_eq_true, if_false]
  rfl

theorem signalWord_store {scope : Nat} (hscope : scope ≠ 0) (op x y : Nat) : s.bump.signalWord scope g w op x y =
    (s.bump.write .disp ((wordAddrs g w).zip ((List.range w).map fun i =>
      BitVec.ofNat 8 (signalNew op w (s.storeWord g w) x y / 256 ^ i))), s.storeWord g w) := by
  have hg : g ∈ wordAddrs g w := mem_wordAddrs.2 (by have := h.width; omega)
  have hcache : s.bump.viaCache (g / 64) = false := viaCache_of_plain (plain_word (wordOpen_bump h)) hg
  have hatomic (m : List (Nat × Byte)) : s.bump.writeAtomic (g / 64) m = s.bump.write .disp m := by
    obtain ⟨-, -, hpend, -⟩ := (plain_word (wordOpen_bump h)).lines g hg
    have hnone : (s.bump.pend.filter fun e => e.line = g / 64) = [] :=
      List.filter_eq_nil_iff.2 fun e he => by simp [hpend e he]
    simp only [State.writeAtomic, hnone, List.reverse_nil]
  simp only [State.signalWord, if_neg hscope, hcache, Bool.false_eq_true, and_false, if_false, hatomic, read_word h,
    wordAddrs, List.zip_map']

end

/-- From `s` to `u` a SIGNAL of a scope has given its word the value `new`: at CREST scope in the atomic buffer, else in the
store (R159); nothing else of the store has changed, nor of what a write or an end depends on. -/
structure Signalled (s : State) (scope g w new : Nat) (u : State) : Prop where
  crest : scope = 0 → u.store = s.store ∧ u.abuf = s.abuf ++ [{ addr := g, width := w, val := new }]
  word : scope ≠ 0 → ∀ i, i < w → tget 0#8 u.store (g + i) = BitVec.ofNat 8 (new / 256 ^ i)
  others : ∀ k, k ∉ wordAddrs g w → tget 0#8 u.store k = tget 0#8 s.store k
  rest : u.unstored = ({ s with abuf := u.abuf } : State).unstored

theorem signalled_signalWord {s : State} {g w : Nat} {rs : List Nat} (h : WordOpen s g w rs) (scope op x y : Nat) :
    Signalled s scope g w (signalNew op w (s.storeWord g w) x y) (s.bump.signalWord scope g w op x y).1 ∧
      (s.bump.signalWord scope g w op x y).2 = s.storeWord g w := by
  by_cases hscope : scope = 0
  · subst hscope
    rw [signalWord_crest h]
    exact ⟨⟨fun _ => ⟨rfl, rfl⟩, fun hne => absurd rfl hne, fun _ _ => rfl, rfl⟩, rfl⟩
  · rw [signalWord_store h hscope]
    obtain ⟨hin, hout, hrest⟩ := write_zip (writable_of_plain (plain_bump (plain_word h))) (nodup_wordAddrs g w)
      (bs := (List.range w).map fun i => BitVec.ofNat 8 (signalNew op w (s.storeWord g w) x y / 256 ^ i))
      (by simp [wordAddrs]) .disp
    refine ⟨⟨fun hzero => absurd hzero hscope, fun _ i hi => ?_, hout, ?_⟩, rfl⟩
    · have hbyte := hin i (by simpa [wordAddrs] using hi)
      simpa [wordAddrs, hi] using hbyte
    · have habuf := congrArg State.abuf hrest
      rw [hrest]
      exact congrArg (fun a => ({ s with abuf := a } : State).unstored) habuf.symm

/-- A word that the buffer has just taken in is what the dispatcher reads. -/
theorem wordAt_of_appended {s t : State} {g w v : Nat} (hmiss : s.abufHit g w = false)
    (ht : t.abuf = s.abuf ++ [{ addr := g, width := w, val := v }]) : t.wordAt g w = v := by
  have hnone : s.abuf.find? (fun b => b.addr = g && b.width = w) = none :=
    List.find?_eq_none.2 (List.any_eq_false.1 hmiss)
  have hfind : t.abuf.find? (fun b => b.addr = g && b.width = w) = some { addr := g, width := w, val := v } := by
    rw [ht, List.find?_append, hnone]
    simp
  simp only [State.wordAt, hfind]

/-! The whole command. -/

/-- Where a SIGNAL puts the old value, if it asks for it. -/
def State.resultAddrs (s : State) (c : Cmd) : List Nat := if c.f64 0x28 = 0 then [] else s.gaddrs c.part (c.f64 0x28) 8

/-- A SIGNAL's read-modify-write, nothing being in its way. -/
def State.signals (s : State) (c : Cmd) : State × Nat :=
  s.bump.signalWord c.scope (s.gaddr c.part (c.f64 0x10)) (c.f8 0x31) (c.f8 0x30) (c.f64 0x18) (c.f64 0x20)

/-- What a SIGNAL leaves before it ends: the word changed, and its old value at RESULT_ADDR. -/
def State.signalled (s : State) (c : Cmd) : State :=
  (s.signals c).1.write (.crest c.q c.t dispWriter) ((s.resultAddrs c).zip (toBytes (s.signals c).2 8))

/-- The value that a SIGNAL gives its word. -/
def State.signalValue (s : State) (c : Cmd) : Nat :=
  signalNew (c.f8 0x30) (c.f8 0x31) (s.storeWord (s.gaddr c.part (c.f64 0x10)) (c.f8 0x31)) (c.f64 0x18) (c.f64 0x20)

section
variable {s : State} {c : Cmd} (hgs : s.gaddrs c.part (c.f64 0x10) (c.f8 0x31) =
    wordAddrs (s.gaddr c.part (c.f64 0x10)) (c.f8 0x31))
  (h : WordOpen s (s.gaddr c.part (c.f64 0x10)) (c.f8 0x31) (s.resultAddrs c))

include h in
theorem signalled_signals : Signalled s c.scope (s.gaddr c.part (c.f64 0x10)) (c.f8 0x31) (s.signalValue c) (s.signals c).1 ∧
    (s.signals c).2 = s.storeWord (s.gaddr c.part (c.f64 0x10)) (c.f8 0x31) :=
  signalled_signalWord h ..

include h in
theorem writable_result : Writable (s.signals c).1 (s.resultAddrs c) := by
  have hs := writable_of_plain (plain_result h)
  have habuf (a : List ABuf) : Writable { s with abuf := a } (s.resultAddrs c) :=
    ⟨fun g hg => ⟨(hs.device g hg).home, (hs.device g hg).bias, (hs.device g hg).evict⟩, hs.slice⟩
  exact (habuf _).congr (signalled_signals h).1.rest

include hgs h in
/-- A SIGNAL whose word and result lie open is carried out and ends. -/
theorem runSignal_open : s.runSignal c = (s.signalled c).endCmd c.q c.t c.okStatus 0 := by
  have hword := plain_word h
  have hresult : s.heldBy true (s.resultAddrs c) = none := heldBy_of_plain (plain_result h) true
  have hstart : (if c.scope = 2 then
        (((s.abufFlush (clashes 2 (s.gaddr c.part (c.f64 0x10)) (c.f8 0x31))).meets c.q c.t
          (wordAddrs (s.gaddr c.part (c.f64 0x10)) (c.f8 0x31)) []).own
            (wordAddrs (s.gaddr c.part (c.f64 0x10)) (c.f8 0x31))).bump
      else (s.abufFlush (clashes c.scope (s.gaddr c.part (c.f64 0x10)) (c.f8 0x31))).reads c.q c.t
        (wordAddrs (s.gaddr c.part (c.f64 0x10)) (c.f8 0x31))) = s.bump := by
    rw [abufFlush_clashes h, abufFlush_clashes h, meets_of_plain hword, reads_of_plain hword, State.own,
      touchBy_of_plain hword, ite_self]
  have hparts : (s.signals c).1.parts = s.parts := (congrArg State.parts (signalled_signals h).1.rest :)
  have hgaddrs : (s.signals c).1.gaddrs c.part (c.f64 0x28) 8 = s.gaddrs c.part (c.f64 0x28) 8 :=
    congrArg (fun ps : Tbl Part => ({ s with parts := ps } : State).gaddrs c.part (c.f64 0x28) 8) hparts
  have hfault := writeFault_of_writable (writable_result h)
  have hsignals : s.bump.signalWord c.scope (s.gaddr c.part (c.f64 0x10)) (c.f8 0x31) (c.f8 0x30) (c.f64 0x18)
    (c.f64 0x20) = s.signals c := rfl
  rw [State.resultAddrs] at hresult hfault
  simp only [State.runSignal, hgs, abufHit_false h, Bool.and_false, Bool.false_eq_true, if_false, wordHeld_none h,
    hresult, Option.orElse_none, hstart, accessFault_of_plain (plain_bump hword), hsignals]
  by_cases hnone : c.f64 0x28 = 0
  · simp only [State.signalled, State.resultAddrs, hnone, if_true, List.zip_nil_left]
    rfl
  · simp only [if_neg hnone] at hfault ⊢
    simp only [hfault, State.signalled, State.resultAddrs, if_neg hnone, State.writeAt, length_toBytes, hgaddrs]

end

/-! MARKER. -/

theorem markers_ends {s : State} {c : Cmd} (hfirst : s.cmds.find? (fun d => d.q = c.q) = some c) (hst : c.started = true)
    (hop : c.opcode = 10) : s.markers c.q = s.endCmd c.q c.t c.okStatus 0 := by
  simp only [State.markers, hfirst, hop, hst, and_self, if_true]

theorem markers_waits {s : State} {c : Cmd} (hfirst : s.cmds.find? (fun d => d.q = c.q) = some c) (hop : c.opcode ≠ 10) :
    s.markers c.q = s := by
  simp only [State.markers, hfirst, hop, false_and, if_false]

end Sys2Proof.Machine
end

section
/-!
Rows of MOVE (R129) and of CONVERT (R85) whose bytes lie open, and O60.
-/
namespace Sys2Proof.Machine
open Sys2Proof.Claim

/-! Bytes and numbers. -/

theorem ofBytes_lt (bs : List Byte) : ofBytes bs < 256 ^ bs.length := by
  induction bs with
  | nil => decide
  | cons b bs ih =>
    have := b.isLt
    rw [ofBytes, List.length_cons, Nat.pow_succ]
    omega

theorem f32_lt (c : Cmd) (o : Nat) : c.f32 o < 2 ^ 32 := by
  have hlen : ((c.e.drop o).take 4).length ≤ 4 := List.length_take_le ..
  calc c.f32 o < 256 ^ ((c.e.drop o).take 4).length := ofBytes_lt _
    _ ≤ 256 ^ 4 := Nat.pow_le_pow_right (by decide) hlen

/-- A byte of a number's low `w` bytes is the number's. -/
theorem byte_of_mod (x : Nat) {w i : Nat} (hi : i < w) : x % 256 ^ w / 256 ^ i % 256 = x / 256 ^ i % 256 := by
  have hw : 256 ^ w = 256 ^ i * 256 ^ (w - i) := by rw [← Nat.pow_add, Nat.add_sub_cancel' (Nat.le_of_lt hi)]
  rw [hw, Nat.mod_mul_right_div_self]
  exact Nat.mod_mod_of_dvd _ (Nat.dvd_of_pow_dvd (Nat.sub_pos_of_lt hi) (Nat.dvd_refl _))

section
variable {b : Nat} {d : Nat → Nat} (hd : ∀ e, d e < b)

theorem sum_digits_succ (b : Nat) (d : Nat → Nat) (n : Nat) : ((List.range (n + 1)).map fun e => d e * b ^ e).sum =
    ((List.range n).map fun e => d e * b ^ e).sum + d n * b ^ n := by
  rw [List.range_succ, List.map_append, List.sum_append_nat, List.map_singleton, List.sum_singleton]

include hd

theorem sum_digits_lt (n : Nat) : ((List.range n).map fun e => d e * b ^ e).sum < b ^ n := by
  induction n with
  | zero => exact Nat.one_pos
  | succ n ih =>
    have hdigit : (d n + 1) * b ^ n ≤ b * b ^ n := Nat.mul_le_mul_right _ (hd n)
    rw [Nat.succ_mul] at hdigit
    rw [sum_digits_succ, Nat.pow_succ, Nat.mul_comm (b ^ n)]
    omega

/-- A number tells its digits. -/
theorem digit_of_sum {n k : Nat} (hk : k < n) : ((List.range n).map fun e => d e * b ^ e).sum / b ^ k % b = d k := by
  have hb : 0 < b := Nat.zero_lt_of_lt (hd 0)
  induction n with
  | zero => exact absurd hk (Nat.not_lt_zero k)
  | succ n ih =>
    rw [sum_digits_succ]
    by_cases hlast : k = n
    · subst hlast
      rw [Nat.add_mul_div_right _ _ (Nat.pow_pos hb), Nat.div_eq_of_lt (sum_digits_lt hd k), Nat.zero_add,
        Nat.mod_eq_of_lt (hd k)]
    · have hlt : k < n := by omega
      have hsplit : d n * b ^ n = b ^ k * (b * (d n * b ^ (n - k - 1))) := by
        have hn : b ^ n = b ^ k * (b * b ^ (n - k - 1)) := by
          rw [← Nat.pow_succ', ← Nat.pow_add]
          congr 1
          omega
        rw [hn, Nat.mul_left_comm, Nat.mul_left_comm (d n)]
      rw [hsplit, Nat.add_mul_div_left _ _ (Nat.pow_pos hb), Nat.add_mul_mod_self_left, ih hlt]

end

theorem length_packElems (w : Nat) (es : List Nat) : (packElems (8 * w) es).length = es.length * w := by
  rw [packElems, length_toBytes, ceilDiv]
  have : es.length * (8 * w) = 8 * (es.length * w) := Nat.mul_left_comm ..
  omega

/-- Each byte of packed elements of whole bytes is its element's. -/
theorem getD_packElems {w : Nat} {es : List Nat} {k i : Nat} (hk : k < es.length) (hi : i < w) :
    (packElems (8 * w) es).getD (w * k + i) 0#8 = BitVec.ofNat 8 (es.getD k 0 / 256 ^ i) := by
  have hin : w * k + i < ceilDiv (es.length * (8 * w)) 8 := by
    have hlen := length_packElems w es
    rw [packElems, length_toBytes] at hlen
    have hle : w * (k + 1) ≤ w * es.length := Nat.mul_le_mul_left w hk
    rw [Nat.mul_succ] at hle
    rw [hlen, Nat.mul_comm es.length]
    omega
  have hbase : (2 : Nat) ^ (8 * w) = 256 ^ w := Nat.pow_mul 2 8 w
  have helem : ((List.range es.length).map fun e => es.getD e 0 % 2 ^ (8 * w) * 2 ^ (8 * w * e)).sum / (256 ^ w) ^ k %
      256 ^ w = es.getD k 0 % 256 ^ w := by
    simp only [Nat.pow_mul 2 (8 * w), hbase]
    exact digit_of_sum (fun e => Nat.mod_lt _ (Nat.pow_pos (by decide))) hk
  rw [packElems, getD_toBytes _ hin, Nat.pow_add, Nat.pow_mul 256 w k, ← Nat.div_div_eq_div_mul]
  refine BitVec.eq_of_toNat_eq ?_
  rw [BitVec.toNat_ofNat, BitVec.toNat_ofNat, ← byte_of_mod _ hi, helem, byte_of_mod _ hi]

/-! MOVE. -/

/-- The addresses of the index of row `r` of a GATHER. -/
def State.indexAddrs (s : State) (c : Cmd) (r : Nat) : List Nat :=
  if c.f8 0x38 = 1 then s.gaddrs c.part (c.f64 0x20 + 4 * r) 4 else []

/-- The index of row `r`, as the store holds it; a COPY takes row `r` itself. -/
def State.storeIndex (s : State) (c : Cmd) (r : Nat) : Nat :=
  if c.f8 0x38 = 1 then ofBytes ((s.indexAddrs c r).map (tget 0#8 s.store)) else r

/-- The addresses of the source row of an index. -/
def State.sourceAddrs (s : State) (c : Cmd) (i : Nat) : List Nat := s.gaddrs c.part (c.f64 0x10 + i * c.f32 0x30) (c.f32 0x2C)

/-- The addresses of the destination of row `r`. -/
def State.destAddrs (s : State) (c : Cmd) (r : Nat) : List Nat := s.gaddrs c.part (c.f64 0x18 + r * c.f32 0x34) (c.f32 0x2C)

theorem length_sourceAddrs (s : State) (c : Cmd) (i : Nat) : (s.sourceAddrs c i).length = c.f32 0x2C := by
  simp [State.sourceAddrs, State.gaddrs]

theorem length_destAddrs (s : State) (c : Cmd) (r : Nat) : (s.destAddrs c r).length = c.f32 0x2C := by
  simp [State.destAddrs, State.gaddrs]

/-- A row of a COPY or GATHER once its index `i` is read: zeroes, GATHER_INDEX, or the source row's bytes. -/
def State.moveFrom (u : State) (c : Cmd) (p r i : Nat) : EpiM State :=
  let dst := c.f64 0x18 + r * c.f32 0x34
  if c.f8 0x38 = 1 ∧ i = 0xFFFFFFFF then u.moveWrite c p dst (List.replicate (c.f32 0x2C) 0#8)
  else if c.f8 0x38 = 1 ∧ i ≥ c.f32 0x3C then .error (u, (sFault, 0x45))
  else
    let v := u.reads c.q c.t (u.sourceAddrs c i)
    match v.accessFault (u.sourceAddrs c i) with
    | some e => .error (v, e)
    | none => v.moveWrite c p dst (v.read (obsOf c p) (v.sourceAddrs c i))

/-- From `s` to `t` the addresses `ds` have got the bytes `bs`, and no other byte has changed. -/
def Moved (s t : State) (ds : List Nat) (bs : List Byte) : Prop :=
  (∀ k, k < ds.length → tget 0#8 t.store (ds.getD k 0) = bs.getD k 0#8) ∧
    (∀ g, g ∉ ds → tget 0#8 t.store g = tget 0#8 s.store g) ∧ t.hostMem = s.hostMem

section
variable {s : State} {c : Cmd} {r : Nat}

/-- A row reads its index first, where it has one: open bytes, so that the read only uses a free value. -/
theorem moveRow_indexed (hp : Plain s (s.indexAddrs c r)) (p : Nat) :
    ∃ k, s.moveRow c p r = State.moveFrom { s with freeCtr := k } c p r (s.storeIndex c r) := by
  by_cases hg : c.f8 0x38 = 1
  · rw [State.indexAddrs, if_pos hg] at hp
    have hread : s.bump.readAt (obsOf c p) c.part (c.f64 0x20 + 4 * r) 4 = _ := read_of_plain (plain_bump hp) (obsOf c p)
    have hfault := accessFault_of_plain (plain_bump hp)
    have hsame (a n : Nat) : s.bump.gaddrs c.part a n = s.gaddrs c.part a n := rfl
    refine ⟨s.freeCtr + 1, ?_⟩
    change _ = s.bump.moveFrom c p r _
    simp only [State.moveRow, State.moveFrom, State.storeIndex, State.indexAddrs, hg, decide_true, if_true,
      reads_of_plain hp, hsame, hfault, hread]
    rfl
  · refine ⟨s.freeCtr, ?_⟩
    change _ = s.moveFrom c p r _
    simp only [State.moveRow, State.moveFrom, State.storeIndex, hg, decide_false, Bool.false_eq_true, if_false]
    rfl

variable (hov : c.moveOverlap = false)
include hov

theorem moveWrite_open (hd : Plain s (s.destAddrs c r)) (hnd : (s.destAddrs c r).Nodup) {bs : List Byte}
    (hlen : bs.length = c.f32 0x2C) (p : Nat) :
    ∃ t, s.moveWrite c p (c.f64 0x18 + r * c.f32 0x34) bs = .ok t ∧ Moved s t (s.destAddrs c r) bs := by
  have hdlen : (s.destAddrs c r).length = bs.length := by rw [length_destAddrs, hlen]
  have hplaced : s.placed c.part (c.f64 0x18 + r * c.f32 0x34) bs = (s.destAddrs c r).zip bs := by
    rw [State.placed, hlen]
    rfl
  have hfst : ((s.destAddrs c r).zip bs).map (·.1) = s.destAddrs c r := List.map_fst_zip (Nat.le_of_eq hdlen)
  obtain ⟨hin, hout, hrest⟩ := write_zip (writable_of_plain hd) hnd (Nat.le_of_eq hdlen) (obsOf c p)
  refine ⟨s.write (obsOf c p) ((s.destAddrs c r).zip bs), ?_, hin, hout, (congrArg State.hostMem hrest :)⟩
  simp only [State.moveWrite, hplaced, hfst, writeFault_of_writable (writable_of_plain hd), hov, Bool.false_eq_true, if_false]

variable {i : Nat} (hd : Plain s (s.destAddrs c r)) (hnd : (s.destAddrs c r).Nodup) (p : Nat)
include hd hnd

theorem moveFrom_source (hi : ¬(c.f8 0x38 = 1 ∧ c.f32 0x3C ≤ i)) (hp : Plain s (s.sourceAddrs c i)) :
    ∃ t, s.moveFrom c p r i = .ok t ∧ Moved s t (s.destAddrs c r) ((s.sourceAddrs c i).map (tget 0#8 s.store)) := by
  have hzero : ¬(c.f8 0x38 = 1 ∧ i = 0xFFFFFFFF) := fun ⟨hg, heq⟩ => hi ⟨hg, by have := f32_lt c 0x3C; omega⟩
  have hread : s.bump.read (obsOf c p) (s.bump.sourceAddrs c i) = _ := read_of_plain (plain_bump hp) (obsOf c p)
  obtain ⟨t, ht, hmoved⟩ := moveWrite_open hov (plain_bump hd) hnd
    (bs := (s.sourceAddrs c i).map (tget 0#8 s.store)) (by rw [List.length_map, length_sourceAddrs]) p
  refine ⟨t, ?_, hmoved⟩
  simp only [State.moveFrom, if_neg hzero, ge_iff_le, if_neg hi, reads_of_plain hp, accessFault_of_plain (plain_bump hp), hread]
  exact ht

theorem moveFrom_zeroes (hg : c.f8 0x38 = 1) :
    ∃ t, s.moveFrom c p r 0xFFFFFFFF = .ok t ∧ Moved s t (s.destAddrs c r) (List.replicate (c.f32 0x2C) 0#8) := by
  obtain ⟨t, ht, hmoved⟩ := moveWrite_open hov hd hnd List.length_replicate p
  exact ⟨t, (if_pos ⟨hg, rfl⟩).trans ht, hmoved⟩

omit hov hd hnd in
theorem moveFrom_beyond (hg : c.f8 0x38 = 1) (hne : i ≠ 0xFFFFFFFF) (hi : c.f32 0x3C ≤ i) :
    s.moveFrom c p r i = .error (s, (sFault, 0x45)) :=
  (if_neg fun h => hne h.2).trans (if_pos ⟨hg, hi⟩)

end

/-! CONVERT. -/

/-- A row of at most 128 values is one group. -/
theorem chunks_one {α : Type} {vs : List α} (hne : vs ≠ []) (hlen : vs.length ≤ 128) (fuel : Nat) :
    chunks 128 (fuel + 2) vs = [vs] := by
  have hsome : vs.isEmpty = false := by simpa using hne
  rw [chunks, hsome, List.take_of_length_le hlen, List.drop_of_length_le hlen]
  rfl

/-- An element whose bytes lie open is the same when free values have been used. -/
theorem elem_bump_of_plain {s : State} {part : Nat} {d : Desc} {E i k : Nat} (hp : Plain s (s.elemAddrs part d E i k))
    (o : Obs) : s.bump.elem o part d E i k = s.elem o part d E i k := by
  have hread {a n : Nat} (ha : ∀ g ∈ s.gaddrs part a n, g ∈ s.elemAddrs part d E i k) :
      s.bump.readAt o part a n = s.readAt o part a n :=
    (read_of_plain (plain_bump (plain_mono hp ha)) o).trans (read_of_plain (plain_mono hp ha) o).symm
  have hplace := hread (a := (d.place i k).1) (n := (d.place i k).2.1) fun g hg => List.mem_append_left _ hg
  have hscale (hb : isBlock d.stored = true) := hread (a := d.scalePlace E i k) (n := 1) fun g hg =>
    List.mem_append_right _ (by simpa [hb, State.gaddrs] using hg)
  simp only [State.elem, hplace]
  split
  · next hb => rw [hscale hb]
  · rfl

/-- The scalar formats of whole bytes. -/
def byteFormats : List Nat := [0x01, 0x02, 0x09, 0x10, 0x11, 0x12, 0x13]

theorem byteFormats_scalar : ∀ f ∈ byteFormats, isBlock f = false ∧ f ≠ 0x22 ∧ f ≠ 0 ∧ elemBits f ≠ 4 ∧
    elemBits f = 8 * (elemBits f / 8) ∧ 0 < elemBits f / 8 := by decide

theorem codeRow_bits {f : Nat} (hf : f ∈ byteFormats) (coarse : Word) (sat : Bool) (rms : List RM) (vs : List Fp) :
    (codeRow f coarse sat rms vs).bits = (List.range vs.length).map fun i =>
      (convScalar f (rms.getD i .rne) sat (vs.getD i (.zero false))).bits := by
  obtain ⟨hblock, hpair, -⟩ := byteFormats_scalar f hf
  simp only [codeRow, hblock, hpair, Bool.false_eq_true, if_false, List.map_map]
  rfl

/-- The elements of row `r` of a CONVERT, each as the output format holds it. -/
def State.convertedRow (s : State) (c : Cmd) (p u gen r n : Nat) : List Nat :=
  (List.range n).map fun k => (convScalar c.dOut.format ((c.convLanes u gen).getD k .rne) c.satMode
    (c.srcValue (s.elem (obsOf c p) c.part c.dA n r k))).bits

section
variable {s : State} {c : Cmd} {r n : Nat} (hf : c.dOut.format ∈ byteFormats)
include hf

theorem rowBytes_bytes : rowBytes c.dOut.format n = n * (elemBits c.dOut.format / 8) := by
  obtain ⟨hblock, -, -, -, hbits, -⟩ := byteFormats_scalar _ hf
  have hrow : n * elemBits c.dOut.format = 8 * (n * (elemBits c.dOut.format / 8)) := by
    rw [Nat.mul_left_comm, ← hbits]
  simp only [rowBytes, hblock, Bool.false_eq_true, if_false, ceilDiv]
  omega

/-- The addresses of a whole row of `n` elements. -/
theorem outAddrs_scalar : s.outAddrs c r 0 n = s.gaddrs c.part (c.dOut.addr + r * c.dOut.pitch +
    0 * elemBits c.dOut.format / 8) (n * (elemBits c.dOut.format / 8)) := by
  obtain ⟨hblock, hpair, hsome, -⟩ := byteFormats_scalar _ hf
  simp only [State.outAddrs, hblock, hpair, hsome, rowBytes_bytes hf, Bool.false_eq_true, if_false, List.append_nil]

/-- The bytes of a whole row of `n` elements, each at its address. -/
theorem rowBytes_scalar {k : Coded} (hk : k.bits.length = n) (o : Obs) :
    s.rowBytes c o r 0 n k = (s.outAddrs c r 0 n).zip (packElems (elemBits c.dOut.format) k.bits) := by
  obtain ⟨hblock, hpair, -, hfour, hbits, -⟩ := byteFormats_scalar _ hf
  have hlen : (packElems (elemBits c.dOut.format) k.bits).length = n * (elemBits c.dOut.format / 8) := by
    rw [hbits, length_packElems, hk, ← hbits]
  have hall : (List.range (n * (elemBits c.dOut.format / 8))).filter (fun j => lanesBelow n (8 * j / elemBits c.dOut.format)) =
      List.range (n * (elemBits c.dOut.format / 8)) := List.filter_eq_self.2 fun j hj => by
    have hlt : j < n * (elemBits c.dOut.format / 8) := List.mem_range.1 hj
    rw [lanesBelow, hbits, Nat.mul_div_mul_left _ _ (by decide : 0 < 8)]
    exact decide_eq_true (Nat.div_lt_of_lt_mul (by rwa [Nat.mul_comm]))
  have hwhole (l : List (Nat × Byte)) (hl : l.length = n * (elemBits c.dOut.format / 8)) :
      (List.range (n * (elemBits c.dOut.format / 8))).map (fun j => l.getD j (0, 0#8)) = l := by
    refine List.ext_getElem (by simp [hl]) fun j h₁ h₂ => ?_
    simp [h₂]
  simp only [State.rowBytes, hblock, hpair, Bool.false_eq_true, if_false, State.laneBytes, if_neg hfour, State.placed, hlen,
    hall, ← outAddrs_scalar hf]
  exact hwhole _ (by simp [outAddrs_scalar hf, State.gaddrs, hlen])

theorem writeRow_scalar (hp : Plain s (s.outAddrs c r 0 n)) {k : Coded} (hk : k.bits.length = n) (o : Obs) :
    s.writeRow c o r 0 n k = .ok (s.write o ((s.outAddrs c r 0 n).zip (packElems (elemBits c.dOut.format) k.bits))) := by
  obtain ⟨-, -, -, -, hbits, -⟩ := byteFormats_scalar _ hf
  have hfst : ((s.outAddrs c r 0 n).zip (packElems (elemBits c.dOut.format) k.bits)).map (·.1) = s.outAddrs c r 0 n := by
    refine List.map_fst_zip (Nat.le_of_eq ?_)
    rw [hbits, length_packElems, hk, outAddrs_scalar hf]
    simp [State.gaddrs]
  simp only [State.writeRow, rowBytes_scalar hf hk, hfst, writeFault_of_writable (writable_of_plain hp)]

/-- A row of a CONVERT whose source and destination lie open is converted as one group, and written (R85). -/
theorem convertRow_open (p u gen : Nat) (hn : c.f32 0x24 = n) (hpos : 0 < n) (hle : n ≤ 128)
    (hp : Plain s (s.convertAddrs c r ++ s.outAddrs c r 0 n)) :
    ∃ f, s.convertRow c p u gen r = .ok ((s.bump.write (obsOf c p) ((s.outAddrs c r 0 n).zip
      (packElems (elemBits c.dOut.format) (s.convertedRow c p u gen r n)))).modCmd c.q c.t f, c.genAfter gen) := by
  obtain ⟨-, -, hsome, -⟩ := byteFormats_scalar _ hf
  have hsource := plain_mono hp (ks := s.convertAddrs c r) fun _ hk => List.mem_append_left _ hk
  have hdest := plain_mono hp (ks := s.outAddrs c r 0 n) fun _ hk => List.mem_append_right _ hk
  have hvalues : ((List.range n).map fun k => c.srcValue (s.bump.elem (obsOf c p) c.part c.dA n r k)) =
      (List.range n).map fun k => c.srcValue (s.elem (obsOf c p) c.part c.dA n r k) := by
    refine List.map_congr_left fun k hk => ?_
    rw [elem_bump_of_plain (plain_mono hsource fun g hg => List.mem_flatMap.2 ⟨k, hn.symm ▸ hk, hn.symm ▸ hg⟩)]
  generalize hvs : ((List.range n).map fun k => c.srcValue (s.elem (obsOf c p) c.part c.dA n r k)) = vs at hvalues
  have hlen : vs.length = n := by simp [← hvs]
  have hgroups : chunks 128 (n + 1) vs = [vs] := by
    obtain ⟨k, rfl⟩ := Nat.exists_eq_succ_of_ne_zero (Nat.ne_of_gt hpos)
    exact chunks_one (List.ne_nil_of_length_pos (hlen.symm ▸ hpos)) (hlen.symm ▸ hle) k
  have hbits : (codeRow c.dOut.format c.dOut.coarse c.satMode (c.convLanes u gen) vs).bits =
      s.convertedRow c p u gen r n := by
    rw [codeRow_bits hf, hlen]
    refine List.map_congr_left fun k hk => ?_
    have hk' := List.mem_range.1 hk
    simp [← hvs, hk']
  have hwrite : s.bump.writeRow c (obsOf c p) r 0 n (codeRow c.dOut.format c.dOut.coarse c.satMode (c.convLanes u gen) vs) =
      .ok (s.bump.write (obsOf c p) ((s.outAddrs c r 0 n).zip
        (packElems (elemBits c.dOut.format) (s.convertedRow c p u gen r n)))) := by
    rw [← hbits]
    exact writeRow_scalar hf (plain_bump hdest) (by simp [codeRow_bits hf, hlen]) _
  simp only [State.convertRow, hn, reads_of_plain hsource, accessFault_of_plain (plain_bump hsource), hvalues, hgroups]
  obtain ⟨k, hk⟩ : ∃ k, codeRow c.dOut.format c.dOut.coarse c.satMode (c.convLanes u gen) vs = k := ⟨_, rfl⟩
  rw [hk] at hwrite
  have hone : List.range [vs].length = [0] := rfl
  refine ⟨fun d => d.count k.sat k.van, ?_⟩
  rw [hone, List.foldlM_cons]
  simp only [List.foldlM_nil, bind_pure, if_neg hsome, Nat.mul_zero, List.getD_cons_zero, hlen, hk, hwrite]

/-- Such a row leaves each byte of its converted elements in its place, and nothing else of the store changes. -/
theorem convertRow_effect (p u gen : Nat) (hn : c.f32 0x24 = n) (hpos : 0 < n) (hle : n ≤ 128)
    (hp : Plain s (s.convertAddrs c r ++ s.outAddrs c r 0 n)) (hnd : (s.outAddrs c r 0 n).Nodup) :
    let w := elemBits c.dOut.format / 8
    ∃ t g, s.convertRow c p u gen r = .ok (t, g) ∧
      (∀ k i, k < n → i < w → tget 0#8 t.store ((s.outAddrs c r 0 n).getD (w * k + i) 0) =
        BitVec.ofNat 8 ((convScalar c.dOut.format ((c.convLanes u gen).getD k .rne) c.satMode
          (c.srcValue (s.elem (obsOf c p) c.part c.dA n r k))).bits / 256 ^ i)) ∧
      (∀ a, a ∉ s.outAddrs c r 0 n → tget 0#8 t.store a = tget 0#8 s.store a) := by
  intro w
  obtain ⟨count, hrow⟩ := convertRow_open hf p u gen hn hpos hle hp
  have hdest := plain_mono hp (ks := s.outAddrs c r 0 n) fun _ hk => List.mem_append_right _ hk
  obtain ⟨-, -, -, -, hbits, -⟩ := byteFormats_scalar _ hf
  have hlen : (s.outAddrs c r 0 n).length = n * (elemBits c.dOut.format / 8) := by
    rw [outAddrs_scalar hf, State.gaddrs, List.length_map, List.length_range]
  have helems : (s.convertedRow c p u gen r n).length = n := by simp [State.convertedRow]
  obtain ⟨hin, hout, -⟩ := write_zip (writable_of_plain (plain_bump hdest)) hnd
    (bs := packElems (elemBits c.dOut.format) (s.convertedRow c p u gen r n)) (Nat.le_of_eq (by rw [hbits, length_packElems, helems, hlen])) (obsOf c p)
  refine ⟨_, _, hrow, fun k i hk hi => ?_, hout⟩
  have hplace : w * k + i < (s.outAddrs c r 0 n).length := by
    have hnext : w * (k + 1) ≤ w * n := Nat.mul_le_mul_left w hk
    rw [Nat.mul_succ] at hnext
    rw [hlen, show n * (elemBits c.dOut.format / 8) = w * n from Nat.mul_comm ..]
    omega
  refine (hin _ hplace).trans ?_
  rw [hbits, getD_packElems (helems.symm ▸ hk) hi]
  simp [State.convertedRow, hk]

end

/-! O60. -/

/-- A SIGNAL whose word and result lie open changes its word, leaves the old value at RESULT_ADDR, and ends (R158, R159). -/
theorem runSignal_effect {s : State} {c : Cmd} (hc : s.cmd? c.q c.t = some c) (hfin : c.fin = none) (hdbg : c.dbg = false)
    (hgs : s.gaddrs c.part (c.f64 0x10) (c.f8 0x31) = wordAddrs (s.gaddr c.part (c.f64 0x10)) (c.f8 0x31))
    (hnd : (s.resultAddrs c).Nodup) (h : WordOpen s (s.gaddr c.part (c.f64 0x10)) (c.f8 0x31) (s.resultAddrs c)) :
    let g := s.gaddr c.part (c.f64 0x10)
    let w := c.f8 0x31
    let t := s.runSignal c
    (t.cmd? c.q c.t).map (·.fin) = some (some (c.okStatus, 0)) ∧
      (∀ i, i < (s.resultAddrs c).length → tget 0#8 t.store ((s.resultAddrs c).getD i 0) =
        BitVec.ofNat 8 (s.storeWord g w / 256 ^ i)) ∧
      (∀ k, k ∉ wordAddrs g w → k ∉ s.resultAddrs c → tget 0#8 t.store k = tget 0#8 s.store k) ∧
      (c.scope = 0 → t.wordAt g w = s.signalValue c ∧ ∀ k, k ∉ s.resultAddrs c → tget 0#8 t.store k = tget 0#8 s.store k) ∧
      (c.scope ≠ 0 → ∀ i, i < w → g + i ∉ s.resultAddrs c →
        tget 0#8 t.store (g + i) = BitVec.ofNat 8 (s.signalValue c / 256 ^ i)) := by
  intro g w t
  obtain ⟨hsig, hold⟩ := signalled_signals h
  have hrlen : (s.resultAddrs c).length ≤ 8 := by
    unfold State.resultAddrs
    split <;> simp [State.gaddrs]
  obtain ⟨hin, hout, hrest⟩ := write_zip (writable_result h) hnd (bs := toBytes (s.signals c).2 8)
    (by rwa [length_toBytes]) (.crest c.q c.t dispWriter)
  have hcmd : (s.signalled c).cmd? c.q c.t = some c :=
    (congrArg (fun u : State => u.cmd? c.q c.t) (hrest.trans hsig.rest) :).trans hc
  have hend : t = (s.signalled c).endCmd c.q c.t c.okStatus 0 := runSignal_open hgs h
  have hmem : t.memories = (s.signalled c).memories := hend ▸ memories_endCmd hcmd hdbg (okStatus_lt c) 0
  rw [store_of_memories hmem]
  refine ⟨?_, fun i hi => ?_, fun k hk hr => ?_, fun hzero => ⟨?_, fun k hr => ?_⟩, fun hne i hi hr => ?_⟩
  · rw [hend]
    exact fin_endCmd (by rw [hcmd, Option.map_some, hfin]) _ _
  · rw [← hold, ← getD_toBytes _ (by omega : i < 8)]
    exact hin i hi
  · exact (hout k hr).trans (hsig.others k hk)
  · obtain ⟨-, hbuf⟩ := hsig.crest hzero
    exact wordAt_of_appended (abufHit_false h) 
      (((abuf_of_memories hmem).trans (congrArg State.abuf hrest :)).trans hbuf)
  · obtain ⟨hsame, -⟩ := hsig.crest hzero
    exact (hout k hr).trans (by rw [hsame])
  · exact (hout _ hr).trans (hsig.word hne i hi)

/-- Settles O60: each command has a law of its own for the state that it leaves before it ends, and its end leaves the
memories alone. -/
theorem dispatcherCommandsAndMovesTakeEffect : Obligations.DispatcherCommandsAndMovesTakeEffect := by
  refine ⟨fun s c hc hfin hdbg => ⟨?signal, ?fence, fun hscope h hh => runFence_held hscope hh, ?marker⟩, ?move, ?convert⟩
  case signal =>
    intro w g gs rs old new t hw hal hgs hnd hp hroom hline
    exact runSignal_effect hc hfin hdbg hgs hnd ⟨hw, hal, hp, hroom, hline⟩
  case fence =>
    intro hfree
    have hmem := runFence_memories hc hdbg hfree
    refine ⟨runFence_ends hc hfin hfree, fun e he hcrest hq ht => ?_,
      fun hscope => (abuf_of_memories hmem).trans (fenced_abuf hscope), fun hscope => ?_⟩
    · obtain ⟨d, hd, hde⟩ := pend_of_memories hmem he
      simp only [Pend.issued, Prod.mk.injEq] at hde
      obtain ⟨hdc, hdq, hdt, hds⟩ := hde
      rw [← hds]
      exact fenced_performed hd (hdc ▸ hcrest) (hdq.trans hq) (hdt ▸ ht)
    · rw [store_of_memories hmem, abuf_of_memories hmem, State.fenced, if_pos hscope]
      exact ⟨rfl, rfl⟩
  case marker =>
    intro hst hfirst
    refine ⟨fun hop => ?_, fun hop => markers_waits hfirst hop⟩
    rw [markers_ends hfirst hst hop]
    exact ⟨fin_endCmd (by rw [hc, Option.map_some, hfin]) _ _,
      store_of_memories (memories_endCmd hc hdbg (okStatus_lt c) 0)⟩
  case move =>
    intro s c p r hmode hov n is i ss ds hp hnd
    obtain ⟨m, hrow⟩ := moveRow_indexed (plain_mono hp fun _ hk => List.mem_append_left _ hk) p
    have hdest : Plain { s with freeCtr := m } ds := plain_freeCtr (plain_mono hp fun _ hk => List.mem_append_right _ hk) m
    refine ⟨fun hi hss => ?source, fun hg hi => ?zeroes, fun hg hne hi => ?beyond⟩
    case source =>
      obtain ⟨t, ht, hin, hout, hhost⟩ := moveFrom_source hov hdest hnd p hi (plain_freeCtr hss m)
      refine ⟨t, hrow.trans ht, fun k hk => (hin k (Nat.lt_of_lt_of_eq hk (length_destAddrs ..).symm)).trans ?_, hout, hhost⟩
      have hk' : k < ss.length := Nat.lt_of_lt_of_eq hk (length_sourceAddrs s c i).symm
      change (ss.map (tget 0#8 s.store)).getD k 0#8 = _
      simp [hk']
    case zeroes =>
      obtain ⟨t, ht, hin, hout, -⟩ := moveFrom_zeroes hov hdest hnd p hg
      have hindex : s.storeIndex c r = 0xFFFFFFFF := hi
      refine ⟨t, (hindex ▸ hrow).trans ht, fun k hk => (hin k (Nat.lt_of_lt_of_eq hk (length_destAddrs ..).symm)).trans ?_, hout⟩
      simp only [List.getD_eq_getElem?_getD, List.getElem?_replicate]
      split <;> rfl
    case beyond => exact ⟨_, hrow.trans (moveFrom_beyond p hg hne hi), rfl⟩
  case convert =>
    intro s c p u gen r n f w ds hpos hle hf hp hnd
    exact convertRow_effect hf p u gen rfl hpos hle hp hnd

end Sys2Proof.Machine
end

section
/-!
The firmware mailbox (O39): the first check of R176 that a command fails, how a command ends, and what each of the four commands
of Table HOST-5 leaves.
-/
namespace Sys2Proof.Machine
open Sys2Proof.Claim

/-! Bytes written to a table and read back. -/

theorem tgetFrom_tsetFrom {α : Type} [DecidableEq α] (d : α) (t : Tbl α) (k : Nat) {vs : List α} {j n : Nat}
    (h : j + n ≤ vs.length) : tgetFrom d (tsetFrom d t k vs) (k + j) n = (vs.drop j).take n := by
  refine List.ext_getElem (by simp only [tgetFrom, List.length_map, List.length_range, List.length_take, List.length_drop]; omega)
    fun i hi _ => ?_
  have hin : i < n := by simpa [tgetFrom] using hi
  have hlt : j + i < vs.length := by omega
  have hkey : k ≤ k + j + i ∧ k + j + i < k + vs.length := by omega
  have hpos : k + j + i - k = j + i := by omega
  simp [tgetFrom, tget_tsetFrom, hkey, hpos, hlt]

/-! The checks, and the end of a command. -/

section
variable {s : State} {lenOk firmware : Bool}

theorem mbCheck_badLength (h : lenOk = false) : s.mbCheck lenOk firmware = some 2 := by
  simp [State.mbCheck, h]

theorem mbCheck_busy (h : lenOk = true) (hbusy : s.mg.running ≠ none ∨ s.fw.verifying ≠ none) :
    s.mbCheck lenOk firmware = some 3 := by
  have hbusy : (s.mg.running.isSome || s.fw.verifying.isSome) = true := by
    simpa [Option.isSome_iff_ne_none] using hbusy
  simp only [State.mbCheck, h, hbusy, Bool.not_true, Bool.false_eq_true, if_false, if_true]

/-- With the management core free only the policy is left to check. -/
theorem mbCheck_free (h : lenOk = true) (hrun : s.mg.running = none) (hver : s.fw.verifying = none) :
    s.mbCheck lenOk firmware = if firmware && !s.mg.policy.testBit 1 then some 4 else none := by
  simp [State.mbCheck, h, hrun, hver, polFw]

theorem mbCheck_notPermitted (h : lenOk = true) (hrun : s.mg.running = none) (hver : s.fw.verifying = none)
    (hfw : firmware = true) (hpol : s.mg.policy.testBit 1 = false) : s.mbCheck lenOk firmware = some 4 := by
  rw [mbCheck_free h hrun hver, hfw, hpol]
  rfl

theorem mbCheck_passes (h : lenOk = true) (hrun : s.mg.running = none) (hver : s.fw.verifying = none)
    (hpol : firmware = true → s.mg.policy.testBit 1 = true) : s.mbCheck lenOk firmware = none := by
  rw [mbCheck_free h hrun hver]
  cases firmware with
  | false => rfl
  | true => rw [hpol rfl]; rfl

end

theorem sendMsix_frame (s : State) (v : Nat) :
    (s.sendMsix v).fw = s.fw ∧ (s.sendMsix v).mg = s.mg ∧ (s.sendMsix v).log = s.log := by
  unfold State.sendMsix
  split <;> exact ⟨rfl, rfl, rfl⟩

/-- The end of a mailbox command writes MB_STATUS and clears GO (R175). -/
theorem mbEnd_frame (s : State) (result outLen : Nat) :
    (s.mbEnd result outLen).fw = { s.fw with go := false, result := result, outLen := outLen } ∧
    (s.mbEnd result outLen).mg = s.mg ∧ (s.mbEnd result outLen).log = s.log := by
  unfold State.mbEnd
  dsimp only
  split
  · exact sendMsix_frame ..
  · exact ⟨rfl, rfl, rfl⟩

/-- A row of Table HOST-5 that is due ends with the RESULT of the first check that it fails, one of LEN, BUSY and policy. -/
theorem exec_mailboxRow {s : State} {op : Nat} {i : Instr} {fits : Prop} (hrow : (op, i, fits) ∈ mailboxRows s)
    (hdue : s.mbDue op = true) : ∃ lenOk firmware : Bool, (lenOk = true ↔ fits) ∧
      (op = 0x10 ∨ op = 0x11 → firmware = true) ∧ ∀ r, s.mbCheck lenOk firmware = some r → exec i s = .next (s.mbEnd r 0) := by
  simp only [mailboxRows, List.mem_cons, Prod.mk.injEq, List.not_mem_nil, or_false] at hrow
  obtain ⟨rfl, rfl, rfl⟩ | ⟨rfl, rfl, rfl⟩ | ⟨rfl, rfl, rfl⟩ | ⟨rfl, rfl, rfl⟩ := hrow
  · refine ⟨_, false, decide_eq_true_iff, by decide, fun r hr => ?_⟩
    change execIdentify s = _
    simp only [execIdentify, hdue, hr, Bool.not_true, Bool.false_eq_true, if_false]
  · refine ⟨_, true, decide_eq_true_iff, fun _ => rfl, fun r hr => ?_⟩
    change execFwTransfer s = _
    simp only [execFwTransfer, hdue, hr, Bool.not_true, Bool.false_eq_true, if_false]
  · refine ⟨_, true, decide_eq_true_iff, fun _ => rfl, fun r hr => ?_⟩
    change execFwActivate s = _
    simp only [execFwActivate, hdue, hr, Bool.not_true, Bool.false_eq_true, if_false]
  · refine ⟨_, false, decide_eq_true_iff, by decide, fun r hr => ?_⟩
    change execLogRead s = _
    simp only [execLogRead, hdue, hr, Bool.not_true, Bool.false_eq_true, if_false]

/-! The commands whose checks pass. -/

/-- What IDENTIFY answers: MG_ID, the firmware's version, SE_TAINT (Table HOST-5). -/
def State.identity (s : State) : List Byte := toBytes 0x4F111620 4 ++ toBytes s.fw.version 4 ++ toBytes s.mg.taint 4

theorem length_identity (s : State) : s.identity.length = 12 := by
  simp only [State.identity, List.length_append, length_toBytes]

/-- The 32 bytes of a log entry (Table FLT-4). -/
def LogEntry.bytes (e : LogEntry) : List Byte := e.words.flatMap fun w => toBytes w 4

theorem LogEntry.length_bytes (e : LogEntry) : e.bytes.length = 32 := by
  simp only [LogEntry.bytes, LogEntry.words, List.flatMap_cons, List.flatMap_nil, List.length_append, length_toBytes,
    List.length_nil]

/-- What LOG_READ answers: the entries from its index on, oldest first, at most 120 (R281). -/
def State.logBytes (s : State) : List Byte :=
  ((s.log.reverse.filter fun e => decide (s.mbArg 4 ≤ e.seq)).take 120).flatMap LogEntry.bytes

theorem length_logBytes (s : State) :
    s.logBytes.length = 32 * min 120 (s.log.filter fun e => decide (s.mbArg 4 ≤ e.seq)).length := by
  simp only [State.logBytes, List.length_flatMap, LogEntry.length_bytes, List.map_const', List.sum_replicate_nat,
    List.length_take, List.filter_reverse, List.length_reverse, Nat.mul_comm]

section
variable {s : State} (hrun : s.mg.running = none) (hver : s.fw.verifying = none)
include hrun hver

theorem exec_identify (hdue : s.mbDue 1 = true) (hlen : s.fw.len = 0) : exec .identify s =
    .next ((s.modFw fun f => { f with payload := tsetFrom 0#8 f.payload 0 s.identity }).mbEnd 0 12) := by
  have hcheck := mbCheck_passes (firmware := false) (decide_eq_true hlen) hrun hver nofun
  change execIdentify s = _
  simp only [execIdentify, hdue, hcheck, Bool.not_true, Bool.false_eq_true, if_false]
  rfl

theorem exec_fwTransfer (hdue : s.mbDue 0x10 = true)
    (hlen : 4 ≤ s.fw.len ∧ s.fw.len ≤ 3840 ∧ s.mbArg 4 + (s.fw.len - 4) ≤ 2 ^ 22) (hpol : s.mg.policy.testBit 1 = true) :
    exec .fwTransfer s = .next ((s.modFw fun f => { f with
      stage := tsetFrom 0#8 f.stage (s.mbArg 4) (tgetFrom 0#8 s.fw.payload 4 (s.fw.len - 4)) }).mbEnd 0 0) := by
  have hcheck := mbCheck_passes (firmware := true) (decide_eq_true hlen) hrun hver fun _ => hpol
  change execFwTransfer s = _
  simp only [execFwTransfer, hdue, hcheck, Bool.not_true, Bool.false_eq_true, if_false]

theorem exec_fwActivate (hdue : s.mbDue 0x11 = true) (hlen : s.fw.len = 4 ∧ 0 < s.mbArg 4 ∧ s.mbArg 4 ≤ 2 ^ 22)
    (hpol : s.mg.policy.testBit 1 = true) : exec .fwActivate s = .next { s with
      fw := { s.fw with verifying := some (s.mbArg 4, 0) }
      mg := { s.mg with stage := if s.mg.stage = 6 then 7 else s.mg.stage } } := by
  have hcheck := mbCheck_passes (firmware := true) (decide_eq_true hlen) hrun hver fun _ => hpol
  change execFwActivate s = _
  simp only [execFwActivate, hdue, hcheck, Bool.not_true, Bool.false_eq_true, if_false]
  rfl

theorem exec_logRead (hdue : s.mbDue 0x20 = true) (hlen : s.fw.len = 4) : exec .logRead s =
    .next ((s.modFw fun f => { f with payload := tsetFrom 0#8 f.payload 0 s.logBytes }).mbEnd 0 s.logBytes.length) := by
  have hcheck := mbCheck_passes (firmware := false) (decide_eq_true hlen) hrun hver nofun
  change execLogRead s = _
  simp only [execLogRead, hdue, hcheck, Bool.not_true, Bool.false_eq_true, if_false]
  rfl

end

/-- GO with an opcode that Table HOST-5 does not list ends the command in the step of the write (R176). -/
theorem writeMailbox_badOpcode {s : State} (hl : s.mailboxLive = true) {v : Nat} (hv : v.testBit 0 = true)
    (hop : mbListed s.fw.opcode = false) : s.writeMailbox 0 v =
      (s.modFw fun f => { f with go := true, irq := v.testBit 1, vector := bits v 8 2 }).mbEnd 1 0 := by
  simp [State.writeMailbox, hl, hv, hop, State.modFw]

/-- Settles O39: a row that fails a check ends with that check's RESULT and changes only MB_STATUS and GO; a row that passes has
its own law. -/
theorem mailboxCommandsEnd : Obligations.MailboxCommandsEnd := by
  refine ⟨?badOpcode, ?fails, fun s hrun hver => ⟨?identify, ?transfer, ?activate, ?logRead⟩⟩
  case badOpcode =>
    intro s v hl hv h1 h10 h11 h20
    have hop : mbListed s.fw.opcode = false := by simp [mbListed, h1, h10, h11, h20]
    obtain ⟨hfw, hmg, -⟩ := mbEnd_frame (s.modFw fun f => { f with go := true, irq := v.testBit 1, vector := bits v 8 2 }) 1 0
    refine ⟨_, congrArg Host.Outcome.next (writeMailbox_badOpcode hl hv hop), ?_⟩
    rw [hfw, hmg]
    exact ⟨rfl, rfl, rfl, rfl, rfl⟩
  case fails =>
    intro s op i fits hrow hdue ends
    obtain ⟨lenOk, firmware, hlen, hfirm, hexec⟩ := exec_mailboxRow hrow hdue
    have hends (r : Nat) (hr : s.mbCheck lenOk firmware = some r) : ends r := by
      obtain ⟨hfw, hmg, -⟩ := mbEnd_frame s r 0
      refine ⟨_, hexec r hr, ?_⟩
      rw [hfw, hmg]
      exact ⟨rfl, rfl, rfl, rfl, rfl, rfl, rfl, rfl⟩
    exact ⟨fun hfits => hends 2 (mbCheck_badLength (Bool.eq_false_iff.2 fun h => hfits (hlen.1 h))),
      fun hfits hbusy => hends 3 (mbCheck_busy (hlen.2 hfits) hbusy),
      fun hfits hrun hver hop hpol =>
        hends 4 (mbCheck_notPermitted (hlen.2 hfits) hrun hver (hfirm hop) hpol)⟩
  case identify =>
    intro hdue hlen
    obtain ⟨hfw, -, -⟩ := mbEnd_frame (s.modFw fun f => { f with payload := tsetFrom 0#8 f.payload 0 s.identity }) 0 12
    have hid := tgetFrom_tsetFrom 0#8 s.fw.payload 0 (vs := s.identity) (j := 0) (n := 4) (by simp [length_identity])
    have htaint := tgetFrom_tsetFrom 0#8 s.fw.payload 0 (vs := s.identity) (j := 8) (n := 4) (by simp [length_identity])
    refine ⟨_, exec_identify hrun hver hdue hlen, ?_⟩
    rw [hfw]
    exact ⟨rfl, rfl, rfl, hid, htaint, rfl, rfl⟩
  case transfer =>
    intro hdue hmin hmax hroom hpol
    refine ⟨_, exec_fwTransfer hrun hver hdue ⟨hmin, hmax, hroom⟩ hpol, ?_⟩
    rw [(mbEnd_frame ..).1]
    exact ⟨rfl, rfl, rfl, rfl⟩
  case activate => exact fun hdue hlen hpos hmax hpol => exec_fwActivate hrun hver hdue ⟨hlen, hpos, hmax⟩ hpol
  case logRead =>
    intro hdue hlen
    obtain ⟨hfw, -, hlog⟩ := mbEnd_frame (s.modFw fun f => { f with payload := tsetFrom 0#8 f.payload 0 s.logBytes }) 0
      s.logBytes.length
    refine ⟨_, exec_logRead hrun hver hdue hlen, ?_⟩
    rw [hfw, hlog]
    exact ⟨rfl, rfl, length_logBytes s, rfl⟩

end Sys2Proof.Machine
end

section
/-!
Bias commands (O40): how one starts, and what a page that ends leaves before the accesses that it held go on.
-/
namespace Sys2Proof.Machine

/-! A command that starts. -/

section
variable {s : State} (hs : s.serving = true)
include hs

theorem exec_toHost : exec .toHost s = .next (s.biasStart true) := congrArg Host.Outcome.next (if_pos hs)

theorem exec_toDevice : exec .toDevice s = .next (s.biasStart false) := congrArg Host.Outcome.next (if_pos hs)

end

theorem biasStart_fits {s : State} (h : s.biasOk = true) (toHost : Bool) : s.biasStart toHost =
    { s with bias := { s.bias with busy := true, toHost := toHost, cur := s.bias.page, left := s.bias.count } } := if_pos h

theorem biasStart_refused {s : State} (h : s.biasOk = false) (toHost : Bool) :
    s.biasStart toHost = { s with bias := { s.bias with err := true } } := if_neg (Bool.eq_false_iff.1 h)

/-! A page that changes. -/

/-- What no line's move between host and die changes: bias control, the partitions, the crests. -/
def State.unmoved (s : State) : Bias × Tbl Part × Tbl Crest := (s.bias, s.parts, s.crests)

theorem unmoved_backLine (s : State) (l : Nat) (d : List Byte) (b : Bool) : (s.backLine l d b).unmoved = s.unmoved := by
  unfold State.backLine
  split <;> rfl

theorem unmoved_settle (s : State) (l : Nat) : (s.settle l).unmoved = s.unmoved := by
  unfold State.settle
  split
  · exact unmoved_backLine ..
  · rfl

theorem unmoved_giveUp (s : State) (l : Nat) : (s.giveUp l).unmoved = s.unmoved := by
  unfold State.giveUp
  dsimp only
  split
  · exact unmoved_backLine ..
  · rfl

theorem unmoved_pendLine (s : State) (o : Obs) (l : Nat) (m : List (Nat × Byte)) :
    (s.pendLine o l m).unmoved = s.unmoved := by
  unfold State.pendLine
  split
  · rfl
  · split <;> rfl

theorem unmoved_lineToDevice (s : State) (r : Returned) (l : Nat) : (s.lineToDevice r l).unmoved = s.unmoved := by
  have howned : (((s.emit (.cxl .rdOwn l)).settle l).giveUp l).unmoved = s.unmoved :=
    (unmoved_giveUp ..).trans (unmoved_settle ..)
  unfold State.lineToDevice
  dsimp only
  split
  · exact howned
  · exact (unmoved_backLine ..).trans ((unmoved_pendLine ..).trans howned)

/-- A page has changed to the bias `host`: of bias control its own entry alone, of the die no partition and no crest, and of the
store nothing where it went to the host. -/
structure PageChanged (s t : State) (g : Nat) (host : Bool) : Prop where
  bias : t.bias = { s.bias with hostPages := tset false s.bias.hostPages (g / 4096) host }
  parts : t.parts = s.parts
  crests : t.crests = s.crests
  store : host = true → t.store = s.store

theorem pageChanged_toHost (s : State) (g : Nat) : PageChanged s (s.pageToHost g) g true := ⟨rfl, rfl, rfl, fun _ => rfl⟩

theorem pageChanged_toDevice (s : State) (g : Nat) (r : Returned) : PageChanged s (s.pageToDevice g r) g false := by
  have hlines (ls : List Nat) : (ls.foldl (fun s l => s.lineToDevice r l) s).unmoved = s.unmoved :=
    List.foldlRecOn (motive := fun u => State.unmoved u = s.unmoved) ls _ rfl fun _ h _ _ => (unmoved_lineToDevice ..).trans h
  have hmoved := hlines ((List.range 64).map (g / 64 + ·))
  obtain ⟨hbias, hrest⟩ := Prod.mk.inj hmoved
  obtain ⟨hparts, hcrests⟩ := Prod.mk.inj hrest
  exact ⟨congrArg (fun b : Bias => { b with hostPages := tset false b.hostPages (g / 4096) false }) hbias, hparts, hcrests,
    nofun⟩

/-- The page that is changing has changed (R181). -/
def State.pageDone (s : State) (r : Returned) : State :=
  if s.bias.toHost then s.pageToHost (s.hdmAddr s.bias.cur) else s.pageToDevice (s.hdmAddr s.bias.cur) r

theorem pageChanged_pageDone (s : State) (r : Returned) :
    PageChanged s (s.pageDone r) (s.hdmAddr s.bias.cur) s.bias.toHost := by
  unfold State.pageDone
  cases s.bias.toHost with
  | true => exact pageChanged_toHost ..
  | false => exact pageChanged_toDevice ..

/-- Bias control goes on to the next page, or the command ends. -/
def Bias.nextPage (b : Bias) : Bias :=
  { b with cur := b.cur + 4096, left := b.left - 1, busy := !decide (b.left ≤ 1), done := b.done || decide (b.left ≤ 1) }

theorem exec_biasPageDone {s : State} (hb : s.bias.busy = true) (r : Returned) : exec (.biasPageDone r) s =
    .next ({ s.pageDone r with bias := (s.pageDone r).bias.nextPage }.resumeHeld .bias r.waited) := by
  change execBiasPageDone r s = _
  simp only [execBiasPageDone, hb, Bool.not_true, Bool.false_eq_true, if_false]
  rfl

/-- Settles O40: a command starts or is refused by what fits; a page that ends changes its own entry, and bias control goes on to
the next. -/
theorem biasCommandsChangePages : Obligations.BiasCommandsChangePages := by
  refine fun s ret bad waited => ⟨?starts, ?refused, ?page⟩
  case starts =>
    intro hs hok
    rw [exec_toHost hs, exec_toDevice hs, biasStart_fits hok, biasStart_fits hok]
    exact ⟨rfl, rfl⟩
  case refused =>
    intro hs hok
    rw [exec_toHost hs, exec_toDevice hs, biasStart_refused hok, biasStart_refused hok]
    exact ⟨rfl, rfl⟩
  case page =>
    intro hb
    obtain ⟨hbias, hparts, hcrests, hstore⟩ := pageChanged_pageDone s ⟨ret, bad, waited⟩
    refine ⟨_, exec_biasPageDone hb _, ?_, ?_, ?_, ?_, ?_, ?_, hstore, hparts, hcrests⟩
    all_goals simp only [Bias.nextPage, hbias]
    · exact fun g => tget_tset ..
    · simp only [← decide_not, Nat.not_le]
    · intro hlast
      simp [hlast]
    · intro hmore
      simp [Nat.not_le.2 hmore]

end Sys2Proof.Machine
end

section
/-!
What leaves the host link as it is: the end of a command, the loss of a unit, a store error, and what goes on once a hold is
over. For O50.
-/
namespace Sys2Proof.Machine

/-- What the host link is made of: its modules, which of them are retired, and its configuration (R168). -/
def State.linkConfig (s : State) : Tbl HMod × Nat × Nat := (s.mods, s.rep.retMod, s.hostConfig)

section
variable {s t u : State}

theorem linkConfig_foldl {β : Type} {f : State → β → State} (hf : ∀ s x, (f s x).linkConfig = s.linkConfig) (l : List β)
    (s : State) : (l.foldl f s).linkConfig = s.linkConfig :=
  List.foldlRecOn (motive := fun u => State.linkConfig u = s.linkConfig) l f rfl fun _ h x _ => (hf _ x).trans h

theorem linkConfig_ite {c : Prop} [Decidable c] (ht : t.linkConfig = s.linkConfig) (hu : u.linkConfig = s.linkConfig) :
    (if c then t else u).linkConfig = s.linkConfig := by
  split
  · exact ht
  · exact hu

/-- Nothing of the link is memory. -/
theorem linkConfig_of_unwritten (h : t.unwritten = s.unwritten) : t.linkConfig = s.linkConfig :=
  (congrArg State.linkConfig h :)

end

theorem linkConfig_modCmd (s : State) (q t : Nat) (f : Cmd → Cmd) : (s.modCmd q t f).linkConfig = s.linkConfig := rfl

theorem linkConfig_modCrest (s : State) (p : Nat) (f : Crest → Crest) : (s.modCrest p f).linkConfig = s.linkConfig := rfl

theorem linkConfig_modPart (s : State) (p : Nat) (f : Part → Part) : (s.modPart p f).linkConfig = s.linkConfig := rfl

theorem linkConfig_modPort (s : State) (k : Nat) (f : PPort → PPort) : (s.modPort k f).linkConfig = s.linkConfig := rfl

theorem linkConfig_alert (s : State) (i : Nat) : (s.alert i).linkConfig = s.linkConfig := rfl

theorem linkConfig_addLog (s : State) (e : LogEntry) : (s.addLog e).linkConfig = s.linkConfig := rfl

theorem linkConfig_write (s : State) (o : Obs) (m : List (Nat × Byte)) : (s.write o m).linkConfig = s.linkConfig :=
  linkConfig_of_unwritten (unwritten_write s o m)

/-! The end of a command. -/

theorem linkConfig_chargeHold (s : State) (h : Hold) : (s.chargeHold h).linkConfig = s.linkConfig :=
  (congrArg State.linkConfig (turned_chargeHold 0 s h).rest :)

theorem linkConfig_endHolds (s : State) (q t : Nat) (sel : Nat → Bool) : (s.endHolds q t sel).linkConfig = s.linkConfig :=
  linkConfig_foldl linkConfig_chargeHold _ s

theorem linkConfig_unspecify (s : State) (c : Cmd) (sub : Nat) : (s.unspecify c sub).linkConfig = s.linkConfig := by
  have hwritten : (if (decide (c.opcode = 11) && c.keepsRows sub) = true then s
      else s.write (.crest c.q c.t dispWriter) (s.freeOutput c)).linkConfig = s.linkConfig :=
    linkConfig_ite rfl (linkConfig_write ..)
  exact (linkConfig_ite rfl (linkConfig_foldl (fun _ _ => linkConfig_modCrest ..) _ _)).trans hwritten

theorem linkConfig_resetEnd (s : State) (p : Nat) : (s.resetEnd p).linkConfig = s.linkConfig :=
  linkConfig_ite rfl (linkConfig_foldl (fun _ _ => linkConfig_modCrest ..) _ s)

theorem linkConfig_resetEnds (s : State) : s.resetEnds.linkConfig = s.linkConfig :=
  linkConfig_ite (linkConfig_foldl linkConfig_resetEnd _ s) rfl

theorem linkConfig_unlend (s : State) (p : Nat) : (s.unlend p).linkConfig = s.linkConfig := by
  rw [State.unlend]
  cases (s.crest p).lentTo with
  | none => rfl
  | some b =>
    refine linkConfig_ite rfl ?_
    cases (s.crest p).held with
    | nil => exact linkConfig_resetEnds _
    | cons k ks => exact (linkConfig_resetEnds _).trans (linkConfig_foldl (fun _ _ => linkConfig_modCmd ..) _ _)

theorem linkConfig_dropFrom (s : State) (p q t : Nat) : (s.dropFrom p q t).linkConfig = s.linkConfig :=
  (linkConfig_unlend _ p).trans (linkConfig_ite (s := s) rfl rfl)

theorem linkConfig_endCmd (s : State) (q t st sub : Nat) : (s.endCmd q t st sub).linkConfig = s.linkConfig := by
  have hended : ((s.endHolds q t fun _ => true).uncharged q t).linkConfig = s.linkConfig :=
    (linkConfig_modCmd ..).trans (linkConfig_endHolds ..)
  rw [State.endCmd]
  cases s.cmd? q t with
  | none => rfl
  | some c =>
    refine linkConfig_ite rfl ?_
    refine (linkConfig_foldl (fun _ _ => (linkConfig_modCrest ..).trans (linkConfig_dropFrom ..)) _ _).trans ?_
    exact (linkConfig_ite (linkConfig_unspecify ..) rfl : State.linkConfig _ = _).trans hended

/-! The loss of a unit. -/

theorem linkConfig_liveChange (s : State) : s.liveChange.linkConfig = s.linkConfig := linkConfig_ite rfl rfl

theorem linkConfig_sendMsix (s : State) (v : Nat) : (s.sendMsix v).linkConfig = s.linkConfig := linkConfig_ite rfl rfl

theorem linkConfig_leaveGroup (s : State) : s.leaveGroup.linkConfig = s.linkConfig :=
  (linkConfig_liveChange _).trans <| (linkConfig_foldl (fun _ _ => linkConfig_endCmd ..) _ _).trans <|
    linkConfig_foldl (fun _ _ => linkConfig_modPort ..) _ s

theorem linkConfig_checkMin (s : State) (kind : Nat) : (s.checkMin kind).linkConfig = s.linkConfig :=
  linkConfig_ite (linkConfig_leaveGroup s) rfl

theorem linkConfig_notice (s : State) (alerts parts : List Nat) : (s.notice alerts parts).linkConfig = s.linkConfig := by
  have htold : ((parts.foldl (fun s p => s.modPart p fun x => { x with unitLost := true })
      (alerts.foldl State.alert s.liveChange)).linkConfig) = s.linkConfig :=
    (linkConfig_foldl (fun _ _ => linkConfig_modPart ..) _ _).trans <|
      (linkConfig_foldl linkConfig_alert _ _).trans (linkConfig_liveChange s)
  exact (linkConfig_ite (linkConfig_sendMsix ..) rfl).trans htold

/-- With no module ACTIVE commands end and the die leaves service, the modules stay as they are (R172). -/
theorem linkConfig_linkGone (s : State) : s.linkGone.linkConfig = s.linkConfig :=
  (linkConfig_checkMin ..).trans (linkConfig_foldl (fun _ _ => linkConfig_endCmd ..) _ s)

theorem linkConfig_unstall (s : State) (w : WaitFor) (waited : Nat) : (s.unstall w waited).linkConfig = s.linkConfig :=
  linkConfig_foldl (fun _ _ => linkConfig_modCmd ..) _ s

theorem linkConfig_stopQueue (s : State) (q : Nat) : (s.stopQueue q).linkConfig = s.linkConfig := by
  unfold State.stopQueue
  split
  · exact linkConfig_ite rfl rfl
  · exact linkConfig_ite rfl rfl
  · rfl

/-- A slice that retires takes none of the link with it (R274). -/
theorem linkConfig_retireSlice (s : State) (n cause : Nat) : (s.retireSlice n cause).linkConfig = s.linkConfig := by
  have hjournal (u : State) : (match u.journal with
      | some j => if j.transit.testBit n then
          { u with journal := some { j with marked := orBit j.marked n, transit := clrBit j.transit n } } else u
      | none => u).linkConfig = u.linkConfig := by
    split
    · exact linkConfig_ite rfl rfl
    · rfl
  have howner (u : State) : (match s.sliceOwner n with
      | some p => if (u.part p).interleave then u else u.modPart p fun x => { x with slices := clrBit x.slices n }
      | none => u).linkConfig = u.linkConfig := by
    split
    · exact linkConfig_ite rfl rfl
    · rfl
  refine linkConfig_ite rfl ?_
  refine (linkConfig_checkMin ..).trans <| (linkConfig_foldl linkConfig_stopQueue _ _).trans <|
    (linkConfig_notice ..).trans <| (hjournal _).trans <| (howner _).trans ?_
  exact (linkConfig_foldl (fun _ _ => linkConfig_endCmd ..) _ _).trans (linkConfig_unstall ..)

/-! Store errors. -/

theorem linkConfig_spareRow (s : State) (n row : Nat) : (s.spareRow n row).linkConfig = s.linkConfig :=
  linkConfig_ite (linkConfig_retireSlice ..) rfl

theorem linkConfig_storeError (s : State) (e : Ecc) (cmd : Option (Nat × Nat)) :
    (s.storeError e cmd).linkConfig = s.linkConfig := by
  refine linkConfig_ite rfl (linkConfig_ite rfl ?_)
  cases e.kind with
  | ce => rfl
  | hardCe => exact linkConfig_spareRow ..
  | ue => exact linkConfig_ite rfl (linkConfig_ite (linkConfig_retireSlice ..) (linkConfig_spareRow ..))

theorem linkConfig_storeErrors (s : State) (es : List Ecc) (q t : Nat) : (s.storeErrors es q t).linkConfig = s.linkConfig :=
  linkConfig_foldl (fun _ _ => linkConfig_ite (linkConfig_storeError ..)
    ((linkConfig_modCmd ..).trans (linkConfig_storeError ..))) es s

theorem linkConfig_reachSlice (s : State) (n : Nat) : (s.reachSlice n).linkConfig = s.linkConfig := by
  have hwoken : (s.wakeSlice n).linkConfig = s.linkConfig := linkConfig_of_unwritten (unwritten_wakeSlice s n)
  exact linkConfig_ite hwoken hwoken

theorem linkConfig_wakes (s : State) (gs : List Nat) : (s.wakes gs).linkConfig = s.linkConfig :=
  linkConfig_foldl linkConfig_reachSlice _ s

theorem linkConfig_chargeMclk (s : State) (q t cause n : Nat) : (s.chargeMclk q t cause n).linkConfig = s.linkConfig :=
  linkConfig_ite rfl rfl

theorem linkConfig_meets (s : State) (q t : Nat) (gs : List Nat) (es : List Ecc) :
    (s.meets q t gs es).linkConfig = s.linkConfig :=
  (linkConfig_storeErrors ..).trans ((linkConfig_wakes ..).trans (linkConfig_chargeMclk ..))

theorem linkConfig_touchBy (st : Mesi) (req : CacheReq) (s : State) (gs : List Nat) :
    (s.touchBy st req gs).linkConfig = s.linkConfig :=
  (linkConfig_foldl (fun _ _ => linkConfig_ite (linkConfig_of_unwritten (unwritten_fill ..)) rfl) _ _).trans
    (linkConfig_wakes s gs)

theorem linkConfig_reads (s : State) (q t : Nat) (gs : List Nat) : (s.reads q t gs).linkConfig = s.linkConfig :=
  (linkConfig_touchBy ..).trans (linkConfig_meets ..)

/-! Accesses of the host that were held. -/

theorem linkConfig_hostRead (s : State) (a : Nat) (ecc : Option EccKind) (w : Nat) :
    (s.hostRead a ecc w).linkConfig = s.linkConfig := by
  refine linkConfig_ite rfl ?_
  cases ecc with
  | none => exact linkConfig_reachSlice ..
  | some k => exact (linkConfig_storeError ..).trans (linkConfig_reachSlice ..)

theorem linkConfig_hostLine (s : State) (l : Nat) (m : List (Nat × Byte)) (b : Bool) :
    (s.hostLine l m b).linkConfig = s.linkConfig := by
  have hgiven (u : State) : (u.giveUp l).linkConfig = u.linkConfig :=
    linkConfig_ite (c := (tget {} u.cache l).st = .M) (linkConfig_of_unwritten (unwritten_backLine ..)) rfl
  exact (linkConfig_of_unwritten (unwritten_backLine ..)).trans <|
    (linkConfig_of_unwritten (unwritten_pendLine ..)).trans <| (hgiven _).trans <|
      linkConfig_of_unwritten (unwritten_settle s l)

theorem linkConfig_hostWrite (s : State) (a : Nat) (bs : List (Option Byte)) (b : Bool) :
    (s.hostWrite a bs b).linkConfig = s.linkConfig :=
  linkConfig_ite rfl ((linkConfig_hostLine ..).trans (linkConfig_reachSlice ..))

theorem linkConfig_serveHeld (s : State) : s.serveHeld.linkConfig = s.linkConfig := by
  refine linkConfig_foldl (fun u x => ?_) _ _
  cases x with
  | read a ecc w => exact linkConfig_ite rfl (linkConfig_hostRead ..)
  | write a bs b => exact linkConfig_ite rfl (linkConfig_hostWrite ..)

/-! Commands of the dispatcher that were held. -/

theorem linkConfig_stall (s : State) (q t : Nat) (w : WaitFor) : (s.stall q t w).linkConfig = s.linkConfig :=
  linkConfig_ite rfl rfl

theorem linkConfig_abufFlush (s : State) (sel : ABuf → Bool) : (s.abufFlush sel).linkConfig = s.linkConfig :=
  linkConfig_of_unwritten (unwritten_abufFlush s sel)

theorem linkConfig_abufRoom (s : State) : s.abufRoom.linkConfig = s.linkConfig := by
  refine linkConfig_ite rfl ?_
  split
  · exact linkConfig_write ..
  · rfl

theorem linkConfig_writeAtomic (s : State) (l : Nat) (m : List (Nat × Byte)) :
    (s.writeAtomic l m).linkConfig = s.linkConfig := by
  unfold State.writeAtomic
  dsimp only
  split
  · exact linkConfig_of_unwritten (unwritten_writeLine ..)
  · exact linkConfig_write ..

theorem linkConfig_signalWord (s : State) (scope g w op x y : Nat) :
    (s.signalWord scope g w op x y).1.linkConfig = s.linkConfig := by
  unfold State.signalWord
  dsimp only
  split
  · split
    · rfl
    · exact linkConfig_abufRoom s
  · exact linkConfig_ite (linkConfig_write ..) (linkConfig_writeAtomic ..)

theorem linkConfig_runFence (s : State) (c : Cmd) : (s.runFence c).linkConfig = s.linkConfig := by
  unfold State.runFence
  dsimp only
  split
  · exact linkConfig_stall ..
  · exact (linkConfig_endCmd ..).trans (linkConfig_ite rfl (linkConfig_abufFlush ..))

theorem linkConfig_runSignal (s : State) (c : Cmd) : (s.runSignal c).linkConfig = s.linkConfig := by
  have hread (hit : Bool) (g w : Nat) (gs : List Nat) : (if hit then s
      else if c.scope = 2 then (((s.abufFlush (clashes 2 g w)).meets c.q c.t gs []).own gs).bump
      else (s.abufFlush (clashes c.scope g w)).reads c.q c.t gs).linkConfig = s.linkConfig :=
    linkConfig_ite rfl <| linkConfig_ite
      ((linkConfig_touchBy ..).trans ((linkConfig_meets ..).trans (linkConfig_abufFlush ..)))
      ((linkConfig_reads ..).trans (linkConfig_abufFlush ..))
  unfold State.runSignal
  dsimp only
  split
  · exact linkConfig_stall ..
  split
  · exact (linkConfig_endCmd ..).trans (hread ..)
  split
  · exact (linkConfig_endCmd ..).trans ((linkConfig_signalWord ..).trans (hread ..))
  split
  · exact (linkConfig_endCmd ..).trans ((linkConfig_signalWord ..).trans (hread ..))
  · exact (linkConfig_endCmd ..).trans ((linkConfig_write ..).trans ((linkConfig_signalWord ..).trans (hread ..)))

theorem linkConfig_readWait (s : State) (c : Cmd) : (s.readWait c).linkConfig = s.linkConfig := by
  have hread (hit : Bool) (g w : Nat) (gs : List Nat) :
      (if hit then s else (s.abufFlush (clashes 0 g w)).reads c.q c.t gs).linkConfig = s.linkConfig :=
    linkConfig_ite rfl ((linkConfig_reads ..).trans (linkConfig_abufFlush ..))
  unfold State.readWait
  dsimp only
  split
  · exact linkConfig_stall ..
  · split
    · exact (linkConfig_endCmd ..).trans (hread ..)
    · exact (linkConfig_ite (linkConfig_endCmd ..) rfl).trans (hread ..)

theorem linkConfig_finalRead (s : State) (c : Cmd) : (s.finalRead c).linkConfig = s.linkConfig := by
  unfold State.finalRead
  split
  · exact (linkConfig_stall ..).trans (linkConfig_modCmd ..)
  · exact (linkConfig_endCmd ..).trans (linkConfig_readWait ..)

theorem linkConfig_retrySignals (s : State) : s.retrySignals.linkConfig = s.linkConfig := by
  refine linkConfig_foldl (fun u c => ?_) _ s
  split
  · exact linkConfig_runFence ..
  · exact linkConfig_runSignal ..
  · exact linkConfig_finalRead ..

/-- What goes on once a hold is over leaves the host link as it is. -/
theorem linkConfig_resumeHeld (s : State) (w : WaitFor) (waited : Nat) :
    (s.resumeHeld w waited).linkConfig = s.linkConfig :=
  (linkConfig_retrySignals _).trans ((linkConfig_serveHeld _).trans (linkConfig_unstall ..))

end Sys2Proof.Machine
end

section
/-!
Training of the host modules (O50): what an event, an attempt that ends and a retirement leave of the modules and of the
link's configuration (R168, R170, R171).
-/
namespace Sys2Proof.Machine
open Sys2Proof.Claim

/-! What is read of the link. -/

section
variable {s t : State} (h : t.linkConfig = s.linkConfig)
include h

theorem hmod_of_linkConfig (k : Nat) : t.hmod k = s.hmod k := congrArg (fun c : Tbl HMod × Nat × Nat => tget ({} : HMod) c.1 k) h

theorem retMod_of_linkConfig : t.rep.retMod = s.rep.retMod := congrArg (fun c => c.2.1) h

theorem hostConfig_of_linkConfig : t.hostConfig = s.hostConfig := congrArg (fun c => c.2.2) h

end

/-- The best configuration follows from what the modules in service have reached (R168). -/
theorem bestConfig_congr {s t : State} (hret : t.rep.retMod = s.rep.retMod)
    (hreach : ∀ k < 4, (t.hmod k).reach = (s.hmod k).reach) : t.bestConfig = s.bestConfig := by
  have hreaching : t.reaching = s.reaching := funext fun c => List.filter_congr fun k hk => by
    rw [hret, hreach k (List.mem_range.1 hk)]
  simp only [State.bestConfig, hreaching]

theorem bestConfig_of_linkConfig {s t : State} (h : t.linkConfig = s.linkConfig) : t.bestConfig = s.bestConfig :=
  bestConfig_congr (retMod_of_linkConfig h) fun k _ => congrArg HMod.reach (hmod_of_linkConfig h k)

theorem hostTraining_iff (s : State) : s.hostTraining = true ↔ ∃ k < 4, (s.hmod k).st = 1 ∨ (s.hmod k).st = 4 := by
  simp [State.hostTraining]

/-- No module trains where module `m` has done and no other one trained. -/
theorem hostTraining_of_others {s t : State} {m : Nat} (hm : (t.hmod m).st ≠ 1 ∧ (t.hmod m).st ≠ 4)
    (hsame : ∀ k, k ≠ m → t.hmod k = s.hmod k)
    (hothers : ∀ k < 4, k ≠ m → (s.hmod k).st ≠ 1 ∧ (s.hmod k).st ≠ 4) :
    t.hostTraining = false := by
  refine Bool.eq_false_iff.2 fun htrain => ?_
  obtain ⟨k, hk, hst⟩ := (hostTraining_iff t).1 htrain
  by_cases hkm : k = m
  · exact hst.elim (hkm ▸ hm.1) (hkm ▸ hm.2)
  · obtain ⟨hst1, hst4⟩ := hothers k hk hkm
    rw [hsame k hkm] at hst
    exact hst.elim hst1 hst4

/-! The modules, one after another. -/

/-- The state but for its host modules. -/
def State.unlinked (s : State) : State := { s with mods := [] }

theorem unlinked_foldl {step : State → Nat → State} (hrest : ∀ s k, (step s k).unlinked = s.unlinked) (ks : List Nat)
    (s : State) : (ks.foldl step s).unlinked = s.unlinked :=
  List.foldlRecOn (motive := fun u => State.unlinked u = s.unlinked) ks step rfl fun _ h k _ => (hrest _ k).trans h

/-- A fold that changes each module by `f`, which may look at the retired ones, changes each listed module once. -/
theorem hmod_foldl {step : State → Nat → State} {f : Nat → Nat → HMod → HMod}
    (hrest : ∀ s k, (step s k).unlinked = s.unlinked)
    (hstep : ∀ s k j, (step s k).hmod j = if j = k then f s.rep.retMod k (s.hmod k) else s.hmod j)
    {ks : List Nat} (hnd : ks.Nodup) (s : State) (j : Nat) :
    (ks.foldl step s).hmod j = if j ∈ ks then f s.rep.retMod j (s.hmod j) else s.hmod j := by
  induction ks generalizing s with
  | nil => rfl
  | cons k ks ih =>
    obtain ⟨hk, hnd⟩ := List.nodup_cons.1 hnd
    have hret : (step s k).rep.retMod = s.rep.retMod := (congrArg (fun u : State => u.rep.retMod) (hrest s k) :)
    rw [List.foldl_cons, ih hnd, hret, hstep]
    by_cases hj : j = k
    · subst hj
      simp [hk]
    · simp [hj]

/-! The link is configured. -/

/-- A module that has trained is ACTIVE where it reaches configuration `c`, else IDLE (R168). -/
def HMod.configured (c : Nat) (h : HMod) : HMod :=
  { h with st := if h.st = 0 then h.st else if decide (c ≠ 0) && h.reach.testBit (c - 1) then 2 else 3 }

theorem HMod.configured_st {h : HMod} (hst : h.st ≠ 0) (c : Nat) : (h.configured c).st = 2 ∨ (h.configured c).st = 3 := by
  simp only [HMod.configured, if_neg hst]
  split
  · exact .inl rfl
  · exact .inr rfl

/-- Module `m` takes up configuration `c` if it is in service. -/
def State.configureModule (c : Nat) (s : State) (m : Nat) : State :=
  if s.rep.retMod.testBit m then s else s.modHmod m (·.configured c)

theorem unlinked_configureModule (c : Nat) (s : State) (m : Nat) : (s.configureModule c m).unlinked = s.unlinked := by
  unfold State.configureModule
  split <;> rfl

theorem hmod_configureModule (c : Nat) (s : State) (m k : Nat) : (s.configureModule c m).hmod k =
    if k = m then (if s.rep.retMod.testBit m then s.hmod m else (s.hmod m).configured c) else s.hmod k := by
  unfold State.configureModule
  split
  · split
    · next h => rw [h]
    · rfl
  · exact State.hmod_modHmod ..

/-- The link takes up configuration `c`. -/
def State.configured (s : State) (c : Nat) : State := { (List.range 4).foldl (State.configureModule c) s with hostConfig := c }

theorem hmod_configured (s : State) (c : Nat) {k : Nat} (hk : k < 4) :
    (s.configured c).hmod k = if s.rep.retMod.testBit k then s.hmod k else (s.hmod k).configured c :=
  (hmod_foldl (f := fun r k h => if r.testBit k then h else h.configured c) (unlinked_configureModule c)
    (hmod_configureModule c) List.nodup_range s k).trans (if_pos (List.mem_range.2 hk))

theorem retMod_configured (s : State) (c : Nat) : (s.configured c).rep.retMod = s.rep.retMod :=
  (congrArg (fun u : State => u.rep.retMod) (unlinked_foldl (unlinked_configureModule c) (List.range 4) s) :)

theorem bestConfig_configured (s : State) (c : Nat) : (s.configured c).bestConfig = s.bestConfig := by
  refine bestConfig_congr (retMod_configured s c) fun k hk => ?_
  rw [hmod_configured s c hk]
  split <;> rfl

theorem linkConfig_hostReconfig {s : State} (h : s.hostTraining = false) :
    s.hostReconfig.linkConfig = (s.configured s.bestConfig).linkConfig := by
  rw [State.hostReconfig, if_neg (Bool.eq_false_iff.1 h)]
  exact (linkConfig_ite (linkConfig_linkGone _) rfl).trans (linkConfig_liveChange _)

theorem hostReconfig_training {s : State} (h : s.hostTraining = true) : s.hostReconfig = s := if_pos h

/-- From `s` to `t` the link has been configured, if no module trains: no module is retired by it, a retired one stays as it
is, and one in service stays too or takes up the best configuration (R168). -/
structure Reconfigured (s t : State) : Prop where
  retMod : t.rep.retMod = s.rep.retMod
  retired : ∀ k < 4, s.rep.retMod.testBit k = true → t.hmod k = s.hmod k
  serving : ∀ k < 4, s.rep.retMod.testBit k = false → t.hmod k = s.hmod k ∨ t.hmod k = (s.hmod k).configured s.bestConfig
  best : s.hostTraining = false → t.hostConfig = t.bestConfig
  held : s.hostTraining = true → t.hostConfig = s.hostConfig

theorem Reconfigured.congr {s t u : State} (h : Reconfigured s t) (hu : u.linkConfig = t.linkConfig) : Reconfigured s u where
  retMod := (retMod_of_linkConfig hu).trans h.retMod
  retired k hk hret := (hmod_of_linkConfig hu k).trans (h.retired k hk hret)
  serving k hk hret := hmod_of_linkConfig hu k ▸ h.serving k hk hret
  best hno := (hostConfig_of_linkConfig hu).trans ((h.best hno).trans (bestConfig_of_linkConfig hu).symm)
  held hyes := (hostConfig_of_linkConfig hu).trans (h.held hyes)

theorem reconfigured_hostReconfig (s : State) : Reconfigured s s.hostReconfig := by
  cases htrain : s.hostTraining with
  | true =>
    rw [hostReconfig_training htrain]
    exact ⟨rfl, fun _ _ _ => rfl, fun _ _ _ => .inl rfl, fun h => absurd (htrain.symm.trans h) nofun, fun _ => rfl⟩
  | false =>
    refine Reconfigured.congr (t := s.configured s.bestConfig) ⟨retMod_configured .., fun k hk hret => ?_, fun k hk hret => ?_,
      fun _ => (bestConfig_configured ..).symm, fun h => absurd (htrain.symm.trans h) nofun⟩ (linkConfig_hostReconfig htrain)
    · rw [hmod_configured s _ hk, if_pos hret]
    · rw [hmod_configured s _ hk, hret]
      exact .inr rfl

/-! A module that is retired. -/

theorem orBit_testBit_self (v i : Nat) : (orBit v i).testBit i = true := by
  rw [orBit, Nat.testBit_or, Nat.testBit_two_pow_self, Bool.or_true]

/-- Module `m` is taken out of service, and those whom it concerns are told (R171, R280). -/
def State.moduleLost (s : State) (m cause : Nat) : State :=
  (((s.modRep fun r => { r with retMod := orBit r.retMod m }).modHmod m fun x => { x with st := 5 }).addLog
    { code := 0x11, cls := 2, kind := kHost, unit := m, count := s.errsIn kHost m, detail := cause }).notice [aUnitRetired] []

theorem retireModule_serving {s : State} {m : Nat} (h : s.rep.retMod.testBit m = false) (cause : Nat) :
    s.retireModule m cause = (s.moduleLost m cause).hostReconfig := if_neg (Bool.eq_false_iff.1 h)

theorem linkConfig_moduleLost (s : State) (m cause : Nat) : (s.moduleLost m cause).linkConfig =
    ((s.modRep fun r => { r with retMod := orBit r.retMod m }).modHmod m fun x => { x with st := 5 }).linkConfig :=
  linkConfig_notice ..

theorem hmod_moduleLost (s : State) (m cause k : Nat) :
    (s.moduleLost m cause).hmod k = if k = m then { s.hmod m with st := 5 } else s.hmod k :=
  (hmod_of_linkConfig (linkConfig_moduleLost s m cause) k).trans (State.hmod_modHmod ..)

/-- A module that is retired stays so, and the link is configured on the rest once none of them trains (R171). -/
theorem retireModule_retires {s : State} {m : Nat} (hm : m < 4) (h : s.rep.retMod.testBit m = false) (cause : Nat) :
    let t := s.retireModule m cause
    t.rep.retMod.testBit m = true ∧ t.hmod m = { s.hmod m with st := 5 } ∧
      ((∀ k < 4, k ≠ m → (s.hmod k).st ≠ 1 ∧ (s.hmod k).st ≠ 4) → t.hostConfig = t.bestConfig) := by
  have hlost : (s.moduleLost m cause).rep.retMod.testBit m = true := by
    rw [retMod_of_linkConfig (linkConfig_moduleLost s m cause)]
    exact orBit_testBit_self ..
  obtain ⟨hret, hretired, -, hbest, -⟩ := reconfigured_hostReconfig (s.moduleLost m cause)
  rw [retireModule_serving h]
  refine ⟨hret ▸ hlost, (hretired m hm hlost).trans ((hmod_moduleLost ..).trans (if_pos rfl)), fun hothers =>
    hbest (hostTraining_of_others ?_ (fun k hk => (hmod_moduleLost ..).trans (if_neg hk)) hothers)⟩
  rw [hmod_moduleLost, if_pos rfl]
  exact (by decide : (5 : Nat) ≠ 1 ∧ (5 : Nat) ≠ 4)

/-! An attempt that ends. -/

theorem linkConfig_linkDone (s : State) : s.linkDone.linkConfig = s.linkConfig := linkConfig_ite rfl rfl

/-- What the end of a link's retrain lets go on leaves the modules as they are. -/
theorem linkConfig_hostUp (s : State) (waited : Nat) : (s.hostUp waited).linkConfig = s.linkConfig :=
  linkConfig_ite rfl ((linkConfig_linkDone _).trans (linkConfig_resumeHeld ..))

/-- A module that has trained, with what it has reached. -/
def HMod.trained (reach : Nat) (h : HMod) : HMod :=
  { h with st := 3, reach := reach % 64, best := bestOf (reach % 64), attempt := 0 }

section
variable {s : State} {m : Nat} (hm : m < 4) (hret : s.rep.retMod.testBit m = false)
  (hst : (s.hmod m).st = 1 ∨ (s.hmod m).st = 4)
include hm hret hst

/-- An attempt ends, with no repair: the module has trained, or is retired at the third failure, or tries again (R171). -/
theorem exec_hostRetrainDone (ok : Bool) (reach w : Nat) : exec (.hostRetrainDone m ok reach ⟨false, w⟩) s = .next
    (if ok then ((s.modHmod m (·.trained reach)).hostReconfig).hostUp w
      else if (s.hmod m).attempt ≥ 2 then (s.retireModule m 2).hostUp w
      else s.modHmod m fun h => { h with attempt := h.attempt + 1 }) := by
  change execHostRetrainDone m ok reach ⟨false, w⟩ s = _
  have hgo : (decide (m ≥ 4) || !decide ((s.hmod m).st = 1 ∨ (s.hmod m).st = 4)) = false := by simp [hm, hst]
  simp only [execHostRetrainDone, hret, hgo, Bool.or_false, Bool.false_eq_true, if_false]
  cases ok with
  | true => rfl
  | false => exact (apply_ite Host.Outcome.next ..).symm

end

/-- A module that trains well keeps what it has reached, and the last one has the link configured (R168). -/
theorem trained_reconfigures {s : State} {m : Nat} (hm : m < 4) (hret : s.rep.retMod.testBit m = false) (reach : Nat) :
    let t := (s.modHmod m (·.trained reach)).hostReconfig
    (t.hmod m).reach = reach % 64 ∧ (t.hmod m).best = bestOf (reach % 64) ∧ ((t.hmod m).st = 2 ∨ (t.hmod m).st = 3) ∧
      t.rep.retMod = s.rep.retMod ∧
      ((∀ k < 4, k ≠ m → (s.hmod k).st ≠ 1 ∧ (s.hmod k).st ≠ 4) → t.hostConfig = t.bestConfig) ∧
      ((∃ k < 4, k ≠ m ∧ ((s.hmod k).st = 1 ∨ (s.hmod k).st = 4)) → t.hostConfig = s.hostConfig) := by
  have hsame (k : Nat) (hk : k ≠ m) : (s.modHmod m (·.trained reach)).hmod k = s.hmod k := State.hmod_modHmod_other _ _ _ _ hk
  obtain ⟨hkept, -, hserving, hbest, hheld⟩ := reconfigured_hostReconfig (s.modHmod m (·.trained reach))
  have hmod := hserving m hm hret
  rw [State.hmod_modHmod_same] at hmod
  refine ⟨?_, ?_, ?_, hkept, fun hothers => hbest (hostTraining_of_others ?_ hsame hothers), fun ⟨k, hk, hkm, hst⟩ =>
    hheld ((hostTraining_iff _).2 ⟨k, hk, (hsame k hkm).symm ▸ hst⟩)⟩
  · obtain h | h := hmod <;> rw [h] <;> rfl
  · obtain h | h := hmod <;> rw [h] <;> rfl
  · obtain h | h := hmod <;> rw [h]
    · exact .inr rfl
    · exact HMod.configured_st (by decide : (3 : Nat) ≠ 0) _
  · rw [State.hmod_modHmod_same]
    exact (by decide : (3 : Nat) ≠ 1 ∧ (3 : Nat) ≠ 4)

/-! An event. -/

/-- A module of the link's retrain after another one's event: if it is in service and does not train, it joins (R168). -/
def HMod.joined (m ret k : Nat) (h : HMod) : HMod :=
  if k ≠ m ∧ (h.st = 2 ∨ h.st = 3) ∧ ret.testBit k = false then { h with st := 4, attempt := 0 } else h

/-- Module `k` joins the retrain that an event of module `m` starts. -/
def State.joinModule (m : Nat) (s : State) (k : Nat) : State :=
  if k ≠ m ∧ ((s.hmod k).st = 2 ∨ (s.hmod k).st = 3) ∧ s.rep.retMod.testBit k = false then
    s.modHmod k fun h => { h with st := 4, attempt := 0 } else s

theorem unlinked_joinModule (m : Nat) (s : State) (k : Nat) : (s.joinModule m k).unlinked = s.unlinked := by
  unfold State.joinModule
  split <;> rfl

theorem hmod_joinModule (m : Nat) (s : State) (k j : Nat) :
    (s.joinModule m k).hmod j = if j = k then (s.hmod k).joined m s.rep.retMod k else s.hmod j := by
  unfold State.joinModule HMod.joined
  split
  · exact State.hmod_modHmod ..
  · split
    · next h => rw [h]
    · rfl

theorem hmod_joinRetrain (s : State) (m : Nat) {k : Nat} (hk : k < 4) :
    (s.joinRetrain m).hmod k = (s.hmod k).joined m s.rep.retMod k := by
  refine (hmod_foldl (f := fun r k h => h.joined m r k) (unlinked_joinModule m) (hmod_joinModule m) List.nodup_range
    s.liveChange k).trans ((if_pos (List.mem_range.2 hk)).trans ?_)
  rw [hmod_of_linkConfig (linkConfig_liveChange s), retMod_of_linkConfig (linkConfig_liveChange s)]

theorem unlinked_joinRetrain (s : State) (m : Nat) : (s.joinRetrain m).unlinked = s.liveChange.unlinked :=
  unlinked_foldl (unlinked_joinModule m) (List.range 4) s.liveChange

theorem joinRetrain_frame (s : State) (m : Nat) :
    (s.joinRetrain m).rep.retMod = s.rep.retMod ∧ (s.joinRetrain m).hostConfig = s.hostConfig := by
  have hret : (s.joinRetrain m).rep.retMod = s.liveChange.rep.retMod :=
    (congrArg (fun u : State => u.rep.retMod) (unlinked_joinRetrain s m) :)
  have hconfig : (s.joinRetrain m).hostConfig = s.liveChange.hostConfig := (congrArg State.hostConfig (unlinked_joinRetrain s m) :)
  have hlive := linkConfig_liveChange s
  exact ⟨hret.trans (retMod_of_linkConfig hlive), hconfig.trans (hostConfig_of_linkConfig hlive)⟩

/-- The retrain changes nothing of what an event is counted by (R267). -/
theorem atThresh_joinRetrain (s : State) (m : Nat) :
    ((s.joinRetrain m).countErr kHost m).atThresh kHost m = (s.countErr kHost m).atThresh kHost m := by
  refine (congrArg (fun u : State => (u.countErr kHost m).atThresh kHost m) (unlinked_joinRetrain s m) :).trans ?_
  change (s.liveChange.countErr kHost m).atThresh kHost m = _
  unfold State.liveChange
  split <;> rfl

theorem hostEvent_counted {s : State} {m : Nat} (h : (s.countErr kHost m).atThresh kHost m = false) (detail : Nat) :
    (s.hostEvent m detail).linkConfig = s.linkConfig :=
  (congrArg State.linkConfig (if_neg (Bool.eq_false_iff.1 h)) :)

/-- At the threshold an event retires its module. -/
theorem hostEvent_retires {s : State} {m : Nat} (h : (s.countErr kHost m).atThresh kHost m = true) (detail : Nat) :
    ∃ u : State, u.linkConfig = s.linkConfig ∧ s.hostEvent m detail = u.retireModule m 1 :=
  ⟨_, linkConfig_addLog (s.countErr kHost m) _, if_pos h⟩

/-- Module `m` starts its retrain on an event, `n` CRC retries of its adapter counted (R170, R171). -/
def State.retraining (s : State) (m n : Nat) : State :=
  (s.modHmod m fun h => { h with crcRetries := h.crcRetries + n }).modHmod m fun h =>
    { h with st := 4, attempt := 0, retrains := min 255 (h.retrains + 1) }

theorem hmod_retraining_same (s : State) (m n : Nat) : (s.retraining m n).hmod m = { s.hmod m with
    crcRetries := (s.hmod m).crcRetries + n, st := 4, attempt := 0, retrains := min 255 ((s.hmod m).retrains + 1) } := by
  simp only [State.retraining, State.hmod_modHmod_same]

theorem hmod_retraining_other (s : State) {m k : Nat} (n : Nat) (hk : k ≠ m) : (s.retraining m n).hmod k = s.hmod k :=
  (State.hmod_modHmod_other _ _ _ _ hk).trans (State.hmod_modHmod_other _ _ _ _ hk)

section
variable {s : State} {m : Nat} (hm : m < 4)
include hm

theorem exec_hostRetrain (n : Nat) : exec (.hostRetrain ⟨m, n⟩) s =
    .next ((s.modHmod m fun h => { h with crcRetries := h.crcRetries + n }).hostRetrainOne m) := by
  change Host.Outcome.next (State.hostRetrainOne (if m < 4 then _ else s) m) = _
  rw [if_pos hm]

theorem exec_hostRetrain_retired (hret : s.rep.retMod.testBit m = true) (n : Nat) : exec (.hostRetrain ⟨m, n⟩) s =
    .next ((s.modHmod m fun h => { h with crcRetries := h.crcRetries + n }).addLog
      { code := 0x10, cls := 2, kind := kHost, unit := m, count := s.errsIn kHost m, detail := 1 }) := by
  refine (exec_hostRetrain hm n).trans (congrArg Host.Outcome.next ?_)
  exact (if_neg (Nat.not_le.2 hm)).trans (if_pos hret)

theorem exec_hostRetrain_serving (hret : s.rep.retMod.testBit m = false) (hst : (s.hmod m).st = 2 ∨ (s.hmod m).st = 3)
    (n : Nat) : exec (.hostRetrain ⟨m, n⟩) s = .next (((s.retraining m n).joinRetrain m).hostEvent m 1) := by
  refine (exec_hostRetrain hm n).trans (congrArg Host.Outcome.next ?_)
  refine (if_neg (Nat.not_le.2 hm)).trans ((if_neg (Bool.eq_false_iff.1 hret)).trans (if_neg ?_))
  simp only [State.hmod_modHmod_same, hst, decide_true, Bool.not_true, Bool.false_eq_true, not_false_eq_true]

end

/-- The modules once the link retrains on an event of module `m`: it counts the event, and the others in service join. -/
theorem hmod_event_same (s : State) {m : Nat} (hm : m < 4) (n : Nat) : ((s.retraining m n).joinRetrain m).hmod m = { s.hmod m with
    crcRetries := (s.hmod m).crcRetries + n, st := 4, attempt := 0, retrains := min 255 ((s.hmod m).retrains + 1) } := by
  rw [hmod_joinRetrain _ m hm, HMod.joined, if_neg fun h => h.1 rfl, hmod_retraining_same]

theorem event_joins {s : State} {m k : Nat} (hk : k < 4) (hkm : k ≠ m) (hst : (s.hmod k).st = 2 ∨ (s.hmod k).st = 3)
    (hret : s.rep.retMod.testBit k = false) (n : Nat) : (((s.retraining m n).joinRetrain m).hmod k).st = 4 := by
  rw [hmod_joinRetrain _ m hk, hmod_retraining_other s n hkm, HMod.joined, if_pos ⟨hkm, hst, hret⟩]

theorem atThresh_event (s : State) (m n : Nat) :
    (((s.retraining m n).joinRetrain m).countErr kHost m).atThresh kHost m = (s.countErr kHost m).atThresh kHost m :=
  atThresh_joinRetrain (s.retraining m n) m

/-- Settles O50: an event makes its module retrain, the others join, and at the threshold it is retired; an attempt that ends has
the module trained, tried again or retired, and the last one has the link configured. -/
theorem hostModulesRetrain : Obligations.HostModulesRetrain := by
  intro s m reach n w hm
  refine ⟨?retired, fun hret => ⟨?event, fun hst => ⟨?trained, ?again, ?third⟩⟩⟩
  case retired =>
    intro hret
    exact ⟨_, exec_hostRetrain_retired hm hret n, rfl,
      (State.hmod_modHmod_same s m fun h => { h with crcRetries := h.crcRetries + n } :)⟩
  case event =>
    intro hst
    refine ⟨_, exec_hostRetrain_serving hm hret hst n, ?_⟩
    obtain ⟨hkept, hconfig⟩ := joinRetrain_frame (s.retraining m n) m
    cases hthresh : (s.countErr kHost m).atThresh kHost m with
    | false =>
      have hlink := hostEvent_counted ((atThresh_event s m n).trans hthresh) 1
      rw [hmod_of_linkConfig hlink m, hmod_event_same s hm]
      exact ⟨fun _ => rfl, rfl, rfl, fun _ => ⟨(retMod_of_linkConfig hlink).trans hkept,
        (hostConfig_of_linkConfig hlink).trans hconfig, fun k hk hkm hstk hretk =>
          (congrArg HMod.st (hmod_of_linkConfig hlink k)).trans (event_joins hk hkm hstk hretk n)⟩⟩
    | true =>
      obtain ⟨u, hu, hevent⟩ := hostEvent_retires ((atThresh_event s m n).trans hthresh) 1
      have hserves : u.rep.retMod.testBit m = false := by rw [retMod_of_linkConfig hu, hkept]; exact hret
      obtain ⟨hret', hmod, -⟩ := retireModule_retires hm hserves 1
      rw [hevent, hmod, hmod_of_linkConfig hu, hmod_event_same s hm]
      exact ⟨fun h => absurd (hret'.symm.trans h) nofun, rfl, rfl, nofun⟩
  case trained =>
    intro _
    obtain ⟨hreach, hbest, hst', hkept, hlast, hothers⟩ := trained_reconfigures hm hret reach
    have hup := linkConfig_hostUp (s.modHmod m (·.trained reach)).hostReconfig w
    refine ⟨_, exec_hostRetrainDone hm hret hst true reach w, ?_⟩
    rw [if_pos rfl, hmod_of_linkConfig hup, retMod_of_linkConfig hup, hostConfig_of_linkConfig hup, bestConfig_of_linkConfig hup]
    exact ⟨hreach, hbest, hst', hkept, hlast, fun k hk hkm hstk => hothers ⟨k, hk, hkm, hstk⟩⟩
  case again =>
    intro hatt
    rw [exec_hostRetrainDone hm hret hst, if_neg Bool.false_ne_true, if_neg (Nat.not_le.2 hatt)]
  case third =>
    intro hatt _
    have hup := linkConfig_hostUp (s.retireModule m 2) w
    obtain ⟨hret', hmod, hbest⟩ := retireModule_retires hm hret 2
    refine ⟨_, (exec_hostRetrainDone hm hret hst false reach w).trans
      (congrArg Host.Outcome.next ((if_neg Bool.false_ne_true).trans (if_pos hatt))), ?_⟩
    rw [hmod_of_linkConfig hup, retMod_of_linkConfig hup, hostConfig_of_linkConfig hup, bestConfig_of_linkConfig hup, hmod]
    exact ⟨hret', rfl, hbest⟩

end Sys2Proof.Machine
end

section
/-!
What a port sends (R192, R195, R196): the flits that go again, the new ones, CREDIT and IDLE, and the NAK that each takes
along. For O51 and O54.
-/
namespace Sys2Proof.Machine

/-- A port but for the flits that wait at it and what orders them, the course of its replay, and the relay credits that it
owes. -/
def PPort.unqueued (x : PPort) : PPort :=
  { x with resend := 0, resends := 0, resync := false, oweRelay := 0, lastCrest := 0, relayTurn := false, qMgmt := []
           qFlagAck := [], qFlag := [], qRelay := [], qData := [], again := [], relayIn := [] }

section
variable {x y : PPort} {m : Nat} {f : Flit}

theorem takeAgain_unqueued (h : x.takeAgain m = some (f, y)) : y.unqueued = x.unqueued := by
  unfold PPort.takeAgain at h
  split at h
  · cases h
  · split at h <;> cases h
    rfl

theorem takeRelay_unqueued (h : x.takeRelay m = some (f, y)) : y.unqueued = x.unqueued := by
  obtain ⟨g, -, hg⟩ := Option.map_eq_some_iff.1 h
  cases hg
  rfl

theorem takeData_unqueued (h : x.takeData m = some (f, y)) : y.unqueued = x.unqueued := by
  obtain ⟨e, -, he⟩ := Option.map_eq_some_iff.1 h
  cases he
  rfl

/-- Where one of two choices answers, the first does or the second. -/
theorem eq_or_of_orElse {α : Type} {a b : Option α} {v : α} (h : (a.orElse fun _ => b) = some v) :
    a = some v ∨ b = some v := by
  cases a with
  | none => exact .inr h
  | some _ => exact .inl h

/-- The choice of the next new flit takes it from its queue, and changes nothing else but whose turn is next (R196). -/
theorem nextNew_unqueued (h : x.nextNew m = some (f, y)) : y.unqueued = x.unqueued := by
  unfold PPort.nextNew at h
  split at h
  case h_1 r hr => exact takeAgain_unqueued (hr.trans h)
  split at h
  case h_1 => cases h; rfl
  split at h
  case h_1 => cases h; rfl
  split at h
  case h_1 => cases h; rfl
  split at h
  all_goals
    obtain h | h := eq_or_of_orElse h
  · exact takeData_unqueued h
  · exact takeRelay_unqueued h
  · exact takeRelay_unqueued h
  · exact takeData_unqueued h

theorem stamp_keeps (x : PPort) (f : Flit) : (x.stamp f).seq = f.seq ∧ (x.stamp f).body = f.body := by
  simp only [PPort.stamp, and_self]

theorem spend_keeps (x : PPort) (c : Nat) : (x.spend c).sendNak = x.sendNak ∧ (x.spend c).nakSent = x.nakSent := by
  unfold PPort.spend
  split <;> exact ⟨rfl, rfl⟩

/-- What leaves takes a due NAK along, and so it is sent and due no more (R192). -/
theorem sendNew_nak (x : PPort) (m : Nat) (f : Flit) : (x.sendNew m f).1.nak = x.sendNak ∧
    (x.sendNew m f).2.sendNak = false ∧ (x.sendNew m f).2.nakSent = (x.nakSent || x.sendNak) := by
  obtain ⟨hdue, hsent⟩ := spend_keeps x (f.cls (decide (f.dst ≠ m)))
  exact ⟨rfl, rfl, congr (congrArg or hsent) hdue⟩

end

theorem markVia_frame (s : State) (f : Flit) (m : Nat) : (s.markVia f m).out = s.out ∧ (s.markVia f m).ports = s.ports := by
  unfold State.markVia
  split <;> exact ⟨rfl, rfl⟩

/-- Port `k` has sent `r.1` as a new flit, `r.2` being what is left of the port. -/
def State.sentNew (s : State) (k : Nat) (f : Flit) (r : Flit × PPort) : State :=
  ((s.modPort k fun _ => r.2).markVia f (s.peerOf k)).emit (.flit k r.1)

/-- A port that has sent its held flit `f` again, the oldest of those that are to go again (R193). -/
def PPort.resent (x : PPort) (f : Flit) : PPort :=
  { x.sentNak with
    resend := x.resend - 1, held := x.held.set (x.held.length - x.resend) (x.stamp f)
    resends := if x.held.length - x.resend = 0 then x.resends + 1 else x.resends }

/-- Port `k` has sent its held flit `f` again. -/
def State.sentAgain (s : State) (k : Nat) (f : Flit) : State :=
  (s.modPort k (·.resent f)).emit (.flit k ((s.port k).stamp f))

/-- The CREDIT flit that port `k` sends where it has nothing else to send and owes credits (R195). -/
def State.creditFlit (s : State) (k : Nat) : Flit × PPort :=
  (s.port k).sendNew (s.peerOf k) { s.newFlit 6 (s.peerOf k) [] with fwd := false }

theorem sentNew_effect (s : State) (k : Nat) (f : Flit) (r : Flit × PPort) :
    (s.sentNew k f r).out = .flit k r.1 :: s.out ∧ (s.sentNew k f r).port k = r.2 := by
  obtain ⟨hout, hports⟩ := markVia_frame (s.modPort k fun _ => r.2) f (s.peerOf k)
  refine ⟨congrArg (Out.flit k r.1 :: ·) hout, ?_⟩
  exact (congrArg (fun ps => tget ({} : PPort) ps k) hports :).trans (State.port_modPort_same s k fun _ => r.2)

theorem sentAgain_effect (s : State) (k : Nat) (f : Flit) :
    (s.sentAgain k f).out = .flit k ((s.port k).stamp f) :: s.out ∧ (s.sentAgain k f).port k = (s.port k).resent f :=
  ⟨rfl, (State.port_modPort_same s k (·.resent f) :)⟩

theorem idleFlit_effect (s : State) (k : Nat) : ∃ g : Flit, (s.idleFlit k).out = .flit k g :: s.out ∧ g.typ = 0 ∧
    g.nak = (s.port k).sendNak ∧ (s.idleFlit k).port k = (s.port k).sentNak :=
  ⟨_, rfl, rfl, rfl, State.port_modPort_same s k PPort.sentNak⟩

section
variable {s : State} {k : Nat} (hk : k < 3) (hst : (s.port k).st = 2)
include hk hst

theorem exec_flitSend_again {f : Flit} (hre : (s.port k).resend ≠ 0)
    (hf : (s.port k).held[(s.port k).held.length - (s.port k).resend]? = some f) :
    exec (.flitSend k) s = .next (s.sentAgain k f) := by
  change execFlitSend k s = _
  simp only [execFlitSend, hst, hf, Nat.not_le.2 hk, hre, ne_eq, not_true_eq_false, or_self, not_false_eq_true, if_true, if_false]
  rfl

section
variable (hre : (s.port k).resend = 0)
include hre

theorem exec_flitSend_new {f : Flit} {y : PPort} (hheld : (s.port k).held.length < 256)
    (hnew : (s.port k).nextNew (s.peerOf k) = some (f, y)) :
    exec (.flitSend k) s = .next (s.sentNew k f (y.sendNew (s.peerOf k) f)) := by
  change execFlitSend k s = _
  simp only [execFlitSend, hst, hre, hnew, Nat.not_le.2 hk, Nat.not_le.2 hheld, ne_eq, not_true_eq_false, or_self, if_false]
  rfl

theorem exec_flitSend_credit (hheld : (s.port k).held.length < 256) (hnew : (s.port k).nextNew (s.peerOf k) = none)
    (howes : (s.port k).owes = true) : exec (.flitSend k) s =
      .next ((s.modPort k fun _ => (s.creditFlit k).2).emit (.flit k (s.creditFlit k).1)) := by
  change execFlitSend k s = _
  simp only [execFlitSend, hst, hre, hnew, howes, Nat.not_le.2 hk, Nat.not_le.2 hheld, ne_eq, not_true_eq_false, or_self,
    if_true, if_false]
  rfl

theorem exec_flitSend_idle (hidle : 256 ≤ (s.port k).held.length ∨
    ((s.port k).nextNew (s.peerOf k) = none ∧ (s.port k).owes = false)) :
    exec (.flitSend k) s = .next (s.idleFlit k) := by
  change execFlitSend k s = _
  simp only [execFlitSend, hst, hre, Nat.not_le.2 hk, ne_eq, not_true_eq_false, or_self, if_false]
  by_cases hheld : 256 ≤ (s.port k).held.length
  · exact if_pos hheld
  · obtain ⟨hnew, howes⟩ := hidle.resolve_left hheld
    simp only [hheld, hnew, howes, Bool.false_eq_true, if_false]

end

end

/-- Settles O51: each thing that a port may send is the row's own equation, and what is sent and what is left are told by it. -/
theorem portsSendInOrder : Obligations.PortsSendInOrder := by
  intro s k hk hst x m
  refine ⟨fun f hre hf => ?again, fun f y hre hheld hnew => ?new, fun hre hheld hnew howes => ?credit, fun hre hidle => ?idle⟩
  case again =>
    obtain ⟨hout, hport⟩ := sentAgain_effect s k f
    obtain ⟨hseq, hbody⟩ := stamp_keeps x f
    refine ⟨_, x.stamp f, exec_flitSend_again hk hst hre hf, hout, hseq, hbody, ?_⟩
    rw [hport]
    exact ⟨rfl, rfl, List.length_set⟩
  case new =>
    obtain ⟨hout, hport⟩ := sentNew_effect s k f (y.sendNew m f)
    have hkept := nextNew_unqueued hnew
    have hseq : y.nextSeq = x.nextSeq := (congrArg PPort.nextSeq hkept :)
    have hexpect : y.expect = x.expect := (congrArg PPort.expect hkept :)
    refine ⟨_, (y.sendNew m f).1, exec_flitSend_new hk hst hre hheld hnew, hout, hseq, rfl, rfl, ?_⟩
    rw [hport, ← hseq, ← hexpect]
    exact ⟨rfl, rfl, rfl, rfl⟩
  case credit =>
    have hport := State.port_modPort_same s k fun _ => (s.creditFlit k).2
    refine ⟨_, (s.creditFlit k).1, exec_flitSend_credit hk hst hre hheld hnew howes, rfl, rfl, rfl, ?_⟩
    exact ⟨congrArg PPort.held hport, congrArg PPort.oweData hport⟩
  case idle =>
    obtain ⟨g, hout, htyp, -, hport⟩ := idleFlit_effect s k
    exact ⟨_, g, exec_flitSend_idle hk hst hre hidle, hout, htyp, (congrArg PPort.held hport :),
      (congrArg PPort.nextSeq hport :)⟩

/-- Whatever an ACTIVE port sends takes a due NAK along (R192). -/
theorem flitSend_sends_nak {s : State} {k : Nat} (hk : k < 3) (hst : (s.port k).st = 2) (hdue : (s.port k).sendNak = true)
    (hre : (s.port k).resend ≤ (s.port k).held.length) : ∃ t g, exec (.flitSend k) s = .next t ∧
      t.out = .flit k g :: s.out ∧ g.nak = true ∧ (t.port k).sendNak = false ∧ (t.port k).nakSent = true := by
  by_cases hagain : (s.port k).resend = 0
  case neg =>
    have hlt : (s.port k).held.length - (s.port k).resend < (s.port k).held.length := by omega
    obtain ⟨hout, hport⟩ := sentAgain_effect s k (s.port k).held[(s.port k).held.length - (s.port k).resend]
    refine ⟨_, _, exec_flitSend_again hk hst hagain (List.getElem?_eq_getElem hlt), hout, hdue, ?_⟩
    rw [hport]
    exact ⟨rfl, by simp only [PPort.resent, PPort.sentNak, hdue, Bool.or_true]⟩
  case pos =>
    have hidle (hi : 256 ≤ (s.port k).held.length ∨ ((s.port k).nextNew (s.peerOf k) = none ∧ (s.port k).owes = false)) :
        ∃ t g, exec (.flitSend k) s = .next t ∧ t.out = .flit k g :: s.out ∧ g.nak = true ∧ (t.port k).sendNak = false ∧
          (t.port k).nakSent = true := by
      obtain ⟨g, hout, -, hnak, hport⟩ := idleFlit_effect s k
      refine ⟨_, g, exec_flitSend_idle hk hst hagain hi, hout, hnak.trans hdue, ?_⟩
      rw [hport]
      exact ⟨rfl, by simp only [PPort.sentNak, hdue, Bool.or_true]⟩
    by_cases hheld : 256 ≤ (s.port k).held.length
    · exact hidle (.inl hheld)
    cases hnew : (s.port k).nextNew (s.peerOf k) with
    | some r =>
      obtain ⟨f, y⟩ := r
      obtain ⟨hout, hport⟩ := sentNew_effect s k f (y.sendNew (s.peerOf k) f)
      obtain ⟨hnak, hleft, hsent⟩ := sendNew_nak y (s.peerOf k) f
      have hy : y.sendNak = true := (congrArg PPort.sendNak (nextNew_unqueued hnew)).trans hdue
      refine ⟨_, _, exec_flitSend_new hk hst hagain (Nat.not_le.1 hheld) hnew, hout, hnak.trans hy, ?_⟩
      rw [hport, hleft, hsent, hy, Bool.or_true]
      exact ⟨rfl, rfl⟩
    | none =>
      cases howes : (s.port k).owes with
      | false => exact hidle (.inr ⟨hnew, howes⟩)
      | true =>
        obtain ⟨hnak, hleft, hsent⟩ := sendNew_nak (s.port k) (s.peerOf k) { s.newFlit 6 (s.peerOf k) [] with fwd := false }
        refine ⟨_, _, exec_flitSend_credit hk hst hagain (Nat.not_le.1 hheld) hnew howes, rfl, hnak.trans hdue, ?_⟩
        have hport := State.port_modPort_same s k fun _ => (s.creditFlit k).2
        refine ⟨(congrArg PPort.sendNak hport).trans hleft, (congrArg PPort.nakSent hport).trans (hsent.trans ?_)⟩
        rw [hdue, Bool.or_true]

end Sys2Proof.Machine
end

section
/-!
What a port takes in (R192, R195, R202): acknowledgements, sequenced flits in order, bad and idle ones, and relayed ones. For
O52 to O54.
-/
namespace Sys2Proof.Machine
open Sys2Proof.Claim

/-- An update of a port is told by what it makes of that port. -/
theorem modPort_congr (s : State) (k : Nat) {f g : PPort → PPort} (h : f (s.port k) = g (s.port k)) :
    s.modPort k f = s.modPort k g := by
  have h' : f (tget {} s.ports k) = g (tget {} s.ports k) := h
  simp only [State.modPort, tmod, h']

/-! Acknowledgement and acceptance. -/

/-- A port with the ACK of a flit acted on: what it acknowledges is let go (R192). -/
def PPort.acked (x : PPort) (f : Flit) : PPort :=
  let left := x.held.dropWhile fun h => decide ((f.ack + 4096 - h.seq) % 4096 < 2048)
  { x with held := left, resend := min x.resend left.length, resends := if left.length = x.held.length then x.resends else 0 }

/-- A port that has taken a sequenced flit in order: E advances, and the flit's credits are taken (R192, R195). -/
def PPort.taken (x : PPort) (f : Flit) : PPort :=
  { x with expect := (x.expect + 1) % 4096, nakSent := false, crData := x.crData + f.crData % 4
           crFlag := x.crFlag + b2n f.crFlag, crMgmt := x.crMgmt + b2n f.crMgmt, crRelay := x.crRelay + f.crRelay % 4 }

theorem takeAck_eq (s : State) (k : Nat) (f : Flit) : s.takeAck k f =
    if f.nak then (s.modPort k (·.acked f)).replay k else s.modPort k (·.acked f) := by
  rw [modPort_congr s k (f := (·.acked f)) (g := fun x => { x with
    held := ((s.port k).acked f).held, resend := min x.resend ((s.port k).acked f).held.length
    resends := if ((s.port k).acked f).held.length = x.held.length then x.resends else 0 }) rfl]
  rfl

theorem takeAck_of_no_nak {f : Flit} (hnak : f.nak = false) (s : State) (k : Nat) :
    s.takeAck k f = s.modPort k (·.acked f) := by
  rw [takeAck_eq, hnak, if_neg Bool.false_ne_true]

theorem accept_eq (s : State) (k : Nat) (f : Flit) : s.accept k f = (s.modPort k (·.taken f)).takeAck k f := rfl

theorem accept_of_no_nak {f : Flit} (hnak : f.nak = false) (s : State) (k : Nat) :
    s.accept k f = (s.modPort k (·.taken f)).modPort k (·.acked f) := by
  rw [accept_eq, takeAck_of_no_nak hnak]

/-- A flit without NAK is accepted by its port alone. -/
theorem accept_ports {f : Flit} (hnak : f.nak = false) (s : State) (k : Nat) :
    ∃ ps, s.accept k f = { s with ports := ps } ∧ ∀ m, m ≠ k → ({ s with ports := ps } : State).port m = s.port m :=
  ⟨_, accept_of_no_nak hnak s k, fun m hm =>
    (State.port_modPort_other (s.modPort k (·.taken f)) k (·.acked f) m hm :).trans (State.port_modPort_other s k _ m hm)⟩

/-- No accepted flit moves the die to another position. -/
theorem position_accept (s : State) (k : Nat) (f : Flit) : (s.accept k f).position = s.position := by
  obtain ⟨-, -, -, hstraps⟩ := (accept_kept k f (Kept.refl true true s)).guarded rfl
  exact congrArg (bits · 5 4) hstraps

/-- A good flit in order that is for this die, or whose destination does not matter and which is not to be relayed, is carried
out and its buffer entry freed. -/
theorem receive_in_order {s : State} {k : Nat} {f : Flit} {any : Bool} (hk : k < 3) (hst : (s.port k).st = 2)
    (hgood : f.good = true) (hseq : f.seq = (s.port k).expect) (hdst : f.dst = s.position ∨ (f.fwd = false ∧ any = true))
    (act : State → State) : s.receive k f any act = received s k f act := by
  have hrelay : ¬(f.dst ≠ (s.accept k f).position ∧ f.fwd = true) := by
    rw [position_accept]
    rintro ⟨hne, hfwd⟩
    obtain h | ⟨h, -⟩ := hdst
    · exact hne h
    · exact absurd (hfwd.symm.trans h) nofun
  have hstray : ¬(f.dst ≠ (s.accept k f).position ∧ any = false) := by
    rw [position_accept]
    rintro ⟨hne, hany⟩
    obtain h | ⟨-, h⟩ := hdst
    · exact hne h
    · exact absurd (hany.symm.trans h) nofun
  have hlinked : ¬(k ≥ 3 ∨ (s.port k).st ≠ 2) := by omega
  have hbad : ¬(!f.good) = true := by simp [hgood]
  exact (if_neg hlinked).trans <| (if_neg hbad).trans <| (if_neg (not_not_intro hseq)).trans <|
    (if_neg hrelay).trans (if_neg hstray)

section
variable {s : State} {k : Nat} {f : Flit} (h : Accepted s k f)
include h

theorem receive_of_accepted (any : Bool) (act : State → State) : s.receive k f any act = received s k f act := by
  obtain ⟨hk, hst, hgood, hseq, hdst⟩ := h
  exact receive_in_order hk hst hgood hseq (.inl hdst) act

theorem receiveType_of_accepted {typ : Nat} (htyp : f.typ = typ) (act : State → State) :
    s.receiveType k f typ act = .next (received s k f act) :=
  (if_pos htyp).trans (congrArg Host.Outcome.next (receive_of_accepted h false act))

theorem receiveMsg_of_accepted {msg : Nat} (htyp : f.typ = 5) (hmsg : fld f.body 0 1 = msg) (act : State → State) :
    s.receiveMsg k f msg act = .next (received s k f act) :=
  (if_pos ⟨htyp, hmsg⟩).trans (congrArg Host.Outcome.next (receive_of_accepted h _ act))

end

/-! A management message with an unlisted MSG (R200). -/

theorem exec_unlistedMsg {s : State} {k : Nat} {f : Flit} (h : Accepted s k f) (htyp : f.typ = 5)
    (hmsg : fld f.body 0 1 = 0 ∨ 7 < fld f.body 0 1) : exec (.unlistedMsg k f) s = .next (received s k f fun u =>
      u.addLog { code := 0x15, cls := 3, kind := kPort, unit := k, count := u.errsIn kPort k, detail := 2 }) := by
  have hunlisted : ¬(f.typ ≠ 5 ∨ (1 ≤ fld f.body 0 1 ∧ fld f.body 0 1 ≤ 7)) := by omega
  exact (if_neg hunlisted).trans (congrArg Host.Outcome.next (receive_of_accepted h false _))

theorem addLog_head (s : State) (e : LogEntry) :
    (s.addLog e).log.head? = some { e with time := s.time, seq := s.logNext } := rfl

/-- Settles O53: the flit that brings it is accepted as any other is, and what it does is its entry of the log. -/
theorem unlistedMessagesAreLogged : Obligations.UnlistedMessagesAreLogged := by
  intro s k f h htyp hmsg hnak
  refine ⟨_, exec_unlistedMsg h htyp hmsg, ?_⟩
  obtain ⟨ps, haccept, hothers⟩ := accept_ports hnak s k
  rw [received, haccept]
  exact ⟨rfl, congrArg (Option.map _) (addLog_head ..), rfl, fun m hm =>
    (State.port_modPort_other _ k _ m hm).trans (hothers m hm)⟩

/-! Bad, idle and relayed flits. -/

theorem serveIngress_of_nil {s : State} (h : s.ingress = []) : s.serveIngress = s := by
  obtain ⟨⟩ := s
  cases h
  rfl

section
variable {s : State} {k : Nat} {f : Flit} (hk : k < 3) (hst : (s.port k).st = 2)
include hk hst

theorem exec_badFlit (hbad : f.good = false) : exec (.badFlit k f) s = .next (s.badFlit k) := by
  refine if_neg ?_
  rintro (hport | hdown | hgood)
  · exact Nat.not_le.2 hk hport
  · exact hdown hst
  · exact absurd (hbad.symm.trans hgood) nofun

theorem exec_idle (hgood : f.good = true) (htyp : f.typ = 0) : exec (.idle k f) s = .next (s.serveIngress.takeAck k f) := by
  refine (if_neg ?_).trans (if_pos hgood)
  rintro (hport | hdown | hother)
  · exact Nat.not_le.2 hk hport
  · exact hdown hst
  · exact hother htyp

end

theorem port_badFlit (s : State) (k : Nat) : ((s.badFlit k).port k).sendNak = ((s.port k).sendNak || !(s.port k).nakSent) ∧
    ((s.badFlit k).port k).nakSent = (s.port k).nakSent ∧ ((s.badFlit k).port k).expect = (s.port k).expect := by
  rw [State.badFlit, State.port_modPort_same]
  cases hsent : (s.port k).nakSent <;> simp [hsent]

/-- The first flit that waits to be relayed goes on, where its link is up and there is credit for it (R202). -/
theorem exec_relayForward {s : State} {k : Nat} {g : Flit} {rs : List Flit} (hin : (s.port k).relayIn = g :: rs)
    (hup : s.linkUp g.dst = true) (hcr : (s.port (s.portTo g.dst)).credits (g.cls false) ≠ 0) : exec (.relayForward k) s =
      .next ((s.modPort k fun x => { x with relayIn := x.relayIn.erase g, oweRelay := x.oweRelay + 1 }).modPort
        (s.portTo g.dst) fun x => { x with qRelay := x.qRelay ++ [{ g with fwd := false }] }) := by
  change execRelayForward k s = _
  have hfind : (g :: rs).find? (fun f => s.linkUp f.dst && decide ((s.port (s.portTo f.dst)).credits (f.cls false) ≠ 0)
      && decide ((g :: rs).find? (fun h => h.src = f.src) = some f)) = some g :=
    List.find?_cons_of_pos (by simp [hup, hcr])
  simp only [execRelayForward, hin, hfind]
  rfl

/-- Settles O54: a bad flit is the port's own update, every kind of flit that leaves takes the NAK along, and an idle or relayed
flit is its row's equation. -/
theorem badIdleAndRelayedFlits : Obligations.BadIdleAndRelayedFlits := by
  intro s k f hk
  refine ⟨fun hst hbad => ?bad, flitSend_sends_nak hk, exec_idle hk, fun hst hgood htyp hnak hin => ?idle,
    fun g rs hin hup hcr hne => ?relay⟩
  case bad =>
    obtain ⟨hdue, hsent, hexpect⟩ := port_badFlit s k
    exact ⟨_, exec_badFlit hk hst hbad, hdue, hsent, hexpect, State.port_modPort_other s k _, rfl⟩
  case idle =>
    have hexec := exec_idle hk hst hgood htyp
    rw [serveIngress_of_nil hin, takeAck_of_no_nak hnak] at hexec
    refine ⟨_, hexec, ?_⟩
    rw [State.port_modPort_same]
    exact ⟨rfl, rfl, rfl, rfl⟩
  case relay =>
    refine ⟨_, exec_relayForward hin hup hcr, ?_⟩
    rw [State.port_modPort_other _ _ _ k hne.symm, State.port_modPort_same, State.port_modPort_same,
      State.port_modPort_other _ _ _ _ hne, hin, List.erase_cons_head]
    exact ⟨rfl, rfl, rfl⟩

end Sys2Proof.Machine
end

section
/-!
What the ends of commands, the messages that go out and the loss of links leave of the ports (R200 to R204): all but the flits
that wait at them. For O52.
-/
namespace Sys2Proof.Machine

/-- What a port is told by while flits come and go: the die's time, the flits that wait for the copy of a row, the other
positions' links, and the ports but for the flits that wait at them. -/
def State.peerLinks (s : State) : Nat × List (Nat × Flit) × Tbl Nat × (Nat → PPort) :=
  (s.time, s.ingress, s.linkmaps, fun k => (s.port k).unqueued)

section
variable {s t u : State}

theorem peerLinks_foldl {β : Type} {f : State → β → State} (hf : ∀ s x, (f s x).peerLinks = s.peerLinks) (l : List β)
    (s : State) : (l.foldl f s).peerLinks = s.peerLinks :=
  List.foldlRecOn (motive := fun u => State.peerLinks u = s.peerLinks) l f rfl fun _ h x _ => (hf _ x).trans h

theorem peerLinks_ite {c : Prop} [Decidable c] (ht : t.peerLinks = s.peerLinks) (hu : u.peerLinks = s.peerLinks) :
    (if c then t else u).peerLinks = s.peerLinks := by
  split
  · exact ht
  · exact hu

theorem unqueued_of_peerLinks (h : t.peerLinks = s.peerLinks) (k : Nat) : (t.port k).unqueued = (s.port k).unqueued :=
  congrFun (congrArg (fun v => v.2.2.2) h) k

theorem status_of_unqueued {x y : PPort} (h : x.unqueued = y.unqueued) : x.st = y.st ∧ x.disCause = y.disCause :=
  ⟨(congrArg PPort.st h :), (congrArg PPort.disCause h :)⟩

theorem linkmaps_of_peerLinks (h : t.peerLinks = s.peerLinks) : t.linkmaps = s.linkmaps := congrArg (fun v => v.2.2.1) h

end

/-! Ports. -/

/-- An update of what waits at a port is none of the port itself. -/
theorem peerLinks_modPort (s : State) {k : Nat} {f : PPort → PPort} (hf : (f (s.port k)).unqueued = (s.port k).unqueued) :
    (s.modPort k f).peerLinks = s.peerLinks := by
  have hports : (fun j => ((s.modPort k f).port j).unqueued) = fun j => (s.port j).unqueued := by
    funext j
    rw [State.port_modPort]
    split
    · next h => rw [h, hf]
    · rfl
  exact congrArg (fun g => (s.time, s.ingress, s.linkmaps, g)) hports

theorem peerLinks_putEgress (s : State) (k : Nat) (f : Flit) (crest : Nat) : (s.putEgress k f crest).peerLinks = s.peerLinks := by
  refine peerLinks_modPort s ?_
  split <;> rfl

theorem peerLinks_enqueue (s : State) (f : Flit) (crest : Nat) : (s.enqueue f crest).peerLinks = s.peerLinks := by
  unfold State.enqueue
  split
  · rfl
  · exact peerLinks_putEgress ..

theorem peerLinks_liveChange (s : State) : s.liveChange.peerLinks = s.peerLinks := peerLinks_ite rfl rfl

theorem peerLinks_sendLinkmap (s : State) : s.sendLinkmap.peerLinks = s.peerLinks := by
  refine (peerLinks_foldl (fun u q => ?_) _ _).trans (peerLinks_liveChange s.regroup)
  exact peerLinks_ite (peerLinks_enqueue ..) rfl

/-! The end of a command. -/

theorem peerLinks_modCmd (s : State) (q t : Nat) (f : Cmd → Cmd) : (s.modCmd q t f).peerLinks = s.peerLinks := rfl

theorem peerLinks_modCrest (s : State) (p : Nat) (f : Crest → Crest) : (s.modCrest p f).peerLinks = s.peerLinks := rfl

theorem peerLinks_modPart (s : State) (p : Nat) (f : Part → Part) : (s.modPart p f).peerLinks = s.peerLinks := rfl

theorem peerLinks_alert (s : State) (i : Nat) : (s.alert i).peerLinks = s.peerLinks := rfl

theorem peerLinks_chargeHold (s : State) (h : Hold) : (s.chargeHold h).peerLinks = s.peerLinks :=
  (congrArg State.peerLinks (turned_chargeHold 0 s h).rest :)

theorem peerLinks_kick (s : State) (p : Nat) : (s.kick p).peerLinks = s.peerLinks :=
  (congrArg State.peerLinks (turned_kick p s).rest :)

theorem peerLinks_write (s : State) (o : Obs) (m : List (Nat × Byte)) : (s.write o m).peerLinks = s.peerLinks :=
  (congrArg State.peerLinks (unwritten_write s o m) :)

theorem peerLinks_unspecify (s : State) (c : Cmd) (sub : Nat) : (s.unspecify c sub).peerLinks = s.peerLinks := by
  have hwritten : (if (decide (c.opcode = 11) && c.keepsRows sub) = true then s
      else s.write (.crest c.q c.t dispWriter) (s.freeOutput c)).peerLinks = s.peerLinks :=
    peerLinks_ite rfl (peerLinks_write ..)
  exact (peerLinks_ite rfl (peerLinks_foldl (fun _ _ => peerLinks_modCrest ..) _ _)).trans hwritten

theorem peerLinks_resetEnd (s : State) (p : Nat) : (s.resetEnd p).peerLinks = s.peerLinks :=
  peerLinks_ite rfl (peerLinks_foldl (fun _ _ => peerLinks_modCrest ..) _ s)

theorem peerLinks_resetEnds (s : State) : s.resetEnds.peerLinks = s.peerLinks :=
  peerLinks_ite (peerLinks_foldl peerLinks_resetEnd _ s) rfl

theorem peerLinks_unlend (s : State) (p : Nat) : (s.unlend p).peerLinks = s.peerLinks := by
  rw [State.unlend]
  cases (s.crest p).lentTo with
  | none => rfl
  | some b =>
    refine peerLinks_ite rfl ?_
    cases (s.crest p).held with
    | nil => exact peerLinks_resetEnds _
    | cons k ks => exact (peerLinks_resetEnds _).trans (peerLinks_foldl (fun _ _ => peerLinks_modCmd ..) _ _)

theorem peerLinks_dropFrom (s : State) (p q t : Nat) : (s.dropFrom p q t).peerLinks = s.peerLinks :=
  (peerLinks_unlend _ p).trans (peerLinks_ite (s := s) rfl rfl)

theorem peerLinks_endCmd (s : State) (q t st sub : Nat) : (s.endCmd q t st sub).peerLinks = s.peerLinks := by
  have hended : ((s.endHolds q t fun _ => true).uncharged q t).peerLinks = s.peerLinks :=
    (peerLinks_modCmd ..).trans (peerLinks_foldl peerLinks_chargeHold _ s)
  rw [State.endCmd]
  cases s.cmd? q t with
  | none => rfl
  | some c =>
    refine peerLinks_ite rfl ?_
    refine (peerLinks_foldl (fun _ _ => (peerLinks_modCrest ..).trans (peerLinks_dropFrom ..)) _ _).trans ?_
    exact (peerLinks_ite (peerLinks_unspecify ..) rfl : State.peerLinks _ = _).trans hended

theorem peerLinks_abort (s : State) (q t st sub : Nat) : (s.abort q t st sub).peerLinks = s.peerLinks :=
  (peerLinks_foldl peerLinks_kick _ _).trans (peerLinks_endCmd ..)

/-! Routes and links. -/

theorem peerLinks_addLog (s : State) (e : LogEntry) : (s.addLog e).peerLinks = s.peerLinks := rfl

theorem peerLinks_sendMsix (s : State) (v : Nat) : (s.sendMsix v).peerLinks = s.peerLinks := peerLinks_ite rfl rfl

theorem peerLinks_dropRelayed (s : State) : s.dropRelayed.peerLinks = s.peerLinks := by
  refine peerLinks_foldl (fun u k => ?_) _ s
  exact peerLinks_ite rfl (peerLinks_modPort u rfl)

theorem peerLinks_closing (s : State) (cs : List (Nat × Nat)) : ({ s with closing := cs } : State).peerLinks = s.peerLinks := rfl

/-- Commands that lose their way end, and what waits to be relayed goes: the ports stay (R204). -/
theorem peerLinks_routesChanged (s : State) (st sub : Nat) : (s.routesChanged st sub).peerLinks = s.peerLinks := by
  refine (peerLinks_foldl (fun u c => ?_) _ _).trans ((peerLinks_closing ..).trans (peerLinks_dropRelayed s))
  have hdropped : ((u.abort c.q c.t st sub).dropStreams c).peerLinks = u.peerLinks :=
    (peerLinks_modCmd ..).trans (peerLinks_abort ..)
  exact peerLinks_ite hdropped (peerLinks_ite (peerLinks_abort ..) rfl)

theorem peerLinks_reroute (s : State) (k : Nat) : (s.reroute k).peerLinks = s.peerLinks := by
  refine (peerLinks_foldl (fun _ _ => peerLinks_enqueue ..) _ _).trans ?_
  refine (peerLinks_foldl (fun _ _ => peerLinks_enqueue ..) _ _).trans ?_
  refine (peerLinks_foldl (fun u f => ?_) _ _).trans (peerLinks_modPort s rfl)
  split
  · exact peerLinks_modPort u rfl
  · rfl

theorem peerLinks_loseLink (s : State) (k : Nat) : (s.loseLink k).peerLinks = s.peerLinks := by
  have hrerouted : ((s.modPort k fun x => { x with qRelay := [], resend := 0, resends := 0 }).reroute k).peerLinks =
      s.peerLinks :=
    (peerLinks_reroute _ k).trans (peerLinks_modPort s rfl)
  unfold State.loseLink
  dsimp only
  split
  · exact (peerLinks_putEgress ..).trans ((peerLinks_modPort _ rfl).trans hrerouted)
  · exact (peerLinks_modPort _ rfl).trans hrerouted

/-- A lost link takes what waits at its port, not the port's own state (R203, R204). -/
theorem peerLinks_linkLost (s : State) (k st sub : Nat) : (s.linkLost k st sub).peerLinks = s.peerLinks :=
  (peerLinks_routesChanged ..).trans ((peerLinks_sendLinkmap _).trans (peerLinks_loseLink s k))

theorem peerLinks_peersFollow (s old : State) : (s.peersFollow old).peerLinks = s.peerLinks := by
  have hlost (gone : List Nat) : (gone.foldl State.loseLink s).peerLinks = s.peerLinks :=
    peerLinks_foldl peerLinks_loseLink gone s
  have hfollowed (b : Bool) (u : State) : (if b then u.sendLinkmap else u).peerLinks = u.peerLinks :=
    peerLinks_ite (peerLinks_sendLinkmap u) rfl
  exact peerLinks_ite ((hfollowed ..).trans (hlost _)) ((peerLinks_routesChanged ..).trans ((hfollowed ..).trans (hlost _)))

theorem peerLinks_notice (s : State) (alerts parts : List Nat) : (s.notice alerts parts).peerLinks = s.peerLinks := by
  have htold : ((parts.foldl (fun s p => s.modPart p fun x => { x with unitLost := true })
      (alerts.foldl State.alert s.liveChange)).peerLinks) = s.peerLinks :=
    (peerLinks_foldl (fun _ _ => peerLinks_modPart ..) _ _).trans <|
      (peerLinks_foldl peerLinks_alert _ _).trans (peerLinks_liveChange s)
  exact (peerLinks_ite (peerLinks_sendMsix ..) rfl).trans htold

/-- A port that is disabled stays so, with its cause, once its link has been dealt with (R201). -/
theorem port_disablePort (s : State) (k cause : Nat) : ((s.disablePort k cause).port k).st = 4 ∧
    ((s.disablePort k cause).port k).disCause = cause := by
  have hlost : (s.disablePort k cause).peerLinks =
      (s.modPort k fun x => { x with st := 4, disCause := cause, helloSeen := false }).peerLinks :=
    (peerLinks_linkLost ..).trans (peerLinks_addLog ..)
  have hport := unqueued_of_peerLinks hlost k
  rw [State.port_modPort_same] at hport
  exact status_of_unqueued hport

/-! The acceptance of a flit. -/

/-- What the acceptance of a flit leaves alone though its NAK makes the port retrain or retires it: the time, the flits that
wait, and of the ports E and the data credits. -/
def State.peerCounts (s : State) : Nat × List (Nat × Flit) × (Nat → Nat × Nat) :=
  (s.time, s.ingress, fun k => ((s.port k).expect, (s.port k).crData))

theorem peerCounts_of_peerLinks {s t : State} (h : t.peerLinks = s.peerLinks) : t.peerCounts = s.peerCounts :=
  (congrArg (fun v => (v.1, v.2.1, fun k => ((v.2.2.2 k).expect, (v.2.2.2 k).crData))) h :)

theorem peerCounts_modPort (s : State) {k : Nat} {f : PPort → PPort} (hexpect : (f (s.port k)).expect = (s.port k).expect)
    (hcr : (f (s.port k)).crData = (s.port k).crData) : (s.modPort k f).peerCounts = s.peerCounts := by
  have hports : (fun j => (((s.modPort k f).port j).expect, ((s.modPort k f).port j).crData)) =
      fun j => ((s.port j).expect, (s.port j).crData) := by
    funext j
    rw [State.port_modPort]
    split
    · next h => rw [h, hexpect, hcr]
    · rfl
  exact congrArg (fun g => (s.time, s.ingress, g)) hports

theorem peerCounts_ite {c : Prop} [Decidable c] {s t u : State} (ht : t.peerCounts = s.peerCounts)
    (hu : u.peerCounts = s.peerCounts) : (if c then t else u).peerCounts = s.peerCounts := by
  split
  · exact ht
  · exact hu

theorem peerCounts_retirePort (s : State) (k cause : Nat) : (s.retirePort k cause).peerCounts = s.peerCounts := by
  have hretired := peerCounts_modPort s (k := k) (f := fun x => { x with st := 5, helloSeen := false }) rfl rfl
  exact peerCounts_ite rfl ((peerCounts_of_peerLinks (peerLinks_notice ..)).trans hretired)

theorem peerCounts_peerEvent (s : State) (k detail : Nat) : (s.peerEvent k detail).peerCounts = s.peerCounts :=
  peerCounts_ite rfl (peerCounts_ite
    ((peerCounts_of_peerLinks (peerLinks_peersFollow ..)).trans (peerCounts_retirePort ..)) rfl)

theorem peerCounts_replay (s : State) (k : Nat) : (s.replay k).peerCounts = s.peerCounts := by
  have hretrain : (s.peerRetrainOne k).peerCounts = s.peerCounts :=
    peerCounts_ite rfl <| peerCounts_ite (peerCounts_peerEvent ..) <| peerCounts_ite rfl <|
      (peerCounts_peerEvent ..).trans <| (peerCounts_of_peerLinks (peerLinks_sendLinkmap _)).trans <|
        peerCounts_modPort s rfl rfl
  exact peerCounts_ite rfl (peerCounts_ite hretrain (peerCounts_modPort s rfl rfl))

theorem peerCounts_accept (s : State) (k : Nat) (f : Flit) :
    (s.accept k f).peerCounts = (s.modPort k (·.taken f)).peerCounts := by
  have hacked := peerCounts_modPort (s.modPort k (·.taken f)) (k := k) (f := (·.acked f)) rfl rfl
  rw [accept_eq, takeAck_eq]
  exact peerCounts_ite ((peerCounts_replay ..).trans hacked) hacked

/-- E advances and the flit's data credits are taken, whatever its NAK brings about; the time and the flits that wait stay. -/
theorem accept_counts (s : State) (k : Nat) (f : Flit) : (s.accept k f).time = s.time ∧ (s.accept k f).ingress = s.ingress ∧
    ((s.accept k f).port k).expect = ((s.port k).expect + 1) % 4096 ∧
    ((s.accept k f).port k).crData = (s.port k).crData + f.crData % 4 := by
  have h := peerCounts_accept s k f
  have hport := congrFun (congrArg (fun v => v.2.2) h) k
  have htaken := State.port_modPort_same s k (·.taken f)
  exact ⟨(congrArg Prod.fst h :), (congrArg (fun v => v.2.1) h :),
    (congrArg Prod.fst hport :).trans (congrArg PPort.expect htaken),
    (congrArg Prod.snd hport :).trans (congrArg PPort.crData htaken)⟩

end Sys2Proof.Machine
end

section
/-!
What an accepted flit does, by its TYPE and MSG (R195, R197 to R203). For O52.
-/
namespace Sys2Proof.Machine
open Sys2Proof.Claim

/-- A freed buffer entry is owed to the other side, and nothing else of the port changes. -/
theorem owe_keeps (x : PPort) (c : Nat) : (x.owe c).st = x.st ∧ (x.owe c).disCause = x.disCause ∧
    (x.owe c).helloSeen = x.helloSeen ∧ (x.owe c).expect = x.expect ∧ (x.owe c).crData = x.crData := by
  unfold PPort.owe
  split <;> exact ⟨rfl, rfl, rfl, rfl, rfl⟩

theorem port_received (s : State) (k : Nat) (f : Flit) (act : State → State) :
    (received s k f act).port k = ((act (s.accept k f)).port k).owe (f.cls false) := State.port_modPort_same ..

theorem received_frame (s : State) (k : Nat) (f : Flit) (act : State → State) :
    (received s k f act).linkmaps = (act (s.accept k f)).linkmaps ∧ (received s k f act).pwr = (act (s.accept k f)).pwr :=
  ⟨rfl, rfl⟩

theorem peerOf_accept (s : State) (k : Nat) (f : Flit) (j : Nat) : (s.accept k f).peerOf j = s.peerOf j :=
  congrArg (fun p => (p + j + 1) % 4) (position_accept s k f)

theorem ingest_free {s : State} {f : Flit} (h : s.flitHeld f = false) (k : Nat) : s.ingest k f = s.performFlit k f :=
  if_neg (Bool.eq_false_iff.1 h)

/-- With nothing waiting before it a data or flag flit that need not wait is performed (R197, R272). -/
theorem serveIngress_ingest_accept {s : State} {k : Nat} {f : Flit} (hin : s.ingress = [])
    (hfree : (s.accept k f).flitHeld f = false) : (s.accept k f).serveIngress.ingest k f = (s.accept k f).performFlit k f := by
  obtain ⟨-, hingress, -, -⟩ := accept_counts s k f
  rw [serveIngress_of_nil (hingress.trans hin), ingest_free hfree]

/-- The LINKS of position `src` have come: the group follows, and streams that lose their way end (R202, R204). -/
def State.takeLinkmap (s : State) (src links : Nat) : State :=
  ({ s with linkmaps := tset 0 s.linkmaps src links }.regroup.liveChange).routesChanged sPeer 0x60

theorem linkmaps_takeLinkmap (s : State) (src links : Nat) :
    (s.takeLinkmap src links).linkmaps = tset 0 s.linkmaps src links :=
  (linkmaps_of_peerLinks (peerLinks_routesChanged ..)).trans (linkmaps_of_peerLinks (peerLinks_liveChange _))

/-- The SLACK report of position `src` is kept with the time of its arrival (R263). -/
def State.takeSlack (s : State) (src : Nat) (body : List Byte) : State :=
  s.modPwr fun p => { p with
    slackOf := tset none p.slackOf src (some (sext 32 (fld body 5 4), fld body 9 2, fld body 0xB 2, s.time)) }

theorem slackOf_takeSlack (s : State) (src : Nat) (body : List Byte) : tget none (s.takeSlack src body).pwr.slackOf src =
    some (sext 32 (fld body 5 4), fld body 9 2, fld body 0xB 2, s.time) := by
  rw [State.takeSlack, State.modPwr_pwr, tget_tset_same]

section
variable {s : State} {k : Nat} {f : Flit} (h : Accepted s k f)
include h

theorem exec_credit (htyp : f.typ = 6) : exec (.credit k f) s = .next (received s k f id) := receiveType_of_accepted h htyp id

/-- A CREDIT flit advances E, brings its credits, and does nothing else (R195). -/
theorem credit_effect (htyp : f.typ = 6) : ∃ t, exec (.credit k f) s = .next t ∧
    (t.port k).crData = (s.port k).crData + f.crData % 4 ∧ (t.port k).expect = ((s.port k).expect + 1) % 4096 ∧
    (f.nak = false → t.store = s.store ∧ t.cmds = s.cmds) := by
  obtain ⟨-, -, hexpect, hcr⟩ := accept_counts s k f
  obtain ⟨-, -, -, hexpect', hcr'⟩ := owe_keeps ((s.accept k f).port k) (f.cls false)
  refine ⟨_, exec_credit h htyp, ?_⟩
  rw [port_received]
  refine ⟨hcr'.trans hcr, hexpect'.trans hexpect, fun hnak => ?_⟩
  obtain ⟨ps, haccept, -⟩ := accept_ports hnak s k
  rw [received, haccept]
  exact ⟨rfl, rfl⟩

section
variable (htyp : f.typ = 5)
include htyp

/-- A LINKMAP becomes its sender's latest (R202). -/
theorem linkmap_effect (hmsg : fld f.body 0 1 = 2) : ∃ t, exec (.linkmap k f) s = .next t ∧
    tget 0 t.linkmaps f.src = fld f.body 5 1 % 16 := by
  refine ⟨_, receiveMsg_of_accepted h htyp hmsg (·.takeLinkmap f.src (fld f.body 5 1 % 16)), ?_⟩
  rw [(received_frame ..).1, linkmaps_takeLinkmap, tget_tset_same]

theorem exec_resyncRsp (hmsg : fld f.body 0 1 = 4) (hj : fld f.body 1 1 < 3)
    (hre : ((s.accept k f).port (fld f.body 1 1)).resync = true) : exec (.resyncRsp k f) s =
      .next (received s k f fun u => u.resynced (fld f.body 1 1) (fld f.body 2 2)) := by
  refine (receiveMsg_of_accepted h htyp hmsg _).trans ?_
  rw [received, if_pos ⟨hj, hre⟩]
  rfl

theorem slack_effect (hmsg : fld f.body 0 1 = 6) : ∃ t, exec (.slack k f) s = .next t ∧ tget none t.pwr.slackOf f.src =
    some (sext 32 (fld f.body 5 4), fld f.body 9 2, fld f.body 0xB 2, s.time) := by
  obtain ⟨htime, -⟩ := accept_counts s k f
  refine ⟨_, receiveMsg_of_accepted h htyp hmsg (·.takeSlack f.src f.body), ?_⟩
  rw [(received_frame ..).2, slackOf_takeSlack, htime]

/-- A GROUP_CAP gives this die the entry of its position, and leaves its own cap (R263). -/
theorem groupCap_effect (hmsg : fld f.body 0 1 = 7) : ∃ t, exec (.groupCap k f) s = .next t ∧
    t.pwr.effCap = some (fld f.body (5 + 2 * s.position) 2) ∧ t.pwr.capSust = s.pwr.capSust := by
  obtain ⟨hcap, -⟩ := (accept_kept k f (Kept.refl true true s)).caps rfl
  refine ⟨_, receiveMsg_of_accepted h htyp hmsg _, ?_, hcap⟩
  rw [← position_accept s k f]
  rfl

/-- A CH_CLOSED marks its tile as to be sent again, unless it is marked already (R199, R115). -/
theorem chClosed_effect (hmsg : fld f.body 0 1 = 5) {c : Cmd}
    (hc : (s.accept k f).cmds.find? (fun c => c.fin.isNone && c.streams.any (fun x =>
      x.dst = f.src && x.sid = fld f.body 2 1 && x.kept.any (fun e => e.1 = fld f.body 3 4))) = some c) :
    ∃ t, exec (.chClosed k f) s = .next t ∧ (c.q, c.t, fld f.body 2 1, fld f.body 3 4) ∈ t.retries ∧
      t.cmds = (s.accept k f).cmds := by
  refine ⟨_, receiveMsg_of_accepted h htyp hmsg _, ?_⟩
  simp only [received, hc]
  split
  · next hmarked => exact ⟨List.contains_iff_mem.1 hmarked, rfl⟩
  · exact ⟨List.mem_append_right _ (List.mem_singleton.2 rfl), rfl⟩

end

end

/-- What a HELLO that carries position `p` does at port `k` (R201). -/
def State.checkHello (s : State) (k p : Nat) : State :=
  if p = s.position then s.disablePort k 1
  else if p ≠ s.peerOf k then s.disablePort k 2
  else s.modPort k fun x => { x with helloSeen := true }

/-- A HELLO in order is checked, whatever its destination, unless it is to be relayed. -/
theorem exec_hello {s : State} {k : Nat} {f : Flit} (hk : k < 3) (hst : (s.port k).st = 2) (hgood : f.good = true)
    (hseq : f.seq = (s.port k).expect) (hdst : f.dst = s.position ∨ f.fwd = false) (htyp : f.typ = 5)
    (hmsg : fld f.body 0 1 = 1) : exec (.hello k f) s =
      .next (received s k f fun u => u.checkHello k (fld f.body 1 1)) :=
  (if_pos ⟨htyp, hmsg⟩).trans (congrArg Host.Outcome.next
    (receive_in_order hk hst hgood hseq (hdst.imp_right fun hfwd => ⟨hfwd, rfl⟩) _))

theorem port_checkHello (s : State) (k p : Nat) :
    (p = s.position → ((s.checkHello k p).port k).st = 4 ∧ ((s.checkHello k p).port k).disCause = 1) ∧
    (p ≠ s.position → p ≠ s.peerOf k →
      ((s.checkHello k p).port k).st = 4 ∧ ((s.checkHello k p).port k).disCause = 2) ∧
    (p ≠ s.position → p = s.peerOf k → ((s.checkHello k p).port k).helloSeen = true) := by
  refine ⟨fun hown => ?_, fun hother hwrong => ?_, fun hother hpeer => ?_⟩
  · rw [State.checkHello, if_pos hown]
    exact port_disablePort s k 1
  · rw [State.checkHello, if_neg hother, if_pos hwrong]
    exact port_disablePort s k 2
  · rw [State.checkHello, if_neg hother, if_neg (not_not_intro hpeer), State.port_modPort_same]

/-- Settles O52: an accepted flit does what its row says in the state that its acceptance leaves, and each row's effect is told
apart from what its ACK and NAK may have moved. -/
theorem acceptedFlitsAreCarriedOut : Obligations.AcceptedFlitsAreCarriedOut := by
  refine ⟨?types, fun s k f c h htyp hmsg hc => chClosed_effect h htyp hmsg hc, ?hello⟩
  case types =>
    intro s k f h j
    exact ⟨fun htyp => receiveType_of_accepted h htyp _, fun htyp => receiveType_of_accepted h htyp _,
      fun htyp => receiveType_of_accepted h htyp _, fun _ hin hfree => serveIngress_ingest_accept hin hfree,
      fun htyp => receiveType_of_accepted h htyp _, credit_effect h, linkmap_effect h,
      fun htyp hmsg => receiveMsg_of_accepted h htyp hmsg _, exec_resyncRsp h, slack_effect h, groupCap_effect h⟩
  case hello =>
    intro s k f hk hst hgood hseq hdst htyp hmsg
    refine ⟨_, exec_hello hk hst hgood hseq hdst htyp hmsg, ?_⟩
    obtain ⟨hst', hcause, hseen, -, -⟩ := owe_keeps (((s.accept k f).checkHello k (fld f.body 1 1)).port k) (f.cls false)
    rw [port_received, hst', hcause, hseen, ← position_accept s k f, ← peerOf_accept s k f k]
    exact port_checkHello (s.accept k f) k (fld f.body 1 1)

end Sys2Proof.Machine
end

section
/-!
The loss of a port's link (R203, R204), and the PARTITION reset that it may bring to its end (R137, R319). For O55.
-/
namespace Sys2Proof.Machine

/-- Port `k` trains for its lost link anew, what it was sending taking another way or none. -/
def State.linkTrains (s : State) (k : Nat) : State :=
  (s.modPort k fun x => { x with st := 1, attempt := 0, helloSeen := false }).linkLost k sPeer 0x60

theorem exec_peerLinkLost {s : State} {k : Nat} (hk : k < 3) (hst : (s.port k).st = 2 ∨ (s.port k).st = 3) :
    exec (.peerLinkLost k) s = .next (s.linkTrains k) := by
  have hport : decide (k ≥ 3) = false := decide_eq_false (Nat.not_le.2 hk)
  have hup : (!decide ((s.port k).st = 2 ∨ (s.port k).st = 3)) = false := by rw [decide_eq_true hst, Bool.not_true]
  refine if_neg ?_
  rw [hport, hup]
  exact Bool.false_ne_true

/-- A SEND of partition 1 on crest 0, with its stream to position 1 unanswered. -/
def lentSend : Cmd :=
  { q := 0, t := 0, part := 1, e := [5#8], started := true, crests := [0], total := 1, streams := [{ stage := 8, dst := 1 }] }

/-- Position 0 with port T0 ACTIVE alone: a PT_RESET of partition 0 waits for its only crest, which is lent to partition 1 and
holds that SEND (R137, R319). -/
def resetAwaitsSend : State :=
  { mg := { State.reset.mg with running := some 0x13 }, parts := [(0, { crests := 1, st := 3 }), (1, { st := 1 })]
    crests := [(0, { held := [(0, 0)], lentTo := some 1 })], cmds := [lentSend], ports := [(0, { st := 2 })] }

/-- The lost link ends the SEND, which gives the crest back, and so the PARTITION reset ends in the same step. -/
theorem linkTrains_ends_reset : ((resetAwaitsSend.linkTrains 0).part 0).st = 1 := by decide +kernel

/-- Refutes O55: a lost link ends the streams that went that way, and where such a stream's command was the last of a crest's
borrower, a PARTITION reset that waits for the crest ends with it: its partition goes from RESETTING to ACTIVE. -/
theorem not_portsTrainAndAreLost : ¬ Obligations.PortsTrainAndAreLost := by
  intro h
  obtain ⟨-, -, -, -, -, -, -, hlost⟩ := h resetAwaitsSend 0 0 true (by decide)
  obtain ⟨t, hexec, -, -, -, hparts⟩ := hlost (.inl rfl)
  rw [exec_peerLinkLost (by decide) (.inl rfl)] at hexec
  rw [← Host.Outcome.next.inj hexec] at hparts
  have hst : ((resetAwaitsSend.linkTrains 0).part 0).st = (resetAwaitsSend.part 0).st :=
    congrArg (fun ps => (tget ({} : Part) ps 0).st) hparts
  rw [linkTrains_ends_reset] at hst
  exact absurd hst (by decide)

end Sys2Proof.Machine
end

section
/-!
What each command keeps (O57): every row of the table but those that reach a debug level, the taint, the caps or the
always-on reset leaves them, the waiting commands and the form of the memories alone.
-/
namespace Sys2Proof.Machine

/-- What DRAIN leaves before ZEROISE starts: host-bias pages of the removed slices are in device bias, those of the slices
that are not retired are in transit and out of the partition, the removed crests are zeroised (R212). -/
def State.drained (s : State) (j : Journal) : State :=
  let ns := (maskList j.remSlices 96).filter (fun n => !s.sliceRetired n)
  let pages := (tkeys s.bias.hostPages).filter (fun k => tget false s.bias.hostPages k && j.remSlices.testBit (k / 4096))
  let s := pages.foldl (fun s k => s.pageToDevice (k * 4096) { it := [], poison := [], waited := 0 }) s
  let s := ns.foldl (fun s n => s.modSlice n fun x => { x with transit := true }) s
  let s := s.modPart j.part fun x => { x with slices := andNot x.slices j.remSlices }
  (maskList j.remCrests 16).foldl (fun s l => s.modCrest (s.physOf l) Crest.scrub) s

/-- The commands that may write a debug level, the taint or the caps, decode the straps, or enter or leave the always-on
reset: management commands and register writes, those two of the register port, boot, halts and resets. -/
def reachesGuarded : Instr → Bool
  | .registerWrite _ _ | .ptCreate _ _ | .ptReshape _ _ | .ptDestroy _ _ | .ptReset _ _ | .rpRetire _ _ _
  | .fwSbOpen _ | .fwSbActivate _ | .resetCold _ | .resetWarm _ | .resetCrest _ _ | .resetLink _ _ | .crestHalt _
  | .seDebugReq _ _ | .sbWrite _ _ _ _ | .alwaysOnReset | .refclkInvalid | .alwaysOnRelease | .strapDecode _ _ _ _
  | .fwVerifyDone | .watchdog => true
  | _ => false

section
variable {fc fg : Bool} {z s : State}

/-- A choice keeps what both of its outcomes keep. -/
theorem KeptO.ite {c : Prop} [Decidable c] {a b : Host.Outcome State Fault Refusal} (ha : KeptO fc fg z a)
    (hb : KeptO fc fg z b) : KeptO fc fg z (if c then a else b) := by
  split
  · exact ha
  · exact hb

variable (hk : Kept fc fg z s)
include hk

/-! The dispatcher and the crests. -/

theorem execLoadprog_kept (q : Nat) (h : HostUpd) : KeptO fc fg z (execLoadprog q h s) :=
  .ite (.next (hostWrites_kept h hk)) (.next (command_kept q opLoadprog _ (hostWrites_kept h hk)))

theorem execLoadprogUnload_kept (q : Nat) (h : HostUpd) : KeptO fc fg z (execLoadprogUnload q h s) :=
  .ite (.next (command_kept q opLoadprog _ (hostWrites_kept h hk))) (.next (hostWrites_kept h hk))

theorem execEntryFetch_kept (q : Nat) (h : HostUpd) (waited : Nat) : KeptO fc fg z (execEntryFetch q h waited s) :=
  .ite (.next (fetch_kept q waited (hostWrites_kept h hk))) (.next (hostWrites_kept h hk))

theorem execPreempt_kept (p : Nat) : KeptO fc fg z (execPreempt p s) := by
  have ht := turn_kept p hk
  unfold execPreempt
  dsimp only
  split
  · split
    · split
      · exact .ite (.next (turnTo_kept p _ ht)) (.next ht)
      · exact .next ht
    · exact .next ht
  · exact .next ht

theorem execSendFlag_kept (q t stage : Nat) : KeptO fc fg z (execSendFlag q t stage s) := by
  have ho := openEmpty_kept q t stage hk
  unfold execSendFlag
  dsimp only
  split
  · exact .next ho
  · split
    · exact .next ho
    · exact .ite (.next ho) (.next (sendFlagFlit_kept _ _ _ _ _ _ _ _ (modCmd_kept q t _ ho)))

theorem execChannelTileRetry_kept (q t sid tile : Nat) : KeptO fc fg z (execChannelTileRetry q t sid tile s) := by
  unfold execChannelTileRetry
  split
  · exact .next hk
  · split
    · exact .next hk
    · exact .ite (.next hk) (.next (sendChannel_kept _ _ _ _ _ _ _ (modCmd_kept q t _
        (kept_upd hk ⟨rfl, rfl, rfl⟩ ⟨rfl, rfl, rfl, rfl⟩))))

theorem execSendTmo_kept (q t : Nat) : KeptO fc fg z (execSendTmo q t s) := by
  unfold execSendTmo
  split
  · exact .next hk
  · exact .ite (.next hk) (.next (abort_kept q t _ _ (kept_upd hk ⟨rfl, rfl, rfl⟩ ⟨rfl, rfl, rfl, rfl⟩)))

theorem execRecvTileAdd_kept (q : Nat) (e : Checked Nat) : KeptO fc fg z (execRecvTileAdd q e s) := by
  unfold execRecvTileAdd
  dsimp only
  split
  · exact .next hk
  next c _ =>
  split
  next k rank _ n p _ _ _ =>
    refine .ite (.next hk) (.ite (.next (requeue_kept p (setHold_kept q e.it p wPeer false hk))) ?_)
    split
    · exact .next (stall_kept q e.it _ hk)
    · have hr := reads_kept q e.it ((List.range c.rRows).flatMap fun r =>
        s.gaddrs c.part (c.stageRow k rank r) (128 * recvWidth c.rFmt)) (setHold_kept q e.it p wPeer false hk)
      split
      · exact .next (abort_kept q e.it _ _ hr)
      · have ha := addTile_kept p c k rank n hr
        exact .ite (.next (parityFails_kept p c hr))
          (.next (requeue_kept p (turn_kept p (recvWaits_kept q e.it p (kept_ite (recvWhole_kept p q e.it _ ha) ha)))))
  · exact .next hk

theorem execRecvTmo_kept (q t : Nat) : KeptO fc fg z (execRecvTmo q t s) := by
  unfold execRecvTmo
  split
  · exact .next hk
  · exact .ite (.next hk) (.next (abort_kept q t _ _ hk))

theorem execWaitPoll_kept (q t : Nat) (h : HostUpd) : KeptO fc fg z (execWaitPoll q t h s) := by
  have hw := hostWrites_kept h hk
  unfold execWaitPoll
  dsimp only
  split
  · exact .next hw
  · exact .ite (.next hw) (.next (readWait_kept _ (modCmd_kept q t _ hw)))

theorem execWaitTmo_kept (q t : Nat) (h : HostUpd) : KeptO fc fg z (execWaitTmo q t h s) := by
  have hw := hostWrites_kept h hk
  unfold execWaitTmo
  dsimp only
  split
  · exact .next hw
  · exact .ite (.next hw) (.next (finalRead_kept _ (modCmd_kept q t _ hw)))

theorem execAtomicWriteback_kept (a : Nat) : KeptO fc fg z (execAtomicWriteback a s) := by
  unfold execAtomicWriteback
  split
  · exact .ite (.next hk) (.next (abufBack_kept _ hk))
  · exact .next hk

/-! Queue pages, the mailbox and bias control. -/

theorem execQDoorbell_kept (q tail : Nat) (h : HostUpd) : KeptO fc fg z (execQDoorbell q tail h s) :=
  .next (kept_ite (doorbell_kept q _ (hostWrites_kept h hk)) (hostWrites_kept h hk))

theorem execIdentify_kept : KeptO fc fg z (execIdentify s) := by
  refine .ite (.next hk) ?_
  split
  · exact .next (mbEnd_kept _ _ hk)
  · exact .next (mbEnd_kept _ _ (modFw_kept _ hk))

theorem execFwTransfer_kept : KeptO fc fg z (execFwTransfer s) := by
  refine .ite (.next hk) ?_
  dsimp only
  split
  · exact .next (mbEnd_kept _ _ hk)
  · exact .next (mbEnd_kept _ _ (modFw_kept _ hk))

theorem execFwActivate_kept : KeptO fc fg z (execFwActivate s) := by
  refine .ite (.next hk) ?_
  dsimp only
  split
  · exact .next (mbEnd_kept _ _ hk)
  · exact .next (modMg_kept _ (modFw_kept _ hk) fun _ => ⟨rfl, rfl, rfl⟩)

theorem execLogRead_kept : KeptO fc fg z (execLogRead s) := by
  refine .ite (.next hk) ?_
  split
  · exact .next (mbEnd_kept _ _ hk)
  · exact .next (mbEnd_kept _ _ (modFw_kept _ hk))

theorem execBiasPageDone_kept (r : Returned) : KeptO fc fg z (execBiasPageDone r s) :=
  .ite (.next hk) (.next (resumeHeld_kept .bias r.waited (kept_upd
    (kept_ite (pageToHost_kept _ hk) (pageToDevice_kept _ r hk)) ⟨rfl, rfl, rfl⟩ ⟨rfl, rfl, rfl, rfl⟩)))

/-! Partitions. -/

theorem execQuiesceDone_kept : KeptO fc fg z (execQuiesceDone s) := by
  unfold execQuiesceDone
  split
  · exact .next hk
  · exact .ite (.next hk) (.next (kept_upd hk ⟨rfl, rfl, rfl⟩ ⟨rfl, rfl, rfl, rfl⟩))

theorem execQuiesceTmo_kept : KeptO fc fg z (execQuiesceTmo s) := by
  unfold execQuiesceTmo
  split
  · exact .next hk
  · exact .ite (.next hk) (.next (heldReset_kept (ptResult_kept _ _ _
      (kept_upd (modPart_kept _ _ hk) ⟨rfl, rfl, rfl⟩ ⟨rfl, rfl, rfl, rfl⟩))))

theorem drained_kept (j : Journal) : Kept fc fg z (s.drained j) :=
  kept_foldl (fun _ _ h => modCrest_kept _ _ h) (modPart_kept j.part _ (kept_foldl (fun _ n h => modSlice_kept n _ h)
    (kept_foldl (fun _ k h => pageToDevice_kept (k * 4096) _ h) hk)))

theorem execDrainDone_kept : KeptO fc fg z (execDrainDone s) := by
  unfold execDrainDone
  split
  · exact .next hk
  next j _ =>
  have hd := drained_kept hk j
  exact .ite (.next hk) (.ite (.next (remap_kept _ (kept_upd hd ⟨rfl, rfl, rfl⟩ ⟨rfl, rfl, rfl, rfl⟩)))
    (.next (kept_upd hd ⟨rfl, rfl, rfl⟩ ⟨rfl, rfl, rfl, rfl⟩)))

theorem execSliceZeroiseDone_kept : KeptO fc fg z (execSliceZeroiseDone s) := by
  unfold execSliceZeroiseDone
  split
  · exact .next hk
  next j _ =>
  refine .ite (.next hk) ?_
  have hz : Kept fc fg z (match maskList j.transit 96 with
      | [] => s
      | n :: _ => { (s.zeroSlice n).modSlice n fun x => { x with pw := .off, waking := false, scrub := 0 } with
          journal := some { j with transit := clrBit j.transit n, marked := orBit j.marked n } }) := by
    split
    · exact hk
    · exact kept_upd (modSlice_kept _ _ (zeroSlice_kept _ hk)) ⟨rfl, rfl, rfl⟩ ⟨rfl, rfl, rfl, rfl⟩
  dsimp only
  split
  · exact .ite (.next (remap_kept _ hz)) (.next hz)
  · exact .next hz

/-! Resets, indirect and debug access, the register port. -/

theorem execDbgHaltReq_kept (path : Path) (v : Nat) : KeptO fc fg z (execDbgHaltReq path v s) := by
  refine .next (access_kept path true (fun u hu => ?_) hk)
  split
  · exact hu
  · split
    · exact haltReq_kept v hu
    · exact hu

theorem execPtSel_kept (path : Path) (v : Nat) : KeptO fc fg z (execPtSel path v s) :=
  .next (written_kept path (fun _ hu => kept_ite (loadStaging_kept path v hu) hu) hk)

theorem execLearnClear_kept (path : Path) : KeptO fc fg z (execLearnClear path s) :=
  .next (written_kept path (fun _ hu => kept_ite (clearLearned_kept hu) hu) hk)

theorem execPwEnergyLoRead_kept (path : Path) : KeptO fc fg z (execPwEnergyLoRead path s) :=
  .next (access_kept path false (fun _ hu => energyLo_kept hu) hk)

theorem execSbRead_kept (a crc : Nat) (reach : Bool) : KeptO fc fg z (execSbRead a crc reach s) :=
  .next (sbFrame_kept _ _ _ _ (fun _ hu => portRead_kept _ reach hu) hk)

theorem execSbReadInc_kept (a crc : Nat) (reach : Bool) : KeptO fc fg z (execSbReadInc a crc reach s) :=
  .next (sbFrame_kept _ _ _ _ (fun _ hu => portReadInc_kept _ reach hu) hk)

theorem execSyncArm_kept (crc : Nat) : KeptO fc fg z (execSyncArm crc s) :=
  .next (sbFrame_kept _ _ _ _ (fun _ hu => sync_kept 0 hu) hk)

theorem execSyncDisarm_kept (f : SyncFrame) : KeptO fc fg z (execSyncDisarm f s) :=
  .next (sbFrame_kept _ _ _ _ (fun _ hu => sync_kept _ hu) hk)

theorem execPortIdle_kept : KeptO fc fg z (execPortIdle s) :=
  .next (kept_ite (modSb_kept _ hk fun _ => rfl) hk)

theorem execAlignPulse_kept (n : Nat) : KeptO fc fg z (execAlignPulse n s) :=
  .ite (.next (latchEpoch_kept (modSb_kept _ hk fun _ => rfl))) (.next hk)

theorem execSyncTmo_kept : KeptO fc fg z (execSyncTmo s) :=
  .ite (.next (disarm_kept (modSb_kept _ hk fun _ => rfl))) (.next hk)

theorem execIalFrame_kept (slots : Nat) : KeptO fc fg z (execIalFrame slots s) := by
  refine .ite (.next (emit_kept _ hk)) (.ite (.next hk) ?_)
  have hf := slot5_kept (!(slots % 2 ^ 16 &&& s.ialDrive).testBit 5) (slot4_kept (!(slots % 2 ^ 16 &&& s.ialDrive).testBit 4)
    (modSb_kept (fun b => { b with lastSlots := slots % 2 ^ 16 &&& s.ialDrive }) (emit_kept (.ial s.ialDrive) hk) fun _ => rfl))
  have ha := applyHw_kept (latchEpoch_kept (kept_ite (c := (slots % 2 ^ 16 &&& s.ialDrive) / 2 ^ 12 = 15)
    (validSlots_kept (slots % 2 ^ 16 &&& s.ialDrive) hf)
    (modSb_kept (fun b => { b with ialStuck := true }) hf fun _ => rfl)))
  exact .next (lagCheck_kept (kept_ite (setAll_kept 0 ha) ha))

theorem execSupplyAlarmRelease_kept : KeptO fc fg z (execSupplyAlarmRelease s) :=
  .next (kept_ite (modPwr_kept _ hk fun _ => ⟨rfl, rfl, rfl⟩) hk)

theorem execCapDropRelease_kept : KeptO fc fg z (execCapDropRelease s) :=
  .next (kept_ite (modPwr_kept _ hk fun _ => ⟨rfl, rfl, rfl⟩) hk)

/-! Supply and boot. -/

theorem execVinLow_kept : KeptO fc fg z (execVinLow s) :=
  .ite (.next hk) (.next (applyHw_kept (addLog_kept _ (alert_kept _ (modPwr_kept _ hk fun _ => ⟨rfl, rfl, rfl⟩)))))

theorem execVinLowClear_kept : KeptO fc fg z (execVinLowClear s) :=
  .next (modPwr_kept _ hk fun _ => ⟨rfl, rfl, rfl⟩)

theorem execVinHigh_kept : KeptO fc fg z (execVinHigh s) :=
  .ite (.next hk) (.next (addLog_kept _ (alert_kept _ hk)))

theorem execStoreBistDone_kept (rows : List (Nat × Nat)) : KeptO fc fg z (execStoreBistDone rows s) := by
  have hr := kept_foldl (l := rows) (f := fun (s : State) e => s.bistRow e.1 e.2) (fun _ e h => bistRow_kept e.1 e.2 h) hk
  have hc : Kept fc fg z { rows.foldl (fun s e => s.bistRow e.1 e.2) s with store := [], poison := [] } :=
    kept_mem hr fun ⟨_, hm, _, hp⟩ => ⟨rfl, hm, rfl, hp⟩
  have ho := kept_foldl (l := List.range 96) (f := fun (s : State) n => s.modSlice n fun x => { x with pw := .off })
    (fun _ n h => modSlice_kept n _ h) hc
  exact .ite (.next hk) (.next (kept_ite ho (modMg_kept _ ho fun _ => ⟨rfl, rfl, rfl⟩)))

theorem execCrestBistGroupDone_kept (group : Nat) (failed : List Nat) :
    KeptO fc fg z (execCrestBistGroupDone group failed s) := by
  refine .ite (.next hk) (.next ?_)
  have hb := kept_foldl (l := bistGroup group) (f := fun (s : State) p => if s.crestRetired p then s
      else if failed.contains p then s.bistRetire p
      else s.modRep fun r => { r with bistPassed := orBit r.bistPassed p })
    (fun _ p h => kept_ite h (kept_ite (bistRetire_kept p h) (modRep_kept _ h))) hk
  refine kept_ite (bistSettle_kept ?_) ?_
  all_goals exact kept_foldl (fun _ p h => modCrest_kept p _ h) (kept_foldl (fun _ p h => modReg_kept p _ h) hb)

theorem execFwWait_kept : KeptO fc fg z (execFwWait s) :=
  .ite (.next (fwWait_kept hk)) (.next hk)

theorem execFwHandover_kept : KeptO fc fg z (execFwHandover s) :=
  .ite (.next (modFw_kept _ hk)) (.next hk)

theorem execFwRunReady_kept : KeptO fc fg z (execFwRunReady s) := by
  have hb := modMg_kept (fun m => { m with capBuilt := true }) hk fun _ => ⟨rfl, rfl, rfl⟩
  refine .ite (.next hk) (.ite (.next (modMg_kept _ hb fun _ => ⟨rfl, rfl, rfl⟩)) ?_)
  split
  · exact .next (addLog_kept _ (modMg_kept _ hb fun _ => ⟨rfl, rfl, rfl⟩))
  · exact .next (trainPorts_kept (modMg_kept _ hb fun _ => ⟨rfl, rfl, rfl⟩))

/-! Power control and regulators. -/

theorem execSeqRestart_kept : KeptO fc fg z (execSeqRestart s) :=
  .ite (.next hk) (.next (addLog_kept _ (alert_kept _ (modPwr_kept _ hk fun _ => ⟨rfl, rfl, rfl⟩))))

theorem execSeqTimeout_kept : KeptO fc fg z (execSeqTimeout s) :=
  .ite (.next hk) (.next (applyHw_kept (addLog_kept _ (alert_kept _ (modPwr_kept _ hk fun _ => ⟨rfl, rfl, rfl⟩)))))

theorem execCapLoop_kept : KeptO fc fg z (execCapLoop s) :=
  .ite (.next hk) (.next (fixedCheck_kept (lagCheck_kept (modPwr_kept _ (applyCeilings_kept (capLevels_kept _
    (modPwr_kept _ hk fun _ => ⟨rfl, rfl, rfl⟩))) fun _ => ⟨rfl, rfl, rfl⟩))))

theorem execLevelSwitch_kept (p : Nat) : KeptO fc fg z (execLevelSwitch p s) := by
  unfold execLevelSwitch
  split
  · exact .next hk
  · exact .next (toLevel_kept p _ hk)

theorem execEstimatorWindow_kept (ws : List WinMeas) (moved : List ((Nat × Nat) × Nat)) :
    KeptO fc fg z (execEstimatorWindow ws moved s) :=
  .ite (.next hk) (.next (divide_kept _ ws moved (modPwr_kept _ (kept_foldl (fun _ p h => crestWindow_kept p _ h) hk)
    fun _ => ⟨rfl, rfl, rfl⟩)))

theorem execQuietSlot_kept (p : Nat) : KeptO fc fg z (execQuietSlot p s) :=
  .ite (.next hk) (.next (modCrest_kept p _ hk))

theorem execQuietSlotEnd_kept (p w : Nat) : KeptO fc fg z (execQuietSlotEnd p w s) := by
  refine .ite (.next hk) ?_
  have hq := modPwr_kept (fun w => { w with quietTime := s.time, stale := false }) (modCrest_kept p (fun x => { x with
    quiet := false
    offs := tset none x.offs (x.level * 8 + s.band p) (some (((w : Nat) : Rat) / 16, s.time)) }) hk)
    fun _ => ⟨rfl, rfl, rfl⟩
  exact .next (kick_kept p (kept_ite (kept_foldl (fun _ k h => modCmd_kept k.1 k.2 _ h) hq) hq))

theorem execCalibStale_kept : KeptO fc fg z (execCalibStale s) :=
  .ite (.next hk) (.next (modPwr_kept _ hk fun _ => ⟨rfl, rfl, rfl⟩))

theorem execSensorRead_kept (i : Nat) (v : Int) : KeptO fc fg z (execSensorRead i v s) := by
  refine .ite (.next hk) ?_
  have ht := modPwr_kept (fun w => { w with temps := tset 0 w.temps i v }) hk fun _ => ⟨rfl, rfl, rfl⟩
  refine .ite (.next (kept_ite (addLog_kept _ ht) ht)) (.ite (.next (notice_kept _ _ (addLog_kept _ (alert_kept _
    (modPwr_kept _ ht fun _ => ⟨rfl, rfl, rfl⟩))))) ?_)
  have hh := modPwr_kept (fun w => { w with hotOnce := tset false w.hotOnce i (decide (v ≥ 460)) }) ht
    fun _ => ⟨rfl, rfl, rfl⟩
  dsimp only
  split
  · refine .ite (.next (trip_kept i ?_)) (.next ?_)
    all_goals exact kept_ite (modPwr_kept _ hh fun _ => ⟨rfl, rfl, rfl⟩) hh
  · exact .ite (.next (trip_kept i hh)) (.next hh)

theorem execThermalStep_kept : KeptO fc fg z (execThermalStep s) :=
  .ite (.next hk) (.next (applyCeilings_kept (kept_foldl (fun _ f h => regionStep_kept f h) hk)))

theorem execTripRecover_kept (waited : Nat) : KeptO fc fg z (execTripRecover waited s) := by
  refine .ite (.next hk) (.next (applyCeilings_kept (kept_foldl (fun u p hu => ?_)
    (modPwr_kept _ hk fun _ => ⟨rfl, rfl, rfl⟩))))
  have hw := kept_foldl (l := (u.crest p).held ++ u.loadsOn p)
    (f := fun (s : State) k => s.modCmd k.1 k.2 fun c => c.charge wPower waited) (fun _ k h => modCmd_kept k.1 k.2 _ h) hu
  exact kept_ite hw (modCrest_kept p _ hw)

theorem execDroop_kept (p : Nat) : KeptO fc fg z (execDroop p s) :=
  .ite (.next hk) (.next (modPwr_kept _ (modCrest_kept p _ hk) fun _ => ⟨rfl, rfl, rfl⟩))

theorem execSlackReport_kept (fine : Int) : KeptO fc fg z (execSlackReport fine s) := by
  refine .ite (.next hk) ?_
  have hf : Kept fc fg z { s with peerPast := s.peerPast.filter fun e => decide (s.time ≤ e.2 + 100) } :=
    kept_upd hk ⟨rfl, rfl, rfl⟩ ⟨rfl, rfl, rfl, rfl⟩
  have hp := modPwr_kept (fun w => { w with slackIdx := (s.pwr.slackIdx + 1) % 2 ^ 32 }) hf fun _ => ⟨rfl, rfl, rfl⟩
  exact .ite (.next (modPwr_kept _ hp fun _ => ⟨rfl, rfl, rfl⟩)) (.next (sendMgmt_kept _ _ _ hp))

theorem execGroupCapRedistribute_kept : KeptO fc fg z (execGroupCapRedistribute s) :=
  .ite (.next hk) (.next (kept_foldl (fun _ d h => sendMgmt_kept d 7 _ h)
    (modPwr_kept _ (bump_kept hk) fun _ => ⟨rfl, rfl, rfl⟩)))

theorem execRegSample_kept (ms : List RegMeas) (vin : Nat) : KeptO fc fg z (execRegSample ms vin s) :=
  .ite (.next hk) (.next (linkTimer_kept (kept_upd (bump_kept (kept_foldl (fun _ m h => sampleOne_kept vin m h) hk))
    ⟨rfl, rfl, rfl⟩ ⟨rfl, rfl, rfl, rfl⟩)))

theorem execPhaseWindow_kept (r : Nat) (on cur : List Nat) : KeptO fc fg z (execPhaseWindow r on cur s) := by
  refine .ite (.next hk) ?_
  have hc (f : Reg → Reg) (now : Option Nat) := kept_foldl (l := List.range (regPhases r)) (f := fun (s : State) k =>
    s.phaseCheck r k (on.getD k 0) (cur.getD k 0) now) (fun _ k h => phaseCheck_kept r k _ _ now h) (modReg_kept r f hk)
  split
  · exact .next (limitLevels_kept (bootTiers_kept (modReg_kept r _ (hc _ _))))
  · exact .next (limitLevels_kept (bootTiers_kept (hc _ _)))

theorem execSenseFail_kept (r suspect : Nat) : KeptO fc fg z (execSenseFail r suspect s) :=
  .ite (.next (regDead_kept r 0x1B 0 hk)) (.ite (.next hk) (.next (regError_kept r _ _ _ _ _ (modReg_kept r _ hk))))

theorem execDiagCycle_kept : KeptO fc fg z (execDiagCycle s) :=
  .ite (.next hk) (.next (kept_foldl (fun _ r h => kept_ite h (modReg_kept r _ h)) hk))

theorem execSoftstart_kept (r : Nat) : KeptO fc fg z (execSoftstart r s) := by
  refine .ite (.next hk) (.next ?_)
  have hs := modReg_kept r (fun x => { x with st := 1, attempt := 1, tries := 1, setpoint := s.regSet r }) hk
  exact kept_ite (kept_ite (modMg_kept _ hs fun _ => ⟨rfl, rfl, rfl⟩)
    (kept_ite (trainHost_kept (modMg_kept _ hs fun _ => ⟨rfl, rfl, rfl⟩)) hs)) hs

theorem execSoftstartEnd_kept (r vout : Nat) : KeptO fc fg z (execSoftstartEnd r vout s) :=
  .ite (.next hk) (.next (bootTiers_kept (kept_ite (regFail_kept r (modReg_kept r _ hk)) (regUp_kept r (modReg_kept r _ hk)))))

theorem execSoftstartLimitFail_kept (r : Nat) : KeptO fc fg z (execSoftstartLimitFail r s) :=
  .ite (.next (regDead_kept r 0x18 1 hk)) (.ite (.next hk) (.next (bootTiers_kept (regFail_kept r hk))))

theorem execRetryWaitEnd_kept (r : Nat) : KeptO fc fg z (execRetryWaitEnd r s) :=
  .ite (.next hk) (.next (modReg_kept r _ hk))

theorem execRegStop_kept (r : Nat) (ov : Bool) : KeptO fc fg z (execRegStop r ov s) :=
  .ite (.next (regDead_kept r _ _ hk)) (.ite (.next hk) (.next (kept_foldl (fun _ p h => kept_ite h (kick_kept p h))
    (adoptAll_kept (bootTiers_kept (regError_kept r _ _ _ _ _ (loadLost_kept r (modReg_kept r _ hk))))))))

/-! Faults and repair. -/

theorem execSpareBind_kept : KeptO fc fg z (execSpareBind s) := by
  unfold execSpareBind
  split
  · exact .next hk
  next l _ => exact .ite (.next (bindFails_kept hk)) (.ite (.next (bindSpare_kept l _ hk)) (.next hk))

theorem execRowSpare_kept (n : Nat) : KeptO fc fg z (execRowSpare n s) := by
  unfold execRowSpare
  dsimp only
  split
  · exact .ite (.next hk) (.ite (.next (goOn_kept (retireSlice_kept n 2 hk))) (.next (modSlice_kept n _ hk)))
  · exact .next hk

theorem execRowTestDone_kept (n : Nat) (pass : Bool) : KeptO fc fg z (execRowTestDone n pass s) := by
  unfold execRowTestDone
  split
  · exact .next (addLog_kept _ (modSlice_kept n _ hk))
  · exact .next hk

theorem execScrubRead_kept (n line : Nat) (ecc : Option EccKind) (word : Nat) :
    KeptO fc fg z (execScrubRead n line ecc word s) := by
  refine .ite (.next hk) ?_
  have hm := modSlice_kept n (fun x => { x with scrub := (line + 1) % 2 ^ 18 }) hk
  split
  · exact .next hm
  · exact .next (peersFollow_kept _ _ (storeError_kept _ none hm))

theorem execColReplay_kept (c : Nat) (clean : Bool) (x : Transfer) : KeptO fc fg z (execColReplay c clean x s) := by
  refine .ite (.next hk) (.ite (.next (addLog_kept _ hk)) ?_)
  have hc (e : LogEntry) := addLog_kept e (modRep_kept (fun r => { r with xfer := tmod 0 r.xfer c fun n => min 65535 (n + 1) })
    (countErr_kept kCol c hk))
  have hd {u : State} (h : Kept fc fg z u) : Kept fc fg z (match x.dest with
      | .crest q t => u.modCmd q t fun c => c.charge wStore x.waited
      | _ => u) := by
    split
    · exact modCmd_kept _ _ _ h
    · exact h
  refine .ite (.next (peersFollow_kept _ _ (retireCol_kept c 1 ?_))) (.next ?_)
  all_goals exact kept_ite (hd (hc _)) (deliverBad_kept x.dest x.addr (hd (hc _)))

theorem execRowCopyEnd_kept (e : Ended Nat) : KeptO fc fg z (execRowCopyEnd e s) := by
  unfold execRowCopyEnd
  split
  · exact .next (serveIngress_kept (resumeHeld_kept _ _ (modSlice_kept e.it _ hk)))
  · exact .next hk

theorem execPowerGating_kept (u : GateUnit) : KeptO fc fg z (execPowerGating u s) := by
  cases u with
  | crestNap p => exact .ite (.next hk) (.next (nap_kept p hk))
  | crestOff p => exact .ite (.next hk) (.next (modReg_kept p _ (modCrest_kept p _ hk)))
  | sliceRetain n => exact .ite (.next hk) (.next (toRetain_kept n hk))
  | sliceOff n => exact .ite (.next hk) (.next (modSlice_kept n _ hk))

/-! The host port. -/

theorem execHostRetrainDone_kept (m : Nat) (ok : Bool) (reach : Nat) (rep : Ended Bool) :
    KeptO fc fg z (execHostRetrainDone m ok reach rep s) := by
  refine .ite (.next hk) ?_
  have hr := kept_ite (c := rep.it = true) (hostEvent_kept m 2 (modHmod_kept m (fun h => { h with
    repairs := min 255 (h.repairs + 1) }) hk)) hk
  exact .ite (.next (hostUp_kept _ hr)) (.ite (.next (hostUp_kept _ (hostReconfig_kept (modHmod_kept m _ hr))))
    (.ite (.next (hostUp_kept _ (retireModule_kept m 2 hr))) (.next (modHmod_kept m _ hr))))

/-! Trelkai. -/

theorem execFlitSend_kept (k : Nat) : KeptO fc fg z (execFlitSend k s) := by
  refine .ite (.next hk) (.ite ?_ (.ite (.next (idleFlit_kept k hk)) ?_))
  · dsimp only
    split
    · exact .next (modPort_kept k _ hk)
    · exact .next (emit_kept _ (modPort_kept k _ hk))
  · split
    · exact .next (emit_kept _ (markVia_kept _ _ (modPort_kept k _ hk)))
    · exact .ite (.next (emit_kept _ (modPort_kept k _ hk))) (.next (idleFlit_kept k hk))

theorem execDataChannel_kept (k : Nat) (f : Flit) : KeptO fc fg z (execDataChannel k f s) :=
  receiveType_kept k f 2 (fun _ h => ingest_kept k f (serveIngress_kept (kept_ite (decideTile_kept k f h) h))) hk

theorem execHello_kept (k : Nat) (f : Flit) : KeptO fc fg z (execHello k f s) :=
  receiveMsg_kept k f 1 (fun _ h => kept_ite (disablePort_kept k 1 h) (kept_ite (disablePort_kept k 2 h)
    (modPort_kept k _ h))) hk

theorem execLinkmap_kept (k : Nat) (f : Flit) : KeptO fc fg z (execLinkmap k f s) :=
  receiveMsg_kept k f 2 (fun _ h => routesChanged_kept _ _ (liveChange_kept (regroup_kept
    (kept_upd h ⟨rfl, rfl, rfl⟩ ⟨rfl, rfl, rfl, rfl⟩)))) hk

theorem execChClosed_kept (k : Nat) (f : Flit) : KeptO fc fg z (execChClosed k f s) := by
  refine receiveMsg_kept k f 5 (fun u h => ?_) hk
  dsimp only
  split
  · exact kept_ite h (kept_upd h ⟨rfl, rfl, rfl⟩ ⟨rfl, rfl, rfl, rfl⟩)
  · exact h

theorem execIdle_kept (k : Nat) (f : Flit) : KeptO fc fg z (execIdle k f s) :=
  .ite (.next hk) (.ite (.next (takeAck_kept k f (serveIngress_kept hk))) (.next (badFlit_kept k hk)))

theorem execRelayForward_kept (k : Nat) : KeptO fc fg z (execRelayForward k s) := by
  unfold execRelayForward
  dsimp only
  split
  · exact .next hk
  · exact .next (modPort_kept _ _ (modPort_kept k _ hk))

theorem execPeerRetrainDone_kept (k : Nat) (ok : Bool) (mode reps : Nat) :
    KeptO fc fg z (execPeerRetrainDone k ok mode reps s) := by
  refine .ite (.next hk) ?_
  have he := kept_foldl (l := List.range reps) (f := fun (s : State) _ => s.peerEvent k 2) (fun _ _ h => peerEvent_kept k 2 h) hk
  exact .ite (.next (linkDone_kept he)) (.ite (.next (linkDone_kept (sendLinkmap_kept (sendHello_kept k (modPort_kept k _ he)))))
    (.ite (.next (linkDone_kept (peersFollow_kept _ _ (retirePort_kept k 2 he)))) (.next (modPort_kept k _ he))))

/-! The whole table. -/

/-- Every other command keeps what `Kept` names. -/
theorem exec_kept {c : Instr} (hc : reachesGuarded c = false) : KeptO fc fg z (exec c s) := by
  cases c with
  | gemm q h | chain q h | move q h | convert q h | send q h | fence q h | signal q h | wait q h =>
    exact .next (command_kept q _ h hk)
  | loadprog q h => exact execLoadprog_kept hk q h
  | loadprogUnload q h => exact execLoadprogUnload_kept hk q h
  | marker q h | reduceRecv q h => exact .next (command_kept q _ h hk)
  | entryFetch q h waited => exact execEntryFetch_kept hk q h waited
  | completionRecord q t waited => exact execCompletionRecord_kept q t waited hk
  | overflowRecordPost q => exact .ite (.next (putOverflow_kept q hk)) (.next hk)
  | irqTimer q => exact .ite (.next (signalQueue_kept q hk)) (.next hk)
  | preempt p => exact execPreempt_kept hk p
  | scoreboardRelease p waited => exact execScoreboardRelease_kept p waited hk
  | lentCrestRecall p waited => exact .ite (.next (recall_kept p _ hk)) (.next hk)
  | rowPass p ev ecc => exact execRowPass_kept p ev ecc hk
  | weightBankFill p waited ecc => exact .next (fillBank_kept p waited ecc (turn_kept p hk))
  | tileEpilogue p ecc parityBad => exact execTileEpilogue_kept p ecc parityBad hk
  | invocationStart p => exact execInvocationStart_kept p hk
  | vNop p x => exact execVNop_kept p x hk
  | vEnd p x => exact execVEnd_kept p x hk
  | vBr p x => exact execVBr_kept p x hk
  | vLoop p x => exact execVLoop_kept p x hk
  | vSalu p x => exact execVSalu_kept p x hk
  | vVget p x => exact execVVget_kept p x hk
  | vBcast p x => exact execVBcast_kept p x hk
  | vLaneid p x => exact execVLaneid_kept p x hk
  | vFadd p x => exact execVFadd_kept p x hk
  | vFsub p x => exact execVFsub_kept p x hk
  | vFmul p x => exact execVFmul_kept p x hk
  | vFma p x => exact execVFma_kept p x hk
  | vFmax p x => exact execVFmax_kept p x hk
  | vFmin p x => exact execVFmin_kept p x hk
  | vFun p x => exact execVFun_kept p x hk
  | vFcmp p x => exact execVFcmp_kept p x hk
  | vIalu p x => exact execVIalu_kept p x hk
  | vIcmp p x => exact execVIcmp_kept p x hk
  | vSel p x => exact execVSel_kept p x hk
  | vCvt p x => exact execVCvt_kept p x hk
  | vCvtf p x => exact execVCvtf_kept p x hk
  | vLda p x parityBad => exact execVLda_kept p x parityBad hk
  | vSta p x => exact execVSta_kept p x hk
  | vLds p x ecc => exact execVLds_kept p x ecc hk
  | vStc p x => exact execVStc_kept p x hk
  | vStp p x => exact execVStp_kept p x hk
  | vRed p x => exact execVRed_kept p x hk
  | vFn p x => exact execVFn_kept p x hk
  | progLoadDone p handle => exact .next (loadDone_kept p handle hk)
  | progReload p waited => exact .ite (.next (reload_kept p waited hk)) (.next hk)
  | sendFlag q t stage => exact execSendFlag_kept hk q t stage
  | channelTileRetry q t sid tile => exact execChannelTileRetry_kept hk q t sid tile
  | sendTmo q t => exact execSendTmo_kept hk q t
  | recvTileAdd q t => exact execRecvTileAdd_kept hk q t
  | recvTmo q t => exact execRecvTmo_kept hk q t
  | waitPoll q t h => exact execWaitPoll_kept hk q t h
  | waitTmo q t h => exact execWaitTmo_kept hk q t h
  | atomicWriteback addr => exact execAtomicWriteback_kept hk addr
  | qDoorbell q tail h => exact execQDoorbell_kept hk q tail h
  | queueEnable q => exact .next (kept_ite (enableQueue_kept q hk) hk)
  | queueDisable q => exact .next (kept_ite (stopQueue_kept q hk) hk)
  | resume q => exact .next (kept_ite (resumeQueue_kept q hk) hk)
  | qCqHead q v => exact .next (kept_ite (setCqHead_kept q v hk) hk)
  | identify => exact execIdentify_kept hk
  | fwTransfer => exact execFwTransfer_kept hk
  | fwActivate => exact execFwActivate_kept hk
  | logRead => exact execLogRead_kept hk
  | toHost => exact .next (kept_ite (biasStart_kept true hk) hk)
  | toDevice => exact .next (kept_ite (biasStart_kept false hk) hk)
  | biasPageDone returned => exact execBiasPageDone_kept hk returned
  | quiesceDone => exact execQuiesceDone_kept hk
  | quiesceTmo => exact execQuiesceTmo_kept hk
  | drainDone => exact execDrainDone_kept hk
  | sliceZeroiseDone => exact execSliceZeroiseDone_kept hk
  | hostLinkReset => exact .ite (.next hk) (.next (hostLinkReset_kept hk))
  | mgIndData path w reachable => exact .next (indRow_kept path w false reachable hk)
  | mgIndDataInc path w reachable => exact .next (indRow_kept path w true reachable hk)
  | dbgData path w => exact .next (dbgRow_kept path w false hk)
  | dbgDataInc path w => exact .next (dbgRow_kept path w true hk)
  | dbgHaltReq path v => exact execDbgHaltReq_kept hk path v
  | ptSel path v => exact execPtSel_kept hk path v
  | learnClear path => exact execLearnClear_kept hk path
  | pwEnergyLoRead path => exact execPwEnergyLoRead_kept hk path
  | sbRead addr crc reachable => exact execSbRead_kept hk addr crc reachable
  | sbReadInc addr crc reachable => exact execSbReadInc_kept hk addr crc reachable
  | syncArm crc => exact execSyncArm_kept hk crc
  | syncDisarm frame => exact execSyncDisarm_kept hk frame
  | portIdle => exact execPortIdle_kept hk
  | alignPulse lowEdges => exact execAlignPulse_kept hk lowEdges
  | syncTmo => exact execSyncTmo_kept hk
  | ialFrame slots => exact execIalFrame_kept hk slots
  | supplyAlarmRelease => exact execSupplyAlarmRelease_kept hk
  | capDropRelease => exact execCapDropRelease_kept hk
  | vinLow => exact execVinLow_kept hk
  | vinLowClear => exact execVinLowClear_kept hk
  | vinHigh => exact execVinHigh_kept hk
  | storeBistDone failedRows => exact execStoreBistDone_kept hk failedRows
  | crestBistGroupDone group failed => exact execCrestBistGroupDone_kept hk group failed
  | fwWait => exact execFwWait_kept hk
  | fwHandover => exact execFwHandover_kept hk
  | fwRunReady => exact execFwRunReady_kept hk
  | seqRestart => exact execSeqRestart_kept hk
  | seqTimeout => exact execSeqTimeout_kept hk
  | capLoop => exact execCapLoop_kept hk
  | levelSwitch p => exact execLevelSwitch_kept hk p
  | estimatorWindow ws moved => exact execEstimatorWindow_kept hk ws moved
  | quietSlot p => exact execQuietSlot_kept hk p
  | quietSlotEnd p watts16 => exact execQuietSlotEnd_kept hk p watts16
  | calibStale => exact execCalibStale_kept hk
  | sensorRead x v => exact execSensorRead_kept hk x v
  | thermalStep => exact execThermalStep_kept hk
  | tripRecover waited => exact execTripRecover_kept hk waited
  | droop p => exact execDroop_kept hk p
  | droopRelease p => exact .next (modCrest_kept p _ hk)
  | slackReport slack => exact execSlackReport_kept hk slack
  | groupCapRedistribute => exact execGroupCapRedistribute_kept hk
  | regSample ms vin => exact execRegSample_kept hk ms vin
  | phaseWindow r onTime current => exact execPhaseWindow_kept hk r onTime current
  | senseFail r suspect => exact execSenseFail_kept hk r suspect
  | diagCycle => exact execDiagCycle_kept hk
  | softstart r => exact execSoftstart_kept hk r
  | softstartEnd r vout => exact execSoftstartEnd_kept hk r vout
  | softstartLimitFail r => exact execSoftstartLimitFail_kept hk r
  | retryWaitEnd r => exact execRetryWaitEnd_kept hk r
  | regStop r overVoltage => exact execRegStop_kept hk r overVoltage
  | crestWakeDone p waited => exact .next (crestAwake_kept p _ hk)
  | sliceWakeDone n waited => exact .next (slicesAwake_kept _ _ hk)
  | spareBind => exact execSpareBind_kept hk
  | rowSpare n => exact execRowSpare_kept hk n
  | rowTestDone n pass => exact execRowTestDone_kept hk n pass
  | scrubRead n line ecc word => exact execScrubRead_kept hk n line ecc word
  | colReplay c clean x => exact execColReplay_kept hk c clean x
  | hostMemRead addr ecc word =>
    exact .ite (.next hk) (.ite (.next (holdHost_kept _ hk)) (.next (hostRead_kept addr ecc word hk)))
  | hostMemWrite addr bytes poison =>
    exact .ite (.next hk) (.ite (.next (holdHost_kept _ hk)) (.next (hostWrite_kept addr bytes poison hk)))
  | snpdata line | snpinv line => exact .next (kept_ite (snoop_kept line _ _ _ false hk) hk)
  | snpcur line => exact .next (kept_ite (snoop_kept line _ _ _ true hk) hk)
  | evictionGrant line => exact .next (kept_ite (resumeHeld_kept _ _ (grantEvict_kept _ hk)) hk)
  | hostRetrain e => exact .next (hostRetrainOne_kept _ (kept_ite (modHmod_kept _ _ hk) hk))
  | hostRetrainDone m ok reach repaired => exact execHostRetrainDone_kept hk m ok reach repaired
  | flitSend k => exact execFlitSend_kept hk k
  | dataStore k f => exact receiveType_kept k f 1 (fun _ h => ingest_kept k f (serveIngress_kept h)) hk
  | dataChannel k f => exact execDataChannel_kept hk k f
  | flag k f => exact receiveType_kept k f 3 (fun _ h => ingest_kept k f (serveIngress_kept h)) hk
  | flagAck k f => exact receiveType_kept k f 4 (fun _ h => flagAck_kept f h) hk
  | hello k f => exact execHello_kept hk k f
  | noHello k => exact .ite (.next hk) (.next (disablePort_kept k 3 hk))
  | linkmap k f => exact execLinkmap_kept hk k f
  | resyncReq k f => exact receiveMsg_kept k f 3 (fun _ h => sendMgmt_kept _ _ _ h) hk
  | resyncRsp k f => exact receiveMsg_kept k f 4 (fun _ h => kept_ite (resynced_kept _ _ h) h) hk
  | chClosed k f => exact execChClosed_kept hk k f
  | slack k f => exact receiveMsg_kept k f 6 (fun _ h => modPwr_kept _ h fun _ => ⟨rfl, rfl, rfl⟩) hk
  | groupCap k f => exact receiveMsg_kept k f 7 (fun _ h => modPwr_kept _ h fun _ => ⟨rfl, rfl, rfl⟩) hk
  | credit k f => exact receiveType_kept k f 6 (fun _ h => h) hk
  | idle k f => exact execIdle_kept hk k f
  | badFlit k f => exact .ite (.next hk) (.next (badFlit_kept k hk))
  | relayForward k => exact execRelayForward_kept hk k
  | replayTimeout k => exact .ite (.next hk) (.next (replay_kept k hk))
  | peerRetrain k => exact .next (peerRetrainOne_kept k hk)
  | peerRetrainDone k ok mode repairs => exact execPeerRetrainDone_kept hk k ok mode repairs
  | peerLinkLost k => exact .ite (.next hk) (.next (linkLost_kept k _ _ (modPort_kept k _ hk)))
  | powerGating u => exact execPowerGating_kept hk u
  | rowCopyEnd n => exact execRowCopyEnd_kept hk n
  | sequencerAdoptsState => exact .next (modPwr_kept _ hk fun _ => ⟨rfl, rfl, rfl⟩)
  | unlistedMsg k f => exact .ite (.next hk) (.next (receive_kept k f false (fun _ h => addLog_kept _ h) hk))
  | registerWrite r v | ptCreate path part | ptReshape path part | ptDestroy path part | ptReset path part
  | rpRetire path kind unit | fwSbOpen path | fwSbActivate path | resetCold path | resetWarm path | resetCrest path l
  | resetLink path target | crestHalt p | seDebugReq path level | sbWrite addr data crc reachable | alwaysOnReset
  | refclkInvalid | alwaysOnRelease | strapDecode ickUp ickDown idaUp idaDown | fwVerifyDone | watchdog => nomatch hc
end
end Sys2Proof.Machine
end

section
/-!
FULL and the taint (O57): what each command that reaches the guarded registers makes of them.
-/
namespace Sys2Proof.Machine

/-- From `s` to `t` level FULL is entered only under the debug strap, and no taint bit is lost. -/
def Raised (s t : State) : Prop :=
  (t.mg.debugLevel = 2 → s.mg.debugLevel = 2 ∨ s.debugStrap = true) ∧
    ∀ b, s.mg.taint.testBit b = true → t.mg.taint.testBit b = true

/-- So it is, or `t` is under the always-on reset (R220, R221, R223). -/
def Guarded (s t : State) : Prop :=
  (t.mg.released = false ∧ t.mg.taint = 0 ∧ t.mg.debugLevel = 0) ∨ Raised s t

/-- What an outcome that goes on guards. -/
def GuardedO (s : State) (o : Host.Outcome State Fault Refusal) : Prop := ∀ t, o = .next t → Guarded s t

section
variable {s t u : State}

theorem Raised.of_eq (hl : t.mg.debugLevel = s.mg.debugLevel) (ht : t.mg.taint = s.mg.taint) : Raised s t :=
  ⟨fun h => .inl (hl ▸ h), fun _ h => ht ▸ h⟩

theorem Guarded.of_eq (hl : t.mg.debugLevel = s.mg.debugLevel) (ht : t.mg.taint = s.mg.taint) : Guarded s t :=
  .inr (.of_eq hl ht)

theorem Guarded.refl (s : State) : Guarded s s := .of_eq rfl rfl

theorem Kept.raised (h : Kept false true s t) : Raised s t := by
  obtain ⟨hl, ht, -⟩ := h.guarded rfl
  exact .of_eq hl ht

theorem Kept.isGuarded (h : Kept false true s t) : Guarded s t := .inr h.raised

/-- What follows and keeps the guarded registers leaves them so. -/
theorem Raised.kept (h : Raised s t) (k : Kept false true t u) : Raised s u := by
  obtain ⟨hl, ht, -⟩ := k.guarded rfl
  simpa only [Raised, hl, ht] using h

theorem Guarded.kept (h : Guarded s t) (k : Kept false true t u) : Guarded s u := by
  obtain ⟨hl, ht, hr, -⟩ := k.guarded rfl
  simpa only [Guarded, Raised, hl, ht, hr] using h

/-- And so does what goes before. -/
theorem Guarded.after (k : Kept false true s t) (h : Guarded t u) : Guarded s u := by
  obtain ⟨hl, ht, -, hs⟩ := k.guarded rfl
  simpa only [Guarded, Raised, State.debugStrap, hl, ht, hs] using h

theorem Guarded.ite {c : Prop} [Decidable c] (ht : c → Guarded s t) (hu : ¬c → Guarded s u) :
    Guarded s (if c then t else u) := by
  split
  · exact ht ‹_›
  · exact hu ‹_›

theorem GuardedO.next (h : Guarded s t) : GuardedO s (.next t) := fun _ e => Host.Outcome.next.inj e ▸ h

theorem GuardedO.ite {c : Prop} [Decidable c] {a b : Host.Outcome State Fault Refusal} (ha : GuardedO s a)
    (hb : GuardedO s b) : GuardedO s (if c then a else b) := by
  split
  · exact ha
  · exact hb

theorem KeptO.isGuarded {o : Host.Outcome State Fault Refusal} (h : KeptO false true s o) : GuardedO s o :=
  fun t e => (h t e).isGuarded

/-! The always-on reset, taint and images. -/

theorem testBit_orBit {v b : Nat} (i : Nat) (h : v.testBit b = true) : (orBit v i).testBit b = true := by
  rw [orBit, Nat.testBit_or, h, Bool.true_or]

theorem cold_guarded (s : State) (cause : Nat) : Guarded s (s.cold cause) := .inl ⟨rfl, rfl, rfl⟩

theorem Raised.setTaint (h : Raised s t) (b : Nat) : Raised s (t.setTaint b) := by
  unfold State.setTaint
  split
  · exact h
  · obtain ⟨hl, ht⟩ := h
    refine Raised.kept ?_ (liveChange_kept (.refl _ _ _))
    exact ⟨hl, fun c hc => testBit_orBit b (ht c hc)⟩

theorem acceptImage_raised (s : State) (img : List Byte) (slot : Option Nat) (unsigned : Bool) :
    Raised s (s.acceptImage img slot unsigned) := by
  refine ⟨.inl, fun b h => ?_⟩
  change (if unsigned then orBit s.mg.taint 1 else s.mg.taint).testBit b = true
  split
  · exact testBit_orBit 1 h
  · exact h

theorem imageAccepted_raised (s : State) (who len : Nat) (img : List Byte) (slot : Option Nat) (unsigned : Bool) :
    Raised s (s.imageAccepted who len img slot unsigned) := by
  refine (acceptImage_raised s img slot unsigned).kept ?_
  have hf := modFw_kept (fun f => if who = 2 then { f with verifying := none }
    else { f with verifying := none, run := f.stage, stage := f.run, runLen := len, stageOpen := false })
    (.refl false true (s.acceptImage img slot unsigned))
  unfold State.imageAccepted
  dsimp only
  split
  · exact kept_ite (modFw_kept _ (mbEnd_kept 0 0 hf)) (fwStart_kept (mbEnd_kept 0 0 hf))
  · exact kept_ite (modFw_kept _ (mgResult_kept csOk 0 hf)) (fwStart_kept (mgResult_kept csOk 0 hf))
  · exact kept_ite (modFw_kept _ hf) (fwStart_kept hf)

/-- A WARM reset leaves the taint, and the level at NONE (Table BOOT-4). -/
theorem warm_raised (s : State) (cause : Nat) : Raised s (s.warm cause) := by
  have hk := kept_foldl (l := List.range 8) (fun _ p h => releaseEnergy_kept p h)
    (warmUnits_kept (writeBack_kept (abufFlush_kept (fun _ => true) (warmEnds_kept (.refl false true s)))))
  unfold State.warm
  dsimp only
  generalize List.foldl State.releaseEnergy _ (List.range 8) = u at hk ⊢
  obtain ⟨-, ht, -⟩ := hk.guarded rfl
  have taints (b : Nat) (h : s.mg.taint.testBit b = true) : u.mg.taint.testBit b = true :=
    (congrArg (·.testBit b) ht).trans h
  split <;> split
  · refine Raised.kept ?_ (applyHw_kept (modMg_kept _ (.refl _ _ _) fun _ => ⟨rfl, rfl, rfl⟩))
    exact ⟨nofun, taints⟩
  · refine Raised.kept ?_ (applyHw_kept (.refl _ _ _))
    exact ⟨nofun, taints⟩
  · refine Raised.kept ?_ (applyHw_kept (fwWait_kept (modMg_kept _ (.refl _ _ _) fun _ => ⟨rfl, rfl, rfl⟩)))
    exact ⟨nofun, taints⟩
  · refine Raised.kept ?_ (applyHw_kept (fwWait_kept (.refl _ _ _)))
    exact ⟨nofun, taints⟩

/-! Management commands and debug levels. -/

theorem mgStart_guarded (s : State) (path : Path) (v : Nat) : Guarded s (s.mgStart path v) := by
  unfold State.mgStart
  dsimp only
  split
  · exact (ptCreate_kept path _ (.refl _ _ s)).isGuarded
  · exact (ptReshape_kept path _ (.refl _ _ s)).isGuarded
  · exact (ptDestroy_kept _ (.refl _ _ s)).isGuarded
  · exact (ptReset_kept _ (.refl _ _ s)).isGuarded
  · exact (doRetire_kept _ _ (.refl _ _ s)).isGuarded
  · exact (doSbOpen_kept (.refl _ _ s)).isGuarded
  · exact (doSbActivate_kept (.refl _ _ s)).isGuarded
  · exact cold_guarded s 2
  · exact .inr (warm_raised s 3)
  · exact (doResetCrest_kept _ (.refl _ _ s)).isGuarded
  · exact (doResetLink_kept _ (.refl _ _ s)).isGuarded
  · exact (mgResult_kept _ _ (.refl _ _ s)).isGuarded

theorem mgCmd_guarded (s : State) (path : Path) (v : Nat) : Guarded s (s.mgCmd path v) := by
  unfold State.mgCmd
  split
  · exact .refl s
  · split
    · exact .ite (fun _ => .of_eq rfl rfl) fun _ => .of_eq rfl rfl
    · exact mgStart_guarded s path v

/-- A level that is taken: FULL needs the strap, and is a taint. -/
theorem toDebug_raised (s : State) {lvl : Nat} (h : lvl = 2 → s.debugStrap = true) : Raised s (s.toDebug lvl) := by
  have level {t : State} (k : Kept false true s t) :
      Raised s (t.modMg fun m => { m with debugLevel := lvl }).liveChange := by
    obtain ⟨-, ht⟩ := k.raised
    refine Raised.kept ?_ (liveChange_kept (.refl _ _ _))
    exact ⟨fun hl => .inr (h hl), ht⟩
  have left {t : State} (k : Kept false true s t) : Raised s (if lvl = 2
      then (t.modMg fun m => { m with debugLevel := lvl }).liveChange.setTaint 2
      else (t.modMg fun m => { m with debugLevel := lvl }).liveChange) := by
    split
    · exact (level k).setTaint 2
    · exact level k
  have hk := kept_foldl (l := List.range 16) (fun _ l h => releaseHalt_kept l h) (.refl false true s)
  unfold State.toDebug
  split
  · exact .of_eq rfl rfl
  · refine left (kept_ite (kept_foldl (fun _ p h => modCrest_kept p _ h) ?_) ?_)
    all_goals exact kept_ite hk (.refl _ _ s)

theorem debugReq_raised (s : State) (p : Path) (lvl : Nat) : Raised s (s.debugReq p lvl) := by
  unfold State.debugReq
  dsimp only
  split
  · exact .of_eq rfl rfl
  · generalize hok : (if lvl = 2 then decide (p = Path.port) && s.debugStrap
      else decide (lvl ≤ s.mg.debugLevel) || s.serving) = ok
    cases ok with
    | true =>
      refine toDebug_raised s fun h => ?_
      rw [if_pos h, Bool.and_eq_true] at hok
      exact hok.2
    | false => exact .of_eq rfl rfl

theorem writeDebugReq_guarded (s : State) (p : Path) (v : Nat) : Guarded s (s.writeDebugReq p v) := by
  unfold State.writeDebugReq
  dsimp only
  split
  · refine .after (modMg_kept (fun m => { m with debugDenied := false }) (.refl _ _ s) fun _ => ⟨rfl, rfl, rfl⟩) ?_
    exact .inr (debugReq_raised _ p (v % 4))
  · exact .inr (debugReq_raised s p (v % 4))

/-! Writes to the management file. -/

theorem regWrite_guarded (s : State) (p : Path) (a v : Nat) : Guarded s (s.regWrite p a v) := by
  have hk : Kept false true s s := .refl _ _ s
  have hr : Guarded s s := .refl s
  unfold State.regWrite
  dsimp only
  refine .ite (fun _ => hr) fun _ => .ite (fun _ => mgCmd_guarded s p v) fun _ => ?_
  refine .ite (fun _ => .of_eq rfl rfl) fun _ => .ite (fun _ => .of_eq rfl rfl) fun _ => ?_
  refine .ite (fun _ => .ite (fun _ => .of_eq rfl rfl) fun _ => hr) fun _ => ?_
  refine .ite (fun _ => .ite (fun _ => .of_eq rfl rfl) fun _ => hr) fun _ => ?_
  refine .ite (fun _ => (writeBank_kept p v hk).isGuarded) fun _ => ?_
  refine .ite (fun _ => (setIndAddr_kept p v hk).isGuarded) fun _ => ?_
  refine .ite (fun _ => (indirect_kept p _ _ _ hk).isGuarded) fun _ => ?_
  refine .ite (fun _ => (indirect_kept p _ _ _ hk).isGuarded) fun _ => ?_
  refine .ite (fun _ => .ite (fun _ => (writePw_kept a v hk).isGuarded) fun _ => hr) fun _ => ?_
  refine .ite (fun _ => .ite (fun _ => writeDebugReq_guarded s p v) fun _ => hr) fun _ => ?_
  refine .ite (fun _ => .ite (fun _ => (writePolicy_kept v hk).isGuarded) fun _ => hr) fun _ => ?_
  refine .ite (fun _ => .ite (fun _ => (writeThresh_kept v hk).isGuarded) fun _ => hr) fun _ => ?_
  refine .ite (fun _ => .ite (fun _ => (writeDiag_kept v hk).isGuarded) fun _ => hr) fun _ => ?_
  refine .ite (fun _ => (writePtCtl_kept p v hk).isGuarded) fun _ => ?_
  refine .ite (fun _ => .ite (fun _ => (writePt_kept p a v hk).isGuarded) fun _ => hr) fun _ => ?_
  refine .ite (fun _ => .ite (fun _ => (writeSb_kept a v hk).isGuarded) fun _ => hr) fun _ => ?_
  refine .ite (fun _ => .ite (fun _ => hr) fun _ => ?_) fun _ => hr
  refine .ite (fun _ => (dbgPort_kept _ _ hk).isGuarded) fun _ => ?_
  exact .ite (fun _ => (dbgPort_kept _ _ hk).isGuarded) fun _ => (writeDbg_kept a v hk).isGuarded

theorem portWrite_guarded (s : State) (a v : Nat) (reach : Bool) : Guarded s (s.portWrite a v reach).1 := by
  unfold State.portWrite
  split
  · split
    · exact .refl s
    · split
      · exact (dbgPort_kept _ _ (.refl _ _ s)).isGuarded
      · exact regWrite_guarded s .port a v
  · split
    · exact (indirect_kept _ _ _ _ (.refl _ _ s)).isGuarded
    · exact regWrite_guarded s .port a v

/-- The answer over a path leaves guarded what the access does. -/
theorem access_guarded (p : Path) (write : Bool) {f : State → State × Nat × Nat} (h : Guarded s (f s).1) :
    Guarded s (s.access p write f) := by
  refine .ite (fun _ => .refl s) fun _ => ?_
  cases p with
  | port => exact h.kept (answer_kept _ _ (.refl _ _ _))
  | bar0 => exact .ite (fun _ => h) fun _ => h.kept (emit_kept _ (.refl _ _ _))

theorem written_mgCmd_guarded (s : State) (p : Path) (v : Nat) : GuardedO s (.next (s.written p fun s => s.mgCmd p v)) :=
  .next (access_guarded p true (mgCmd_guarded s p v))

theorem sbFrame_guarded (op a : Nat) (d : Option Nat) (crc : Nat) {f : State → State × Nat × Nat}
    (h : Guarded s (f s).1) : Guarded s (s.sbFrame op a d crc f) :=
  .ite (fun _ => .refl s) fun _ => .ite (fun _ => (answer_kept _ _ (.refl _ _ s)).isGuarded)
    fun _ => h.kept (answer_kept _ _ (.refl _ _ _))

/-! The rows. -/

theorem execRegisterWrite_guarded (s : State) (r : RegTarget) (v : Nat) : GuardedO s (execRegisterWrite r v s) := by
  have hk : Kept false true s s := .refl _ _ s
  cases r with
  | mgmt p a =>
    refine .next (access_guarded p true ?_)
    split
    · exact .refl s
    · exact regWrite_guarded s p a v
  | queue q off => exact .next (kept_ite (writeQueue_kept q off v hk) hk).isGuarded
  | mailbox off => exact .next (writeMailbox_kept off v hk).isGuarded
  | bias off => exact .next (kept_ite (writeBias_kept off v hk) hk).isGuarded
  | msix vec w => exact .next (kept_ite (writeMsix_kept vec w v hk) hk).isGuarded

theorem execCrestHalt_guarded (s : State) (p : Nat) : GuardedO s (execCrestHalt p s) := by
  unfold execCrestHalt
  dsimp only
  split
  · exact .next (.refl s)
  next l _ =>
  refine .ite (.next (.refl s)) (.next (.inr (Raised.setTaint (Kept.raised ?_) 3)))
  have hh := kept_foldl (l := (s.crest p).held) (f := fun (s : State) k => s.setHold k.1 k.2 p wHalt true)
    (fun _ k h => setHold_kept k.1 k.2 p wHalt true h) (modMg_kept (fun m => { m with haltStat := orBit m.haltStat l })
    (modCrest_kept p (fun c => { c with halted := true }) (.refl false true s)) fun _ => ⟨rfl, rfl, rfl⟩)
  split
  · exact addTrace_kept _ _ _ _ _ _ hh
  · exact hh

theorem execSeDebugReq_guarded (s : State) (p : Path) (lvl : Nat) : GuardedO s (execSeDebugReq p lvl s) :=
  .next (access_guarded p true (.ite (fun _ => .inr (debugReq_raised s p _)) fun _ => .refl s))

theorem execStrapDecode_guarded (s : State) (a b c d : Nat) : GuardedO s (execStrapDecode a b c d s) := by
  refine .ite (.next (.refl s)) ?_
  dsimp only
  split
  · exact .next (.of_eq rfl rfl)
  · refine .next (.ite (fun _ => .inr (Raised.setTaint ?_ 0)) fun _ => .of_eq rfl rfl)
    exact .of_eq rfl rfl

theorem execFwVerifyDone_guarded (s : State) : GuardedO s (execFwVerifyDone s) := by
  unfold execFwVerifyDone
  split
  · exact .next (.refl s)
  next len who _ =>
  have hr : GuardedO s (.next (s.imageRefused who)) := .next (imageRefused_kept who (.refl _ _ s)).isGuarded
  exact .ite hr (.ite (.next (.inr (imageAccepted_raised s who len _ _ _))) hr)

/-- Every command of the table guards FULL and the taint. -/
theorem exec_guarded (c : Instr) (s : State) : GuardedO s (exec c s) := by
  cases h : reachesGuarded c with
  | false => exact (exec_kept (.refl _ _ s) h).isGuarded
  | true =>
    cases c with
    | registerWrite r v => exact execRegisterWrite_guarded s r v
    | ptCreate p | ptReshape p | ptDestroy p | ptReset p | rpRetire p | fwSbOpen p | fwSbActivate p | resetCold p
    | resetWarm p | resetCrest p | resetLink p => exact written_mgCmd_guarded s p _
    | crestHalt p => exact execCrestHalt_guarded s p
    | seDebugReq p lvl => exact execSeDebugReq_guarded s p lvl
    | sbWrite a d crc reach => exact .next (sbFrame_guarded _ _ _ _ (portWrite_guarded s _ _ reach))
    | alwaysOnReset => exact .next (cold_guarded s 0)
    | refclkInvalid => exact .ite (.next (cold_guarded s 0)) (.next (cold_guarded s 1))
    | alwaysOnRelease => exact .ite (.next (.refl s)) (.next (.of_eq rfl rfl))
    | strapDecode a b c d => exact execStrapDecode_guarded s a b c d
    | fwVerifyDone => exact execFwVerifyDone_guarded s
    | watchdog => exact .ite (.next (.inr (warm_raised s 4))) (.next (.refl s))
    | _ => nomatch h
end

/-- Settles O57, from what each row of the table guards: FULL is entered under the strap, and where a taint is lost the
always-on reset is asserted. -/
theorem fullDebugAndTaintAreGuarded : Obligations.FullDebugAndTaintAreGuarded := by
  refine ⟨fun c s t h hn hf => ?_, fun c s t b h hb => ?_⟩
  · obtain ⟨-, -, hl⟩ | ⟨hl, -⟩ := exec_guarded c s t h
    · exact absurd (hl.symm.trans hf) (by decide)
    · exact (hl hf).resolve_left hn
  · obtain ⟨hr, ht, -⟩ | ⟨-, ht⟩ := exec_guarded c s t h
    · exact .inr ⟨hr, ht⟩
    · exact .inl (ht b hb)

end Sys2Proof.Machine
end

section
/-!
Debug levels and halts (O36).
-/
namespace Sys2Proof.Machine
open Sys2Proof.Claim

/-! Sets of units as words. -/

theorem sum_two_pow_lt (f : Nat → Bool) (n : Nat) : (((List.range n).filter f).map (2 ^ ·)).sum < 2 ^ n := by
  induction n with
  | zero => simp
  | succ n ih =>
    rw [List.range_succ, List.filter_append, List.map_append, List.sum_append, Nat.pow_succ]
    cases h : f n <;> simp [h] <;> omega

/-- A sum of the powers of the numbers below `n` that `f` picks has their bits. -/
theorem testBit_sum_two_pow (f : Nat → Bool) {n l : Nat} (h : l < n) :
    (((List.range n).filter f).map (2 ^ ·)).sum.testBit l = f l := by
  induction n with
  | zero => exact absurd h (Nat.not_lt_zero l)
  | succ n ih =>
    rw [List.range_succ, List.filter_append, List.map_append, List.sum_append, Nat.add_comm]
    have hlt := sum_two_pow_lt f n
    obtain hl | rfl := Nat.lt_succ_iff_lt_or_eq.1 h
    · rw [← ih hl]
      cases hf : f n with
      | false => simp [hf]
      | true => simpa [hf] using Nat.testBit_two_pow_add_gt hl _
    · cases hf : f l with
      | false => simpa [hf] using Nat.testBit_lt_two_pow hlt
      | true => simp [hf, Nat.testBit_two_pow_add_eq, Nat.testBit_lt_two_pow hlt]

/-! What a path answers. -/

/-- A write over a path that hears it has its effect and is acknowledged, where the effect lets the always-on reset be. -/
theorem written_eq_acked {s : State} {path : Path} {f : State → State} (hp : s.pathReady path = true)
    (hr : (f s).mg.released = s.mg.released) : s.written path f = acked path (f s) := by
  cases path with
  | bar0 => simp [State.written, State.access, hp, acked]
  | port =>
    have ht : (f s).mg.released = true := hr.trans (released_of_pathReady_port hp)
    simp [State.written, State.access, hp, answer_eq_answered ht, acked]

/-! What the release of a halt leaves alone. -/

/-- The state but for what a turn of a crest writes, and for the halts. -/
def State.besideHalts (s : State) : State := { s.unturned with mg := { s.mg with haltReq := 0, haltStat := 0 } }

section
variable {s t : State}

theorem besideHalts_of_unturned (h : t.unturned = s.unturned) : t.besideHalts = s.besideHalts :=
  (congrArg State.besideHalts h :)

theorem besideHalts_foldl {β : Type} {f : State → β → State} (hf : ∀ s x, (f s x).besideHalts = s.besideHalts)
    (l : List β) (s : State) : (l.foldl f s).besideHalts = s.besideHalts :=
  List.foldlRecOn (motive := fun u => State.besideHalts u = s.besideHalts) l f rfl fun _ h x _ => (hf _ x).trans h

theorem store_of_besideHalts (h : t.besideHalts = s.besideHalts) : t.store = s.store := (congrArg State.store h :)

theorem mg_of_besideHalts (h : t.besideHalts = s.besideHalts) :
    t.mg.debugLevel = s.mg.debugLevel ∧ t.mg.debugDenied = s.mg.debugDenied ∧ t.mg.released = s.mg.released :=
  ⟨(congrArg (fun u : State => u.mg.debugLevel) h :), (congrArg (fun u : State => u.mg.debugDenied) h :),
    (congrArg (fun u : State => u.mg.released) h :)⟩

theorem besideHalts_modCrest (s : State) (p : Nat) (f : Crest → Crest) : (s.modCrest p f).besideHalts = s.besideHalts := rfl

theorem besideHalts_releaseHalt (s : State) (l : Nat) : (s.releaseHalt l).besideHalts = s.besideHalts := by
  have resumed (u : State) (ks : List (Nat × Nat)) (p : Nat) :
      (ks.foldl (fun s k => s.setHold k.1 k.2 p wHalt false) u).besideHalts = u.besideHalts :=
    besideHalts_foldl (fun _ _ => besideHalts_of_unturned (turned_setHold 0 _ _ _ _ _ _).rest) ks u
  have traced (u : State) (ev c q part st tag : Nat) : (u.addTrace ev c q part st tag).besideHalts = u.besideHalts :=
    besideHalts_of_unturned (turned_addTrace 0 u ev c q part st tag).rest
  unfold State.releaseHalt
  extract_lets p unasked going released traced'
  have hunasked : unasked.besideHalts = s.besideHalts := rfl
  clear_value unasked
  have hgoing : going.besideHalts = unasked.besideHalts := rfl
  clear_value going
  have hreleased : released.besideHalts = going.besideHalts := resumed ..
  have htraced : traced'.besideHalts = released.besideHalts := by
    unfold traced'
    split
    · exact traced ..
    · rfl
  split
  · exact hunasked
  · exact (besideHalts_of_unturned (turned_kick _ _).rest).trans (htraced.trans (hreleased.trans (hgoing.trans hunasked)))

theorem liveChange_mg (s : State) :
    s.liveChange.mg.debugLevel = s.mg.debugLevel ∧ s.liveChange.mg.debugDenied = s.mg.debugDenied ∧
      s.liveChange.mg.released = s.mg.released ∧ s.liveChange.store = s.store ∧ s.liveChange.crests = s.crests := by
  unfold State.liveChange
  split <;> exact ⟨rfl, rfl, rfl, rfl, rfl⟩

theorem setTaint_mg (s : State) (b : Nat) :
    (s.setTaint b).mg.debugLevel = s.mg.debugLevel ∧ (s.setTaint b).mg.haltStat = s.mg.haltStat ∧
      (s.setTaint b).mg.released = s.mg.released ∧ (s.setTaint b).crests = s.crests := by
  unfold State.setTaint State.liveChange
  split
  · exact ⟨rfl, rfl, rfl, rfl⟩
  · split <;> exact ⟨rfl, rfl, rfl, rfl⟩

/-! Levels. -/

/-- FULL, once taken, is a taint, and turns no crest (R221). -/
theorem toDebug_full (s : State) :
    (s.toDebug 2).mg.debugLevel = 2 ∧ (s.mg.debugLevel ≠ 2 → (s.toDebug 2).mg.taint.testBit 2 = true) ∧
      (s.toDebug 2).crests = s.crests ∧ (s.toDebug 2).mg.released = s.mg.released := by
  unfold State.toDebug
  split
  next h => exact ⟨h, fun hn => absurd h hn, rfl, rfl⟩
  next h =>
    dsimp only
    rw [if_neg h, if_pos rfl]
    obtain ⟨hlevel, -, hreleased, hcrests⟩ := setTaint_mg (s.modMg fun m => { m with debugLevel := 2 }).liveChange 2
    obtain ⟨hlevel', -, hreleased', -, hcrests'⟩ := liveChange_mg (s.modMg fun m => { m with debugLevel := 2 })
    exact ⟨hlevel.trans hlevel', fun _ => setTaint_testBit _ _, hcrests.trans hcrests', hreleased.trans hreleased'⟩

/-- A level below FULL, once taken, denies nothing and leaves the store (R223). -/
theorem toDebug_below (s : State) {lvl : Nat} (h : lvl < 2) :
    (s.toDebug lvl).mg.debugLevel = lvl ∧ (s.toDebug lvl).mg.debugDenied = s.mg.debugDenied ∧
      (s.toDebug lvl).mg.released = s.mg.released ∧ (s.toDebug lvl).store = s.store := by
  have left {t : State} (ht : t.besideHalts = s.besideHalts) :
      let u := (t.modMg fun m => { m with debugLevel := lvl }).liveChange
      u.mg.debugLevel = lvl ∧ u.mg.debugDenied = s.mg.debugDenied ∧ u.mg.released = s.mg.released ∧
        u.store = s.store := by
    obtain ⟨-, hdenied, hreleased⟩ := mg_of_besideHalts ht
    obtain ⟨hlevel', hdenied', hreleased', hstore', -⟩ := liveChange_mg (t.modMg fun m => { m with debugLevel := lvl })
    have hstore := store_of_besideHalts ht
    exact ⟨hlevel', hdenied'.trans hdenied, hreleased'.trans hreleased, hstore'.trans hstore⟩
  have freed : ((List.range 16).foldl State.releaseHalt s).besideHalts = s.besideHalts :=
    besideHalts_foldl besideHalts_releaseHalt _ s
  have unkept (u : State) : ((List.range 17).foldl (fun s p => s.modCrest p Crest.unkept) u).besideHalts = u.besideHalts :=
    besideHalts_foldl (fun _ _ => besideHalts_modCrest ..) _ u
  unfold State.toDebug
  split
  next hl => exact ⟨hl, rfl, rfl, rfl⟩
  next =>
    dsimp only
    rw [if_neg (Nat.ne_of_lt h)]
    refine left ?_
    by_cases hfull : s.mg.debugLevel = 2
    · rw [if_pos hfull]
      split
      · exact (unkept _).trans freed
      · exact freed
    · rw [if_neg hfull, if_neg hfull]

theorem debugReq_taken (s : State) {path : Path} {lvl : Nat} (hlvl : lvl ≤ 2)
    (hok : if lvl = 2 then path = .port ∧ s.debugStrap = true else lvl ≤ s.mg.debugLevel ∨ s.serving = true) :
    s.debugReq path lvl = s.toDebug lvl := by
  rw [State.debugReq, if_neg (by omega), if_pos]
  split at hok
  next h => simpa [h] using hok
  next h => simpa [h] using hok

theorem debugReq_denied (s : State) {path : Path} {lvl : Nat} (hlvl : lvl ≤ 2)
    (hno : ¬if lvl = 2 then path = .port ∧ s.debugStrap = true else lvl ≤ s.mg.debugLevel ∨ s.serving = true) :
    s.debugReq path lvl = { s with mg := { s.mg with debugDenied := true } } := by
  rw [State.debugReq, if_neg (by omega), if_neg]
  · rfl
  split at hno
  next h => simpa [h] using hno
  next h => simpa [h] using hno

/-- A level that the policy lets a path ask for is answered, and asked for. -/
theorem execSeDebugReq_eq_acked {s : State} {path : Path} {lvl : Nat} {t : State} (hp : s.pathReady path = true)
    (ha : s.allows path 3 = true) (hlvl : lvl ≤ 2) (ht : s.debugReq path lvl = t) (hr : t.mg.released = s.mg.released) :
    execSeDebugReq path lvl s = .next (acked path t) := by
  have heff : (if s.allows path polDbg then s.debugReq path (lvl % 4) else s) = t := by
    rw [if_pos (show s.allows path polDbg = true from ha), Nat.mod_eq_of_lt (by omega), ht]
  rw [execSeDebugReq, written_eq_acked hp (by rw [heff, hr]), heff]

theorem acked_frame (path : Path) (s : State) :
    (acked path s).mg = s.mg ∧ (acked path s).crests = s.crests ∧ (acked path s).store = s.store := by
  cases path <;> exact ⟨rfl, rfl, rfl⟩

/-! Halts. -/

/-- The halts that DBG_HALT_REQ asks for are then the ones that stand (R337). -/
theorem haltReq_testBit (s : State) (v : Nat) {l : Nat} (h : l < 16) :
    (s.haltReq v).mg.haltReq.testBit l = (v.testBit l && s.crestPresent l && !s.crestRetired (s.physOf l)) :=
  testBit_sum_two_pow _ h

theorem haltReq_besideHalts (s : State) (v : Nat) : (s.haltReq v).besideHalts = s.besideHalts :=
  (besideHalts_foldl besideHalts_releaseHalt (maskList (andNot s.mg.haltReq _) 16) s :)

/-- Over the register port halts are requested at FULL, and refused below it (R296). -/
theorem execDbgHaltReq_port {s : State} (hp : s.pathReady .port = true) (v : Nat) : execDbgHaltReq .port v s =
    if s.mg.debugLevel = 2 then .next ((s.haltReq v).answer 0 0) else .next (s.answer 2 0) := by
  rw [execDbgHaltReq, State.access, hp]
  by_cases h : s.mg.debugLevel = 2 <;> simp [h]

/-- A crest that is at a boundary: no invocation runs, and what it has in hand is there. -/
def State.restsAt (s : State) (p : Nat) : Prop :=
  (s.crest p).inv = none ∧
    ∀ w ws, (s.crest p).work = w :: ws → ∃ c, s.cmd? w.q w.t = some c ∧ c.atBoundary w = true

/-- A state with crest `p` halted, and no other crest changed. -/
def State.haltedFrom (s t : State) (p l : Nat) : Prop :=
  (t.crest p).halted = true ∧ (t.crest p).held = (s.crest p).held ∧ t.mg.haltStat.testBit l = true ∧
    ∀ k, k ≠ p → t.crest k = s.crest k

theorem haltedFrom_next {s t u : State} {p l : Nat} (h : s.haltedFrom t p l) (hc : u.crests = t.crests)
    (hm : u.mg.haltStat = t.mg.haltStat) : s.haltedFrom u p l := by
  have hcrest (k : Nat) : u.crest k = t.crest k := congrArg (fun cs : Tbl Crest => tget ({} : Crest) cs k) hc
  simpa only [State.haltedFrom, hcrest, hm] using h

theorem setHold_haltStat (s : State) (q t p cause : Nat) (on : Bool) :
    (s.setHold q t p cause on).mg.haltStat = s.mg.haltStat :=
  (congrArg (fun u : State => u.mg.haltStat) (turned_setHold 0 s q t p cause on).rest :)

/-- A crest whose halt is requested halts at a boundary, a taint (R225, R221). -/
theorem execCrestHalt_halts {s : State} {p l : Nat} (hl : s.logicalOf p = some l) (hreq : s.mg.haltReq.testBit l = true)
    (hfull : s.mg.debugLevel = 2) (hgoes : (s.crest p).halted = false) (hrest : s.restsAt p) :
    ∃ t, execCrestHalt p s = .next t ∧ s.haltedFrom t p l ∧ t.mg.taint.testBit 3 = true := by
  obtain ⟨hinv, hwork⟩ := hrest
  have hstop : s.haltedFrom ((s.modCrest p fun c => { c with halted := true }).modMg
      fun m => { m with haltStat := orBit m.haltStat l }) p l := by
    have hcrest := State.crest_modCrest_same s p fun c => { c with halted := true }
    have hothers (k : Nat) (hk : k ≠ p) := State.crest_modCrest_other s p (fun c => { c with halted := true }) k hk
    exact ⟨(congrArg Crest.halted hcrest :), (congrArg Crest.held hcrest :), orBit_testBit_self _ _, hothers⟩
  have hheld (ks : List (Nat × Nat)) {u : State} (hu : s.haltedFrom u p l) :
      s.haltedFrom (ks.foldl (fun s k => s.setHold k.1 k.2 p wHalt true) u) p l :=
    List.foldlRecOn (motive := fun t => s.haltedFrom t p l) ks _ hu fun t ht k _ =>
      haltedFrom_next ht (setHold_crests ..) (setHold_haltStat ..)
  have htaint {u : State} (hu : s.haltedFrom u p l) :
      s.haltedFrom (u.setTaint 3) p l ∧ (u.setTaint 3).mg.taint.testBit 3 = true := by
    obtain ⟨-, hstat, -, hcrests⟩ := setTaint_mg u 3
    exact ⟨haltedFrom_next hu hcrests hstat, setTaint_testBit u 3⟩
  unfold execCrestHalt
  dsimp only
  rw [hl]
  cases hw : (s.crest p).work with
  | nil =>
    simp only [hinv, hreq, hfull, hgoes]
    exact ⟨_, rfl, htaint (hheld _ hstop)⟩
  | cons w ws =>
    obtain ⟨c, hc, hb⟩ := hwork w ws hw
    simp only [hinv, hreq, hfull, hgoes, hc, Option.any_some, hb]
    exact ⟨_, rfl, htaint (haltedFrom_next (hheld _ hstop) rfl rfl)⟩

end

/-- Settles O36: a level by what its request comes to, the requested halts as the bits of their sum, and the halt of a
crest by its steps. -/
theorem debugLevelsAndHalts : Obligations.DebugLevelsAndHalts := by
  intro s path lvl v p l
  refine ⟨fun hp ha => ⟨fun hfull => ?_, fun hno => ?_, fun hlvl hok => ?_, fun hlvl hlow hserve => ?_⟩,
    fun hp hfull => ?_, fun hp hnot => ?_, fun hl hreq hfull hgoes hinv hwork => ?_⟩
  · obtain ⟨hlevel, htaint, hcrests, hreleased⟩ := toDebug_full s
    obtain ⟨hmg, hcrests', -⟩ := acked_frame path (s.toDebug 2)
    refine ⟨_, execSeDebugReq_eq_acked hp ha (Nat.le_refl 2) (debugReq_taken s (Nat.le_refl 2) hfull) hreleased, ?_⟩
    rw [hmg, hcrests']
    exact ⟨hlevel, htaint, hcrests⟩
  · exact execSeDebugReq_eq_acked hp ha (Nat.le_refl 2) (debugReq_denied s (Nat.le_refl 2) hno) rfl
  · obtain ⟨hlevel, hdenied, hreleased, hstore⟩ := toDebug_below s hlvl
    obtain ⟨hmg, -, hstore'⟩ := acked_frame path (s.toDebug lvl)
    have htaken := debugReq_taken (path := path) s (Nat.le_of_lt hlvl) (by rwa [if_neg (Nat.ne_of_lt hlvl)])
    refine ⟨_, execSeDebugReq_eq_acked hp ha (Nat.le_of_lt hlvl) htaken hreleased, ?_⟩
    rw [hmg, hstore']
    exact ⟨hlevel, hdenied, hstore⟩
  · refine execSeDebugReq_eq_acked hp ha (Nat.le_of_lt hlvl) (debugReq_denied s (Nat.le_of_lt hlvl) ?_) rfl
    rw [if_neg (Nat.ne_of_lt hlvl), hserve]
    exact fun h => h.elim (Nat.not_le_of_lt hlow) Bool.false_ne_true
  · have hhalts := haltReq_besideHalts s v
    have hreleased := (mg_of_besideHalts hhalts).2.2.trans (released_of_pathReady_port hp)
    have hstore := store_of_besideHalts hhalts
    refine ⟨answered (s.haltReq v) 0 0, ?_, fun l hl => haltReq_testBit s v hl, hstore⟩
    rw [← answer_eq_answered hreleased]
    exact (execDbgHaltReq_port hp v).trans (if_pos hfull)
  · rw [← answer_eq_answered (released_of_pathReady_port hp)]
    exact (execDbgHaltReq_port hp v).trans (if_neg hnot)
  · obtain ⟨t, ht, ⟨hhalted, hheld, hstat, hothers⟩, htaint⟩ :=
      execCrestHalt_halts hl hreq hfull hgoes ⟨hinv, hwork⟩
    exact ⟨t, ht, hhalted, hheld, hstat, htaint, hothers⟩

end Sys2Proof.Machine
end

section
/-!
What the adoption of waiting commands and the end of a reshape or reset leave alone: the frames of R211 to R214 and R319.
-/
namespace Sys2Proof.Machine

/-- What every step of a fold leaves as it is, the fold leaves as it is. -/
theorem proj_foldl {β γ : Type} (π : State → γ) {f : State → β → State} (hf : ∀ s x, π (f s x) = π s) (l : List β)
    (s : State) : π (l.foldl f s) = π s :=
  List.foldlRecOn (motive := fun u => π u = π s) l f rfl fun _ h x _ => (hf _ x).trans h

theorem proj_ite {γ : Type} (π : State → γ) {c : Prop} [Decidable c] {s t u : State} (ht : π t = π s)
    (hu : π u = π s) : π (if c then t else u) = π s := by
  split
  · exact ht
  · exact hu

/-! Adoption (R135, R137). -/

section
variable (s : State)

theorem unturned_chargeMclk (q t cause n : Nat) : (s.chargeMclk q t cause n).unturned = s.unturned := proj_ite _ rfl rfl

theorem unturned_chargeEarly (q t : Nat) : (s.chargeEarly q t).unturned = s.unturned := by
  unfold State.chargeEarly
  split
  · rfl
  · exact proj_foldl State.unturned (fun _ _ => unturned_chargeMclk ..) _ _

theorem unturned_setHold (q t p cause : Nat) (on : Bool) : (s.setHold q t p cause on).unturned = s.unturned :=
  (turned_setHold 0 s q t p cause on).rest

/-- A hold that may begin. -/
theorem unturned_held (c : Prop) [Decidable c] (q t p cause : Nat) :
    (if c then s.setHold q t p cause true else s).unturned = s.unturned := proj_ite _ (unturned_setHold ..) rfl

theorem unturned_place (q t p : Nat) : (s.place q t p).unturned = s.unturned := by
  unfold State.place
  split
  · rfl
  · refine proj_ite _ rfl ?_
    extract_lets owner borrowed dirty charged taken unqueued received halted blocked
    have hcharged : charged.unturned = s.unturned := proj_ite _ rfl rfl
    have hunqueued : unqueued.unturned = taken.unturned := unturned_setHold ..
    have hreceived : received.unturned = unqueued.unturned := unturned_held ..
    have hhalted : halted.unturned = received.unturned := unturned_held ..
    have hblocked : blocked.unturned = halted.unturned := proj_ite _ (unturned_setHold ..) rfl
    calc (blocked.requeue p).unturned
      _ = blocked.unturned := (turned_requeue p _).rest
      _ = unqueued.unturned := hblocked.trans (hhalted.trans hreceived)
      _ = charged.unturned := hunqueued
      _ = s.unturned := hcharged

theorem unturned_adopt (q t : Nat) : (s.adopt q t).unturned = s.unturned := by
  unfold State.adopt
  split
  · rfl
  · refine proj_ite _ rfl ?_
    dsimp only
    split
    · exact proj_ite _ (unturned_chargeEarly ..) rfl
    · exact (proj_foldl State.unturned (fun _ _ => unturned_place ..) _ _).trans (proj_ite _ (unturned_chargeEarly ..) rfl)

theorem unturned_adoptAll : s.adoptAll.unturned = s.unturned :=
  proj_foldl State.unturned (fun _ _ => unturned_adopt ..) _ _

end

/-! What goes back to the die's bias (R181). -/

section
variable (s : State)

theorem unwritten_giveUp (l : Nat) : (s.giveUp l).unwritten = s.unwritten :=
  unwritten_ite (c := (tget {} s.cache l).st = .M) (unwritten_backLine ..) rfl

theorem unwritten_lineToDevice (r : Returned) (l : Nat) : (s.lineToDevice r l).unwritten = s.unwritten := by
  have howned : (((s.emit (.cxl .rdOwn l)).settle l).giveUp l).unwritten = s.unwritten :=
    (unwritten_giveUp ..).trans (unwritten_settle ..)
  unfold State.lineToDevice
  dsimp only
  split
  · exact howned
  · exact (unwritten_backLine ..).trans ((unwritten_pendLine ..).trans howned)

theorem unwritten_pageToDevice (g : Nat) (r : Returned) : (s.pageToDevice g r).unwritten = s.unwritten := by
  have hlines := proj_foldl State.unwritten (fun s l => unwritten_lineToDevice s r l) ((List.range 64).map (g / 64 + ·)) s
  rw [State.pageToDevice, ← hlines]
  generalize ((List.range 64).map (g / 64 + ·)).foldl (fun s l => s.lineToDevice r l) s = u
  rfl

end
end Sys2Proof.Machine
end

section
/-!
The phases of a reshape follow each other (O29).
-/
namespace Sys2Proof.Machine
open Sys2Proof.Claim

/-! DRAIN. -/

/-- The slices that DRAIN puts in transit (R214). -/
def State.toZeroise (s : State) (j : Journal) : List Nat := (maskList j.remSlices 96).filter (fun n => !s.sliceRetired n)

/-- The journal when ZEROISE starts. -/
def State.zeroiseJournal (s : State) (j : Journal) : Journal :=
  { j with phase := 3, transit := ((s.toZeroise j).map (fun n => 2 ^ n)).sum, marked := 0 }

theorem testBit_zeroiseJournal (s : State) (j : Journal) {n : Nat} (hn : n < 96) :
    (s.zeroiseJournal j).transit.testBit n = (j.remSlices.testBit n && !s.sliceRetired n) := by
  have hsum := testBit_sum_two_pow (fun n => !s.sliceRetired n && j.remSlices.testBit n) hn
  rw [Bool.and_comm, ← hsum, State.zeroiseJournal, State.toZeroise, maskList, List.filter_filter]

theorem mem_maskList {v n i : Nat} : i ∈ maskList v n ↔ i < n ∧ v.testBit i = true := by
  rw [maskList, List.mem_filter, List.mem_range]

theorem mem_toZeroise {s : State} {j : Journal} {n : Nat} (hn : n < 96) :
    n ∈ s.toZeroise j ↔ (s.zeroiseJournal j).transit.testBit n = true := by
  simp [State.toZeroise, mem_maskList, testBit_zeroiseJournal s j hn, hn]

theorem execDrainDone_eq {s : State} {j : Journal} (hj : s.journal = some j) (hp : j.phase = 2) : execDrainDone s =
    if (s.zeroiseJournal j).transit = 0 then
      .next ({ s.drained j with journal := some (s.zeroiseJournal j) }.remap (s.zeroiseJournal j))
    else .next { s.drained j with journal := some (s.zeroiseJournal j) } := by
  unfold execDrainDone
  rw [hj]
  exact if_neg (not_not.2 hp)

/-- The pages of host bias that lie in the slices removed. -/
def State.removedPages (s : State) (j : Journal) : List Nat :=
  (tkeys s.bias.hostPages).filter fun k => tget false s.bias.hostPages k && j.remSlices.testBit (k / 4096)

/-- The state once the pages of the removed slices are in device bias (R181). -/
def State.pagesBack (s : State) (j : Journal) : State :=
  (s.removedPages j).foldl (fun s k => s.pageToDevice (k * 4096) { it := [], poison := [], waited := 0 }) s

theorem unwritten_pagesBack (s : State) (j : Journal) : (s.pagesBack j).unwritten = s.unwritten :=
  proj_foldl State.unwritten (fun _ _ => unwritten_pageToDevice ..) _ s

theorem parts_pagesBack (s : State) (j : Journal) : (s.pagesBack j).parts = s.parts :=
  (congrArg State.parts (unwritten_pagesBack s j) :)

/-- The pages that go back are in host bias no more, and the others stay. -/
theorem hostPages_foldl_pageToDevice (ps : List Nat) (s : State) (g : Nat) :
    tget false (ps.foldl (fun s k => s.pageToDevice (k * 4096) { it := [], poison := [], waited := 0 }) s).bias.hostPages g =
      (tget false s.bias.hostPages g && !ps.contains g) := by
  induction ps generalizing s with
  | nil => simp
  | cons p ps ih =>
    have hpage : (s.pageToDevice (p * 4096) { it := [], poison := [], waited := 0 }).bias.hostPages =
        tset false s.bias.hostPages p false := by
      rw [(pageChanged_toDevice s (p * 4096) _).bias, Nat.mul_div_cancel p (by decide)]
    rw [List.foldl_cons, ih, hpage, tget_tset, List.contains_cons]
    by_cases hg : g = p
    · simp [hg]
    · simp [hg, beq_false_of_ne hg]

theorem mem_tkeys_of_tget {α : Type} {d : α} {t : Tbl α} {k : Nat} (h : tget d t k ≠ d) : k ∈ tkeys t := by
  induction t with
  | nil => exact absurd rfl h
  | cons e t ih =>
    rw [tkeys, List.map_cons, List.mem_cons]
    by_cases he : e.1 = k
    · exact .inl he.symm
    · exact .inr (ih (by rwa [tget, if_neg he] at h))

theorem hostPages_pagesBack (s : State) (j : Journal) {g : Nat} (hg : j.remSlices.testBit (g / 4096) = true) :
    tget false (s.pagesBack j).bias.hostPages g = false := by
  rw [State.pagesBack, hostPages_foldl_pageToDevice]
  cases h : tget false s.bias.hostPages g with
  | false => rfl
  | true =>
    have hmem : g ∈ tkeys s.bias.hostPages := mem_tkeys_of_tget (d := false) (by rw [h]; decide)
    have hin : g ∈ s.removedPages j := List.mem_filter.2 ⟨hmem, by rw [h, hg]; rfl⟩
    simpa using hin

/-- The slices of a list marked in transit. -/
def State.inTransit (s : State) (ns : List Nat) : State :=
  ns.foldl (fun s n => s.modSlice n fun x => { x with transit := true }) s

theorem inTransit_frame (s : State) (ns : List Nat) :
    (s.inTransit ns).parts = s.parts ∧ (s.inTransit ns).bias = s.bias ∧ (s.inTransit ns).store = s.store ∧
      (s.inTransit ns).mg = s.mg := by
  have marked {γ : Type} (π : State → γ) (hπ : ∀ (s : State) n f, π (s.modSlice n f) = π s) :
      π (s.inTransit ns) = π s :=
    proj_foldl π (fun s n => hπ s n fun x => { x with transit := true }) ns s
  exact ⟨marked State.parts fun _ _ _ => rfl, marked State.bias fun _ _ _ => rfl, marked State.store fun _ _ _ => rfl,
    marked State.mg fun _ _ _ => rfl⟩

theorem transit_inTransit (s : State) (ns : List Nat) (n : Nat) :
    ((s.inTransit ns).slice n).transit = (ns.contains n || (s.slice n).transit) := by
  unfold State.inTransit
  induction ns generalizing s with
  | nil => simp
  | cons m ns ih =>
    rw [List.foldl_cons, ih, List.contains_cons]
    by_cases h : n = m
    · simp [h]
    · simp [h, beq_false_of_ne h, State.slice_modSlice_other]

/-! What DRAIN leaves. -/

theorem drained_frame (s : State) (j : Journal) :
    (s.drained j).parts = (s.modPart j.part fun x => { x with slices := andNot x.slices j.remSlices }).parts ∧
      (s.drained j).mg = s.mg ∧ (s.drained j).bias = (s.pagesBack j).bias ∧ (s.drained j).store = (s.pagesBack j).store ∧
      (s.drained j).slices = ((s.pagesBack j).inTransit (s.toZeroise j)).slices := by
  obtain ⟨hparts, hbias, hstore, hmg⟩ := inTransit_frame (s.pagesBack j) (s.toZeroise j)
  have hmg' : (s.pagesBack j).mg = s.mg := (congrArg State.mg (unwritten_pagesBack s j) :)
  have hparts' := hparts.trans (parts_pagesBack s j)
  have scrubbed {γ : Type} (π : State → γ) (hπ : ∀ (s : State) p f, π (s.modCrest p f) = π s) :=
    proj_foldl π (fun s l => hπ s (s.physOf l) Crest.scrub) (maskList j.remCrests 16)
      (((s.pagesBack j).inTransit (s.toZeroise j)).modPart j.part fun x => { x with slices := andNot x.slices j.remSlices })
  refine ⟨(scrubbed State.parts fun _ _ _ => rfl).trans ?_, (scrubbed State.mg fun _ _ _ => rfl).trans (hmg.trans hmg'),
    (scrubbed State.bias fun _ _ _ => rfl).trans hbias, (scrubbed State.store fun _ _ _ => rfl).trans hstore,
    scrubbed State.slices fun _ _ _ => rfl⟩
  exact congrArg (fun ps => tmod {} ps j.part fun x => { x with slices := andNot x.slices j.remSlices }) hparts'

/-! REMAP. -/

/-- The units that REMAP hands back: the slices free, the crests OFF, the queues gained fresh (R228). -/
def State.remapUnits (s : State) (j : Journal) : State :=
  let s := (maskList j.remSlices 96).foldl (fun s n => s.modSlice n fun x =>
    { x with transit := false, pw := if s.sliceRetired n then x.pw else .off, waking := false, scrub := 0 }) s
  let s := (maskList j.remCrests 16).foldl (fun s l => (s.modCrest (s.physOf l) fun c =>
    { c.scrub.powerLoss with lastPart := none, handles := [] }).modReg (s.physOf l) fun r => r.turnOff s.time 4) s
  s.freshQueues (andNot j.newQueues (s.part j.part).queues)

theorem freshQueues_proj {γ : Type} (π : State → γ) (hπ : ∀ (s : State) q f, π (s.modQueue q f) = π s)
    (s : State) (m : Nat) : π (s.freshQueues m) = π s :=
  proj_foldl π (fun s q => hπ s q fun _ => {}) (maskList m 64) s

theorem remapUnits_frame (s : State) (j : Journal) :
    (s.remapUnits j).parts = s.parts ∧ (s.remapUnits j).mg = s.mg := by
  have units {γ : Type} (π : State → γ) (hq : ∀ (s : State) q f, π (s.modQueue q f) = π s)
      (hs : ∀ (s : State) n f, π (s.modSlice n f) = π s)
      (hc : ∀ (s : State) p f g, π ((s.modCrest p f).modReg p g) = π s) : π (s.remapUnits j) = π s :=
    (freshQueues_proj π hq _ _).trans ((proj_foldl π (fun s l => hc s (s.physOf l) _ _) _ _).trans
      (proj_foldl π (fun s n => hs s n _) _ s))
  exact ⟨units State.parts (fun _ _ _ => rfl) (fun _ _ _ => rfl) fun _ _ _ _ => rfl,
    units State.mg (fun _ _ _ => rfl) (fun _ _ _ => rfl) fun _ _ _ _ => rfl⟩

/-- The state of the partition once its new sets stand (Table PART-4). -/
def State.remapped (s : State) (j : Journal) : State :=
  let sl := if (s.part j.part).interleave then j.newSlices else andNot j.newSlices s.rep.retSlice
  let s := (s.remapUnits j).modPart j.part fun x => { x with
    crests := j.newCrests, slices := sl, queues := j.newQueues, guar := j.newGuar
    ctl := if j.opcode = 0x12 then 0 else andNot j.newCtl 4 ||| (x.ctl &&& 4)
    st := if j.opcode = 0x12 then 0 else 1 }
  if j.opcode = 0x12 then (s.zeroTrace j.part).releaseEnergy j.part else s

/-- The journal is closed. -/
def State.unjournalled (s : State) : State := { s with journal := none }

theorem remap_eq (s : State) (j : Journal) : s.remap j =
    ((s.remapped j).unjournalled.liveChange.readyOrRun.ptResult j.part csOk 0).heldReset.adoptAll := rfl

theorem part_releaseEnergy_same (s : State) (p : Nat) : (s.releaseEnergy p).part p = { s.part p with energy := 0 } :=
  State.part_modPart_same s p fun x => { x with energy := 0 }

theorem part_zeroTrace (s : State) (p r : Nat) : (s.zeroTrace p).part r = s.part r := rfl

theorem mg_releaseEnergy (s : State) (p : Nat) : (s.releaseEnergy p).mg = s.mg := rfl

theorem mg_zeroTrace (s : State) (p : Nat) : (s.zeroTrace p).mg = s.mg := rfl

theorem remapped_part (s : State) (j : Journal) : (s.remapped j).mg = s.mg ∧
    ((s.remapped j).part j.part).st = (if j.opcode = 0x12 then 0 else 1) ∧
    ((s.remapped j).part j.part).crests = j.newCrests ∧ ((s.remapped j).part j.part).queues = j.newQueues := by
  have hmg := (remapUnits_frame s j).2
  unfold State.remapped
  generalize s.remapUnits j = u at hmg ⊢
  dsimp only
  split
  · rw [part_releaseEnergy_same, part_zeroTrace, State.part_modPart_same, mg_releaseEnergy, mg_zeroTrace]
    exact ⟨hmg, rfl, rfl, rfl⟩
  · rw [State.part_modPart_same]
    exact ⟨hmg, rfl, rfl, rfl⟩

/-! The end of a partition's command. -/

theorem ptResult_mg (s : State) (p st det : Nat) :
    (s.ptResult p st det).mg = { s.mg with running := none, cmdStatus := st, cmdDetail := det } := rfl

theorem ptResult_part (s : State) (p st det : Nat) :
    (s.ptResult p st det).part p = { s.part p with lastResult := st, lastDetail := det } := State.part_modPart_same ..

theorem heldReset_of_none {s : State} (h : s.mg.pending = []) : s.heldReset = s := by
  unfold State.heldReset
  rw [h]
  cases s.mg.running <;> rfl

theorem adoptAll_frame (s : State) :
    s.adoptAll.parts = s.parts ∧ s.adoptAll.mg = s.mg ∧ s.adoptAll.journal = s.journal ∧ s.adoptAll.queues = s.queues ∧
      s.adoptAll.store = s.store :=
  have h := unturned_adoptAll s
  ⟨(congrArg State.parts h :), (congrArg State.mg h :), (congrArg State.journal h :), (congrArg State.queues h :),
    (congrArg State.store h :)⟩

theorem pending_readyOrRun (s : State) :
    s.readyOrRun.parts = s.parts ∧ s.readyOrRun.mg.pending = s.mg.pending ∧ s.readyOrRun.journal = s.journal := by
  unfold State.readyOrRun
  split <;> exact ⟨rfl, rfl, rfl⟩

theorem pending_liveChange (s : State) :
    s.liveChange.parts = s.parts ∧ s.liveChange.mg.pending = s.mg.pending ∧ s.liveChange.journal = s.journal := by
  unfold State.liveChange
  split <;> exact ⟨rfl, rfl, rfl⟩

theorem part_of_parts {s t : State} (h : t.parts = s.parts) (p : Nat) : t.part p = s.part p :=
  congrArg (fun ps : Tbl Part => tget ({} : Part) ps p) h

/-- Where no reset is held, REMAP ends the command: the journal is closed, the partition has its new sets. -/
theorem remap_ends {s : State} (j : Journal) (hp : s.mg.pending = []) :
    (s.remap j).journal = none ∧ ((s.remap j).part j.part).st = (if j.opcode = 0x12 then 0 else 1) ∧
      ((s.remap j).part j.part).crests = j.newCrests ∧ ((s.remap j).part j.part).queues = j.newQueues ∧
      (s.remap j).mg.cmdStatus = 0 := by
  obtain ⟨hmg, hst, hcrests, hqueues⟩ := remapped_part s j
  obtain ⟨hparts, hpending, hjournal⟩ := pending_liveChange (s.remapped j).unjournalled
  obtain ⟨hparts', hpending', hjournal'⟩ := pending_readyOrRun (s.remapped j).unjournalled.liveChange
  rw [remap_eq]
  generalize (s.remapped j).unjournalled.liveChange.readyOrRun = u at hparts' hpending' hjournal' ⊢
  have hnone : u.mg.pending = [] := hpending'.trans (hpending.trans ((congrArg Mgmt.pending hmg).trans hp))
  have hpart : u.part j.part = (s.remapped j).part j.part := part_of_parts (hparts'.trans hparts) _
  obtain ⟨hparts'', hmg'', hjournal'', -⟩ := adoptAll_frame (u.ptResult j.part csOk 0)
  rw [heldReset_of_none (by rw [ptResult_mg]; exact hnone), hjournal'', part_of_parts hparts'', ptResult_part, hpart, hmg'']
  exact ⟨hjournal'.trans hjournal, hst, hcrests, hqueues, rfl⟩

/-! ZEROISE. -/

/-- The journal once slice `n` is zeroised. -/
def Journal.mark (j : Journal) (n : Nat) : Journal := { j with transit := clrBit j.transit n, marked := orBit j.marked n }

/-- The state once slice `n`, in transit, is zeroised, OFF and marked (R228). -/
def State.zeroised (s : State) (j : Journal) (n : Nat) : State :=
  { (s.zeroSlice n).modSlice n fun x => { x with pw := .off, waking := false, scrub := 0 } with journal := some (j.mark n) }

theorem slice_zeroised (s : State) (j : Journal) (n : Nat) : ((s.zeroised j n).slice n).pw = .off := by
  have h := State.slice_modSlice_same (s.zeroSlice n) n fun x => { x with pw := .off, waking := false, scrub := 0 }
  exact (congrArg Slice.pw h :)

theorem execSliceZeroiseDone_eq {s : State} {j : Journal} {n : Nat} {ns : List Nat} (hj : s.journal = some j)
    (hp : j.phase = 3) (hn : maskList j.transit 96 = n :: ns) : execSliceZeroiseDone s =
      if (j.mark n).transit = 0 then .next ((s.zeroised j n).remap (j.mark n)) else .next (s.zeroised j n) := by
  unfold execSliceZeroiseDone
  rw [hj]
  dsimp only
  rw [if_neg (not_not.2 hp), hn]
  rfl

/-! QUIESCE. -/

theorem execQuiesceDone_ends {s : State} {j : Journal} (hj : s.journal = some j) (hp : j.phase = 1)
    (hq : s.quiescing j.part = false) : execQuiesceDone s = .next { s with journal := some { j with phase := 2 } } := by
  simp [execQuiesceDone, hj, hp, hq]

theorem execQuiesceDone_waits {s : State} {j : Journal} (hj : s.journal = some j) (hq : s.quiescing j.part = true) :
    execQuiesceDone s = .next s := by
  simp [execQuiesceDone, hj, hq]

theorem execQuiesceTmo_late {s : State} {j : Journal} (hj : s.journal = some j) (hq : s.quiescing j.part = false) :
    execQuiesceTmo s = .next s := by
  simp [execQuiesceTmo, hj, hq]

/-- QUIESCE has taken too long: the partition is ACTIVE as it was (R212). -/
theorem execQuiesceTmo_givesUp {s : State} {j : Journal} (hj : s.journal = some j) (hp : j.phase = 1)
    (hq : s.quiescing j.part = true) (hnone : s.mg.pending = []) : execQuiesceTmo s =
      .next ((s.modPart j.part fun x => { x with st := 1 }).unjournalled.ptResult j.part csQuiesce 0) := by
  rw [← heldReset_of_none (s := State.ptResult _ j.part csQuiesce 0) (by rw [ptResult_mg]; exact hnone)]
  simp [execQuiesceTmo, hj, hp, hq, State.unjournalled]

/-- Settles O29, phase by phase, each by what its end leaves of the journal, the partition and the slices. -/
theorem reshapePhasesFollowEachOther : Obligations.ReshapePhasesFollowEachOther := by
  intro s j hj
  refine ⟨fun hp hq => ?quiet, fun hp hq hnone => ?late, fun hp hn => ?drain, fun n ns hp hn => ?zeroise,
    fun hp hn hnone => ?remap⟩
  case quiet => exact ⟨execQuiesceDone_ends hj hp hq, execQuiesceTmo_late hj hq⟩
  case late =>
    refine ⟨execQuiesceDone_waits hj hq, _, execQuiesceTmo_givesUp hj hp hq hnone, rfl, ?_⟩
    rw [ptResult_part]
    have hpart := State.part_modPart_same s j.part fun x => { x with st := 1 }
    exact ⟨(congrArg Part.st hpart :), (congrArg Part.crests hpart :), (congrArg Part.slices hpart :),
      (congrArg Part.queues hpart :), rfl, rfl, rfl⟩
  case drain =>
    obtain ⟨n, hmem, hkept⟩ := hn
    obtain ⟨hbelow, hrem⟩ := mem_maskList.1 hmem
    have hsome : (s.zeroiseJournal j).transit ≠ 0 := by
      intro h0
      have hbit := testBit_zeroiseJournal s j hbelow
      rw [h0, hrem, hkept, Nat.zero_testBit] at hbit
      exact Bool.false_ne_true hbit
    obtain ⟨hparts, -, hbias, hstore, hslices⟩ := drained_frame s j
    refine ⟨_, _, (execDrainDone_eq hj hp).trans (if_neg hsome), rfl, rfl, rfl, fun n hn => testBit_zeroiseJournal s j hn,
      fun n hn hbit => ?transit, ?slices, fun g hg => ?pages, fun hnone => ?store⟩
    case transit =>
      have hslice : (s.drained j).slice n = ((s.pagesBack j).inTransit (s.toZeroise j)).slice n :=
        congrArg (fun t : Tbl Slice => tget ({} : Slice) t n) hslices
      have hin : (s.toZeroise j).contains n = true := List.contains_iff_mem.2 ((mem_toZeroise hn).2 hbit)
      exact (congrArg Slice.transit hslice).trans (by rw [transit_inTransit, hin, Bool.true_or])
    case slices =>
      have hpart := (part_of_parts hparts j.part).trans (State.part_modPart_same ..)
      exact (congrArg Part.slices hpart :)
    case pages => exact (congrArg (fun b : Bias => tget false b.hostPages g) hbias).trans (hostPages_pagesBack s j hg)
    case store =>
      have hpages : s.removedPages j = [] := by rw [State.removedPages, hnone]; rfl
      exact hstore.trans (by rw [State.pagesBack, hpages]; rfl)
  case zeroise =>
    refine ⟨fun g hg => ?_, ?_, fun hmore => ?_, fun hlast => ?_⟩
    · exact (tget_zeroSlice_store s n g).trans (if_pos hg)
    · exact slice_zeroised s j n
    · exact (execSliceZeroiseDone_eq hj hp hn).trans (if_neg hmore)
    · exact (execSliceZeroiseDone_eq hj hp hn).trans (if_pos hlast)
  case remap =>
    have hlist : s.toZeroise j = [] := by rw [State.toZeroise, hn]; rfl
    have hempty : (s.zeroiseJournal j).transit = 0 := by rw [State.zeroiseJournal, hlist]; rfl
    obtain ⟨-, hmg, -⟩ := drained_frame s j
    have hheld : (s.drained j).mg.pending = [] := (congrArg Mgmt.pending hmg).trans hnone
    exact ⟨_, (execDrainDone_eq hj hp).trans (if_pos hempty), remap_ends (s.zeroiseJournal j) hheld⟩

end Sys2Proof.Machine
end

section
/-!
What no command of the model does to a queue but to stop it: the relation of a state to an earlier one none of whose stopped
queues has come to run, for the end of commands, their records and what goes on after them. For O28.
-/
namespace Sys2Proof.Machine

/-- Is a queue in RUN or HALTED? -/
def Queue.live (k : Queue) : Prop := k.st = .run ∨ k.st = .halted

/-- Every queue of one table that runs, or is halted, does so in another. -/
structure Calmer (a b : Tbl Queue) : Prop where
  live : ∀ q, (tget {} a q).live → (tget {} b q).live

/-- Every queue that runs, or is halted, in `t` was so in `s` (R145). -/
def Quieter (t s : State) : Prop := Calmer t.queues s.queues

section
variable {s t u : State}

theorem Quieter.refl (s : State) : Quieter s s := ⟨fun _ h => h⟩

theorem Quieter.trans (h : Quieter u t) (g : Quieter t s) : Quieter u s := ⟨fun q hq => g.live q (h.live q hq)⟩

theorem Quieter.of_queues (h : t.queues = s.queues) : Quieter t s := ⟨fun q hq => by rwa [h] at hq⟩

theorem quieter_foldl {β : Type} {f : State → β → State} (hf : ∀ s x, Quieter (f s x) s) (l : List β) (s : State) :
    Quieter (l.foldl f s) s :=
  List.foldlRecOn (motive := fun u => Quieter u s) l f (.refl s) fun _ h x _ => (hf _ x).trans h

theorem quieter_ite {c : Prop} [Decidable c] (ht : Quieter t s) (hu : Quieter u s) : Quieter (if c then t else u) s := by
  split
  · exact ht
  · exact hu

theorem quieter_of_unwritten (h : t.unwritten = s.unwritten) : Quieter t s := .of_queues (congrArg State.queues h :)

theorem quieter_of_unturned (h : t.unturned = s.unturned) : Quieter t s := .of_queues (congrArg State.queues h :)

end

theorem quieter_modCmd (s : State) (q t : Nat) (f : Cmd → Cmd) : Quieter (s.modCmd q t f) s := .of_queues rfl

theorem quieter_modCrest (s : State) (p : Nat) (f : Crest → Crest) : Quieter (s.modCrest p f) s := .of_queues rfl

theorem quieter_modPart (s : State) (p : Nat) (f : Part → Part) : Quieter (s.modPart p f) s := .of_queues rfl

theorem quieter_modPort (s : State) (k : Nat) (f : PPort → PPort) : Quieter (s.modPort k f) s := .of_queues rfl

theorem quieter_alert (s : State) (i : Nat) : Quieter (s.alert i) s := .of_queues rfl

theorem quieter_addLog (s : State) (e : LogEntry) : Quieter (s.addLog e) s := .of_queues rfl

theorem quieter_write (s : State) (o : Obs) (m : List (Nat × Byte)) : Quieter (s.write o m) s :=
  quieter_of_unwritten (unwritten_write s o m)

/-! The end of a command. -/

theorem quieter_chargeHold (s : State) (h : Hold) : Quieter (s.chargeHold h) s :=
  quieter_of_unturned (turned_chargeHold 0 s h).rest

theorem quieter_endHolds (s : State) (q t : Nat) (sel : Nat → Bool) : Quieter (s.endHolds q t sel) s :=
  quieter_foldl quieter_chargeHold _ s

theorem quieter_unspecify (s : State) (c : Cmd) (sub : Nat) : Quieter (s.unspecify c sub) s := by
  have hwritten : Quieter (if (decide (c.opcode = 11) && c.keepsRows sub) = true then s
      else s.write (.crest c.q c.t dispWriter) (s.freeOutput c)) s :=
    quieter_ite (.of_queues rfl) (quieter_write ..)
  exact (quieter_ite (.of_queues rfl) (quieter_foldl (fun _ _ => quieter_modCrest ..) _ _)).trans hwritten

theorem quieter_resetEnd (s : State) (p : Nat) : Quieter (s.resetEnd p) s :=
  quieter_ite (.of_queues rfl) (quieter_foldl (fun _ _ => quieter_modCrest ..) _ s)

theorem quieter_resetEnds (s : State) : Quieter s.resetEnds s :=
  quieter_ite (quieter_foldl quieter_resetEnd _ s) (.of_queues rfl)

theorem quieter_unlend (s : State) (p : Nat) : Quieter (s.unlend p) s := by
  rw [State.unlend]
  cases (s.crest p).lentTo with
  | none => exact .of_queues rfl
  | some b =>
    refine quieter_ite (.of_queues rfl) ?_
    cases (s.crest p).held with
    | nil => exact quieter_resetEnds _
    | cons k ks => exact (quieter_resetEnds _).trans (quieter_foldl (fun _ _ => quieter_modCmd ..) _ _)

theorem quieter_dropFrom (s : State) (p q t : Nat) : Quieter (s.dropFrom p q t) s :=
  (quieter_unlend _ p).trans (quieter_ite (s := s) (.of_queues rfl) (.of_queues rfl))

theorem quieter_endCmd (s : State) (q t st sub : Nat) : Quieter (s.endCmd q t st sub) s := by
  have hended : Quieter ((s.endHolds q t fun _ => true).uncharged q t) s :=
    (quieter_modCmd ..).trans (quieter_endHolds ..)
  rw [State.endCmd]
  cases s.cmd? q t with
  | none => exact .of_queues rfl
  | some c =>
    refine quieter_ite (.of_queues rfl) ?_
    refine (quieter_foldl (fun _ _ => (quieter_modCrest ..).trans (quieter_dropFrom ..)) _ _).trans ?_
    exact (quieter_ite (quieter_unspecify ..) (.of_queues rfl) : Quieter _ _).trans hended

/-! The loss of a unit. -/

theorem quieter_liveChange (s : State) : Quieter s.liveChange s := quieter_ite (.of_queues rfl) (.of_queues rfl)

theorem quieter_sendMsix (s : State) (v : Nat) : Quieter (s.sendMsix v) s := quieter_ite (.of_queues rfl) (.of_queues rfl)

theorem quieter_leaveGroup (s : State) : Quieter s.leaveGroup s :=
  (quieter_liveChange _).trans <| (quieter_foldl (fun _ _ => quieter_endCmd ..) _ _).trans <|
    quieter_foldl (fun _ _ => quieter_modPort ..) _ s

theorem quieter_checkMin (s : State) (kind : Nat) : Quieter (s.checkMin kind) s :=
  quieter_ite (quieter_leaveGroup s) (.of_queues rfl)

theorem quieter_notice (s : State) (alerts parts : List Nat) : Quieter (s.notice alerts parts) s := by
  have htold : Quieter (parts.foldl (fun s p => s.modPart p fun x => { x with unitLost := true })
      (alerts.foldl State.alert s.liveChange)) s :=
    (quieter_foldl (fun _ _ => quieter_modPart ..) _ _).trans <|
      (quieter_foldl quieter_alert _ _).trans (quieter_liveChange s)
  exact (quieter_ite (quieter_sendMsix ..) (.of_queues rfl)).trans htold

theorem quieter_unstall (s : State) (w : WaitFor) (waited : Nat) : Quieter (s.unstall w waited) s :=
  quieter_foldl (fun _ _ => quieter_modCmd ..) _ s

theorem quieter_readyOrRun (s : State) : Quieter s.readyOrRun s := .of_queues (readyOrRun_frame s).1

/-- A queue that changes may not come to run. -/
theorem quieter_modQueue (s : State) (q : Nat) {f : Queue → Queue} (hf : (f (s.queue q)).live → (s.queue q).live) :
    Quieter (s.modQueue q f) s := by
  refine ⟨fun r hr => ?_⟩
  change ((s.modQueue q f).queue r).live at hr
  by_cases h : r = q
  · subst h
    rw [State.queue_modQueue_same] at hr
    exact hf hr
  · rwa [State.queue_modQueue_other _ _ _ _ h] at hr

/-- A queue is stopped, or stays as it is where it does not run. -/
theorem quieter_stopQueue (s : State) (q : Nat) : Quieter (s.stopQueue q) s := by
  have hstopped (st : QSt) (hst : ¬(st = .run ∨ st = .halted)) :
      Quieter (s.modQueue q fun k => { k with st := st, hold := none }).readyOrRun s :=
    (quieter_readyOrRun _).trans (quieter_modQueue s q fun h => absurd h hst)
  unfold State.stopQueue
  dsimp only
  split
  · refine hstopped _ ?_
    split <;> decide
  · refine hstopped _ ?_
    split <;> decide
  · exact .refl s

/-- The queues whose rings lie in a slice that retires stop (R274). -/
theorem quieter_retireSlice (s : State) (n cause : Nat) : Quieter (s.retireSlice n cause) s := by
  have hjournal (u : State) : Quieter (match u.journal with
      | some j => if j.transit.testBit n then
          { u with journal := some { j with marked := orBit j.marked n, transit := clrBit j.transit n } } else u
      | none => u) u := by
    split
    · exact quieter_ite (.of_queues rfl) (.of_queues rfl)
    · exact .of_queues rfl
  have howner (u : State) : Quieter (match s.sliceOwner n with
      | some p => if (u.part p).interleave then u else u.modPart p fun x => { x with slices := clrBit x.slices n }
      | none => u) u := by
    split
    · exact quieter_ite (.of_queues rfl) (.of_queues rfl)
    · exact .of_queues rfl
  refine quieter_ite (.of_queues rfl) ?_
  refine (quieter_checkMin ..).trans <| (quieter_foldl quieter_stopQueue _ _).trans <|
    (quieter_notice ..).trans <| (hjournal _).trans <| (howner _).trans ?_
  exact (quieter_foldl (fun _ _ => quieter_endCmd ..) _ _).trans (quieter_unstall ..)

/-! Store errors. -/

theorem quieter_spareRow (s : State) (n row : Nat) : Quieter (s.spareRow n row) s :=
  quieter_ite (quieter_retireSlice ..) (.of_queues rfl)

theorem quieter_storeError (s : State) (e : Ecc) (cmd : Option (Nat × Nat)) :
    Quieter (s.storeError e cmd) s := by
  refine quieter_ite (.of_queues rfl) (quieter_ite (.of_queues rfl) ?_)
  cases e.kind with
  | ce => exact .of_queues rfl
  | hardCe => exact (quieter_spareRow ..).trans (.of_queues rfl)
  | ue =>
    refine quieter_ite (.of_queues rfl) ?_
    extract_lets counted marked perm logged alerted
    have halerted : Quieter alerted s :=
      (quieter_alert ..).trans ((quieter_addLog ..).trans (.of_queues rfl))
    exact quieter_ite ((quieter_retireSlice ..).trans halerted) ((quieter_spareRow ..).trans halerted)

theorem quieter_storeErrors (s : State) (es : List Ecc) (q t : Nat) : Quieter (s.storeErrors es q t) s :=
  quieter_foldl (fun _ _ => quieter_ite (quieter_storeError ..)
    ((quieter_modCmd ..).trans (quieter_storeError ..))) es s

theorem quieter_reachSlice (s : State) (n : Nat) : Quieter (s.reachSlice n) s := by
  have hwoken : Quieter (s.wakeSlice n) s := quieter_of_unwritten (unwritten_wakeSlice s n)
  exact quieter_ite hwoken hwoken

theorem quieter_wakes (s : State) (gs : List Nat) : Quieter (s.wakes gs) s :=
  quieter_foldl quieter_reachSlice _ s

theorem quieter_chargeMclk (s : State) (q t cause n : Nat) : Quieter (s.chargeMclk q t cause n) s :=
  quieter_ite (.of_queues rfl) (.of_queues rfl)

theorem quieter_meets (s : State) (q t : Nat) (gs : List Nat) (es : List Ecc) :
    Quieter (s.meets q t gs es) s :=
  (quieter_storeErrors ..).trans ((quieter_wakes ..).trans (quieter_chargeMclk ..))

theorem quieter_touchBy (st : Mesi) (req : CacheReq) (s : State) (gs : List Nat) :
    Quieter (s.touchBy st req gs) s :=
  (quieter_foldl (fun _ _ => quieter_ite (quieter_of_unwritten (unwritten_fill ..)) (.of_queues rfl)) _ _).trans
    (quieter_wakes s gs)

theorem quieter_reads (s : State) (q t : Nat) (gs : List Nat) : Quieter (s.reads q t gs) s :=
  (quieter_touchBy ..).trans (quieter_meets ..)

/-! The dispatcher's own commands. -/

theorem quieter_stall (s : State) (q t : Nat) (w : WaitFor) : Quieter (s.stall q t w) s :=
  quieter_ite (.of_queues rfl) (.of_queues rfl)

theorem quieter_abufFlush (s : State) (sel : ABuf → Bool) : Quieter (s.abufFlush sel) s :=
  quieter_of_unwritten (unwritten_abufFlush s sel)

theorem quieter_abufRoom (s : State) : Quieter s.abufRoom s := by
  refine quieter_ite (.of_queues rfl) ?_
  split
  · exact quieter_write ..
  · exact .of_queues rfl

theorem quieter_writeAtomic (s : State) (l : Nat) (m : List (Nat × Byte)) :
    Quieter (s.writeAtomic l m) s := by
  unfold State.writeAtomic
  dsimp only
  split
  · exact quieter_of_unwritten (unwritten_writeLine ..)
  · exact quieter_write ..

theorem quieter_signalWord (s : State) (scope g w op x y : Nat) :
    Quieter (s.signalWord scope g w op x y).1 s := by
  unfold State.signalWord
  dsimp only
  split
  · split
    · exact .of_queues rfl
    · exact quieter_abufRoom s
  · exact quieter_ite (quieter_write ..) (quieter_writeAtomic ..)

theorem quieter_runFence (s : State) (c : Cmd) : Quieter (s.runFence c) s := by
  unfold State.runFence
  dsimp only
  split
  · exact quieter_stall ..
  · exact (quieter_endCmd ..).trans (quieter_ite (.of_queues rfl) (quieter_abufFlush ..))

theorem quieter_runSignal (s : State) (c : Cmd) : Quieter (s.runSignal c) s := by
  have hread (hit : Bool) (g w : Nat) (gs : List Nat) : Quieter (if hit then s
      else if c.scope = 2 then (((s.abufFlush (clashes 2 g w)).meets c.q c.t gs []).own gs).bump
      else (s.abufFlush (clashes c.scope g w)).reads c.q c.t gs) s :=
    quieter_ite (.of_queues rfl) <| quieter_ite
      ((quieter_touchBy ..).trans ((quieter_meets ..).trans (quieter_abufFlush ..)))
      ((quieter_reads ..).trans (quieter_abufFlush ..))
  unfold State.runSignal
  dsimp only
  split
  · exact quieter_stall ..
  split
  · exact (quieter_endCmd ..).trans (hread ..)
  split
  · exact (quieter_endCmd ..).trans ((quieter_signalWord ..).trans (hread ..))
  split
  · exact (quieter_endCmd ..).trans ((quieter_signalWord ..).trans (hread ..))
  · exact (quieter_endCmd ..).trans ((quieter_write ..).trans ((quieter_signalWord ..).trans (hread ..)))

theorem quieter_readWait (s : State) (c : Cmd) : Quieter (s.readWait c) s := by
  have hread (hit : Bool) (g w : Nat) (gs : List Nat) :
      Quieter (if hit then s else (s.abufFlush (clashes 0 g w)).reads c.q c.t gs) s :=
    quieter_ite (.of_queues rfl) ((quieter_reads ..).trans (quieter_abufFlush ..))
  unfold State.readWait
  dsimp only
  split
  · exact quieter_stall ..
  · split
    · exact (quieter_endCmd ..).trans (hread ..)
    · exact (quieter_ite (quieter_endCmd ..) (.of_queues rfl)).trans (hread ..)

/-! A command that starts, and what ends with it. -/

theorem quieter_setHold (s : State) (q t p cause : Nat) (on : Bool) : Quieter (s.setHold q t p cause on) s :=
  quieter_of_unturned (unturned_setHold ..)

theorem quieter_requeue (s : State) (p : Nat) : Quieter (s.requeue p) s := quieter_of_unturned (turned_requeue p s).rest

theorem quieter_preempt (s : State) (p : Nat) : Quieter (s.preempt p) s := by
  unfold State.preempt
  split
  · exact .refl s
  split
  · exact .refl s
  split
  · exact .refl s
  · exact quieter_ite ((quieter_of_unturned (turned_turnTo p _ _).rest).trans (.of_queues rfl)) (.refl s)

theorem quieter_turn (s : State) (p : Nat) : Quieter (s.turn p) s :=
  (quieter_preempt ..).trans (quieter_of_unturned (turned_kick p s).rest)

theorem quieter_tryComplete (s : State) (q t : Nat) : Quieter (s.tryComplete q t) s := by
  unfold State.tryComplete
  split
  · exact .refl s
  · exact quieter_ite (quieter_endCmd ..) (.refl s)

theorem quieter_runLoadprog (s : State) (c : Cmd) : Quieter (s.runLoadprog c) s :=
  quieter_ite ((quieter_endCmd ..).trans (quieter_foldl (fun _ _ => quieter_modCrest ..) _ s))
    (quieter_foldl (fun _ _ => quieter_modCrest ..) _ s)

theorem quieter_traceAll (s : State) (c : Cmd) (event : Nat) : Quieter (s.traceAll c event) s :=
  quieter_foldl (fun u l => (.of_queues rfl : Quieter (u.addTrace event l c.q c.part 0 c.t) u)) c.traced s

theorem quieter_start (s : State) (q t : Nat) : Quieter (s.start q t) s := by
  unfold State.start
  split
  · exact .refl s
  next c _ =>
  refine quieter_ite (.refl s) ?_
  extract_lets started traced
  have htraced : Quieter traced s := by
    have hunheld : Quieter (if c.opcode = 10 then started else started.setHold q t 17 wQueue false) started :=
      quieter_ite (.refl _) (quieter_setHold ..)
    exact (quieter_ite ((quieter_traceAll ..).trans hunheld) (.refl _) : Quieter _ started).trans (quieter_modCmd ..)
  split
  · exact (quieter_runFence ..).trans htraced
  · exact (quieter_runSignal ..).trans htraced
  · exact (quieter_readWait ..).trans htraced
  · exact (quieter_runLoadprog ..).trans htraced
  · exact htraced
  · refine (quieter_tryComplete ..).trans ((quieter_foldl (fun u p => ?_) _ _).trans htraced)
    exact quieter_ite ((quieter_requeue ..).trans (quieter_turn ..)) (.refl u)

theorem quieter_markers (s : State) (q : Nat) : Quieter (s.markers q) s := by
  unfold State.markers
  split
  · exact quieter_ite (quieter_endCmd ..) (.refl s)
  · exact .refl s

theorem quieter_startWaiting (s : State) (q : Nat) : Quieter (s.startWaiting q) s :=
  (quieter_markers ..).trans (quieter_foldl (fun _ _ => quieter_start ..) _ s)

theorem quieter_adoptAll (s : State) : Quieter s.adoptAll s := quieter_of_unturned (unturned_adoptAll s)

/-! A record. -/

theorem quieter_of_recorded {q : Nat} {s t : State} (h : Recorded q s t) : Quieter t s := by
  refine ⟨fun r hr => ?_⟩
  by_cases hq : r = q
  · subst hq
    have hst : (t.queue r).st = (s.queue r).st := (congrArg Queue.st h.queue :)
    rwa [Queue.live, ← State.queue, hst] at hr
  · have hst := h.others r hq
    rwa [← State.queue, hst] at hr

theorem quieter_enqueue (s : State) (f : Flit) (crest : Nat) : Quieter (s.enqueue f crest) s := by
  unfold State.enqueue
  split
  · exact .refl s
  · exact .of_queues rfl

theorem quieter_abortStreams (s : State) (c : Cmd) : Quieter (s.abortStreams c) s :=
  quieter_foldl (fun _ _ => (quieter_enqueue ..).trans (quieter_modCmd ..)) _ s

/-! What a command that leaves makes of its queue (R133, R145). -/

section
variable {k : Queue} {t : Nat} {c : Prop} [Decidable c]

theorem live_of_unheld (h : (if c then { k with hold := none } else k).live) : k.live := by
  split at h <;> exact h

/-- A queue that halts was running. -/
theorem live_of_halted (h : (if c ∧ k.st = .run then { k with st := .halted, haltTag := t } else k).live) : k.live := by
  split at h
  next hrun => exact .inl hrun.2
  next => exact h

/-- A queue that has stopped runs no more. -/
theorem live_of_idle (h : (if k.st = .stopping ∧ c then { k with st := .disabled } else k).live) : k.live := by
  split at h
  · exact absurd h (show ¬(QSt.disabled = .run ∨ QSt.disabled = .halted) by decide)
  · exact h

end

theorem quieter_leaveQueue (s : State) (c : Cmd) (st : Nat) : Quieter (s.leaveQueue c st) s :=
  (quieter_readyOrRun _).trans <|
    (quieter_modQueue _ _ fun h => live_of_unheld (live_of_halted (live_of_idle h))).trans (.of_queues rfl)

theorem quieter_record (s : State) (c : Cmd) (st sub waited : Nat) : Quieter (s.record c st sub waited) s := by
  unfold State.record
  extract_lets c' aborted released k placed charged l traced
  have hcharged : Quieter charged placed := by
    refine quieter_ite (.refl _) (quieter_modQueue _ _ id)
  refine (quieter_leaveQueue ..).trans ?_
  refine (.of_queues rfl : Quieter traced charged).trans (hcharged.trans ?_)
  exact (quieter_of_recorded (recorded_putRecord ..)).trans ((.of_queues rfl : Quieter released aborted).trans
    (quieter_abortStreams ..))

theorem quieter_recordNow (s : State) (q t : Nat) : Quieter (s.recordNow q t) s := by
  unfold State.recordNow execCompletionRecord
  split
  · exact .refl s
  split
  · exact .refl s
  split
  · exact .refl s
  · exact (quieter_adoptAll _).trans ((quieter_startWaiting ..).trans
      ((quieter_of_recorded (recorded_putOverflow ..)).trans (quieter_record ..)))

theorem quieter_endAll (s : State) (sel : Cmd → Bool) (st sub : Nat) : Quieter (s.endAll sel st sub) s := by
  refine (quieter_foldl (fun u k => ?_) _ _).trans (quieter_foldl (fun _ _ => quieter_endCmd ..) _ s)
  split
  · exact quieter_ite (quieter_recordNow ..) (.refl u)
  · exact .refl u

/-! A lent crest that returns. -/

theorem quieter_passOn (s : State) (q t p : Nat) : Quieter (s.passOn q t p) s := .of_queues rfl

theorem quieter_leaveLent (s : State) (p : Nat) (k : Nat × Nat) : Quieter (s.leaveLent p k) s :=
  (quieter_modCrest ..).trans ((quieter_passOn ..).trans ((quieter_modCmd ..).trans (quieter_endHolds ..)))

theorem quieter_measured (s : State) (q t p cause waited : Nat) : Quieter (s.measured q t p cause waited) s :=
  (quieter_modCmd ..).trans ((quieter_setHold ..).trans (.of_queues rfl))

theorem quieter_recall (s : State) (p : Nat) (waited : Option Nat) : Quieter (s.recall p waited) s := by
  unfold State.recall
  split
  · exact .refl s
  · refine (quieter_turn ..).trans ((quieter_adoptAll _).trans ((quieter_resetEnds _).trans ?_))
    refine (quieter_foldl (fun u k => ?_) _ _).trans
      ((quieter_modCrest ..).trans (quieter_foldl (fun _ _ => quieter_leaveLent ..) _ s))
    cases waited with
    | some n => exact quieter_measured ..
    | none => exact (quieter_modCmd ..).trans (quieter_requeue ..)

end Sys2Proof.Machine
end

section
/-!
Partitions are created, destroyed and reset (O28).
-/
namespace Sys2Proof.Machine
open Sys2Proof.Claim

/-! Commands for a partition (Table REG-5). -/

/-- The word of MG_CMD that gives command `op` for partition `p`. -/
def ptWord (op p : Nat) : Nat := op + 2 ^ 8 * (p % 8)

section
variable {s : State} {path : Path} {op p : Nat}

theorem ptWord_fields (hop : op < 256) (hp : p < 8) : ptWord op p % 256 = op ∧ bits (ptWord op p) 10 8 = p := by
  unfold ptWord bits
  omega

/-- A heard command is carried out in the step of its write, and acknowledged (R209). -/
theorem written_of_heard (h : Heard s path op) (hop : op < 0x14) (hp : p < 8) {t : State}
    (ht : s.mgStart path (ptWord op p) = t) (hr : t.mg.released = s.mg.released) :
    s.written path (fun s => s.mgCmd path (ptWord op p)) = acked path t := by
  obtain ⟨hop', -⟩ := ptWord_fields (op := op) (p := p) (by omega) hp
  have hcmd : s.mgCmd path (ptWord op p) = t := (mgCmd_of_heard (by rwa [hop']) (by omega)).trans ht
  rw [written_eq_acked (pathReady_of_heard h) (by rw [hcmd, hr]), hcmd]

theorem exec_ptCreate (h : Heard s path 0x10) (hp : p < 8) :
    exec (.ptCreate path p) s = .next (acked path (s.ptCreate path p)) := by
  obtain ⟨hop, hpart⟩ := ptWord_fields (op := 0x10) (by decide) hp
  have hr := ((ptCreate_kept path p (.refl false true s)).guarded rfl).2.2.1
  refine congrArg Host.Outcome.next (written_of_heard h (by decide) hp ?_ hr)
  rw [State.mgStart, hop, hpart]
  rfl

theorem exec_ptDestroy (h : Heard s path 0x12) (hp : p < 8) :
    exec (.ptDestroy path p) s = .next (acked path (s.ptDestroy p)) := by
  obtain ⟨hop, hpart⟩ := ptWord_fields (op := 0x12) (by decide) hp
  have hr := ((ptDestroy_kept p (.refl false true s)).guarded rfl).2.2.1
  refine congrArg Host.Outcome.next (written_of_heard h (by decide) hp ?_ hr)
  rw [State.mgStart, hop, hpart]
  rfl

theorem exec_ptReset (h : Heard s path 0x13) (hp : p < 8) :
    exec (.ptReset path p) s = .next (acked path (s.ptReset p)) := by
  obtain ⟨hop, hpart⟩ := ptWord_fields (op := 0x13) (by decide) hp
  have hr := ((ptReset_kept p (.refl false true s)).guarded rfl).2.2.1
  refine congrArg Host.Outcome.next (written_of_heard h (by decide) hp ?_ hr)
  rw [State.mgStart, hop, hpart]
  rfl

/-- While a command runs, another is held, or dropped (R209). -/
theorem mgCmd_busy (hp : s.pathReady path = true) (ha : s.allows path 0 = true) (hb : s.mg.running ≠ none) {v : Nat}
    (hv : opBar0 (v % 256) = true) : s.mgCmd path v =
      if s.mayHold v then s.modMg fun m => { m with pending := m.pending ++ [(path, bits v 10 8)] }
      else s.modMg fun m => { m with dropped := true } := by
  have hlive := pathLive_of_pathReady hp
  have hbusy : s.coreBusy = true := by rw [State.coreBusy, Option.isSome_iff_ne_none.2 hb, Bool.true_or]
  have ha' : s.allows path polPt = true := ha
  simp [State.mgCmd, hlive, ha', hv, hbusy]

theorem written_held (hp : s.pathReady path = true) (ha : s.allows path 0 = true) (hb : s.mg.running ≠ none) {v : Nat}
    (hv : opBar0 (v % 256) = true) (hhold : s.mayHold v = true) : s.written path (fun s => s.mgCmd path v) =
      acked path { s with mg := { s.mg with pending := s.mg.pending ++ [(path, bits v 10 8)] } } := by
  have hcmd := (mgCmd_busy hp ha hb hv).trans (if_pos hhold)
  rw [written_eq_acked hp (by rw [hcmd]; rfl), hcmd]
  rfl

theorem written_dropped (hp : s.pathReady path = true) (ha : s.allows path 0 = true) (hb : s.mg.running ≠ none) {v : Nat}
    (hv : opBar0 (v % 256) = true) (hdrop : ¬s.mayHold v = true) : s.written path (fun s => s.mgCmd path v) =
      acked path { s with mg := { s.mg with dropped := true } } := by
  have hcmd := (mgCmd_busy hp ha hb hv).trans (if_neg hdrop)
  rw [written_eq_acked hp (by rw [hcmd]; rfl), hcmd]
  rfl

end

/-! PT_CREATE. -/

section
variable (s : State)

/-- One slice that a WARM reset left in transit is zeroised and free. -/
def State.zeroTransit (s : State) (n : Nat) : State :=
  if (s.slice n).transit then (s.zeroSlice n).modSlice n fun x => { x with transit := false } else s

theorem transit_zeroTransit (n k : Nat) :
    ((s.zeroTransit n).slice k).transit = ((s.slice k).transit && decide (k ≠ n)) := by
  unfold State.zeroTransit
  by_cases h : k = n
  · subst h
    split
    · simp [State.slice_modSlice_same]
    next hn => simpa using hn
  · split
    · simp [h, State.slice_modSlice_other]
    · simp [h]

theorem tget_zeroTransit_store (n a : Nat) : tget 0#8 (s.zeroTransit n).store a =
    if (s.slice n).transit = true ∧ a / 2 ^ 24 = n then 0#8 else tget 0#8 s.store a := by
  unfold State.zeroTransit
  by_cases h : (s.slice n).transit = true
  · rw [if_pos h]
    simp only [h, true_and]
    exact tget_zeroSlice_store s n a
  · rw [if_neg h, if_neg fun hn => h hn.1]

theorem freeTransit_eq (h : s.journal = none) : s.freeTransit = (List.range 96).foldl State.zeroTransit s := by
  unfold State.freeTransit
  rw [h]
  rfl

theorem transit_foldl_zeroTransit (ns : List Nat) (s : State) (k : Nat) :
    ((ns.foldl State.zeroTransit s).slice k).transit = ((s.slice k).transit && !ns.contains k) := by
  induction ns generalizing s with
  | nil => simp
  | cons n ns ih =>
    rw [List.foldl_cons, ih, transit_zeroTransit, List.contains_cons]
    by_cases h : k = n
    · simp [h]
    · simp [h, beq_false_of_ne h]

/-- A byte that is zero stays so. -/
theorem foldl_zeroTransit_zero (ns : List Nat) {s : State} {a : Nat} (h : tget 0#8 s.store a = 0#8) :
    tget 0#8 (ns.foldl State.zeroTransit s).store a = 0#8 :=
  List.foldlRecOn (motive := fun u : State => tget 0#8 u.store a = 0#8) ns _ h fun u hu n _ => by
    rw [tget_zeroTransit_store, hu, ite_self]

/-- The bytes of the slices freed are zero (R214). -/
theorem foldl_zeroTransit_zeroes (ns : List Nat) {s : State} {a : Nat} (hmem : a / 2 ^ 24 ∈ ns)
    (ht : (s.slice (a / 2 ^ 24)).transit = true) : tget 0#8 (ns.foldl State.zeroTransit s).store a = 0#8 := by
  induction ns generalizing s with
  | nil => exact absurd hmem List.not_mem_nil
  | cons n ns ih =>
    by_cases h : a / 2 ^ 24 = n
    · exact foldl_zeroTransit_zero ns (by rw [tget_zeroTransit_store, if_pos ⟨h ▸ ht, h⟩])
    · exact ih ((List.mem_cons.1 hmem).resolve_left h) (by rw [transit_zeroTransit, ht]; simpa using h)

theorem freeTransit_proj {γ : Type} (π : State → γ)
    (hz : ∀ (s : State) n f, π ((s.zeroSlice n).modSlice n f) = π s) :
    π s.freeTransit = π s :=
  proj_ite π rfl (proj_foldl π (fun _ _ => proj_ite π (hz _ _ _) rfl) _ s)

end

/-- The state with the partition's new sets, its queues fresh and its counter released (R210, R264). -/
def State.created (s : State) (g : Staging) (p : Nat) : State :=
  (((s.freshQueues g.queues).zeroTrace p).releaseEnergy p).modPart p fun x => { x with
    crests := g.crests, slices := g.slices, queues := g.queues, ctl := andNot g.ctl 4 ||| (x.ctl &&& 4), guar := g.guar
    st := 1, lastQ := 63 }

section
variable {s : State} {path : Path} {p : Nat}

theorem ptCreate_notFree (hsel : (s.staging path).sel = p) (hst : (s.part p).st ≠ 0) :
    s.ptCreate path p = s.ptResult p csState dNotFree := by
  rw [State.ptCreate, if_neg (not_not.2 hsel), if_pos hst]

theorem ptCreate_empty (hsel : (s.staging path).sel = p) (hst : (s.part p).st = 0)
    (hg : (s.staging path).crests = 0 ∨ (s.staging path).slices = 0 ∨ (s.staging path).queues = 0) :
    s.ptCreate path p = s.ptResult p csArg dEmpty := by
  rw [State.ptCreate, if_neg (not_not.2 hsel), if_neg (not_not.2 hst), if_pos hg]

/-- Past the checks of what is asked, those of the units decide (R210). -/
theorem ptCreate_checked (hsel : (s.staging path).sel = p) (hst : (s.part p).st = 0)
    (hg : ¬((s.staging path).crests = 0 ∨ (s.staging path).slices = 0 ∨ (s.staging path).queues = 0)) :
    s.ptCreate path p =
      match s.freeTransit.gainChecks (s.staging path).crests (s.staging path).slices (s.staging path).queues with
      | some r => s.freeTransit.ptResult p r.1 r.2
      | none => (s.freeTransit.created (s.staging path) p).liveChange.ptResult p csOk 0 := by
  rw [State.ptCreate, if_neg (not_not.2 hsel), if_neg (not_not.2 hst), if_neg hg]
  rfl

end

section
variable (s : State)

/-- The queues that a partition gains are as after a reset, and the others as they were. -/
theorem queue_freshQueues (m q : Nat) :
    (s.freshQueues m).queue q = if q < 64 ∧ m.testBit q = true then {} else s.queue q := by
  have hfold (qs : List Nat) (s : State) :
      (qs.foldl (fun s q => s.modQueue q fun _ => {}) s).queue q = if q ∈ qs then {} else s.queue q := by
    induction qs generalizing s with
    | nil => simp
    | cons r qs ih =>
      rw [List.foldl_cons, ih, State.queue_modQueue]
      by_cases h : q = r
      · simp [h]
      · simp [h]
  rw [State.freshQueues, hfold]
  simp only [mem_maskList]

/-- What PT_CREATE reads and leaves beside the slices that it frees. -/
theorem freeTransit_frame : s.freeTransit.parts = s.parts ∧ s.freeTransit.queues = s.queues ∧
    s.freeTransit.releasedE = s.releasedE ∧ s.freeTransit.crests = s.crests ∧ s.freeTransit.cmds = s.cmds :=
  ⟨freeTransit_proj s State.parts fun _ _ _ => rfl, freeTransit_proj s State.queues fun _ _ _ => rfl,
    freeTransit_proj s State.releasedE fun _ _ _ => rfl, freeTransit_proj s State.crests fun _ _ _ => rfl,
    freeTransit_proj s State.cmds fun _ _ _ => rfl⟩

theorem created_part (g : Staging) (p : Nat) : ((s.created g p).part p).st = 1 ∧ ((s.created g p).part p).energy = 0 := by
  rw [State.created, State.part_modPart_same, part_releaseEnergy_same]
  exact ⟨rfl, rfl⟩

theorem freshQueues_frame (m : Nat) : (s.freshQueues m).parts = s.parts ∧ (s.freshQueues m).releasedE = s.releasedE ∧
    (s.freshQueues m).store = s.store ∧ (s.freshQueues m).crests = s.crests ∧ (s.freshQueues m).slices = s.slices ∧
    (s.freshQueues m).cmds = s.cmds :=
  ⟨freshQueues_proj State.parts (fun _ _ _ => rfl) s m, freshQueues_proj State.releasedE (fun _ _ _ => rfl) s m,
    freshQueues_proj State.store (fun _ _ _ => rfl) s m, freshQueues_proj State.crests (fun _ _ _ => rfl) s m,
    freshQueues_proj State.slices (fun _ _ _ => rfl) s m, freshQueues_proj State.cmds (fun _ _ _ => rfl) s m⟩

theorem part_releaseEnergy_other {p r : Nat} (hr : r ≠ p) : (s.releaseEnergy p).part r = s.part r :=
  State.part_modPart_other s p (fun x => { x with energy := 0 }) r hr

/-- PT_CREATE touches nothing of another partition, nor the store, the units and the commands. -/
theorem created_frame (g : Staging) (p : Nat) : (s.created g p).releasedE = (s.releasedE + (s.part p).energy) % 2 ^ 64 ∧
    (∀ r, r ≠ p → (s.created g p).part r = s.part r) ∧ (∀ q, (s.created g p).queue q = (s.freshQueues g.queues).queue q) ∧
    (s.created g p).store = s.store ∧ (s.created g p).crests = s.crests ∧ (s.created g p).slices = s.slices ∧
    (s.created g p).cmds = s.cmds := by
  obtain ⟨hparts, hreleased, hrest⟩ := freshQueues_frame s g.queues
  have hpart := part_of_parts hparts
  unfold State.created
  generalize s.freshQueues g.queues = u at hreleased hrest hpart ⊢
  have kept {γ : Type} (π : State → γ) (hp : ∀ (s : State) k f, π (s.modPart k f) = π s)
      (he : ∀ (s : State) k, π (s.releaseEnergy k) = π s) (hz : ∀ (s : State) k, π (s.zeroTrace k) = π s)
      (f : Part → Part) : π (((u.zeroTrace p).releaseEnergy p).modPart p f) = π u :=
    (hp _ p f).trans ((he _ p).trans (hz u p))
  obtain ⟨hstore, hcrests, hslices, hcmds⟩ := hrest
  refine ⟨?_, fun r hr => ?_, fun q => kept (fun s => s.queue q) (fun _ _ _ => rfl) (fun _ _ => rfl) (fun _ _ => rfl) _,
    (kept State.store (fun _ _ _ => rfl) (fun _ _ => rfl) (fun _ _ => rfl) _).trans hstore,
    (kept State.crests (fun _ _ _ => rfl) (fun _ _ => rfl) (fun _ _ => rfl) _).trans hcrests,
    (kept State.slices (fun _ _ _ => rfl) (fun _ _ => rfl) (fun _ _ => rfl) _).trans hslices,
    (kept State.cmds (fun _ _ _ => rfl) (fun _ _ => rfl) (fun _ _ => rfl) _).trans hcmds⟩
  · rw [← hreleased, ← hpart]
    rfl
  · rw [State.part_modPart_other _ _ _ _ hr, ← hpart r]
    exact part_releaseEnergy_other _ hr

theorem liveChange_rest : s.liveChange.releasedE = s.releasedE ∧ s.liveChange.queues = s.queues ∧
    s.liveChange.store = s.store ∧ s.liveChange.crests = s.crests ∧ s.liveChange.slices = s.slices ∧
    s.liveChange.cmds = s.cmds ∧ s.liveChange.parts = s.parts := by
  unfold State.liveChange
  split <;> exact ⟨rfl, rfl, rfl, rfl, rfl, rfl, rfl⟩

end

/-! PT_RESET. -/

theorem not_live_stopQueue (s : State) (q : Nat) : ¬((s.stopQueue q).queue q).live := by
  have hstopped (st : QSt) (hst : ¬(st = .run ∨ st = .halted)) :
      ¬((s.modQueue q fun k => { k with st := st, hold := none }).readyOrRun.queue q).live := by
    rw [queue_readyOrRun, State.queue_modQueue_same]
    exact hst
  unfold State.stopQueue
  dsimp only
  split
  · refine hstopped _ ?_
    split <;> decide
  · refine hstopped _ ?_
    split <;> decide
  next hrun hhalted => exact fun h => h.elim hrun hhalted

/-- Each queue of a list is stopped, and what follows stops more alone. -/
theorem not_live_stopQueues (qs : List Nat) (s : State) {q : Nat} (hq : q ∈ qs) :
    ¬((qs.foldl State.stopQueue s).queue q).live := by
  induction qs generalizing s with
  | nil => exact absurd hq List.not_mem_nil
  | cons r qs ih =>
    obtain rfl | hq := List.mem_cons.1 hq
    · exact fun h => not_live_stopQueue s q ((quieter_foldl quieter_stopQueue qs (s.stopQueue q)).live q h)
    · exact ih (s.stopQueue r) hq

/-- A crest as a PT_RESET leaves it: zeroised, but for the work of a borrower (R319). -/
def Crest.reset (c : Crest) : Crest := if c.lentTo.isSome then { c with prog := [], handles := [] } else c.scrub

/-- The crests of a set as a PT_RESET leaves them. -/
def State.resetCrests (s : State) (cs : Nat) : State :=
  (maskList cs 16).foldl (fun s l => s.modCrest (s.physOf l) Crest.reset) s

/-- A PT_RESET once the partition's queues have stopped and its commands ended: its state is RESETTING. -/
def State.resetBegun (s : State) (cs p : Nat) : State :=
  ((s.resetCrests cs).modPart p fun x => { x with st := 3 }).mgRuns 0x13

/-- Every crest of the partition that may return does. -/
def State.recallAll (s : State) (cs : Nat) : State :=
  (maskList cs 16).foldl (fun s l => if s.mayReturn (s.physOf l) then s.recall (s.physOf l) none else s) s

/-- The partition's queues stop. -/
def State.stopAll (s : State) (p : Nat) : State := (maskList (s.part p).queues 64).foldl State.stopQueue s

theorem ptReset_active {s : State} {p : Nat} (h : (s.part p).st = 1) : s.ptReset p =
    ((((s.stopAll p).endAll (fun c => c.part = p) sReset 0x72).resetBegun (s.part p).crests p).recallAll
      (s.part p).crests).resetEnds.adoptAll := by
  rw [State.ptReset, if_neg (not_not.2 h)]
  rfl

theorem quieter_resetBegun (s : State) (cs p : Nat) : Quieter (s.resetBegun cs p) s :=
  (.of_queues rfl : Quieter (s.resetBegun cs p) (s.resetCrests cs)).trans
    (quieter_foldl (fun s l => quieter_modCrest s (s.physOf l) Crest.reset) (maskList cs 16) s)

theorem quieter_recallAll (s : State) (cs : Nat) : Quieter (s.recallAll cs) s :=
  quieter_foldl (fun u _ => quieter_ite (quieter_recall ..) (.refl u)) _ s

theorem quieter_ptReset {s : State} {p : Nat} (h : (s.part p).st = 1) : Quieter (s.ptReset p) (s.stopAll p) := by
  rw [ptReset_active h]
  exact (quieter_adoptAll _).trans ((quieter_resetEnds _).trans ((quieter_recallAll ..).trans ((quieter_resetBegun ..).trans
    (quieter_endAll ..))))

/-! A PT_RESET that ends at once. -/

/-- A fold whose every step leaves the state as it is. -/
theorem foldl_eq_self {α β : Type} {f : α → β → α} {a : α} {l : List β} (h : ∀ x ∈ l, f a x = a) :
    l.foldl f a = a := by
  induction l with
  | nil => rfl
  | cons x xs ih =>
    rw [List.foldl_cons, h x List.mem_cons_self]
    exact ih fun y hy => h y (List.mem_cons_of_mem x hy)

/-- The state but for what the stop of queues writes. -/
def State.unstopped (s : State) : State := { s with queues := [], mg := { s.mg with device := 0 } }

theorem unstopped_readyOrRun (s : State) : s.readyOrRun.unstopped = s.unstopped := proj_ite State.unstopped rfl rfl

theorem unstopped_stopQueue (s : State) (q : Nat) : (s.stopQueue q).unstopped = s.unstopped := by
  unfold State.stopQueue
  split
  · exact unstopped_readyOrRun _
  · exact unstopped_readyOrRun _
  · rfl

theorem unstopped_stopAll (s : State) (p : Nat) : (s.stopAll p).unstopped = s.unstopped :=
  proj_foldl State.unstopped unstopped_stopQueue _ s

/-- Where no command is picked, none ends. -/
theorem endAll_of_none {s : State} {sel : Cmd → Bool} (h : ∀ c ∈ s.cmds, sel c = false) (st sub : Nat) :
    s.endAll sel st sub = s := by
  have hpicked : s.cmds.filter (fun c => sel c && c.fin.isNone) = [] :=
    List.filter_eq_nil_iff.2 fun c hc => by rw [h c hc, Bool.false_and]; exact Bool.false_ne_true
  rw [State.endAll, hpicked]
  refine foldl_eq_self fun k _ => ?_
  split
  next c hc => rw [if_neg (by rw [h c (List.mem_of_find?_eq_some hc)]; exact Bool.false_ne_true)]
  next => rfl

/-- To whom the crests are lent. -/
def State.lent (s : State) (k : Nat) : Option Nat := (s.crest k).lentTo

theorem lent_modCrest (s : State) (p : Nat) {f : Crest → Crest} (hf : ∀ x, (f x).lentTo = x.lentTo) :
    (s.modCrest p f).lent = s.lent := by
  funext k
  rw [State.lent, State.crest_modCrest]
  split
  next h => rw [hf, h]; rfl
  next => rfl

theorem lent_resetCrests (s : State) (cs : Nat) : (s.resetCrests cs).lent = s.lent := by
  refine proj_foldl State.lent (fun u l => lent_modCrest u _ fun x => ?_) _ s
  unfold Crest.reset
  split <;> rfl

/-- What the reset of a crest leaves alone. -/
theorem resetCrests_frame (s : State) (cs : Nat) :
    (s.resetCrests cs).parts = s.parts ∧ (s.resetCrests cs).rep = s.rep ∧ (s.resetCrests cs).store = s.store := by
  have reset {γ : Type} (π : State → γ) (hπ : ∀ (s : State) k f, π (s.modCrest k f) = π s) :
      π (s.resetCrests cs) = π s :=
    proj_foldl π (fun s l => hπ s (s.physOf l) Crest.reset) (maskList cs 16) s
  exact ⟨reset State.parts fun _ _ _ => rfl, reset State.rep fun _ _ _ => rfl, reset State.store fun _ _ _ => rfl⟩

/-- A crest that is not lent is not recalled (R137). -/
theorem mayReturn_of_not_lent {s : State} {p : Nat} (h : s.lent p = none) : s.mayReturn p = false := by
  unfold State.lent at h
  simp [State.mayReturn, State.recallDue, h]

/-- No crest of partition `p` is lent. -/
def State.unlent (s : State) (p : Nat) : Prop := ∀ l ∈ maskList (s.part p).crests 16, s.lent (s.physOf l) = none

theorem unlent_congr {s t : State} {p : Nat} (hl : t.lent = s.lent) (hr : t.rep = s.rep)
    (hc : (t.part p).crests = (s.part p).crests) (h : s.unlent p) : t.unlent p := by
  intro l hmem
  rw [hl, State.physOf, hr]
  exact h l (hc ▸ hmem)

/-- A PT_RESET of partition `p` is under way, and none of its crests is lent. -/
structure ResetDue (s : State) (p : Nat) : Prop where
  st : (s.part p).st = 3
  free : s.unlent p

/-- The PT_RESET of partition `p` has ended OK (R319). -/
structure ResetDone (s : State) (p : Nat) : Prop where
  st : (s.part p).st = 1
  lastResult : (s.part p).lastResult = 0
  lastDetail : (s.part p).lastDetail = 0
  cmdStatus : s.mg.cmdStatus = 0
  running : s.mg.running = none

section
variable {s : State} {p r : Nat}

theorem ResetDone.adopted {t : State} (h : ResetDone s p) (hp : t.parts = s.parts) (hm : t.mg = s.mg) : ResetDone t p := by
  have hpart := part_of_parts hp p
  exact ⟨hpart ▸ h.st, hpart ▸ h.lastResult, hpart ▸ h.lastDetail, hm ▸ h.cmdStatus, hm ▸ h.running⟩

/-- The crests of partition `r` zeroised, and its PT_RESET ended. -/
def State.resetEnded (s : State) (r : Nat) : State :=
  ((((maskList (s.part r).crests 16).map s.physOf).foldl (fun s c => s.modCrest c Crest.zeroise) s).mgResult csOk 0).modPart r
    fun x => { x with st := 1, lastResult := csOk, lastDetail := 0 }

theorem resetEnd_eq (s : State) (r : Nat) : s.resetEnd r = s ∨ (s.part r).st = 3 ∧ s.resetEnd r = s.resetEnded r := by
  by_cases h : (s.part r).st = 3
  · by_cases hlent : ((maskList (s.part r).crests 16).map s.physOf).any (fun c => (s.crest c).lentTo.isSome) = true
    · exact .inl (by simp [State.resetEnd, hlent])
    · refine .inr ⟨h, ?_⟩
      rw [State.resetEnd, Bool.eq_false_iff.2 hlent]
      simp [h]
      rfl
  · exact .inl (by simp [State.resetEnd, h])

theorem resetEnded_frame (s : State) (r : Nat) : (s.resetEnded r).rep = s.rep ∧ (s.resetEnded r).lent = s.lent ∧
    (∀ k, (s.resetEnded r).part k = if k = r then { s.part r with st := 1, lastResult := 0, lastDetail := 0 } else s.part k) ∧
    (s.resetEnded r).mg.cmdStatus = 0 ∧ (s.resetEnded r).mg.running = none := by
  have zeroised {γ : Type} (π : State → γ) (hπ : ∀ (s : State) k, π (s.modCrest k Crest.zeroise) = π s) :=
    proj_foldl π hπ ((maskList (s.part r).crests 16).map s.physOf) s
  have hrep := zeroised State.rep fun _ _ => rfl
  have hlent := zeroised State.lent fun u k => lent_modCrest u k fun _ => rfl
  have hpart := part_of_parts (zeroised State.parts fun _ _ => rfl)
  unfold State.resetEnded
  generalize ((maskList (s.part r).crests 16).map s.physOf).foldl (fun s c => s.modCrest c Crest.zeroise) s = u at *
  refine ⟨hrep, hlent, fun k => ?_, rfl, rfl⟩
  rw [State.part_modPart, ← hpart k, ← hpart r]
  rfl

theorem resetEnd_due (h : ResetDue s p) : ResetDone (s.resetEnd p) p := by
  obtain ⟨hst, hfree⟩ := h
  have hnone : ((maskList (s.part p).crests 16).map s.physOf).any (fun c => (s.crest c).lentTo.isSome) = false := by
    refine List.any_eq_false.2 fun c hc => ?_
    obtain ⟨l, hl, rfl⟩ := List.mem_map.1 hc
    have hl : (s.crest (s.physOf l)).lentTo = none := hfree l hl
    rw [hl]
    exact Bool.false_ne_true
  have hended : s.resetEnd p = s.resetEnded p := by
    rw [State.resetEnd, hnone]
    simp [hst]
    rfl
  obtain ⟨-, -, hpart, hstatus, hrunning⟩ := resetEnded_frame s p
  have hp := (hpart p).trans (if_pos rfl)
  rw [hended]
  exact ⟨congrArg Part.st hp, congrArg Part.lastResult hp, congrArg Part.lastDetail hp, hstatus, hrunning⟩

theorem resetEnd_due_other (hr : r ≠ p) (h : ResetDue s p) : ResetDue (s.resetEnd r) p := by
  obtain hsame | ⟨-, hended⟩ := resetEnd_eq s r
  · rwa [hsame]
  · obtain ⟨hrep, hlent, hpart, -⟩ := resetEnded_frame s r
    have hp : (s.resetEnded r).part p = s.part p := (hpart p).trans (if_neg (Ne.symm hr))
    obtain ⟨hst, hfree⟩ := h
    rw [hended]
    exact ⟨by rw [hp, hst], unlent_congr hlent hrep (congrArg Part.crests hp) hfree⟩

theorem resetEnd_done (h : ResetDone s p) : ResetDone (s.resetEnd r) p := by
  obtain hsame | ⟨hst, hended⟩ := resetEnd_eq s r
  · rwa [hsame]
  · obtain ⟨-, -, hpart, hstatus, hrunning⟩ := resetEnded_frame s r
    have hne : p ≠ r := fun hp => by rw [← hp, h.st] at hst; exact absurd hst (by decide)
    have hp : (s.resetEnded r).part p = s.part p := (hpart p).trans (if_neg hne)
    rw [hended]
    exact ⟨hp ▸ h.st, hp ▸ h.lastResult, hp ▸ h.lastDetail, hstatus, hrunning⟩

theorem resetEnds_done (h : ResetDue s p) (hp : p < 8) (hrun : s.mg.running = some 0x13) : ResetDone s.resetEnds p := by
  have hfold (rs : List Nat) {u : State} (hu : ResetDone u p ∨ (ResetDue u p ∧ p ∈ rs)) :
      ResetDone (rs.foldl State.resetEnd u) p := by
    induction rs generalizing u with
    | nil => exact hu.resolve_right fun h => List.not_mem_nil h.2
    | cons r rs ih =>
      refine ih ?_
      obtain hdone | ⟨hdue, hmem⟩ := hu
      · exact .inl (resetEnd_done hdone)
      · by_cases hr : r = p
        · subst hr
          exact .inl (resetEnd_due hdue)
        · exact .inr ⟨resetEnd_due_other hr hdue, (List.mem_cons.1 hmem).resolve_left (Ne.symm hr)⟩
  rw [State.resetEnds, if_pos hrun]
  exact hfold _ (.inr ⟨h, List.mem_range.2 hp⟩)

end

theorem resetBegun_frame (s : State) (p : Nat) :
    let t := s.resetBegun (s.part p).crests p
    t.lent = s.lent ∧ t.rep = s.rep ∧ (t.part p).st = 3 ∧ (t.part p).crests = (s.part p).crests ∧
      t.mg.running = some 0x13 ∧ t.store = s.store := by
  obtain ⟨hparts, hrep, hstore⟩ := resetCrests_frame s (s.part p).crests
  have hpart := State.part_modPart_same (s.resetCrests (s.part p).crests) p fun x => { x with st := 3 }
  have hcrests := congrArg Part.crests (part_of_parts hparts p)
  exact ⟨lent_resetCrests .., hrep, congrArg Part.st hpart, (congrArg Part.crests hpart).trans hcrests, rfl, hstore⟩

theorem recallAll_of_unlent {s : State} {p : Nat} (h : s.unlent p) : s.recallAll (s.part p).crests = s :=
  foldl_eq_self fun l hl => by rw [mayReturn_of_not_lent (h l hl)]; rfl

/-- With none of its commands in flight and none of its crests lent, a PT_RESET ends in its own step (R319). -/
theorem ptReset_atOnce {s : State} {p : Nat} (hp : p < 8) (hst : (s.part p).st = 1) (hcmds : ∀ c ∈ s.cmds, c.part ≠ p)
    (hfree : s.unlent p) : ResetDone (s.ptReset p) p ∧ (s.ptReset p).store = s.store := by
  have hstopped := unstopped_stopAll s p
  have hcmds' : ∀ c ∈ (s.stopAll p).cmds, decide (c.part = p) = false := by
    have heq : (s.stopAll p).cmds = s.cmds := (congrArg State.cmds hstopped :)
    exact fun c hc => decide_eq_false (hcmds c (heq ▸ hc))
  rw [ptReset_active hst, endAll_of_none hcmds']
  have hpart : (s.stopAll p).part p = s.part p := part_of_parts (congrArg State.parts hstopped :) p
  have hfree' : (s.stopAll p).unlent p :=
    unlent_congr (congrArg State.lent hstopped :) (congrArg State.rep hstopped :) (congrArg Part.crests hpart) hfree
  obtain ⟨hlent, hrep, hst', hcrests, hrun, hstore⟩ := resetBegun_frame (s.stopAll p) p
  rw [← hpart]
  generalize (s.stopAll p).resetBegun ((s.stopAll p).part p).crests p = u at hlent hrep hst' hcrests hrun hstore ⊢
  have hunlent : u.unlent p := unlent_congr hlent hrep hcrests hfree'
  rw [← hcrests, recallAll_of_unlent hunlent]
  obtain ⟨hparts, hmg, -, -, hstore'⟩ := adoptAll_frame u.resetEnds
  have hdone := resetEnds_done ⟨hst', hunlent⟩ hp hrun
  have hends : u.resetEnds.store = u.store := store_of_memories (memories_resetEnds u)
  have hstop : (s.stopAll p).store = s.store := (congrArg State.store hstopped :)
  exact ⟨hdone.adopted hparts hmg, hstore'.trans (hends.trans (hstore.trans hstop))⟩

/-! PT_DESTROY. -/

theorem ptDestroy_active {s : State} {p : Nat} (hst : (s.part p).st = 1)
    (hq : ∀ q ∈ maskList (s.part p).queues 64, (s.queue q).st = .disabled) :
    s.ptDestroy p = s.reshapeStart 0x12 p 0 0 0 0 3 := by
  have hnone : (maskList (s.part p).queues 64).any (fun q => decide ((s.queue q).st ≠ .disabled)) = false :=
    List.any_eq_false.2 fun q hmem => by simp [hq q hmem]
  rw [State.ptDestroy, if_neg (not_not.2 hst), hnone]
  rfl

theorem reshapeStart_part_same (s : State) (op p newC newSl newQ ctl guar : Nat) :
    (s.reshapeStart op p newC newSl newQ ctl guar).part p = { s.part p with st := if op = 0x12 then 4 else 2 } :=
  State.part_modPart_same s p fun x => { x with st := if op = 0x12 then 4 else 2 }

theorem reshapeStart_part_other (s : State) {p r : Nat} (hr : r ≠ p) (op newC newSl newQ ctl guar : Nat) :
    (s.reshapeStart op p newC newSl newQ ctl guar).part r = s.part r :=
  State.part_modPart_other s p (fun x => { x with st := if op = 0x12 then 4 else 2 }) r hr

theorem ptDestroy_queues {s : State} {p : Nat} (hst : (s.part p).st = 1)
    (hq : ∃ q ∈ maskList (s.part p).queues 64, (s.queue q).st ≠ .disabled) :
    s.ptDestroy p = s.ptResult p csState dQueues := by
  obtain ⟨q, hmem, hlive⟩ := hq
  have hsome : (maskList (s.part p).queues 64).any (fun q => decide ((s.queue q).st ≠ .disabled)) = true :=
    List.any_eq_true.2 ⟨q, hmem, decide_eq_true hlive⟩
  rw [State.ptDestroy, if_neg (not_not.2 hst), if_pos hsome]

theorem ptReset_inactive {s : State} {p : Nat} (hst : (s.part p).st ≠ 1) :
    s.ptReset p = s.ptResult p csState dNotActive := by
  rw [State.ptReset, if_pos hst]

/-! The acknowledgement. -/

theorem acked_rest (path : Path) (s : State) : (acked path s).parts = s.parts ∧ (acked path s).queues = s.queues ∧
    (acked path s).releasedE = s.releasedE ∧ (acked path s).slices = s.slices ∧ (acked path s).cmds = s.cmds ∧
    (acked path s).journal = s.journal := by
  cases path <;> exact ⟨rfl, rfl, rfl, rfl, rfl, rfl⟩

theorem part_acked (path : Path) (s : State) (p : Nat) : (acked path s).part p = s.part p :=
  part_of_parts (acked_rest path s).1 p

theorem queue_acked (path : Path) (s : State) (q : Nat) : (acked path s).queue q = s.queue q :=
  congrArg (fun ks : Tbl Queue => tget ({} : Queue) ks q) (acked_rest path s).2.1

theorem ptResult_part_other (s : State) {p r : Nat} (hr : r ≠ p) (st det : Nat) : (s.ptResult p st det).part r = s.part r :=
  State.part_modPart_other _ _ _ _ hr

/-- What a partition is and the rest of the die holds once it is created (R210, R264). -/
structure Created (s u t : State) (p m : Nat) : Prop where
  st : (t.part p).st = 1
  lastResult : (t.part p).lastResult = 0
  lastDetail : (t.part p).lastDetail = 0
  energy : (t.part p).energy = 0
  releasedE : t.releasedE = (s.releasedE + (s.part p).energy) % 2 ^ 64
  cmdStatus : t.mg.cmdStatus = 0
  running : t.mg.running = none
  others : ∀ r, r ≠ p → t.part r = s.part r
  queues : ∀ q, t.queue q = if q < 64 ∧ m.testBit q = true then {} else s.queue q
  store : t.store = u.store
  crests : t.crests = s.crests
  slices : t.slices = u.slices
  cmds : t.cmds = s.cmds

theorem created_ptResult (s : State) (g : Staging) (p : Nat) :
    Created s s.freeTransit ((s.freeTransit.created g p).liveChange.ptResult p csOk 0) p g.queues := by
  obtain ⟨hparts, hqueues, hreleased, hcrests, hcmds⟩ := freeTransit_frame s
  obtain ⟨hst, henergy⟩ := created_part s.freeTransit g p
  obtain ⟨hreleased', hothers', hqueues', hstore', hcrests', hslices', hcmds'⟩ := created_frame s.freeTransit g p
  obtain ⟨hreleased'', hqueues'', hstore'', hcrests'', hslices'', hcmds'', hparts''⟩ :=
    liveChange_rest (s.freeTransit.created g p)
  have hqueue (q : Nat) := queue_freshQueues s.freeTransit g.queues q
  generalize (s.freeTransit.created g p).liveChange = t at *
  generalize s.freeTransit.created g p = c at *
  generalize s.freeTransit = u at *
  have hpart : (t.ptResult p csOk 0).part p = { c.part p with lastResult := csOk, lastDetail := 0 } := by
    rw [ptResult_part, part_of_parts hparts'']
  refine ⟨by rw [hpart, hst], by rw [hpart]; rfl, by rw [hpart], by rw [hpart, henergy], ?released, rfl, rfl,
    fun r hr => ?others, fun q => ?queues, hstore''.trans hstore', hcrests''.trans (hcrests'.trans hcrests),
    hslices''.trans hslices', hcmds''.trans (hcmds'.trans hcmds)⟩
  case released => exact hreleased''.trans (hreleased'.trans (by rw [hreleased, part_of_parts hparts]))
  case others =>
    exact (ptResult_part_other t hr csOk 0).trans ((part_of_parts hparts'' r).trans
      ((hothers' r hr).trans (part_of_parts hparts r)))
  case queues =>
    have hfree : u.queue q = s.queue q := congrArg (fun ks : Tbl Queue => tget ({} : Queue) ks q) hqueues
    have hchange : t.queue q = c.queue q := congrArg (fun ks : Tbl Queue => tget ({} : Queue) ks q) hqueues''
    exact hchange.trans ((hqueues' q).trans (by rw [hqueue q, hfree]))

theorem Created.acked {s u t : State} {p m : Nat} (h : Created s u t p m) (path : Path) : Created s u (acked path t) p m := by
  obtain ⟨-, hqueues, hreleased, hslices, hcmds, -⟩ := acked_rest path t
  obtain ⟨hmg, hcrests, hstore⟩ := acked_frame path t
  have hpart := part_acked path t
  have hqueue := queue_acked path t
  exact ⟨hpart p ▸ h.st, hpart p ▸ h.lastResult, hpart p ▸ h.lastDetail, hpart p ▸ h.energy, hreleased.trans h.releasedE,
    hmg ▸ h.cmdStatus, hmg ▸ h.running, fun r hr => (hpart r).trans (h.others r hr), fun q => (hqueue q).trans (h.queues q),
    hstore.trans h.store, hcrests.trans h.crests, hslices.trans h.slices, hcmds.trans h.cmds⟩

/-- Settles O28: each command of a partition by what it checks and what it leaves, a PT_RESET by the queues that it stops and
nothing after it starts. -/
theorem partitionsAreCreatedDestroyedAndReset : Obligations.PartitionsAreCreatedDestroyedAndReset := by
  refine ⟨fun s path p hp hheard hsel => ⟨fun hst => ?notFree, fun hst hg => ?empty,
    fun hst hc hs hq => ⟨fun r hr => ?refused, fun hnone => ?created⟩, fun hj n hn => ?freed⟩,
    fun s path p hp => ⟨fun hheard hst hq => ?destroyed, fun hheard hst hq => ?queues, fun hheard hst => ?reset,
      fun hheard hst => ?inactive, fun hready hallow hrun => ?busy⟩⟩
  case notFree => exact (exec_ptCreate hheard hp).trans (by rw [ptCreate_notFree hsel hst]; rfl)
  case empty => exact (exec_ptCreate hheard hp).trans (by rw [ptCreate_empty hsel hst hg]; rfl)
  case refused =>
    have hchecked := ptCreate_checked hsel hst (by simp [hc, hs, hq])
    rw [hr] at hchecked
    exact (exec_ptCreate hheard hp).trans (by rw [hchecked]; rfl)
  case created =>
    have hchecked := ptCreate_checked hsel hst (by simp [hc, hs, hq])
    rw [hnone] at hchecked
    obtain ⟨hst', hresult, hdetail, henergy, hreleased, hstatus, hrun, hothers, hqueues, hstore, hcrests, hslices, hcmds⟩ :=
      (created_ptResult s (s.staging path) p).acked path
    exact ⟨_, (exec_ptCreate hheard hp).trans (by rw [hchecked]), hst', hresult, hdetail, henergy, hreleased, hstatus, hrun,
      hothers, hqueues, hstore, hcrests, hslices, hcmds⟩
  case freed =>
    rw [freeTransit_eq s hj]
    have hmem : n ∈ List.range 96 := List.mem_range.2 hn
    refine ⟨?_, fun ht a ha => ?_⟩
    · rw [transit_foldl_zeroTransit, List.contains_iff_mem.2 hmem, Bool.not_true, Bool.and_false]
    · subst ha
      exact foldl_zeroTransit_zeroes _ hmem ht
  case destroyed =>
    obtain ⟨-, hqueues, -, -, -, hjournal⟩ := acked_rest path (s.ptDestroy p)
    obtain ⟨hmg, -, hstore⟩ := acked_frame path (s.ptDestroy p)
    have hpart := part_acked path (s.ptDestroy p)
    rw [ptDestroy_active hst hq] at hqueues hjournal hmg hstore hpart
    have hstart := ptDestroy_active hst hq
    refine ⟨_, _, (exec_ptDestroy hheard hp).trans (by rw [hstart]), hjournal, rfl, rfl, rfl, rfl, rfl, rfl, ?_, ?_, ?_,
      fun r hr => ?_, hstore, hqueues⟩
    · exact (congrArg Part.st (hpart p)).trans (congrArg Part.st (reshapeStart_part_same ..))
    · rw [hmg]; rfl
    · rw [hmg]; rfl
    · exact (hpart r).trans (reshapeStart_part_other s hr ..)
  case queues => exact (exec_ptDestroy hheard hp).trans (by rw [ptDestroy_queues hst hq]; rfl)
  case reset =>
    obtain ⟨hmg, -, hstore⟩ := acked_frame path (s.ptReset p)
    have hpart := part_acked path (s.ptReset p) p
    refine ⟨_, exec_ptReset hheard hp, fun q hq => not_or.1 fun hlive => ?_, fun hcmds hfree => ?_⟩
    · rw [queue_acked] at hlive
      exact not_live_stopQueues _ s hq ((quieter_ptReset hst).live q hlive)
    · obtain ⟨hdone, hkept⟩ := ptReset_atOnce hp hst hcmds hfree
      rw [hpart, hmg, hstore]
      exact ⟨hdone.st, hdone.lastResult, hdone.lastDetail, hdone.cmdStatus, hdone.running, hkept⟩
  case inactive => exact (exec_ptReset hheard hp).trans (by rw [ptReset_inactive hst]; rfl)
  case busy =>
    obtain ⟨hreset, hpart⟩ := ptWord_fields (op := 0x13) (by decide) hp
    obtain ⟨hdestroy, -⟩ := ptWord_fields (op := 0x12) (by decide) hp
    refine ⟨fun j hj hjp => ?held, fun hno => ?dropped, ?destroy⟩
    case held =>
      have hhold : s.mayHold (ptWord 0x13 p) = true := by simp [State.mayHold, hj, hreset, hpart, hjp]
      have hheld := written_held hready hallow hrun (v := ptWord 0x13 p) (by rw [hreset]; rfl) hhold
      exact congrArg Host.Outcome.next (hheld.trans (by rw [hpart]))
    case dropped =>
      have hdrop : ¬s.mayHold (ptWord 0x13 p) = true := by
        unfold State.mayHold
        cases hj : s.journal with
        | none => exact Bool.false_ne_true
        | some j => simp [hpart, Ne.symm (hno j hj)]
      exact congrArg Host.Outcome.next (written_dropped hready hallow hrun (v := ptWord 0x13 p) (by rw [hreset]; rfl) hdrop)
    case destroy =>
      have hdrop : ¬s.mayHold (ptWord 0x12 p) = true := by
        unfold State.mayHold
        cases s.journal with
        | none => exact Bool.false_ne_true
        | some j => simp [hdestroy]
      exact congrArg Host.Outcome.next (written_dropped hready hallow hrun (v := ptWord 0x12 p) (by rw [hdestroy]; rfl) hdrop)

end Sys2Proof.Machine
end

section
/-!
Levels of crests (R247, R252): what a level switch and the limits of hardware and sequencer do to a crest, and what they leave
alone; VIN's alarms and the sequencer's absence (O41).
-/
namespace Sys2Proof.Machine

/-- The state but for what follows the levels: the crests, their regulators, the commands that a switch charges, and what power
control reports of the period. -/
def State.unlevelled (s : State) : State :=
  { s with crests := [], regs := [], cmds := [], pwr := { s.pwr with
    uniform := 0, fixedBroken := false, lag := false, sust := false, pk1 := false, pk2 := false } }

/-! A level switch (R247). -/

/-- Waits charged to a list of commands change the commands alone. -/
theorem charged_eq (ks : List (Nat × Nat)) (cause n : Nat) (s : State) : ∃ cs : List Cmd,
    ks.foldl (fun s k => s.modCmd k.1 k.2 fun c => c.charge cause n) s = { s with cmds := cs } := by
  refine List.foldlRecOn (motive := fun u => ∃ cs : List Cmd, u = { s with cmds := cs }) _ _ ⟨_, rfl⟩ ?_
  rintro _ ⟨cs, rfl⟩ k -
  exact ⟨_, rfl⟩

/-- A crest at level `l`, with no switch to come. -/
def Crest.atLevel (l : Nat) (x : Crest) : Crest := { x with level := l, pendLevel := none }

/-- A regulator at the voltage of level `l`. -/
def Reg.atLevel (l : Nat) (r : Reg) : Reg := { r with setpoint := levelMv l }

section
variable {s : State} {p : Nat}

theorem toLevel_of_off (h : (s.crest p).pw = .off) (l : Nat) :
    s.toLevel p l = s.modCrest p fun x => { x with pendLevel := none } := if_pos h

/-- A crest that is not OFF comes to the level, and so does its regulator, if that is ON; commands that it holds are charged. -/
theorem toLevel_of_on (h : (s.crest p).pw ≠ .off) (l : Nat) : ∃ cs : List Cmd,
    let t : State := { s.modCrest p (Crest.atLevel l) with cmds := cs }
    s.toLevel p l = if (s.reg p).st = 2 then t.modReg p (Reg.atLevel l) else t := by
  obtain ⟨cs, hcs⟩ : ∃ cs : List Cmd, (if (s.crest p).level = l then s.modCrest p (Crest.atLevel l)
      else (s.crest p).held.foldl (fun s k => s.modCmd k.1 k.2 fun c => c.charge wPower 8)
        (s.modCrest p (Crest.atLevel l))) = { s.modCrest p (Crest.atLevel l) with cmds := cs } := by
    split
    · exact ⟨s.cmds, rfl⟩
    · exact charged_eq ..
  exact ⟨cs, (if_neg h).trans
    (congrArg (fun u : State => if (u.reg p).st = 2 then u.modReg p (Reg.atLevel l) else u) hcs)⟩

theorem unlevelled_toLevel (s : State) (p l : Nat) : (s.toLevel p l).unlevelled = s.unlevelled := by
  by_cases hpw : (s.crest p).pw = .off
  · rw [toLevel_of_off hpw]
    rfl
  · obtain ⟨cs, h⟩ := toLevel_of_on hpw l
    rw [h]
    exact proj_ite _ rfl rfl

theorem crest_toLevel_same (h : (s.crest p).pw ≠ .off) (l : Nat) : (s.toLevel p l).crest p = (s.crest p).atLevel l := by
  obtain ⟨cs, hto⟩ := toLevel_of_on h l
  rw [hto, ← State.crest_modCrest_same s p (Crest.atLevel l)]
  exact proj_ite (fun u => State.crest u p) rfl rfl

theorem crest_toLevel_other (s : State) {p k : Nat} (hk : k ≠ p) (l : Nat) : (s.toLevel p l).crest k = s.crest k := by
  by_cases hpw : (s.crest p).pw = .off
  · rw [toLevel_of_off hpw, State.crest_modCrest_other s p _ k hk]
  · obtain ⟨cs, h⟩ := toLevel_of_on hpw l
    rw [h, ← State.crest_modCrest_other s p (Crest.atLevel l) k hk]
    exact proj_ite (fun u => State.crest u k) rfl rfl

/-- The regulator of a crest that switches, if it is ON, takes the level's voltage. -/
theorem setpoint_toLevel (h : (s.crest p).pw ≠ .off) (hst : (s.reg p).st = 2) (l : Nat) :
    ((s.toLevel p l).reg p).setpoint = levelMv l := by
  obtain ⟨cs, hto⟩ := toLevel_of_on h l
  rw [hto, if_pos hst, State.reg_modReg_same]
  rfl

end

/-! Limits (R252). -/

/-- What the alarms, the management registers, the log and the memories keep where only levels follow. -/
theorem frame_of_unlevelled {s t : State} (h : t.unlevelled = s.unlevelled) : t.pwr.vinLow = s.pwr.vinLow ∧
    t.pwr.seqTimeout = s.pwr.seqTimeout ∧ t.mg = s.mg ∧ t.logNext = s.logNext ∧ t.store = s.store ∧ t.parts = s.parts :=
  ⟨(congrArg (fun u => u.pwr.vinLow) h :), (congrArg (fun u => u.pwr.seqTimeout) h :), (congrArg State.mg h :),
    (congrArg State.logNext h :), (congrArg State.store h :), (congrArg State.parts h :)⟩

/-- One step of the walk over the crests: crest `p` slows to the limit `c` gives it, unless it is slow enough. -/
def State.slowOne (c : Nat → Nat) (s : State) (p : Nat) : State := if (s.crest p).level < c p then s.toLevel p (c p) else s

theorem unlevelled_slowOne (c : Nat → Nat) (s : State) (p : Nat) : (s.slowOne c p).unlevelled = s.unlevelled :=
  proj_ite State.unlevelled (unlevelled_toLevel ..) rfl

theorem unlevelled_fixedCheck (s : State) : s.fixedCheck.unlevelled = s.unlevelled := proj_ite State.unlevelled rfl rfl

theorem slowTo_eq (s : State) (c : Nat → Nat) : s.slowTo c = ((List.range 17).foldl (State.slowOne c) s).fixedCheck := rfl

theorem unlevelled_slowTo (s : State) (c : Nat → Nat) : (s.slowTo c).unlevelled = s.unlevelled := by
  rw [slowTo_eq, unlevelled_fixedCheck]
  exact proj_foldl State.unlevelled (unlevelled_slowOne c) _ s

theorem unlevelled_applyHw (s : State) : s.applyHw.unlevelled = s.unlevelled := unlevelled_slowTo ..

/-- A crest that is not OFF stays so, and keeps to its limit from its turn on. -/
theorem crest_slowOne (c : Nat → Nat) (s : State) (k p : Nat) (hpw : (s.crest p).pw ≠ .off) :
    ((s.slowOne c k).crest p).pw ≠ .off ∧ (c p ≤ (s.crest p).level ∨ k = p → c p ≤ ((s.slowOne c k).crest p).level) := by
  unfold State.slowOne
  split
  · by_cases hk : p = k
    · subst hk
      rw [crest_toLevel_same hpw]
      exact ⟨hpw, fun _ => Nat.le_refl _⟩
    · rw [crest_toLevel_other s hk]
      exact ⟨hpw, fun hle => hle.elim id fun h => absurd h.symm hk⟩
  · next hle => exact ⟨hpw, fun h => h.elim id fun hk => hk ▸ Nat.not_lt.1 hle⟩

theorem foldl_slowOne_level (c : Nat → Nat) {p : Nat} (ks : List Nat) (s : State) (hpw : (s.crest p).pw ≠ .off)
    (h : c p ≤ (s.crest p).level ∨ p ∈ ks) : c p ≤ ((ks.foldl (State.slowOne c) s).crest p).level := by
  induction ks generalizing s with
  | nil => exact h.elim id fun hmem => absurd hmem List.not_mem_nil
  | cons k ks ih =>
    obtain ⟨hpw', hle⟩ := crest_slowOne c s k p hpw
    refine ih _ hpw' ?_
    obtain hdone | hmem := h
    · exact .inl (hle (.inl hdone))
    · obtain rfl | hmem := List.mem_cons.1 hmem
      · exact .inl (hle (.inr rfl))
      · exact .inr hmem

/-- No crest that is not OFF runs faster than its limit (R252). -/
theorem slowTo_level (s : State) (c : Nat → Nat) {p : Nat} (hp : p < 17) (hpw : (s.crest p).pw ≠ .off) :
    c p ≤ ((s.slowTo c).crest p).level := by
  rw [slowTo_eq, State.crest, (fixedCheck_frame _).1]
  exact foldl_slowOne_level c _ s hpw (.inr (List.mem_range.2 hp))

/-! VIN and the sequencer (R230, R243). -/

/-- VIN_LOW as it is reported, before the levels follow. -/
def State.vinLowSet (s : State) : State :=
  ((s.modPwr fun p => { p with vinLow := true }).alert aVinLow).addLog { code := 0x1C, cls := 3, kind := kDie, detail := 1 }

/-- SEQ_TIMEOUT as it is reported, before the levels follow. -/
def State.seqTimeoutSet (s : State) : State :=
  ((s.modPwr fun p => { p with seqTimeout := true }).alert aSeqTimeout).addLog
    { code := 0x1D, cls := 3, kind := kDie, detail := 2 }

theorem exec_vinLow {s : State} (hr : s.mg.released = true) (hv : s.pwr.vinLow = false) :
    exec .vinLow s = .next s.vinLowSet.applyHw :=
  if_neg (by rw [hr, hv]; decide)

theorem exec_vinHigh {s : State} (hr : s.mg.released = true) : exec .vinHigh s = .next
    ((s.alert aVinHigh).addLog { code := 0x1C, cls := 3, kind := kDie, detail := 2 }) :=
  if_neg (by rw [hr]; decide)

theorem exec_seqRestart {s : State} (hr : s.mg.released = true) : exec .seqRestart s = .next
    (((s.modPwr fun p => { p with seqPresent := false }).alert aSeqRestart).addLog
      { code := 0x1D, cls := 3, kind := kDie, detail := 1 }) :=
  if_neg (by rw [hr]; decide)

theorem exec_seqTimeout {s : State} (hp : s.pwr.seqPresent = false) (ht : s.pwr.seqTimeout = false) :
    exec .seqTimeout s = .next s.seqTimeoutSet.applyHw :=
  if_neg (by rw [hp, ht]; decide)

/-- Without the sequencer the cap loop stands still (R243). -/
theorem exec_capLoop_frozen {s : State} (h : s.pwr.seqPresent = false) : exec .capLoop s = .next s :=
  if_pos (by rw [h, Bool.not_false, Bool.or_true])

theorem p15Ceil_of_vinLow {s : State} (h : s.pwr.vinLow = true) : s.p15Ceil = 15 := by simp [State.p15Ceil, h]

theorem p15Ceil_of_timeout {s : State} (h : s.pwr.seqTimeout = true) : s.p15Ceil = 15 := by simp [State.p15Ceil, h]

/-- At P15's limit every crest that is not OFF goes there at once. -/
theorem applyHw_p15 {s : State} (h : s.p15Ceil = 15) {p : Nat} (hp : p < 17) (hpw : (s.crest p).pw ≠ .off) :
    15 ≤ (s.applyHw.crest p).level :=
  (h ▸ Nat.le_max_left .. : 15 ≤ s.hwCeil).trans (slowTo_level s (fun _ => s.hwCeil) hp hpw)

/-- Settles O41: the alarms that take the crests to P15 are limits of hardware, to which every crest that is not OFF slows;
nothing but what follows the levels changes with them. -/
theorem vinAndSequencerEvents : Obligations.VinAndSequencerEvents := by
  intro s hreleased
  refine ⟨fun hlow => ?vinLow, rfl, ?vinHigh, ?restart, fun habsent hearly => ?timeout, rfl⟩
  case vinLow =>
    obtain ⟨hvin, -, hmg, hlog, hstore, -⟩ := frame_of_unlevelled (unlevelled_applyHw s.vinLowSet)
    refine ⟨_, exec_vinLow hreleased hlow, hvin, ?_, hlog, fun p hp hpw => ?_, hstore⟩
    · rw [hmg]
      exact orBit_testBit_self ..
    · exact applyHw_p15 (p15Ceil_of_vinLow rfl) hp hpw
  case vinHigh => exact ⟨_, exec_vinHigh hreleased, orBit_testBit_self .., rfl, rfl, rfl⟩
  case restart => exact ⟨_, exec_seqRestart hreleased, rfl, orBit_testBit_self .., exec_capLoop_frozen rfl, rfl, rfl⟩
  case timeout =>
    obtain ⟨-, htimeout, hmg, -⟩ := frame_of_unlevelled (unlevelled_applyHw s.seqTimeoutSet)
    refine ⟨_, exec_seqTimeout habsent hearly, htimeout, ?_, fun p hp hpw => ?_⟩
    · rw [hmg]
      exact orBit_testBit_self ..
    · exact applyHw_p15 (p15Ceil_of_timeout rfl) hp hpw

end Sys2Proof.Machine
end

section
/-!
A tier's regulator that stops (O46): its slices are zeroised, and what waited for them goes on (R239).
-/
namespace Sys2Proof.Machine

/-- A regulator that has stopped and waits for its retry, with nothing of a check or diagnostic under way (R239). -/
def Reg.stopped (x : Reg) : Reg := { x with st := 4, tries := 0, setpoint := 0, lowOnce := 0, pulse := 0 }

/-- The stop of regulator `r`: its load is lost, the stop counted and reported, and the crests take what they can (R239). -/
def State.stopReg (s : State) (r : Nat) (ov : Bool) : State :=
  let t := (((s.modReg r Reg.stopped).loadLost r).regError r 0x18 1 aRegRetry (if ov then 3 else 2) false).bootTiers.adoptAll
  (List.range 17).foldl (fun s p => if (s.crest p).held.isEmpty then s else s.kick p) t

theorem exec_regStop {s : State} {r : Nat} (hr : r ≤ 23) (hst : (s.reg r).st = 2 ∨ (s.reg r).st = 3)
    (hperm : (s.reg r).permanent = false) (ov : Bool) : exec (.regStop r ov) s = .next (s.stopReg r ov) := by
  have hlive : ¬(r ≤ 23 ∧ (s.reg r).permanent = true) := fun h => absurd (hperm.symm.trans h.2) nofun
  have hon : ¬(r > 23 || !decide ((s.reg r).st = 2 ∨ (s.reg r).st = 3)) = true := by
    rw [decide_eq_true hst, decide_eq_false (Nat.not_lt.2 hr)]
    exact Bool.false_ne_true
  exact (if_neg hlive).trans (if_neg hon)

/-- A FENCE at DIE scope that waits for a row of slice 16 to be copied. -/
def waitingFence : Cmd := { q := 0, t := 0, e := [6#8, 0#8, 1#8], started := true }

/-- The atomic buffer holds a word of eight bytes, four of them in slice 15 and four in slice 16, the first of the tier of
regulator 18; the FENCE waits to put it back (R159, R272). -/
def wordAcrossTiers : State :=
  { regs := [(18, { st := 2 })], slices := [(16, { sparing := some (0, false) })], cmds := [waitingFence]
    stalled := [((0, 0), .sparing 16)], abuf := [{ addr := 2 ^ 28 - 4, width := 8, val := 2 ^ 64 - 1 }] }

/-- Slice 16 is zeroised without the word, which begins below it; then the FENCE puts the word back, into the slice. -/
theorem stopReg_leaves_word : tget 0#8 (wordAcrossTiers.stopReg 18 false).store (2 ^ 28) = 0xFF#8 := by decide +kernel

/-- Refutes O46: in its clause on a tier's stop nothing keeps a word of the atomic buffer from reaching into the stopped tier from
the slice below it. Zeroisation drops the words that begin in a slice, so that this one stays, and a FENCE that the stop lets go
on writes it back, into a slice whose contents the clause has all zero. R158 aligns the words of commands, and no run from reset
buffers such a word; the clause speaks of every state. -/
theorem not_regulatorsStartRetryAndStop : ¬ Obligations.RegulatorsStartRetryAndStop := by
  intro h
  obtain ⟨-, hrun⟩ := h
  obtain ⟨hstop, -⟩ := hrun wordAcrossTiers 18 false [] [] 0 (by decide)
  obtain ⟨t, hexec, -, -, -, htier⟩ := hstop (.inl rfl) rfl
  rw [exec_regStop (by decide) (.inl rfl) rfl] at hexec
  obtain ⟨-, hzero⟩ := htier (by decide) (by decide) (by decide) 16 (by decide) rfl
  have hbyte := hzero ⟨rfl, by decide⟩ rfl (2 ^ 28) (by decide)
  rw [← Host.Outcome.next.inj hexec, stopReg_leaves_word] at hbyte
  exact absurd hbyte (by decide)

end Sys2Proof.Machine
end

section
/-!
The samples of a microsecond (R233) and the timer of a reset host link (R172, R321): what they count, and what they leave
alone.
-/
namespace Sys2Proof.Machine

/-! What the end of a command leaves of the timers. -/

/-- The time base, and since when the host link is being reset. -/
def State.timers (s : State) : Nat × Option Nat := (s.time, s.mg.linkSince)

theorem timers_modCmd (s : State) (q t : Nat) (f : Cmd → Cmd) : (s.modCmd q t f).timers = s.timers := rfl

theorem timers_modCrest (s : State) (p : Nat) (f : Crest → Crest) : (s.modCrest p f).timers = s.timers := rfl

theorem timers_modPort (s : State) (k : Nat) (f : PPort → PPort) : (s.modPort k f).timers = s.timers := rfl

theorem timers_write (s : State) (o : Obs) (m : List (Nat × Byte)) : (s.write o m).timers = s.timers :=
  (congrArg State.timers (unwritten_write s o m) :)

theorem timers_chargeHold (s : State) (h : Hold) : (s.chargeHold h).timers = s.timers :=
  (congrArg State.timers (turned_chargeHold 0 s h).rest :)

theorem timers_endHolds (s : State) (q t : Nat) (sel : Nat → Bool) : (s.endHolds q t sel).timers = s.timers :=
  proj_foldl State.timers timers_chargeHold _ s

theorem timers_unspecify (s : State) (c : Cmd) (sub : Nat) : (s.unspecify c sub).timers = s.timers := by
  have hwritten : (if (decide (c.opcode = 11) && c.keepsRows sub) = true then s
      else s.write (.crest c.q c.t dispWriter) (s.freeOutput c)).timers = s.timers :=
    proj_ite State.timers rfl (timers_write ..)
  exact (proj_ite State.timers rfl (proj_foldl State.timers (fun _ _ => timers_modCrest ..) _ _)).trans hwritten

theorem timers_resetEnd (s : State) (p : Nat) : (s.resetEnd p).timers = s.timers :=
  proj_ite State.timers rfl (proj_foldl State.timers (fun _ _ => timers_modCrest ..) _ s)

theorem timers_resetEnds (s : State) : s.resetEnds.timers = s.timers :=
  proj_ite State.timers (proj_foldl State.timers timers_resetEnd _ s) rfl

theorem timers_unlend (s : State) (p : Nat) : (s.unlend p).timers = s.timers := by
  rw [State.unlend]
  cases (s.crest p).lentTo with
  | none => rfl
  | some b =>
    refine proj_ite State.timers rfl ?_
    cases (s.crest p).held with
    | nil => exact timers_resetEnds _
    | cons k ks => exact (timers_resetEnds _).trans (proj_foldl State.timers (fun _ _ => timers_modCmd ..) _ _)

theorem timers_dropFrom (s : State) (p q t : Nat) : (s.dropFrom p q t).timers = s.timers :=
  (timers_unlend _ p).trans (proj_ite State.timers (s := s) rfl rfl)

theorem timers_endCmd (s : State) (q t st sub : Nat) : (s.endCmd q t st sub).timers = s.timers := by
  have hended : ((s.endHolds q t fun _ => true).uncharged q t).timers = s.timers :=
    (timers_modCmd ..).trans (timers_endHolds ..)
  rw [State.endCmd]
  cases s.cmd? q t with
  | none => rfl
  | some c =>
    refine proj_ite State.timers rfl ?_
    refine (proj_foldl State.timers (fun _ _ => (timers_modCrest ..).trans (timers_dropFrom ..)) _ _).trans ?_
    exact (proj_ite State.timers (timers_unspecify ..) rfl).trans hended

theorem timers_liveChange (s : State) : s.liveChange.timers = s.timers := proj_ite State.timers rfl rfl

theorem timers_leaveGroup (s : State) : s.leaveGroup.timers = s.timers :=
  (timers_liveChange _).trans <| (proj_foldl State.timers (fun _ _ => timers_endCmd ..) _ _).trans <|
    proj_foldl State.timers (fun _ _ => timers_modPort ..) _ s

theorem timers_checkMin (s : State) (kind : Nat) : (s.checkMin kind).timers = s.timers :=
  proj_ite State.timers (timers_leaveGroup s) rfl

theorem timers_linkGone (s : State) : s.linkGone.timers = s.timers :=
  (timers_checkMin ..).trans (proj_foldl State.timers (fun _ _ => timers_endCmd ..) _ s)

/-! One microsecond's samples. -/

/-- Every slice's contents are there. -/
def State.AllAvailable (s : State) : Prop := ∀ n, n < 96 → (s.slice n).unavailable = false

/-- From `s` to `t` samples have counted `e` pJ. Supplies that follow may switch slices on and let links train, but no module
becomes ACTIVE, and the store changes only where contents were lost. -/
structure Sampled (e : Nat) (s t : State) : Prop where
  time : t.time = s.time
  crests : t.crests = s.crests
  mg : t.mg = s.mg
  accW : t.pwr.accW = s.pwr.accW + e
  st : ∀ r, (t.reg r).st = (s.reg r).st
  active : ∀ m, (t.hmod m).st = 2 → (s.hmod m).st = 2
  kept : s.AllAvailable → t.AllAvailable ∧ t.store = s.store

section
variable {s t u : State} {d e : Nat}

theorem Sampled.refl (s : State) : Sampled 0 s s := ⟨rfl, rfl, rfl, rfl, fun _ => rfl, fun _ => id, fun h => ⟨h, rfl⟩⟩

theorem Sampled.trans (h : Sampled d s t) (g : Sampled e t u) : Sampled (d + e) s u where
  time := g.time.trans h.time
  crests := g.crests.trans h.crests
  mg := g.mg.trans h.mg
  accW := by rw [g.accW, h.accW, Nat.add_assoc]
  st r := (g.st r).trans (h.st r)
  active m hm := h.active m (g.active m hm)
  kept ha := have hk := h.kept ha; have gk := g.kept hk.1; ⟨gk.1, gk.2.trans hk.2⟩

theorem Sampled.ite {c : Prop} [Decidable c] (ht : Sampled e s t) (hu : Sampled e s u) : Sampled e s (if c then t else u) := by
  split
  · exact ht
  · exact hu

theorem Sampled.foldl {β : Type} {f : State → β → State} (l : List β) (hf : ∀ s, ∀ x ∈ l, Sampled 0 s (f s x)) (s : State) :
    Sampled 0 s (l.foldl f s) :=
  List.foldlRecOn l f (.refl s) fun _ h x hx => h.trans (hf _ x hx)

end

theorem sampled_modReg (s : State) (r : Nat) {f : Reg → Reg} (hf : ∀ x, (f x).st = x.st) : Sampled 0 s (s.modReg r f) := by
  refine { Sampled.refl s with st := fun k => ?_ }
  rw [State.reg_modReg]
  split
  · next h => rw [h, hf]
  · rfl

theorem sampled_modSlice (s : State) (n : Nat) {f : Slice → Slice} (hf : ∀ x, x.unavailable = false → (f x).unavailable = false) :
    Sampled 0 s (s.modSlice n f) := by
  refine { Sampled.refl s with kept := fun h => ⟨fun k hk => ?_, rfl⟩ }
  rw [State.slice_modSlice]
  split
  · next hkn => exact hf _ (hkn ▸ h k hk)
  · exact h k hk

theorem sampled_modHmod (s : State) (m : Nat) {f : HMod → HMod} (hf : ∀ x, (f x).st = 2 → x.st = 2) :
    Sampled 0 s (s.modHmod m f) := by
  refine { Sampled.refl s with active := fun k => ?_ }
  rw [State.hmod_modHmod]
  split
  · next h => exact h ▸ hf _
  · exact id

theorem sampled_modPort (s : State) (k : Nat) (f : PPort → PPort) : Sampled 0 s (s.modPort k f) := { Sampled.refl s with }

/-- A tier at its setpoint zeroises only slices whose contents were lost (R239). -/
theorem sampled_tierUp (s : State) (r : Nat) : Sampled 0 s (s.tierUp r) := by
  unfold State.tierUp
  split
  · next h =>
    refine Sampled.foldl _ (fun s n hn => ?_) s
    have hlt : n < 96 := by
      obtain ⟨i, hi, rfl⟩ := List.mem_map.1 hn
      have := List.mem_range.1 hi
      omega
    refine .ite (.refl s) ?_
    split
    · next hlost =>
      refine { Sampled.refl s with kept := fun h => ?_ }
      rw [h n hlt] at hlost
      exact absurd hlost nofun
    · exact .ite (sampled_modSlice s n fun _ => id) (.refl s)
  · exact .refl s

theorem sampled_linksUp (s : State) : Sampled 0 s s.linksUp := by
  have hhost (u : State) : Sampled 0 u u.trainHost := by
    refine .ite (.foldl _ (fun v m _ => .ite (.refl v) (sampled_modHmod v m fun x hx => ?_)) u) (.refl u)
    split at hx
    · exact absurd hx (Nat.ne_of_lt (Nat.lt_succ_self 1))
    · exact hx
  have hports (u : State) : Sampled 0 u u.trainPorts :=
    .ite (.foldl _ (fun v k _ => .ite (sampled_modPort v k _) (.refl v)) u) (.refl u)
  exact (Sampled.ite (hhost s) (.refl s)).trans (hports _)

theorem sampled_sampleOne (s : State) (vin : Nat) (m : RegMeas) : Sampled (m.iin * vin) s (s.sampleOne vin m) := by
  have hreg := sampled_modReg s m.r (f := fun x => { x with
    iin := m.iin, vout := m.vout
    phI := (List.range (regPhases m.r)).foldl (fun t k => tset 0 t k (m.ph.getD k 0)) x.phI }) fun _ => rfl
  have hup := hreg.trans (sampled_tierUp _ m.r)
  have hlinks := hup.trans (.ite (c := m.r = 23) (sampled_linksUp _) (.refl _))
  have hcount (u : State) (f : Pwr → Pwr) (hf : (f u.pwr).accW = u.pwr.accW + m.iin * vin) :
      Sampled (m.iin * vin) u (u.modPwr f) := { Sampled.refl u with accW := hf }
  have hall : Sampled (0 + 0 + 0 + m.iin * vin) s (s.sampleOne vin m) := by
    unfold State.sampleOne
    exact hlinks.trans (hcount _ _ rfl)
  simpa only [Nat.zero_add] using hall

/-- The samples of a list of regulators count their energies. -/
theorem sampled_foldl (vin : Nat) (ms : List RegMeas) (s : State) :
    Sampled (ms.map fun m => m.iin * vin).sum s (ms.foldl (fun s m => s.sampleOne vin m) s) := by
  induction ms generalizing s with
  | nil => exact .refl s
  | cons m ms ih => exact (sampled_sampleOne s vin m).trans (ih _)

/-- The samples of one microsecond. -/
def State.samples (s : State) (ms : List RegMeas) (vin : Nat) : State :=
  (ms.filter fun m => m.r ≤ 24).foldl (fun s m => s.sampleOne vin m) s

theorem sampled_samples (s : State) (ms : List RegMeas) (vin : Nat) :
    Sampled ((ms.filter fun m => m.r ≤ 24).map fun m => m.iin * vin).sum s (s.samples ms vin) := sampled_foldl ..

/-- The time base counts a microsecond. -/
def State.ticked (s : State) : State := { s.bump with time := s.time + 1 }

theorem exec_regSample {s : State} (hr : s.mg.released = true) (ms : List RegMeas) (vin : Nat) :
    exec (.regSample ms vin) s = .next (s.samples ms vin).ticked.linkTimer := if_neg (by rw [hr]; decide)

theorem linkTimer_idle {s : State} (h : s.mg.linkSince = none) : s.linkTimer = s := by
  rw [State.linkTimer, h]

/-- A millisecond after a LINK reset a link with no module ACTIVE has no configuration any more (R172, R321). -/
theorem linkTimer_due {s : State} {since : Nat} (h : s.mg.linkSince = some since) (hdue : since + 1000 ≤ s.time)
    (hdown : ∀ m, m < 4 → (s.hmod m).st ≠ 2) :
    s.linkTimer.time = s.time ∧ s.linkTimer.mg.linkSince = none ∧ s.linkTimer.hostConfig = 0 := by
  have hnone : ¬(List.range 4).any (fun m => decide ((s.hmod m).st = 2)) = true := by
    simpa using hdown
  have hgone : s.linkTimer =
      ({ s.modMg fun m => { m with linkSince := none } with hostConfig := 0 } : State).liveChange.linkGone := by
    rw [State.linkTimer, h]
    exact (if_neg (Nat.not_lt.2 hdue)).trans (if_neg hnone)
  have htimers := (timers_linkGone _).trans
    (timers_liveChange ({ s.modMg fun m => { m with linkSince := none } with hostConfig := 0 } : State))
  have hconfig := (linkConfig_linkGone _).trans
    (linkConfig_liveChange ({ s.modMg fun m => { m with linkSince := none } with hostConfig := 0 } : State))
  rw [hgone]
  exact ⟨congrArg Prod.fst htimers, congrArg Prod.snd htimers, hostConfig_of_linkConfig hconfig⟩

/-- With no reset of the host link under way a microsecond's samples are counted, and nothing else. -/
theorem regSample_counts {s : State} (hr : s.mg.released = true) (hlink : s.mg.linkSince = none) (ms : List RegMeas) (vin : Nat) :
    ∃ t, exec (.regSample ms vin) s = .next t ∧ t.time = s.time + 1 ∧
      t.pwr.accW = s.pwr.accW + ((ms.filter fun m => m.r ≤ 24).map fun m => m.iin * vin).sum ∧ t.crests = s.crests ∧
      (∀ r, (t.reg r).st = (s.reg r).st) ∧ (s.AllAvailable → t.store = s.store) := by
  have hs := sampled_samples s ms vin
  have hexec := exec_regSample hr ms vin
  generalize s.samples ms vin = u at hs hexec
  have hidle : u.ticked.linkTimer = u.ticked := linkTimer_idle ((congrArg Mgmt.linkSince hs.mg).trans hlink)
  rw [hidle] at hexec
  exact ⟨_, hexec, congrArg (· + 1) hs.time, hs.accW, hs.crests, hs.st, fun h => (hs.kept h).2⟩

/-- A millisecond after its reset a link that is down has no configuration any more. -/
theorem regSample_linkDown {s : State} {since : Nat} (hr : s.mg.released = true) (hlink : s.mg.linkSince = some since)
    (hdue : since + 1000 ≤ s.time + 1) (hdown : ∀ m, m < 4 → (s.hmod m).st ≠ 2) (ms : List RegMeas) (vin : Nat) :
    ∃ t, exec (.regSample ms vin) s = .next t ∧ t.time = s.time + 1 ∧ t.mg.linkSince = none ∧ t.hostConfig = 0 := by
  have hs := sampled_samples s ms vin
  have hexec := exec_regSample hr ms vin
  generalize s.samples ms vin = u at hs hexec
  have htime : u.ticked.time = s.time + 1 := congrArg (· + 1) hs.time
  obtain ⟨htimer, hsince, hconfig⟩ := linkTimer_due (s := u.ticked) ((congrArg Mgmt.linkSince hs.mg).trans hlink)
    (htime ▸ hdue) fun m hm h => hdown m hm (hs.active m h)
  exact ⟨_, hexec, htimer.trans htime, hsince, hconfig⟩

end Sys2Proof.Machine
end

section
/-!
Power control's periods (O44): the cap loop (R250), the estimator's window (R257, R264) and quiet slots (R259).
-/
namespace Sys2Proof.Machine

/-! The cap loop sets levels, and reports on its period. -/

/-- The period's meters and the sustained cap, where only levels follow. -/
theorem meters_of_unlevelled {s t : State} (h : t.unlevelled = s.unlevelled) : t.pwr.acc10 = s.pwr.acc10 ∧
    t.pwr.modeNow = s.pwr.modeNow ∧ t.pwr.meas = s.pwr.meas ∧ t.pwr.energy = s.pwr.energy ∧ t.pwr.capSust = s.pwr.capSust :=
  ⟨(congrArg (fun u => u.pwr.acc10) h :), (congrArg (fun u => u.pwr.modeNow) h :), (congrArg (fun u => u.pwr.meas) h :),
    (congrArg (fun u => u.pwr.energy) h :), (congrArg (fun u => u.pwr.capSust) h :)⟩

theorem unlevelled_setTarget (s : State) (p l : Nat) : (s.setTarget p l).unlevelled = s.unlevelled :=
  proj_ite State.unlevelled (unlevelled_toLevel ..) (proj_ite State.unlevelled rfl rfl)

theorem unlevelled_setAll (s : State) (l : Nat) : (s.setAll l).unlevelled = s.unlevelled := by
  refine proj_foldl State.unlevelled (fun s p => ?_) _ s
  split
  · exact unlevelled_setTarget ..
  · exact unlevelled_setTarget ..
  · rfl

theorem unlevelled_targets (ls : List (Nat × Nat)) (s : State) :
    (ls.foldl (fun s e => s.setTarget e.1 e.2) s).unlevelled = s.unlevelled :=
  proj_foldl State.unlevelled (f := fun s e => s.setTarget e.1 e.2) (fun s e => unlevelled_setTarget s e.1 e.2) ls s

/-- Whatever the mode, a period sets levels alone (R251, R261, R262). -/
theorem unlevelled_capLevels (s : State) (c : Rat) : (s.capLevels c).1.unlevelled = s.unlevelled := by
  rw [State.capLevels]
  by_cases hm : s.pwr.modeNow = 1
  · rw [if_pos hm]
    dsimp only
    exact unlevelled_setAll s _
  · rw [if_neg hm]
    by_cases hl : s.lockstep = true
    · rw [if_pos hl]
      dsimp only
      rw [unlevelled_setAll]
      rfl
    · rw [if_neg hl]
      exact unlevelled_targets ..

theorem unlevelled_lagCheck (s : State) : s.lagCheck.unlevelled = s.unlevelled := rfl

/-- The period's energy has entered the bins, and the mode is in force (R249, R250). -/
def State.periodBegun (s : State) : State :=
  s.modPwr fun w => { w.push s.pwr.acc10 with
    acc10 := 0, accCrest := [], modeNow := s.pwr.mode, est10 := 0, estN := 0
    capsSet := if s.pwr.mode = w.modeNow then w.capsSet else none
    meas := s.pwr.acc10 * 16 / 10000000 % 65536, est := s.powerEst }

theorem unlevelled_reports (s : State) (sust pk1 pk2 : Bool) :
    (s.modPwr fun w => { w with sust := sust, pk1 := pk1, pk2 := pk2 }).unlevelled = s.unlevelled := rfl

/-- One period of the cap loop (R250): the levels are set within the least budget, then limited, then reported on. -/
def State.capPeriod (s : State) : State :=
  let crests := (((List.range 17).filter (fun p => !(s.crest p).held.isEmpty)).map (tget 0 s.pwr.accCrest)).sum
  let t := s.periodBegun
  let b := t.pwr.budgets t.sustNow
  let least := min (min b.1 b.2.1) (min b.2.2.1 b.2.2.2)
  let r := t.capLevels ((least - ((s.pwr.acc10 : Int) - (crests : Int)) : Int) : Rat)
  (r.1.applyCeilings.modPwr fun w => { w with
    sust := r.2 && decide (b.2.2.1 = least)
    pk1 := r.2 && decide (b.1 = least ∨ b.2.2.2 = least)
    pk2 := r.2 && decide (b.2.1 = least) }).lagCheck.fixedCheck

theorem exec_capLoop {s : State} (hr : s.mg.released = true) (hp : s.pwr.seqPresent = true) :
    exec .capLoop s = .next s.capPeriod := if_neg (by rw [hr, hp]; decide)

theorem unlevelled_capPeriod (s : State) : s.capPeriod.unlevelled = s.periodBegun.unlevelled := by
  rw [State.capPeriod, unlevelled_fixedCheck, unlevelled_lagCheck, unlevelled_reports, State.applyCeilings, unlevelled_slowTo,
    unlevelled_capLevels]

theorem exec_levelSwitch {s : State} {p l : Nat} (h : (s.crest p).pendLevel = some l) :
    exec (.levelSwitch p) s = .next (s.toLevel p (max l (s.ceilNow p))) := by
  change execLevelSwitch p s = _
  rw [execLevelSwitch, h]

/-! The estimator's window: energy divided among commands and partitions. -/

/-- The state but for what a window's estimates and its division of energy write: the crests, the commands, the partitions and
the unattributed account. -/
def State.undivided (s : State) : State := { s with crests := [], cmds := [], parts := [], unattr := 0 }

theorem frame_of_undivided {s t : State} (h : t.undivided = s.undivided) : t.pwr = s.pwr ∧ t.store = s.store ∧ t.mg = s.mg :=
  ⟨(congrArg State.pwr h :), (congrArg State.store h :), (congrArg State.mg h :)⟩

theorem undivided_crestWindow (s : State) (p : Nat) (a : List Nat) : (s.crestWindow p a).undivided = s.undivided := rfl

theorem undivided_giveCmd (s : State) (k : Nat × Nat) (n : Nat) : (s.giveCmd k n).1.undivided = s.undivided := by
  unfold State.giveCmd
  split <;> rfl

/-- Energy given piece by piece: what each piece leaves alone, all of them do. -/
theorem undivided_foldl {β : Type} {f : State × Nat → β → State × Nat} (hf : ∀ r x, (f r x).1.undivided = r.1.undivided)
    (l : List β) (r : State × Nat) : (l.foldl f r).1.undivided = r.1.undivided :=
  List.foldlRecOn (motive := fun g => g.1.undivided = r.1.undivided) l f rfl fun _ h x _ => (hf _ x).trans h

theorem undivided_giveShares (s : State) (ws : List ((Nat × Nat) × Nat)) (n : Nat) :
    (s.giveShares ws n).1.undivided = s.undivided := by
  rw [State.giveShares]
  split
  · rfl
  · refine undivided_foldl (fun r e => ?_) ws (s, 0)
    exact undivided_giveCmd r.1 e.1 _

theorem undivided_giveCrest (s : State) (p n : Nat) (busy : List ((Nat × Nat) × Nat)) :
    (s.giveCrest p n busy).1.undivided = s.undivided := by
  unfold State.giveCrest
  split
  · exact undivided_giveShares ..
  · split
    · exact undivided_giveShares ..
    · split <;> rfl

theorem undivided_unattr (s : State) (u : Nat) : ({ s with unattr := u } : State).undivided = s.undivided := rfl

theorem undivided_divide (s : State) (total : Nat) (ws : List WinMeas) (moved : List ((Nat × Nat) × Nat)) :
    (s.divide total ws moved).undivided = s.undivided := by
  rw [State.divide, undivided_unattr, undivided_giveShares]
  refine undivided_foldl (fun r p => ?_) (List.range 17) (s, 0)
  exact undivided_giveCrest r.1 p _ _

/-- The crests' estimates of a window. -/
def State.windows (s : State) (ws : List WinMeas) : State :=
  (List.range 17).foldl (fun s p => s.crestWindow p (((ws.find? (fun w => w.p = p)).map (·.a)).getD [])) s

theorem undivided_windows (s : State) (ws : List WinMeas) : (s.windows ws).undivided = s.undivided := by
  rw [State.windows]
  exact proj_foldl State.undivided (fun s p => undivided_crestWindow s p _) _ s

/-- A window has passed: whole units of what was sampled are counted, and the rest is kept (R264). -/
def Pwr.windowed (est : Rat) (w : Pwr) : Pwr :=
  { w with est10 := w.est10 + est, estN := w.estN + 1, accW := w.accW % 15625, accWin := []
           energy := (w.energy + w.accW / 15625) % 2 ^ 64 }

theorem exec_estimatorWindow {s : State} (hr : s.mg.released = true) (ws : List WinMeas) (moved : List ((Nat × Nat) × Nat)) :
    ∃ est, exec (.estimatorWindow ws moved) s = .next
      (((s.windows ws).modPwr (Pwr.windowed est)).divide ((s.windows ws).pwr.accW / 15625) ws moved) :=
  ⟨_, if_neg (by rw [hr]; decide)⟩

/-! Quiet slots. -/

theorem exec_quietSlot {s : State} {p : Nat} (hp : s.pwr.seqPresent = true) (hen : s.pwr.quietEn = true)
    (hmode : s.pwr.modeNow ≠ 1) (hage : 1000000 ≤ s.quietAge) (hnone : ∀ k, k < 17 → (s.crest k).quiet = false)
    (hok : s.quietOk p = true) (hinv : (s.crest p).inv = none)
    (hrest : ∀ v vs, (s.crest p).work = v :: vs → ∃ c, s.cmd? v.q v.t = some c ∧ c.atBoundary v = true)
    (hold : ∀ k, k < 17 → s.quietOk k = true → s.entryTime p ≤ s.entryTime k) :
    exec (.quietSlot p) s = .next (s.modCrest p fun x => { x with quiet := true, quietAt := some s.time }) := by
  have hfree : ((List.range 17).any fun k => (s.crest k).quiet) = false :=
    List.any_eq_false.2 fun k hk => Bool.eq_false_iff.1 (hnone k (List.mem_range.1 hk))
  have holdest : ((List.range 17).any fun k => s.quietOk k && decide (s.entryTime k < s.entryTime p)) = false :=
    List.any_eq_false.2 fun k hk h => by
      obtain ⟨hk', hlt⟩ := Bool.and_eq_true_iff.1 h
      exact absurd (of_decide_eq_true hlt) (Nat.not_lt.2 (hold k (List.mem_range.1 hk) hk'))
  change execQuietSlot p s = _
  refine if_neg (Bool.eq_false_iff.1 ?_)
  rw [hfree, holdest, hp, hen, hok, hinv, decide_eq_false hmode, decide_eq_false (Nat.not_lt.2 hage)]
  cases hw : (s.crest p).work with
  | nil => rfl
  | cons v vs =>
    obtain ⟨c, hc, hat⟩ := hrest v vs hw
    simp [hc, hat]

/-- A crest released from its quiet slot, with its entry for a temperature band measured (R257, R259). -/
def Crest.measured (band : Nat) (entry : Rat × Nat) (x : Crest) : Crest :=
  { x with quiet := false, offs := tset none x.offs (x.level * 8 + band) (some entry) }

/-- The entry of a quiet slot is measured at `w` / 16 W, and its crest released. -/
def State.quietDone (s : State) (p w : Nat) : State :=
  (s.modCrest p (Crest.measured (s.band p) (((w : Nat) : Rat) / 16, s.time))).modPwr
    fun v => { v with quietTime := s.time, stale := false }

/-- A quiet slot ends: what its crest holds is charged as POWER, and the crest may turn to a tile. -/
def State.quietEnd (s : State) (p w : Nat) : State :=
  ((s.crest p).held.foldl (fun u k => u.modCmd k.1 k.2 fun d => d.charge wPower (20 * levelMhz (s.crest p).level))
    (s.quietDone p w)).kick p

theorem exec_quietSlotEnd {s : State} {p : Nat} (hp : p ≤ 16) (hq : (s.crest p).quiet = true) (w : Nat) :
    exec (.quietSlotEnd p w) s = .next (s.quietEnd p w) := by
  have hgo : ¬(p > 16 || !((s.crest p).quiet || ((s.crest p).held.isEmpty && !(s.crest p).waking &&
      decide ((s.crest p).pw = .run ∨ (s.crest p).pw = .idle)))) = true := by
    rw [hq, decide_eq_false (Nat.not_lt.2 hp)]
    exact Bool.false_ne_true
  exact (if_neg hgo).trans (congrArg (fun u : State => Host.Outcome.next (u.kick p)) (if_pos hq))

theorem turned_charged (p : Nat) (s : State) (ks : List (Nat × Nat)) (cause n : Nat) :
    Turned p s (ks.foldl (fun s k => s.modCmd k.1 k.2 fun c => c.charge cause n) s) := by
  obtain ⟨cs, hcs⟩ := charged_eq ks cause n s
  rw [hcs]
  exact .of_crests rfl rfl

theorem turned_quietEnd (s : State) (p w : Nat) : Turned p (s.quietDone p w) (s.quietEnd p w) :=
  (turned_charged ..).trans (turned_kick ..)

/-- What a turn leaves of power control, and of a crest's quiet slots. -/
theorem quiet_of_turned {p : Nat} {s t : State} (h : Turned p s t) : t.pwr = s.pwr ∧
    (t.crest p).quiet = (s.crest p).quiet ∧ (t.crest p).offs = (s.crest p).offs :=
  ⟨(congrArg State.pwr h.rest :), (congrArg Crest.quiet h.crest :), (congrArg Crest.offs h.crest :)⟩

theorem crest_quietDone (s : State) (p w : Nat) :
    (s.quietDone p w).crest p = (s.crest p).measured (s.band p) (((w : Nat) : Rat) / 16, s.time) :=
  State.crest_modCrest_same s p _

theorem exec_calibStale {s : State} (h : 10000000 ≤ s.quietAge) :
    exec .calibStale s = .next { s with pwr := { s.pwr with stale := true } } := if_neg (Nat.not_lt.2 h)

/-- A period takes the energy sampled since the last one, and the mode that is ordered. -/
theorem capLoop_takes {s : State} (hr : s.mg.released = true) (hp : s.pwr.seqPresent = true) : ∃ t, exec .capLoop s = .next t ∧
    t.pwr.acc10 = 0 ∧ t.pwr.modeNow = s.pwr.mode ∧ t.pwr.meas = s.pwr.acc10 * 16 / 10000000 % 65536 ∧
    t.pwr.energy = s.pwr.energy ∧ t.pwr.capSust = s.pwr.capSust ∧ t.store = s.store ∧ t.parts = s.parts := by
  have h := unlevelled_capPeriod s
  have hexec := exec_capLoop hr hp
  generalize s.capPeriod = t at h hexec
  obtain ⟨-, -, -, -, hstore, hparts⟩ := frame_of_unlevelled h
  obtain ⟨hacc, hmode, hmeas, henergy, hsust⟩ := meters_of_unlevelled h
  exact ⟨t, hexec, hacc, hmode, hmeas, henergy, hsust, hstore, hparts⟩

/-- Once its windows are estimated, a window counts whole units of the sampled energy and keeps the rest, whoever gets them. -/
theorem divide_counts {s u : State} (h : u.undivided = s.undivided) (est : Rat) (ws : List WinMeas)
    (moved : List ((Nat × Nat) × Nat)) : let t := (u.modPwr (Pwr.windowed est)).divide (u.pwr.accW / 15625) ws moved
    t.pwr.accW = s.pwr.accW % 15625 ∧ t.pwr.energy = (s.pwr.energy + s.pwr.accW / 15625) % 2 ^ 64 ∧ t.store = s.store ∧
      t.mg = s.mg := by
  obtain ⟨hpwr, hstore, hmg⟩ := frame_of_undivided h
  obtain ⟨hpwr', hstore', hmg'⟩ := frame_of_undivided
    (undivided_divide (u.modPwr (Pwr.windowed est)) (u.pwr.accW / 15625) ws moved)
  have hwindowed := hpwr'.trans (congrArg (Pwr.windowed est) hpwr)
  exact ⟨congrArg Pwr.accW hwindowed, congrArg Pwr.energy hwindowed, hstore'.trans hstore, hmg'.trans hmg⟩

theorem estimatorWindow_counts {s : State} (hr : s.mg.released = true) (ws : List WinMeas)
    (moved : List ((Nat × Nat) × Nat)) : ∃ t, exec (.estimatorWindow ws moved) s = .next t ∧
      t.pwr.accW = s.pwr.accW % 15625 ∧ t.pwr.energy = (s.pwr.energy + s.pwr.accW / 15625) % 2 ^ 64 ∧ t.store = s.store ∧
      t.mg = s.mg := by
  obtain ⟨est, hexec⟩ := exec_estimatorWindow hr ws moved
  exact ⟨_, hexec, divide_counts (undivided_windows s ws) est ws moved⟩

/-- The end of a quiet slot measures the crest's entry for its level and band, and releases it. -/
theorem quietSlotEnd_measures {s : State} {p : Nat} (hp : p ≤ 16) (hq : (s.crest p).quiet = true) (w : Nat) :
    ∃ t, exec (.quietSlotEnd p w) s = .next t ∧ (t.crest p).quiet = false ∧
      tget none (t.crest p).offs ((s.crest p).level * 8 + s.band p) = some (((w : Nat) : Rat) / 16, s.time) ∧
      t.pwr.quietTime = s.time ∧ t.pwr.stale = false ∧ (∀ k, k ≠ p → t.crest k = s.crest k) := by
  have h := turned_quietEnd s p w
  have hexec := exec_quietSlotEnd hp hq w
  generalize s.quietEnd p w = t at h hexec
  obtain ⟨hpwr, hquiet, hoffs⟩ := quiet_of_turned h
  rw [crest_quietDone] at hquiet hoffs
  refine ⟨t, hexec, hquiet, ?_, congrArg Pwr.quietTime hpwr, congrArg Pwr.stale hpwr, fun k hk => ?_⟩
  · rw [hoffs, Crest.measured, tget_tset_same]
  · exact (h.others k hk).trans (State.crest_modCrest_other s p _ k hk)

/-- Settles O44: a period of samples, of the cap loop or of the estimator is its own counting, whose frame leaves all else alone;
a level switch and a quiet slot change their crest. -/
theorem powerControlPeriods : Obligations.PowerControlPeriods := by
  refine ⟨fun s p ms vin ws moved => ⟨fun hr hlink => regSample_counts hr hlink ms vin,
      fun _ hr hlink hdue hdown => regSample_linkDown hr hlink hdue hdown ms vin, capLoop_takes, ?levelSwitch,
      fun hr => estimatorWindow_counts hr ws moved⟩,
    fun s p w => ⟨exec_quietSlot, fun hp hq => quietSlotEnd_measures hp hq w, exec_calibStale⟩⟩
  case levelSwitch =>
    intro l hl hpw
    refine ⟨_, exec_levelSwitch hl, ?_, ?_, fun hst => setpoint_toLevel hpw hst _, fun k hk => crest_toLevel_other s hk _⟩
    · rw [crest_toLevel_same hpw]
      rfl
    · rw [crest_toLevel_same hpw]
      rfl

end Sys2Proof.Machine
end

section
/-!
The queue, the memories and the caps (O1, O2, O56, O58): what every row of the table keeps of them.
-/
namespace Sys2Proof.Machine
open Sys2Proof.Claim

/-! The queue and the memories. -/

/-- A management command's row keeps the queue and the form of the memories, over either path. -/
theorem written_mgCmd_kept (s : State) (p : Path) (v : Nat) :
    KeptO false false s (.next (s.written p fun s => s.mgCmd p v)) :=
  .next (written_kept p (fun _ h => mgCmd_kept p v h) (.refl _ _ s))

theorem execRegisterWrite_kept (s : State) (r : RegTarget) (v : Nat) : KeptO false false s (execRegisterWrite r v s) := by
  have hk : Kept false false s s := .refl _ _ s
  cases r with
  | mgmt p a =>
    refine .next (access_kept p true (fun u h => ?_) hk)
    split
    · exact h
    · exact regWrite_kept p a v h
  | queue q off => exact .next (kept_ite (writeQueue_kept q off v hk) hk)
  | mailbox off => exact .next (writeMailbox_kept off v hk)
  | bias off => exact .next (kept_ite (writeBias_kept off v hk) hk)
  | msix vec w => exact .next (kept_ite (writeMsix_kept vec w v hk) hk)

/-- A crest halts with the caps where they are. -/
theorem execCrestHalt_kept (s : State) (p : Nat) : KeptO true false s (execCrestHalt p s) := by
  unfold execCrestHalt
  dsimp only
  split
  · exact .next (.refl _ _ s)
  next l _ =>
  refine .ite (.next (.refl _ _ s)) (.next (setTaint_kept 3 ?_))
  have hh := kept_foldl (l := (s.crest p).held) (f := fun (s : State) k => s.setHold k.1 k.2 p wHalt true)
    (fun _ k h => setHold_kept k.1 k.2 p wHalt true h) (modMg_any (fun m => { m with haltStat := orBit m.haltStat l })
    (modCrest_kept p (fun c => { c with halted := true }) (.refl true false s)))
  split
  · exact addTrace_kept _ _ _ _ _ _ hh
  · exact hh

theorem execSeDebugReq_kept (s : State) (p : Path) (lvl : Nat) : KeptO true false s (execSeDebugReq p lvl s) :=
  .next (written_kept p (fun _ h => kept_ite (debugReq_kept p _ h) h) (.refl _ _ s))

/-- The straps are decoded with the caps where they are. -/
theorem execStrapDecode_kept (s : State) (a b c d : Nat) : KeptO true false s (execStrapDecode a b c d s) := by
  refine .ite (.next (.refl _ _ s)) ?_
  dsimp only
  split
  · exact .next (modSb_any _ (.refl _ _ s))
  · exact .next (kept_ite (setTaint_kept 0 (modMg_any _ (modSb_any _ (.refl _ _ s))))
      (modMg_any _ (modSb_any _ (.refl _ _ s))))

theorem execFwVerifyDone_kept (s : State) : KeptO true false s (execFwVerifyDone s) := by
  unfold execFwVerifyDone
  split
  · exact .next (.refl _ _ s)
  next len who _ =>
  have hr : KeptO true false s (.next (s.imageRefused who)) := .next (imageRefused_kept who (.refl _ _ s))
  exact .ite hr (.ite (.next (imageAccepted_kept who len _ _ _ (.refl _ _ s))) hr)

/-- Less may be claimed of what is kept. -/
theorem Kept.weakenCaps {fg : Bool} {s t : State} (h : Kept true fg s t) : Kept false fg s t :=
  ⟨h.queue, h.mem, nofun, h.guarded⟩

theorem KeptO.weakenCaps {fg : Bool} {s : State} {o : Host.Outcome State Fault Refusal} (h : KeptO true fg s o) :
    KeptO false fg s o := fun t e => (h t e).weakenCaps

/-- Every row of the table leaves the queue alone and the memories canonical. -/
theorem exec_keepsQueueAndMemory (c : Instr) (s : State) : KeptO false false s (exec c s) := by
  have hk : Kept false false s s := .refl _ _ s
  cases h : reachesGuarded c with
  | false => exact exec_kept hk h
  | true =>
    cases c with
    | registerWrite r v => exact execRegisterWrite_kept s r v
    | ptCreate p | ptReshape p | ptDestroy p | ptReset p | rpRetire p | fwSbOpen p | fwSbActivate p | resetCold p
    | resetWarm p | resetCrest p | resetLink p => exact written_mgCmd_kept s p _
    | crestHalt p => exact (execCrestHalt_kept s p).weakenCaps
    | seDebugReq p lvl => exact (execSeDebugReq_kept s p lvl).weakenCaps
    | sbWrite a d crc reach => exact .next (sbFrame_kept _ _ _ _ (fun _ h => portWrite_kept _ _ reach h) hk)
    | alwaysOnReset => exact .next (cold_kept 0 hk)
    | refclkInvalid => exact .ite (.next (cold_kept 0 hk)) (.next (cold_kept 1 hk))
    | alwaysOnRelease => exact .ite (.next hk) (.next (modMg_any _ hk))
    | strapDecode a b c d => exact (execStrapDecode_kept s a b c d).weakenCaps
    | fwVerifyDone => exact (execFwVerifyDone_kept s).weakenCaps
    | watchdog => exact .ite (.next (warm_kept 4 hk)) (.next hk)
    | _ => nomatch h

/-! The caps. -/

/-- The step to `t` leaves the caps in order where `s` had them so. -/
def KeepsOrder (s t : State) : Prop := CapsOrdered s → CapsOrdered t

/-- What an outcome that goes on leaves in order. -/
def KeepsOrderO (s : State) (o : Host.Outcome State Fault Refusal) : Prop := ∀ t, o = .next t → KeepsOrder s t

section
variable {s t u : State}

theorem KeepsOrder.refl (s : State) : KeepsOrder s s := id

/-- Caps that stay stay in order. -/
theorem Kept.keepsOrder (h : Kept true false s t) : KeepsOrder s t := by
  obtain ⟨hs, h1, h2⟩ := h.caps rfl
  unfold KeepsOrder CapsOrdered
  rw [hs, h1, h2]
  exact id

theorem KeepsOrder.trans (h : KeepsOrder s t) (g : KeepsOrder t u) : KeepsOrder s u := g ∘ h

theorem KeepsOrder.kept (h : KeepsOrder s t) (k : Kept true false t u) : KeepsOrder s u := h.trans k.keepsOrder

theorem KeepsOrder.ite {c : Prop} [Decidable c] (ht : c → KeepsOrder s t) (hu : ¬c → KeepsOrder s u) :
    KeepsOrder s (if c then t else u) := by
  split
  · exact ht ‹_›
  · exact hu ‹_›

theorem KeepsOrderO.next (h : KeepsOrder s t) : KeepsOrderO s (.next t) := fun _ e => Host.Outcome.next.inj e ▸ h

theorem KeepsOrderO.ite {c : Prop} [Decidable c] {a b : Host.Outcome State Fault Refusal} (ha : KeepsOrderO s a)
    (hb : KeepsOrderO s b) : KeepsOrderO s (if c then a else b) := by
  split
  · exact ha
  · exact hb

theorem KeptO.keepsOrder {o : Host.Outcome State Fault Refusal} (h : KeptO true false s o) : KeepsOrderO s o :=
  fun t e => (h t e).keepsOrder
end

/-- The caps' reset values are in order (Table PWR-2). -/
theorem capsOrdered_of_reset {s : State} (h : s.pwr.capSust = 0x1400 ∧ s.pwr.capPk1 = 0x1CC0 ∧ s.pwr.capPk2 = 0x1A40) :
    CapsOrdered s := by
  obtain ⟨hs, h1, h2⟩ := h
  simp [CapsOrdered, hs, h1, h2]

theorem cold_keepsOrder (s : State) (cause : Nat) : KeepsOrder s (s.cold cause) :=
  fun _ => capsOrdered_of_reset ⟨rfl, rfl, rfl⟩

/-- A WARM reset puts the caps at their reset values (Table BOOT-4). -/
theorem warm_keepsOrder (s : State) (cause : Nat) : KeepsOrder s (s.warm cause) := by
  intro _
  unfold State.warm
  extract_lets s1 s2 s3 go s4 s5
  have h4 : CapsOrdered s4 := capsOrdered_of_reset ⟨rfl, rfl, rfl⟩
  clear_value s4
  have h5 : Kept true false s4 s5 := by
    dsimp only [s5]
    split
    · exact modMg_any _ (.refl _ _ _)
    · exact .refl _ _ _
  clear_value s5
  refine Kept.keepsOrder (applyHw_kept ?_) h4
  split
  · exact h5
  · exact fwWait_kept h5

/-- R249: a cap that is taken keeps its range and the order with the others; any other write changes none. -/
theorem writePw_keepsOrder (s : State) (a v : Nat) : KeepsOrder s (s.writePw a v) := by
  have bad : KeepsOrder s s.badEnc := (badEnc_kept (.refl _ _ s)).keepsOrder
  have same {f : Pwr → Pwr} (e : ∀ w, (f w).capSust = w.capSust ∧ (f w).capPk1 = w.capPk1 ∧ (f w).capPk2 = w.capPk2) :
      Kept true false s (s.modPwr f) := modPwr_kept f (.refl _ _ s) e
  unfold State.writePw
  split
  case h_1 =>
    refine .ite (fun hok h => ?_) fun _ => bad
    simp only [State.capOk, Bool.and_eq_true, decide_eq_true_eq] at hok
    obtain ⟨h1, h2, h3, h4, h5, -⟩ := h
    obtain ⟨⟨g1, g2, g3⟩, -⟩ := hok
    exact ⟨g1, g3, h3, h4, h5, g2⟩
  case h_2 =>
    refine .ite (fun hok h => ?_) fun _ => bad
    simp only [State.capOk, decide_eq_true_eq] at hok
    obtain ⟨h1, h2, -, -, h5, h6⟩ := h
    exact ⟨h1, h2, hok.1, hok.2, h5, h6⟩
  case h_3 =>
    refine .ite (fun hok h => ?_) fun _ => bad
    simp only [State.capOk, decide_eq_true_eq] at hok
    obtain ⟨h1, -, -, h4, -, h6⟩ := h
    exact ⟨h1, hok.1, hok.2.1, h4, hok.2.2, h6⟩
  case h_4 => exact (writeMode_kept v (.refl _ _ s)).keepsOrder
  case h_5 => exact .ite (fun _ => bad) fun _ => (same fun _ => ⟨rfl, rfl, rfl⟩).keepsOrder
  case h_9 =>
    exact Kept.keepsOrder (kept_ite (clearLearned_kept (same fun _ => ⟨rfl, rfl, rfl⟩)) (same fun _ => ⟨rfl, rfl, rfl⟩))
  case h_11 => exact .refl s
  all_goals exact (same fun _ => ⟨rfl, rfl, rfl⟩).keepsOrder

theorem mgStart_keepsOrder (s : State) (path : Path) (v : Nat) : KeepsOrder s (s.mgStart path v) := by
  unfold State.mgStart
  dsimp only
  split
  · exact (ptCreate_kept path _ (.refl _ _ s)).keepsOrder
  · exact (ptReshape_kept path _ (.refl _ _ s)).keepsOrder
  · exact (ptDestroy_kept _ (.refl _ _ s)).keepsOrder
  · exact (ptReset_kept _ (.refl _ _ s)).keepsOrder
  · exact (doRetire_kept _ _ (.refl _ _ s)).keepsOrder
  · exact (doSbOpen_kept (.refl _ _ s)).keepsOrder
  · exact (doSbActivate_kept (.refl _ _ s)).keepsOrder
  · exact cold_keepsOrder s 2
  · exact warm_keepsOrder s 3
  · exact (doResetCrest_kept _ (.refl _ _ s)).keepsOrder
  · exact (doResetLink_kept _ (.refl _ _ s)).keepsOrder
  · exact (mgResult_kept _ _ (.refl _ _ s)).keepsOrder

theorem mgCmd_keepsOrder (s : State) (path : Path) (v : Nat) : KeepsOrder s (s.mgCmd path v) := by
  have any (f : Mgmt → Mgmt) : KeepsOrder s (s.modMg f) := (modMg_any f (.refl _ _ s)).keepsOrder
  unfold State.mgCmd
  exact .ite (fun _ => .refl s) fun _ => .ite (fun _ => .ite (fun _ => any _) fun _ => any _)
    fun _ => mgStart_keepsOrder s path v

theorem regWrite_keepsOrder (s : State) (p : Path) (a v : Nat) : KeepsOrder s (s.regWrite p a v) := by
  have hk : Kept true false s s := .refl _ _ s
  have hr : KeepsOrder s s := .refl s
  have any (f : Mgmt → Mgmt) : KeepsOrder s (s.modMg f) := (modMg_any f hk).keepsOrder
  unfold State.regWrite
  dsimp only
  refine .ite (fun _ => hr) fun _ => .ite (fun _ => mgCmd_keepsOrder s p v) fun _ => ?_
  refine .ite (fun _ => any _) fun _ => .ite (fun _ => any _) fun _ => ?_
  refine .ite (fun _ => .ite (fun _ => any _) fun _ => hr) fun _ => .ite (fun _ => .ite (fun _ => any _) fun _ => hr) fun _ => ?_
  refine .ite (fun _ => (writeBank_kept p v hk).keepsOrder) fun _ => ?_
  refine .ite (fun _ => (setIndAddr_kept p v hk).keepsOrder) fun _ => ?_
  refine .ite (fun _ => (indirect_kept p _ _ _ hk).keepsOrder) fun _ => ?_
  refine .ite (fun _ => (indirect_kept p _ _ _ hk).keepsOrder) fun _ => ?_
  refine .ite (fun _ => .ite (fun _ => writePw_keepsOrder s a v) fun _ => hr) fun _ => ?_
  refine .ite (fun _ => .ite (fun _ => (writeDebugReq_kept p v hk).keepsOrder) fun _ => hr) fun _ => ?_
  refine .ite (fun _ => .ite (fun _ => (writePolicy_kept v hk).keepsOrder) fun _ => hr) fun _ => ?_
  refine .ite (fun _ => .ite (fun _ => (writeThresh_kept v hk).keepsOrder) fun _ => hr) fun _ => ?_
  refine .ite (fun _ => .ite (fun _ => (writeDiag_kept v hk).keepsOrder) fun _ => hr) fun _ => ?_
  refine .ite (fun _ => (writePtCtl_kept p v hk).keepsOrder) fun _ => ?_
  refine .ite (fun _ => .ite (fun _ => (writePt_kept p a v hk).keepsOrder) fun _ => hr) fun _ => ?_
  refine .ite (fun _ => .ite (fun _ => (writeSb_kept a v hk).keepsOrder) fun _ => hr) fun _ => ?_
  refine .ite (fun _ => .ite (fun _ => hr) fun _ => ?_) fun _ => hr
  refine .ite (fun _ => (dbgPort_kept _ _ hk).keepsOrder) fun _ => ?_
  exact .ite (fun _ => (dbgPort_kept _ _ hk).keepsOrder) fun _ => (writeDbg_kept a v hk).keepsOrder

theorem portWrite_keepsOrder (s : State) (a v : Nat) (reach : Bool) : KeepsOrder s (s.portWrite a v reach).1 := by
  unfold State.portWrite
  split
  · split
    · exact .refl s
    · split
      · exact (dbgPort_kept _ _ (.refl _ _ s)).keepsOrder
      · exact regWrite_keepsOrder s .port a v
  · split
    · exact (indirect_kept _ _ _ _ (.refl _ _ s)).keepsOrder
    · exact regWrite_keepsOrder s .port a v

/-- The answer over a path leaves the caps where the access does. -/
theorem access_keepsOrder {s : State} (p : Path) (write : Bool) {f : State → State × Nat × Nat}
    (h : KeepsOrder s (f s).1) : KeepsOrder s (s.access p write f) := by
  refine .ite (fun _ => .refl s) fun _ => ?_
  cases p with
  | port => exact h.kept (answer_kept _ _ (.refl _ _ _))
  | bar0 => exact .ite (fun _ => h) fun _ => h.kept (emit_kept _ (.refl _ _ _))

theorem written_mgCmd_keepsOrder (s : State) (p : Path) (v : Nat) :
    KeepsOrderO s (.next (s.written p fun s => s.mgCmd p v)) :=
  .next (access_keepsOrder p true (mgCmd_keepsOrder s p v))

theorem sbFrame_keepsOrder {s : State} (op a : Nat) (d : Option Nat) (crc : Nat) {f : State → State × Nat × Nat}
    (h : KeepsOrder s (f s).1) : KeepsOrder s (s.sbFrame op a d crc f) :=
  .ite (fun _ => .refl s) fun _ => .ite (fun _ => (answer_kept _ _ (.refl _ _ s)).keepsOrder)
    fun _ => h.kept (answer_kept _ _ (.refl _ _ _))

theorem execRegisterWrite_keepsOrder (s : State) (r : RegTarget) (v : Nat) : KeepsOrderO s (execRegisterWrite r v s) := by
  have hk : Kept true false s s := .refl _ _ s
  cases r with
  | mgmt p a =>
    refine .next (access_keepsOrder p true ?_)
    split
    · exact .refl s
    · exact regWrite_keepsOrder s p a v
  | queue q off => exact .next (kept_ite (writeQueue_kept q off v hk) hk).keepsOrder
  | mailbox off => exact .next (writeMailbox_kept off v hk).keepsOrder
  | bias off => exact .next (kept_ite (writeBias_kept off v hk) hk).keepsOrder
  | msix vec w => exact .next (kept_ite (writeMsix_kept vec w v hk) hk).keepsOrder

/-- Every row of the table leaves the caps in order. -/
theorem exec_keepsOrder (c : Instr) (s : State) : KeepsOrderO s (exec c s) := by
  cases h : reachesGuarded c with
  | false => exact (exec_kept (.refl _ _ s) h).keepsOrder
  | true =>
    cases c with
    | registerWrite r v => exact execRegisterWrite_keepsOrder s r v
    | ptCreate p | ptReshape p | ptDestroy p | ptReset p | rpRetire p | fwSbOpen p | fwSbActivate p | resetCold p
    | resetWarm p | resetCrest p | resetLink p => exact written_mgCmd_keepsOrder s p _
    | crestHalt p => exact (execCrestHalt_kept s p).keepsOrder
    | seDebugReq p lvl => exact (execSeDebugReq_kept s p lvl).keepsOrder
    | sbWrite a d crc reach => exact .next (sbFrame_keepsOrder _ _ _ _ (portWrite_keepsOrder s _ _ reach))
    | alwaysOnReset => exact .next (cold_keepsOrder s 0)
    | refclkInvalid => exact .ite (.next (cold_keepsOrder s 0)) (.next (cold_keepsOrder s 1))
    | alwaysOnRelease => exact .ite (.next (.refl s)) (.next (.refl s))
    | strapDecode a b c d => exact (execStrapDecode_kept s a b c d).keepsOrder
    | fwVerifyDone => exact (execFwVerifyDone_kept s).keepsOrder
    | watchdog => exact .ite (.next (warm_keepsOrder s 4)) (.next (.refl s))
    | _ => nomatch h

/-! The steps. -/

theorem step_of_cons {c : Instr} {cs : List Instr} {s : State} (h : s.pending = c :: cs) :
    step s = exec c { s with pending := cs } := by
  unfold step
  rw [h]

theorem step_of_nil {s : State} (h : s.pending = []) : step s = .next s := by
  unfold step
  rw [h]

/-- What every row keeps and the queue does not bear on, every step keeps. -/
theorem step_keeps {P : State → Prop} (hq : ∀ s cs, P s → P { s with pending := cs })
    (he : ∀ c s t, exec c s = .next t → P s → P t) {s t : State} (hs : P s) (h : step s = .next t) : P t := by
  cases hp : s.pending with
  | nil =>
    rw [step_of_nil hp] at h
    exact Host.Outcome.next.inj h ▸ hs
  | cons c cs =>
    rw [step_of_cons hp] at h
    exact he c _ t h (hq s cs hs)

/-- Settles O1: both cases are the definition of a step. -/
theorem stepRunsTheFrontCommandOrIdles : Obligations.StepRunsTheFrontCommandOrIdles :=
  ⟨fun _ _ _ => step_of_cons, fun _ => step_of_nil⟩

/-- Settles O2, row by row, by what each leaves of the queue. -/
theorem execLeavesTheQueueAlone : Obligations.ExecLeavesTheQueueAlone :=
  fun c s t h => (exec_keepsQueueAndMemory c s t h).queue

/-- Settles O58, row by row, by the form in which each leaves the memories. -/
theorem stepsKeepMemoryCanonical : Obligations.StepsKeepMemoryCanonical :=
  fun _ _ => step_keeps (fun _ _ h => h) fun c s t h => (exec_keepsQueueAndMemory c s t h).mem

/-- Settles O56: a cap is written only where it keeps the order, a COLD or WARM reset puts all of them at their reset values,
and every other row lets them be. -/
theorem stepsKeepTheCapsInOrder : Obligations.StepsKeepTheCapsInOrder :=
  fun _ _ => step_keeps (fun _ _ h => h) fun c s t h => exec_keepsOrder c s t h

end Sys2Proof.Machine
end

section
/-!
Branches (O6): what an instruction that is issued leaves of its crest, and what a taken branch makes of PC.
-/
namespace Sys2Proof.Machine
open Sys2Proof.Claim

/-- The tile of a command on a crest has been busy for `n` CCLK more. -/
def Crest.spends (x : Crest) (q t n : Nat) : Crest :=
  { x with work := x.work.map fun w => if w.q = q ∧ w.t = t then { w with spent := w.spent + n } else w }

/-- A crest whose PC and whose wait for results are set, as a branch sets them. -/
def Crest.branched (x : Crest) (wait : Tbl Nat) (pc : Nat) : Crest := { x with redWait := wait, pc := pc }

theorem crest_busyOn_same (s : State) (p q t n : Nat) : (s.busyOn p q t n).crest p = (s.crest p).spends q t n :=
  State.crest_modCrest_same ..

theorem crest_busyOn_other (s : State) {p k : Nat} (hk : k ≠ p) (q t n : Nat) : (s.busyOn p q t n).crest k = s.crest k :=
  State.crest_modCrest_other _ _ _ _ hk

theorem passCclk_exists (x : Crest) (n pc : Nat) : ∃ wait, { x.passCclk n with pc := pc } = x.branched wait pc := ⟨_, rfl⟩

section
variable {s : State} {p op : Nat} {i : VInst} {c : Cmd}

/-- The instruction at the PC of a running invocation does what its body says (R74). -/
theorem vstep_of_runs (h : Runs s p op i c) {n : Nat} {body : VBody} {t : State} (hb : body (issued s p op i c n) c = .ok t) :
    s.vstep p op i n body = .next t := by
  obtain ⟨v, hv, hc, hl⟩ := h.inv
  obtain ⟨hq, ht⟩ := cmd?_key hc
  refine vstep_ok s p op i n body v c t h.works h.code h.fields hv hc hl ?_
  rwa [issued, hq, ht] at hb

/-- An instruction issued moves PC, and leaves the S registers and the invocation as they are. -/
theorem crest_issued (s : State) (p op : Nat) (i : VInst) (c : Cmd) (n : Nat) : let x := (issued s p op i c n).crest p
    x.S = (s.crest p).S ∧ x.base = (s.crest p).base ∧ x.pc = ((s.crest p).pc + 1) % 1024 := by
  dsimp only
  rw [issued, State.issue, crest_busyOn_same, State.crest_modCrest_same]
  exact ⟨rfl, rfl, rfl⟩

theorem sreg_issued (s : State) (p op : Nat) (i : VInst) (c : Cmd) (n r : Nat) :
    ((issued s p op i c n).crest p).sreg r = (s.crest p).sreg r := by
  obtain ⟨hS, -, -⟩ := crest_issued s p op i c n
  rw [Crest.sreg, Crest.sreg, hS]

theorem brTaken_issued (s : State) (p op : Nat) (i : VInst) (c : Cmd) (n : Nat) :
    brTaken i ((issued s p op i c n).crest p) = brTaken i (s.crest p) := by
  simp only [brTaken, sreg_issued]

end

/-- What a change of a crest leaves, where CCLK are spent on the crest behind it. -/
theorem modCrest_busyOn (u : State) (p q t n : Nat) (f : Crest → Crest) :
    (u.modCrest p f).busyOn p q t n = { u.busyOn p q t n with crests := ((u.modCrest p f).busyOn p q t n).crests } := rfl

/-- A taken branch: on its crest PC and the wait for results are set and one CCLK is spent. -/
theorem crest_jump (u : State) (p : Nat) (c : Cmd) (i : VInst) : ∃ wait, (u.jump p c i).crest p =
    ((u.crest p).branched wait (((u.crest p).base + i.imm % 1024) % 1024)).spends c.q c.t 1 := by
  obtain ⟨wait, hwait⟩ := passCclk_exists (u.crest p) 1 (((u.crest p).base + i.imm % 2 ^ 10) % 1024)
  refine ⟨wait, ?_⟩
  rw [State.jump, crest_busyOn_same, State.crest_modCrest_same, hwait, show (2 : Nat) ^ 10 = 1024 by decide]

theorem crest_jump_other (u : State) {p k : Nat} (hk : k ≠ p) (c : Cmd) (i : VInst) : (u.jump p c i).crest k = u.crest k :=
  (crest_busyOn_other _ hk ..).trans (State.crest_modCrest_other _ _ _ _ hk)

/-- A taken branch costs one CCLK, and changes PC and the wait for results alone (Table VEC-5). -/
theorem jump_onlyIn (u : State) (p : Nat) (c : Cmd) (i : VInst) :
    OnlyIn (u.busyOn p c.q c.t 1) (u.jump p c i) p (fun y => { y with pc := 0, redWait := [] }) := by
  obtain ⟨wait, hjump⟩ := crest_jump u p c i
  refine ⟨modCrest_busyOn .., fun k hk => ?_, ?_⟩
  · rw [crest_jump_other u hk, crest_busyOn_other u hk]
  · rw [hjump, crest_busyOn_same]
    rfl

theorem crest_jump_fields (u : State) (p : Nat) (c : Cmd) (i : VInst) : ((u.jump p c i).crest p).S = (u.crest p).S ∧
    ((u.jump p c i).crest p).pc = ((u.crest p).base + i.imm % 1024) % 1024 := by
  obtain ⟨wait, hjump⟩ := crest_jump u p c i
  rw [hjump]
  exact ⟨rfl, rfl⟩

/-- LOOP's last step: S[VD] alone has changed. -/
theorem countDown_onlyIn (u : State) (p r : Nat) (n : Word) :
    OnlyIn u (u.modCrest p fun x => x.setS r n) p (fun y => { y with S := [], pc := 0, redWait := [] }) := by
  refine ⟨rfl, fun k hk => State.crest_modCrest_other _ _ _ _ hk, ?_⟩
  rw [State.crest_modCrest_same]
  rfl

/-- LOOP's branch: S[VD] has changed and PC is set. -/
theorem countDown_jump_onlyIn (u : State) (p r : Nat) (n : Word) (c : Cmd) (i : VInst) :
    OnlyIn (u.busyOn p c.q c.t 1) ((u.modCrest p fun x => x.setS r n).jump p c i) p
      (fun y => { y with S := [], pc := 0, redWait := [] }) := by
  obtain ⟨hrest, hother, -⟩ := jump_onlyIn (u.modCrest p fun x => x.setS r n) p c i
  obtain ⟨wait, hjump⟩ := crest_jump (u.modCrest p fun x => x.setS r n) p c i
  refine ⟨hrest, fun k hk => ?_, ?_⟩
  · rw [hother k hk, crest_busyOn_other _ hk, crest_busyOn_other _ hk, State.crest_modCrest_other _ _ _ _ hk]
  · rw [hjump, crest_busyOn_same, State.crest_modCrest_same]
    rfl

theorem sub_one_eq_zero (a : Word) : a - 1#32 = 0#32 ↔ a = 1#32 := BitVec.sub_eq_iff_eq_add.trans (by rw [BitVec.zero_add])

/-- A branch is one jump where it is taken (Table VEC-5). -/
theorem exec_vBr {s : State} {p : Nat} {i : VInst} {c : Cmd} (h : Runs s p 0x02 i c) :
    let u := issued s p 0x02 i c 1
    exec (.vBr p i) s = .next (if brTaken i (s.crest p) then u.jump p c i else u) := by
  show execVBr p i s = _
  exact vstep_of_runs h (by rw [brTaken_issued])

/-- LOOP counts S[VD] down, and branches until it is 0 (Table VEC-5). -/
theorem exec_vLoop {s : State} {p : Nat} {i : VInst} {c : Cmd} (h : Runs s p 0x03 i c) :
    let n := (s.crest p).sreg i.vd - 1#32
    let u := (issued s p 0x03 i c 1).modCrest p fun x => x.setS i.vd n
    exec (.vLoop p i) s = .next (if n ≠ 0#32 then u.jump p c i else u) := by
  show execVLoop p i s = _
  exact vstep_of_runs h (by rw [sreg_issued])

/-- What LOOP leaves: S[VD] written, PC behind it or at its target. -/
theorem countDown_fields (u : State) (p r : Nat) (n : Word) (c : Cmd) (i : VInst) :
    let v := u.modCrest p fun x => x.setS r n
    (∀ k, ((v.jump p c i).crest p).sreg k = if k = r then n else (u.crest p).sreg k) ∧
      (∀ k, (v.crest p).sreg k = if k = r then n else (u.crest p).sreg k) ∧
      ((v.jump p c i).crest p).pc = ((u.crest p).base + i.imm % 1024) % 1024 ∧ (v.crest p).pc = (u.crest p).pc := by
  obtain ⟨hS, hpc⟩ := crest_jump_fields (u.modCrest p fun x => x.setS r n) p c i
  simp only [Crest.sreg, hS, hpc, State.crest_modCrest_same]
  exact ⟨sreg_setS _ r n, sreg_setS _ r n, rfl, rfl⟩

/-- Settles O6: NOP leaves what issuing it leaves, a taken branch is one jump more, and LOOP writes S[VD] before it. -/
theorem vectorBranches : Obligations.VectorBranches := by
  intro s p i c
  dsimp only
  refine ⟨fun h => ?_, fun h hb => ?_, fun h hb => ?_, fun h => ?_⟩
  · show execVNop p i s = _
    exact vstep_of_runs h rfl
  · rw [exec_vBr h, if_neg (by simp [hb])]
  · obtain ⟨-, hbase, -⟩ := crest_issued s p 0x02 i c 1
    refine ⟨_, (exec_vBr h).trans (by rw [if_pos hb]), jump_onlyIn _ p c i, ?_⟩
    rw [(crest_jump_fields ..).2, hbase]
  · obtain ⟨-, hbase, hpc⟩ := crest_issued s p 0x03 i c 1
    obtain ⟨hjS, hS, hjpc, hvpc⟩ := countDown_fields (issued s p 0x03 i c 1) p i.vd ((s.crest p).sreg i.vd - 1#32) c i
    simp only [sreg_issued, hbase, hpc] at hjS hS hjpc hvpc
    by_cases h1 : (s.crest p).sreg i.vd = 1#32
    · refine ⟨_, (exec_vLoop h).trans (by rw [if_neg (by simp [h1])]), ?_⟩
      rw [hS, if_pos rfl, hvpc, if_pos h1, if_pos h1]
      exact ⟨rfl, fun r hr => by rw [hS, if_neg hr], rfl, countDown_onlyIn ..⟩
    · refine ⟨_, (exec_vLoop h).trans (by rw [if_pos (by simp [sub_one_eq_zero, h1])]), ?_⟩
      rw [hjS, if_pos rfl, hjpc, if_neg h1, if_neg h1]
      exact ⟨rfl, fun r hr => by rw [hjS, if_neg hr], rfl, countDown_jump_onlyIn ..⟩

end Sys2Proof.Machine
end

section
/-!
What a path of the management file answers, and the indirect accesses that cannot be reached (O35).
-/
namespace Sys2Proof.Machine
open Sys2Proof.Claim

/-! What an access that its path hears leaves. -/

/-- The frame of an access over the register port is answered with what the access gives (R291, R293). -/
theorem access_port {s : State} {write : Bool} {f : State → State × Nat × Nat} (h : s.pathReady .port = true)
    (hr : (f s).1.mg.released = s.mg.released) : s.access .port write f = answered (f s).1 (f s).2.1 (f s).2.2 := by
  have ht : (f s).1.mg.released = true := hr.trans (released_of_pathReady_port h)
  simp only [State.access, h, Bool.not_true, Bool.false_eq_true, if_false, answer_eq_answered ht]

/-- A read through BAR0 delivers its word. -/
theorem access_bar0_read {s : State} {f : State → State × Nat × Nat} (h : s.pathReady .bar0 = true) :
    s.access .bar0 false f = (f s).1.emit (.bar0 (BitVec.ofNat 32 (f s).2.2)) := by
  simp only [State.access, h, Bool.not_true, Bool.false_eq_true, if_false]

/-- A write through BAR0 is posted. -/
theorem access_bar0_write {s : State} {f : State → State × Nat × Nat} (h : s.pathReady .bar0 = true) :
    s.access .bar0 true f = (f s).1 := by
  simp only [State.access, h, Bool.not_true, Bool.false_eq_true, if_false, if_true]

/-- A frame whose CRC matches is answered with what it asks for (R293, R294). -/
theorem sbFrame_match {s : State} {op addr : Nat} {data : Option Nat} {f : State → State × Nat × Nat}
    (h : s.pathReady .port = true) (hr : (f s).1.mg.released = s.mg.released) :
    s.sbFrame op addr data (reqCrc op addr data) f = answered (f s).1 (f s).2.1 (f s).2.2 := by
  have ht : (f s).1.mg.released = true := hr.trans (released_of_pathReady_port h)
  simp only [State.sbFrame, h, Bool.not_true, Bool.false_eq_true, if_false, ne_eq, not_true, answer_eq_answered ht]

/-! The indirect access that cannot be reached (R333). -/

theorem indirect_port_unreachable (s : State) (w : Option Word) (inc : Bool) :
    s.indirect .port w inc false = (s, false, 0) := rfl

/-- Over the register port it answers BUSY (R297). -/
theorem indRow_port_unreachable {s : State} (h : s.pathReady .port = true) (w : Option Word) (inc : Bool) :
    s.indRow .port w inc false = answered s 3 0 := by
  rw [State.indRow, access_port h (by rw [indirect_port_unreachable])]
  simp only [indirect_port_unreachable, Bool.false_eq_true, if_false]

/-- Through BAR0 it sets IND_BUSY and reads 0. -/
theorem indRow_bar0_unreachable {s : State} (h : s.pathReady .bar0 = true) (w : Option Word) (inc : Bool) :
    let after : State := { s with mg := { s.mg with indBusy := true } }
    s.indRow .bar0 w inc false = if w.isSome then after else after.emit (.bar0 0#32) := by
  unfold State.indRow
  cases w with
  | none => rw [Option.isSome_none, access_bar0_read h]; rfl
  | some v => rw [Option.isSome_some, access_bar0_write h]; rfl

/-- A READ frame of MG_IND_DATA or MG_IND_DATA_INC is an indirect access. -/
theorem portRead_indirect (s : State) {a : Nat} (ha : a = 0x0A ∨ a = 0x0B) (reachable : Bool) :
    s.portRead a reachable =
      let r := s.indirect .port none (decide (a = 0x0B)) reachable
      (r.1, if r.2.1 then 0 else 3, r.2.2) := by
  rw [State.portRead, if_neg (by omega), if_pos ha]

theorem portWrite_indirect (s : State) {a : Nat} (ha : a = 0x0A ∨ a = 0x0B) (v : Nat) (reachable : Bool) :
    s.portWrite a v reachable =
      let r := s.indirect .port (some (BitVec.ofNat 32 v)) (decide (a = 0x0B)) reachable
      (r.1, if r.2.1 then 0 else 3, 0) := by
  rw [State.portWrite, if_neg (by omega), if_pos ha]

/-- Settles O35: an access that is not reached leaves the state, IND_BUSY apart, and each path has its answer to that. -/
theorem unreachableIndirectAccess : Obligations.UnreachableIndirectAccess := by
  intro s v w
  refine ⟨fun h => ⟨?_, ?_, fun a ha => ⟨?_, ?_⟩⟩, fun h => ⟨?_, ?_, ?_, ?_⟩⟩
  · exact congrArg Host.Outcome.next (indRow_port_unreachable h w false)
  · exact congrArg Host.Outcome.next (indRow_port_unreachable h w true)
  · have hmod : a % 256 = a := Nat.mod_eq_of_lt (by omega)
    show Host.Outcome.next (s.sbFrame ..) = _
    rw [hmod, sbFrame_match h (by rw [portRead_indirect s ha]; rfl), portRead_indirect s ha]
    rfl
  · have hmod : a % 256 = a := Nat.mod_eq_of_lt (by omega)
    have hv : v.toNat % 2 ^ 32 = v.toNat := Nat.mod_eq_of_lt v.isLt
    show Host.Outcome.next (s.sbFrame ..) = _
    rw [hmod, hv, sbFrame_match h (by rw [portWrite_indirect s ha]; rfl), portWrite_indirect s ha]
    rfl
  · exact congrArg Host.Outcome.next (indRow_bar0_unreachable h none false)
  · exact congrArg Host.Outcome.next (indRow_bar0_unreachable h none true)
  · exact congrArg Host.Outcome.next (indRow_bar0_unreachable h (some v) false)
  · exact congrArg Host.Outcome.next (indRow_bar0_unreachable h (some v) true)

end Sys2Proof.Machine
end

section
/-!
Staging and the commands that take it (O27).
-/
namespace Sys2Proof.Machine
open Sys2Proof.Claim

/-! Masked bits. -/

theorem testBit_andNot (v m i : Nat) : (andNot v m).testBit i = (v.testBit i && !m.testBit i) := by
  rw [andNot, Nat.testBit_xor, Nat.testBit_and]
  cases v.testBit i <;> cases m.testBit i <;> rfl

/-- PT_CTL as a command leaves it: the bits of `m` from `old`, the others from `new`. -/
theorem testBit_andNot_or (new old m i : Nat) :
    (andNot new m ||| (old &&& m)).testBit i = if m.testBit i then old.testBit i else new.testBit i := by
  rw [Nat.testBit_or, testBit_andNot, Nat.testBit_and]
  cases m.testBit i <;> simp

/-! The staging copies. -/

/-- The path that is not `p`. -/
def otherPath (p : Path) : Path := match p with | .port => .bar0 | .bar0 => .port

theorem staging_acked (path p : Path) (s : State) : (acked path s).staging p = s.staging p := by
  cases path <;> cases p <;> rfl

theorem staging_loadStaging_same (s : State) (path : Path) (v : Nat) : (s.loadStaging path v).staging path =
    let x := s.part (v % 8)
    { sel := v % 8, crests := x.crests, slices := x.slices, queues := x.queues, ctl := x.ctl, guar := x.guar } := by
  cases path <;> rfl

theorem staging_loadStaging_other (s : State) (path : Path) (v : Nat) :
    (s.loadStaging path v).staging (otherPath path) = s.staging (otherPath path) := by
  cases path <;> rfl

theorem loadStaging_frame (s : State) (path : Path) (v : Nat) :
    (s.loadStaging path v).parts = s.parts ∧ (s.loadStaging path v).mg = s.mg := by
  cases path <;> exact ⟨rfl, rfl⟩

/-- PT_SEL loads the path's copy (R207, R327). -/
theorem exec_ptSel {s : State} {path : Path} (hp : s.pathReady path = true) (ha : s.allows path 0 = true) (v : Nat) :
    exec (.ptSel path v) s = .next (acked path (s.loadStaging path v)) := by
  have heff : (if s.allows path polPt then s.loadStaging path v else s) = s.loadStaging path v := if_pos ha
  refine congrArg Host.Outcome.next ((written_eq_acked hp ?_).trans (congrArg (acked path) heff))
  rw [heff, (loadStaging_frame s path v).2]

/-! The commands. -/

section
variable {s : State} {path : Path} {p : Nat}

theorem exec_ptReshape (h : Heard s path 0x11) (hp : p < 8) :
    exec (.ptReshape path p) s = .next (acked path (s.ptReshape path p)) := by
  obtain ⟨hop, hpart⟩ := ptWord_fields (op := 0x11) (by decide) hp
  have hr := ((ptReshape_kept path p (.refl false true s)).guarded rfl).2.2.1
  refine congrArg Host.Outcome.next (written_of_heard h (by decide) hp ?_ hr)
  rw [State.mgStart, hop, hpart]
  rfl

/-- A command whose partition the path's PT_SEL does not name is refused (R327). -/
theorem ptCreate_mismatch (hsel : (s.staging path).sel ≠ p) : s.ptCreate path p = s.ptResult p csArg dSel := if_pos hsel

theorem ptReshape_mismatch (hsel : (s.staging path).sel ≠ p) : s.ptReshape path p = s.ptResult p csArg dSel := if_pos hsel

/-- A reshape past its checks starts with QUIESCE, with INTERLEAVE and DBG_OPTIN as they were (R208, R212). -/
theorem ptReshape_starts (hsel : (s.staging path).sel = p) (hst : (s.part p).st = 1)
    (hg : ¬((s.staging path).crests = 0 ∨ (s.staging path).slices = 0 ∨ (s.staging path).queues = 0))
    (hgain : s.gainChecks (andNot (s.staging path).crests (s.part p).crests) (andNot (s.staging path).slices (s.part p).slices)
      (andNot (s.staging path).queues (s.part p).queues) = none)
    (hcheck : s.reshapeChecks p (s.staging path).slices (andNot (s.part p).slices (s.staging path).slices)
      (andNot (s.part p).queues (s.staging path).queues) = none) :
    s.ptReshape path p = s.reshapeStart 0x11 p (s.staging path).crests (s.staging path).slices (s.staging path).queues
      (andNot (s.staging path).ctl 5 ||| ((s.part p).ctl &&& 5)) (s.staging path).guar := by
  unfold State.ptReshape
  dsimp only
  rw [if_neg (not_not.2 hsel), if_neg (not_not.2 hst), if_neg hg, hgain]
  dsimp only
  rw [hcheck]

end

/-- What the new partition takes of a staging copy (R210, R327). -/
theorem ptResult_created_part (s : State) (g : Staging) (p : Nat) :
    let x := ((s.freeTransit.created g p).liveChange.ptResult p csOk 0).part p
    x.crests = g.crests ∧ x.slices = g.slices ∧ x.queues = g.queues ∧ x.guar = g.guar ∧
      x.ctl = andNot g.ctl 4 ||| ((s.part p).ctl &&& 4) := by
  have hlive : (s.freeTransit.created g p).liveChange.part p = (s.freeTransit.created g p).part p :=
    part_of_parts (liveChange_rest _).2.2.2.2.2.2 p
  have hold : ((((s.freeTransit.freshQueues g.queues).zeroTrace p).releaseEnergy p).part p).ctl = (s.part p).ctl := by
    rw [part_releaseEnergy_same]
    show ((s.freeTransit.freshQueues g.queues).part p).ctl = _
    rw [part_of_parts (freshQueues_frame _ _).1, part_of_parts (freeTransit_frame s).1]
  dsimp only
  rw [ptResult_part, hlive, State.created, State.part_modPart_same]
  exact ⟨rfl, rfl, rfl, rfl, by rw [hold]⟩

/-- Settles O27: each command reads the copy of its own path, which PT_SEL alone loads here. -/
theorem partitionCommandsTakeThePathsStaging : Obligations.PartitionCommandsTakeThePathsStaging := by
  intro s path p v hp
  refine ⟨fun hready hallow => ?selected, fun h hsel => ?createRefused, fun h hsel => ?reshapeRefused,
    fun h hsel hst hc hs hq hnone => ?created, fun h hsel hst hc hs hq hgain hcheck => ?reshaped⟩
  case selected =>
    refine ⟨_, exec_ptSel hready hallow v, ?_⟩
    rw [staging_acked, staging_acked, staging_loadStaging_same, (acked_rest path _).1, (loadStaging_frame s path v).1]
    exact ⟨rfl, rfl, rfl, rfl, staging_loadStaging_other s path v, rfl⟩
  case createRefused => exact (exec_ptCreate h hp).trans (by rw [ptCreate_mismatch hsel]; rfl)
  case reshapeRefused => exact (exec_ptReshape h hp).trans (by rw [ptReshape_mismatch hsel]; rfl)
  case created =>
    have hchecked := ptCreate_checked hsel hst (by simp [hc, hs, hq])
    rw [hnone] at hchecked
    obtain ⟨hcrests, hslices, hqueues, hguar, hctl⟩ := ptResult_created_part s (s.staging path) p
    refine ⟨_, (exec_ptCreate h hp).trans (by rw [hchecked]), ?_⟩
    rw [part_acked]
    refine ⟨hcrests, hslices, hqueues, hguar, ?_⟩
    rw [Part.interleave, Part.peerIngress, Part.crestOff, Part.dbgOptin, hctl]
    exact ⟨testBit_andNot_or _ _ 4 0, testBit_andNot_or _ _ 4 1, testBit_andNot_or _ _ 4 3, testBit_andNot_or _ _ 4 2⟩
  case reshaped =>
    have hstart := ptReshape_starts hsel hst (by simp [hc, hs, hq]) hgain hcheck
    obtain ⟨-, -, -, -, -, hjournal⟩ := acked_rest path (s.ptReshape path p)
    obtain ⟨hmg, -, -⟩ := acked_frame path (s.ptReshape path p)
    refine ⟨_, _, exec_ptReshape h hp, hjournal.trans (by rw [hstart]; rfl), rfl, rfl, rfl, rfl, rfl, rfl, rfl, ?_⟩
    rw [part_acked, hmg, hstart, reshapeStart_part_same]
    exact ⟨testBit_andNot_or _ _ 5 1, testBit_andNot_or _ _ 5 3, testBit_andNot_or _ _ 5 0, testBit_andNot_or _ _ 5 2,
      rfl, rfl, rfl⟩

end Sys2Proof.Machine
end

section
/-!
The IAL frame (O38): what the die drives, and what it reads of the wire.
-/
namespace Sys2Proof.Machine
open Sys2Proof.Claim

/-! What the die drives. -/

/-- The position's slot is low where an alert is set and enabled (R331), whatever the epoch slots carry. -/
theorem testBit_ialDrive (s : State) : s.ialDrive.testBit s.position = !s.slotAsserted := by
  have hslots (n b : Nat) (hn : n < 4) : (b + epochSlots s.sb.driven).testBit n = b.testBit n := by
    have hepoch : epochSlots s.sb.driven % 2 ^ 4 = 0 := by
      unfold epochSlots flagAt
      split <;> split <;> split <;> split <;> decide
    have hmod (x : Nat) : x.testBit n = (x % 2 ^ 4).testBit n := by rw [Nat.testBit_mod_two_pow, decide_eq_true hn, Bool.true_and]
    rw [hmod, hmod b, Nat.add_mod, hepoch, Nat.add_zero, Nat.mod_mod]
  have hpos : s.position < 4 := by
    unfold State.position bits
    omega
  rw [State.ialDrive, hslots _ _ hpos]
  have hcases : s.position = 0 ∨ s.position = 1 ∨ s.position = 2 ∨ s.position = 3 := by omega
  cases s.slotAsserted with
  | false => rcases hcases with h | h | h | h <;> rw [h] <;> rfl
  | true => rcases hcases with h | h | h | h <;> rw [h] <;> rfl

theorem slotAsserted_eq_false (s : State) : s.slotAsserted = false ↔ s.alertStat &&& s.alertEn = 0 := by
  simp [State.slotAsserted]

theorem alertEn_always (s : State) : s.alertEn.testBit 9 = true ∧ s.alertEn.testBit 17 = true := by
  simp only [State.alertEn, Nat.testBit_or, show (2 ^ 9 + 2 ^ 17 : Nat).testBit 9 = true by decide,
    show (2 ^ 9 + 2 ^ 17 : Nat).testBit 17 = true by decide, Bool.or_true, and_self]

theorem alertStat_fatalSupply {s : State} (h : s.mg.fatalSupply = true) : s.alertStat.testBit 9 = true := by
  simp only [State.alertStat, h, if_true, Nat.testBit_or, Nat.testBit_two_pow_self, Bool.or_true, Bool.true_or]

theorem alertStat_minLost {s : State} (h : s.mg.minLost = true) : s.alertStat.testBit 17 = true := by
  simp only [State.alertStat, h, if_true, Nat.testBit_or, Nat.testBit_two_pow_self, Bool.or_true]

/-- A failed supply and a broken minimum service set are alerts that are always enabled (R330). -/
theorem slotAsserted_of_broken {s : State} (h : s.mg.fatalSupply = true ∨ s.mg.minLost = true) : s.slotAsserted = true := by
  refine decide_eq_true fun hzero => ?_
  have hbit (i : Nat) (hs : s.alertStat.testBit i = true) (he : s.alertEn.testBit i = true) : False := by
    have hboth := congrArg (·.testBit i) hzero
    simp only [Nat.testBit_and, hs, he, Nat.zero_testBit] at hboth
    exact absurd hboth nofun
  obtain h | h := h
  · exact hbit 9 (alertStat_fatalSupply h) (alertEn_always s).1
  · exact hbit 17 (alertStat_minLost h) (alertEn_always s).2

/-! What the die reads. -/

/-- A frame's word `r` with its slots 4 and 5 decoded, where `d` is what the die drove (R245). -/
def State.framed (s : State) (r d : Nat) : State :=
  (((s.emit (.ial d)).modSb fun b => { b with lastSlots := r }).slot4 (!r.testBit 4)).slot5 (!r.testBit 5)

/-- All slots of a frame's word decoded; where its upper slots are not released the wire is stuck (R299–R301). -/
def State.decoded (s : State) (r : Nat) : State :=
  if r / 2 ^ 12 = 15 then s.validSlots r else s.modSb fun b => { b with ialStuck := true }

/-- The levels that follow a frame's epoch (R243, R252). -/
def State.epochApplied (s : State) : State :=
  (if s.applyHw.lockstep && s.applyHw.pwr.seqPresent then s.applyHw.setAll 0 else s.applyHw).lagCheck

theorem exec_ialFrame_low {s : State} (hr : s.mg.released = true) (hs : s.sb.service = false) (slots : Nat) :
    exec (.ialFrame slots) s = .next (s.emit (.ial 0)) := if_pos (by simp [State.ialLow, hr, hs])

theorem exec_ialFrame_live {s : State} (hl : s.pathLive .port = true) (ha : s.sb.aligned = true) (hd : s.sb.armed = false)
    (slots : Nat) : exec (.ialFrame slots) s =
      let r := slots % 2 ^ 16 &&& s.ialDrive
      .next ((s.framed r s.ialDrive).decoded r).latchEpoch.epochApplied := by
  obtain ⟨hreleased, hservice⟩ := Bool.and_eq_true_iff.1 hl
  have hlow : ¬s.ialLow = true := by simp [State.ialLow, hservice]
  have hlive : ¬(!s.slotsLive) = true := by simp [State.slotsLive, hl, ha, hd]
  exact (if_neg hlow).trans (if_neg hlive)

/-- Slot 4 pulled low is SUPPLY_ALARM, and its decoding keeps the rest. -/
theorem slot4_frame (s : State) (b : Bool) : (b = true → (s.slot4 b).pwr.supplyAlarm = true) ∧ (s.slot4 b).out = s.out ∧
    (s.slot4 b).sb.lastSlots = s.sb.lastSlots ∧ (s.slot4 b).cmds = s.cmds ∧ (s.slot4 b).store = s.store := by
  unfold State.slot4
  cases b with
  | false => exact ⟨nofun, rfl, rfl, rfl, rfl⟩
  | true => cases s.sb.alarmOn <;> exact ⟨fun _ => rfl, rfl, rfl, rfl, rfl⟩

/-- Slot 5 pulled low is CAP_DROP. -/
theorem slot5_frame (s : State) (b : Bool) : (b = true → (s.slot5 b).pwr.capDrop = true) ∧ (s.slot5 b).out = s.out ∧
    (s.slot5 b).sb.lastSlots = s.sb.lastSlots ∧ (s.slot5 b).cmds = s.cmds ∧ (s.slot5 b).store = s.store ∧
    (s.slot5 b).pwr.supplyAlarm = s.pwr.supplyAlarm := by
  cases b with
  | false => exact ⟨nofun, rfl, rfl, rfl, rfl, rfl⟩
  | true => exact ⟨fun _ => rfl, rfl, rfl, rfl, rfl, rfl⟩

theorem decoded_frame (s : State) (r : Nat) : (s.decoded r).out = s.out ∧ (s.decoded r).sb.lastSlots = s.sb.lastSlots ∧
    (s.decoded r).cmds = s.cmds ∧ (s.decoded r).store = s.store ∧ (s.decoded r).pwr = s.pwr ∧
    (r / 2 ^ 12 ≠ 15 → (s.decoded r).sb.ialStuck = true) := by
  unfold State.decoded
  split
  · next h => exact ⟨rfl, rfl, rfl, rfl, rfl, fun hne => absurd h hne⟩
  · exact ⟨rfl, rfl, rfl, rfl, rfl, fun _ => rfl⟩

/-! The levels that follow it. -/

theorem cmds_length_toLevel (s : State) (p l : Nat) : (s.toLevel p l).cmds.length = s.cmds.length := by
  have hcharged (u : State) (ks : List (Nat × Nat)) :
      (ks.foldl (fun s k => s.modCmd k.1 k.2 fun c => c.charge wPower 8) u).cmds.length = u.cmds.length :=
    proj_foldl (fun s => s.cmds.length) (fun _ _ => List.length_map _) ks u
  refine proj_ite (fun s => s.cmds.length) rfl (proj_ite (fun s => s.cmds.length) ?_ ?_)
  · exact proj_ite (fun s => s.cmds.length) rfl (hcharged ..)
  · exact proj_ite (fun s => s.cmds.length) rfl (hcharged ..)

theorem cmds_length_slowTo (s : State) (c : Nat → Nat) : (s.slowTo c).cmds.length = s.cmds.length := by
  have hfixed (u : State) : u.fixedCheck.cmds.length = u.cmds.length := proj_ite (fun s => s.cmds.length) rfl rfl
  rw [slowTo_eq, hfixed]
  exact proj_foldl (fun s => s.cmds.length) (fun _ _ => proj_ite (fun s => s.cmds.length) (cmds_length_toLevel ..) rfl) _ s

theorem cmds_length_setAll (s : State) (l : Nat) : (s.setAll l).cmds.length = s.cmds.length := by
  have htarget (u : State) (p k : Nat) : (u.setTarget p k).cmds.length = u.cmds.length :=
    proj_ite (fun s => s.cmds.length) (cmds_length_toLevel ..) (proj_ite (fun s => s.cmds.length) rfl rfl)
  refine proj_foldl (fun s => s.cmds.length) (fun u p => ?_) _ s
  split
  · exact htarget ..
  · exact htarget ..
  · rfl

theorem unlevelled_epochApplied (s : State) : s.epochApplied.unlevelled = s.unlevelled := by
  rw [State.epochApplied, unlevelled_lagCheck]
  exact proj_ite State.unlevelled ((unlevelled_setAll ..).trans (unlevelled_applyHw s)) (unlevelled_applyHw s)

theorem cmds_length_epochApplied (s : State) : s.epochApplied.cmds.length = s.cmds.length := by
  have hlag (u : State) : u.lagCheck.cmds = u.cmds := rfl
  rw [State.epochApplied, hlag]
  exact proj_ite (fun s => s.cmds.length) ((cmds_length_setAll ..).trans (cmds_length_slowTo ..)) (cmds_length_slowTo ..)

/-- What the alarms and the sideband keep where only levels follow. -/
theorem alarms_of_unlevelled {s t : State} (h : t.unlevelled = s.unlevelled) : t.sb = s.sb ∧ t.out = s.out ∧
    t.pwr.supplyAlarm = s.pwr.supplyAlarm ∧ t.pwr.capDrop = s.pwr.capDrop ∧ t.store = s.store :=
  ⟨(congrArg State.sb h :), (congrArg State.out h :), (congrArg (fun u => u.pwr.supplyAlarm) h :),
    (congrArg (fun u => u.pwr.capDrop) h :), (congrArg State.store h :)⟩

/-- Settles O38: the die's word is its alert over the slots that nobody pulls, and each slot that reads low has its effect. -/
theorem ialFrameCarriesTheAlert : Obligations.IalFrameCarriesTheAlert := by
  intro s slots
  refine ⟨fun hr hs => exec_ialFrame_low hr hs slots, fun hl ha hd => ?_⟩
  let r := slots % 2 ^ 16 &&& s.ialDrive
  obtain ⟨hsb, hout, halarm, hdrop, hstore⟩ :=
    alarms_of_unlevelled (unlevelled_epochApplied ((s.framed r s.ialDrive).decoded r).latchEpoch)
  have hcmds := cmds_length_epochApplied ((s.framed r s.ialDrive).decoded r).latchEpoch
  obtain ⟨hout', hlast', hcmds', hstore', hpwr', hstuck'⟩ := decoded_frame (s.framed r s.ialDrive) r
  let t := (s.emit (.ial s.ialDrive)).modSb fun b => { b with lastSlots := r }
  obtain ⟨halarm4, hout4, hlast4, hcmds4, hstore4⟩ := slot4_frame t (!r.testBit 4)
  obtain ⟨hdrop5, hout5, hlast5, hcmds5, hstore5, halarm5⟩ := slot5_frame (t.slot4 (!r.testBit 4)) (!r.testBit 5)
  have hlast : ((s.framed r s.ialDrive).decoded r).latchEpoch.epochApplied.sb.lastSlots = r := by
    rw [hsb]
    exact hlast'.trans (hlast5.trans hlast4)
  refine ⟨_, s.ialDrive, exec_ialFrame_live hl ha hd slots, ?out, ?own, ?broken, hlast, ?alarm, ?drop, ?stuck, ?cmds, ?store⟩
  case out => exact hout.trans (hout'.trans (hout5.trans hout4))
  case own => rw [testBit_ialDrive, Bool.not_eq_true', slotAsserted_eq_false]
  case broken =>
    intro h
    rw [testBit_ialDrive, slotAsserted_of_broken h]
    rfl
  case alarm =>
    intro h
    rw [hlast] at h
    rw [halarm]
    exact (congrArg Pwr.supplyAlarm hpwr').trans (halarm5.trans (halarm4 (by rw [h]; rfl)))
  case drop =>
    intro h
    rw [hlast] at h
    rw [hdrop]
    exact (congrArg Pwr.capDrop hpwr').trans (hdrop5 (by rw [h]; rfl))
  case stuck =>
    intro h
    rw [hlast] at h
    rw [hsb]
    exact hstuck' h
  case cmds => exact hcmds.trans (congrArg List.length (hcmds'.trans (hcmds5.trans hcmds4)))
  case store => exact hstore.trans (hstore'.trans (hstore5.trans hstore4))

end Sys2Proof.Machine
end

section
/-!
Frames of the register port and the alignment of the sideband (O37).
-/
namespace Sys2Proof.Machine
open Sys2Proof.Claim

section
variable {s : State} {op a : Nat} {data : Option Nat} {f : State → State × Nat × Nat}

/-- A frame whose CRC mismatches is answered NAK_CRC and does nothing (R294). -/
theorem sbFrame_mismatch (h : s.pathReady .port = true) {crc : Nat} (hcrc : crc ≠ reqCrc op a data) :
    s.sbFrame op a data crc f = answered s 1 0 := by
  simp only [State.sbFrame, h, Bool.not_true, Bool.false_eq_true, if_false, if_pos hcrc,
    answer_eq_answered (released_of_pathReady_port h)]

/-- A busy port, or one that is not served, takes no frame (R286, R291). -/
theorem sbFrame_unheard (h : s.pathReady .port = false) (crc : Nat) : s.sbFrame op a data crc f = s := by
  simp only [State.sbFrame, h, Bool.not_false, if_true]

end

/-! What each frame asks for (R296). -/

theorem portRead_register (s : State) {a : Nat} (ha : a < 0xE0) (hind : a ≠ 0x0A) (hinc : a ≠ 0x0B) (hlo : a ≠ 0x18)
    (reach : Bool) : s.portRead a reach = (s, 0, s.readReg .port a) := by
  rw [State.portRead, if_neg (by omega), if_neg (by omega), if_neg hlo]

theorem portWrite_register (s : State) {a : Nat} (ha : a < 0xE0) (hind : a ≠ 0x0A) (hinc : a ≠ 0x0B) (v : Nat) (reach : Bool) :
    s.portWrite a v reach = (s.regWrite .port a v, 0, 0) := by
  rw [State.portWrite, if_neg (by omega), if_neg (by omega)]

theorem portRead_denied {s : State} {a : Nat} (ha : 0xE0 ≤ a) (hl : s.mg.debugLevel = 0) (reach : Bool) :
    s.portRead a reach = (s, 2, 0) := by
  rw [State.portRead, if_pos ha, if_pos hl]

theorem portWrite_denied {s : State} {a : Nat} (ha : 0xE0 ≤ a) (hl : s.mg.debugLevel ≠ 2) (v : Nat) (reach : Bool) :
    s.portWrite a v reach = (s, 2, 0) := by
  rw [State.portWrite, if_pos ha, if_pos hl]

/-- What a bank holds does not follow IA. -/
theorem bankRead_setIndAddr (s : State) (p q : Path) (v b w : Nat) : (s.setIndAddr p v).bankRead q b w = s.bankRead q b w := by
  cases p <;> rfl

theorem indirect_read_inc (s : State) (p : Path) : s.indirect p none true true =
    (s.setIndAddr p (s.indAddr p + 1), true, s.bankRead p (s.indBank p) (s.indAddr p)) := rfl

theorem indAddr_setIndAddr (s : State) (p : Path) (v : Nat) : (s.setIndAddr p v).indAddr p = v % 2 ^ 24 := by cases p <;> rfl

theorem indBank_setIndAddr (s : State) (p : Path) (v : Nat) : (s.setIndAddr p v).indBank p = s.indBank p := by cases p <;> rfl

theorem setIndAddr_setIndAddr (s : State) (p : Path) (v w : Nat) :
    (s.setIndAddr p v).setIndAddr p w = s.setIndAddr p w := by cases p <;> rfl

/-- READ_INC of IA's word reads it, and advances IA. -/
theorem portReadInc_next {s : State} {a : Nat} (ha : a = s.mg.iaPort % 256) : s.portReadInc a true =
    (s.setIndAddr .port (s.mg.iaPort + 1), 0, s.bankRead .port s.mg.bankPort s.mg.iaPort) := if_pos ha

/-- READ_INC of the word before IA's reads that again. -/
theorem portReadInc_again {s : State} {a : Nat} (hprev : a = (s.mg.iaPort + 2 ^ 24 - 1) % 2 ^ 24 % 256)
    (ha : a ≠ s.mg.iaPort % 256) : s.portReadInc a true = (s.setIndAddr .port s.mg.iaPort, 0,
      s.bankRead .port s.mg.bankPort ((s.mg.iaPort + 2 ^ 24 - 1) % 2 ^ 24)) := by
  have hia : s.indAddr .port = s.mg.iaPort := rfl
  unfold State.portReadInc
  dsimp only
  rw [hia, if_neg ha, if_pos hprev, indirect_read_inc, indAddr_setIndAddr, indBank_setIndAddr, bankRead_setIndAddr, Nat.mod_mod,
    if_pos rfl, setIndAddr_setIndAddr, setIndAddr_setIndAddr]
  rfl

/-- READ_INC of any other word is refused. -/
theorem portReadInc_denied {s : State} {a : Nat} (ha : a ≠ s.mg.iaPort % 256)
    (hprev : a ≠ (s.mg.iaPort + 2 ^ 24 - 1) % 2 ^ 24 % 256) (reach : Bool) : s.portReadInc a reach = (s, 2, 0) :=
  (if_neg ha).trans (if_neg hprev)

/-! The rows. -/

section
variable {s : State} {a v crc : Nat} {reach : Bool}

/-- The rows of the register port, by the frame each takes. -/
theorem exec_sbRead (ha : a < 256) : exec (.sbRead a crc reach) s = .next (s.sbFrame 0 a none crc (State.portRead a reach)) := by
  show Host.Outcome.next (s.sbFrame ..) = _
  rw [Nat.mod_eq_of_lt ha]

theorem exec_sbWrite (ha : a < 256) (hv : v < 2 ^ 32) :
    exec (.sbWrite a v crc reach) s = .next (s.sbFrame 1 a (some v) crc (State.portWrite a v reach)) := by
  show Host.Outcome.next (s.sbFrame ..) = _
  rw [Nat.mod_eq_of_lt ha, Nat.mod_eq_of_lt hv]

theorem exec_sbReadInc (ha : a < 256) :
    exec (.sbReadInc a crc reach) s = .next (s.sbFrame 2 a none crc (State.portReadInc a reach)) := by
  show Host.Outcome.next (s.sbFrame ..) = _
  rw [Nat.mod_eq_of_lt ha]

theorem exec_syncArm : exec (.syncArm crc) s = .next (s.sbFrame 3 0 none crc fun s => s.sync 0) := rfl

theorem exec_syncDisarm (ha : a < 256) :
    exec (.syncDisarm ⟨a, crc⟩) s = .next (s.sbFrame 3 a none crc fun s => s.sync a) := by
  show Host.Outcome.next (s.sbFrame ..) = _
  rw [Nat.mod_eq_of_lt ha]

/-- A frame whose CRC matches and whose access is known is answered with it. -/
theorem sbFrame_answered {op : Nat} {data : Option Nat} {f : State → State × Nat × Nat} {t : State} {status d : Nat}
    (h : s.pathReady .port = true) (hf : f s = (t, status, d)) (ht : t.mg.released = s.mg.released) :
    s.sbFrame op a data (reqCrc op a data) f = answered t status d := by
  rw [sbFrame_match h (by rw [hf, ht]), hf]

end

/-! Alignment (R302). -/

theorem disarm_armed {s : State} (h : s.sb.armed = true) :
    s.disarm = { s with sb := { s.sb with armed := false, driven := s.nextEpoch } } := if_pos h

theorem disarm_unarmed {s : State} (h : s.sb.armed = false) : s.disarm = s := if_neg (by rw [h]; exact Bool.false_ne_true)

theorem sync_one (s : State) : s.sync 1 = (s.disarm, 0, 0) := rfl

theorem sync_other (s : State) {a : Nat} (ha : 2 ≤ a) : s.sync a = (s, 2, 0) := by
  rw [State.sync, if_neg (by omega), if_neg (by omega)]

theorem exec_alignPulse {s : State} {n : Nat} (hl : s.pathLive .port = true) (ha : s.sb.armed = true) (hn : 4 ≤ n) :
    exec (.alignPulse n) s = .next { s with sb := { s.sb with aligned := true, armed := false, driven := s.nextEpoch } } :=
  if_pos (by rw [hl, ha, decide_eq_true hn]; rfl)

theorem exec_syncTmo {s : State} (hl : s.pathLive .port = true) (ha : s.sb.armed = true) :
    exec .syncTmo s = .next { s with sb := { s.sb with armed := false, syncTmo := true, driven := s.nextEpoch } } :=
  (if_pos (by rw [hl, ha]; rfl)).trans (congrArg Host.Outcome.next (disarm_armed ha))

/-- Settles O37: each frame is answered with the access that it names, once its CRC and the port are right. -/
theorem registerPortFramesAndAlignment : Obligations.RegisterPortFramesAndAlignment := by
  refine ⟨fun s a v crc reach ha hv => ⟨fun h => ⟨?read, ?write, ?next, ?again, ?denied, ?readDebug, ?writeDebug, ?arm, ?disarm,
    ?idle, ?sync, ?crcRead, ?crcWrite, ?crcInc, ?crcArm, ?crcSync⟩, fun h => ⟨?_, ?_, ?_, ?_, ?_⟩, fun h => ?portIdle⟩,
    fun s n => ⟨exec_alignPulse, exec_syncTmo, fun h => ?_, fun h => ?_, fun h => ?_, fun h => ?_⟩⟩
  case read =>
    intro hlow hind hinc hlo
    rw [exec_sbRead ha, sbFrame_answered h (portRead_register s hlow hind hinc hlo reach) rfl]
  case write =>
    intro hlow hind hinc hr
    rw [exec_sbWrite ha hv, sbFrame_answered h (portWrite_register s hlow hind hinc v reach)
      (hr.trans (released_of_pathReady_port h).symm)]
  case next =>
    intro hia
    refine ⟨_, (exec_sbReadInc ha).trans (congrArg _ (sbFrame_answered h (portReadInc_next hia) rfl)), rfl, rfl, rfl⟩
  case again =>
    intro hprev hlt hne
    refine ⟨_, (exec_sbReadInc ha).trans (congrArg _ (sbFrame_answered h (portReadInc_again hprev hne) rfl)), ?_, rfl, rfl⟩
    exact Nat.mod_eq_of_lt hlt
  case denied =>
    intro hne hprev
    rw [exec_sbReadInc ha, sbFrame_answered h (portReadInc_denied hne hprev reach) rfl]
  case readDebug =>
    intro hdbg hl
    rw [exec_sbRead ha, sbFrame_answered h (portRead_denied hdbg hl reach) rfl]
  case writeDebug =>
    intro hdbg hl
    rw [exec_sbWrite ha hv, sbFrame_answered h (portWrite_denied hdbg hl v reach) rfl]
  case arm => exact congrArg _ (sbFrame_answered h (f := fun s => s.sync 0) rfl rfl)
  case disarm =>
    intro harmed
    have hsync := (sync_one s).trans (by rw [disarm_armed harmed])
    exact (exec_syncDisarm (by decide)).trans (congrArg _ (sbFrame_answered h (f := fun s => s.sync 1) hsync rfl))
  case idle =>
    intro hidle
    have hsync := (sync_one s).trans (by rw [disarm_unarmed hidle])
    exact (exec_syncDisarm (by decide)).trans (congrArg _ (sbFrame_answered h (f := fun s => s.sync 1) hsync rfl))
  case sync =>
    intro h2
    rw [exec_syncDisarm ha, sbFrame_answered (f := fun s => s.sync a) h (sync_other s h2) rfl]
  case crcRead => exact fun hcrc => by rw [exec_sbRead ha, sbFrame_mismatch h hcrc]
  case crcWrite => exact fun hcrc => by rw [exec_sbWrite ha hv, sbFrame_mismatch h hcrc]
  case crcInc => exact fun hcrc => by rw [exec_sbReadInc ha, sbFrame_mismatch h hcrc]
  case crcArm => exact fun hcrc => by rw [exec_syncArm, sbFrame_mismatch h hcrc]
  case crcSync => exact fun hcrc => by rw [exec_syncDisarm ha, sbFrame_mismatch h hcrc]
  · rw [exec_sbRead ha, sbFrame_unheard h]
  · rw [exec_sbWrite ha hv, sbFrame_unheard h]
  · rw [exec_sbReadInc ha, sbFrame_unheard h]
  · rw [exec_syncArm, sbFrame_unheard h]
  · rw [exec_syncDisarm ha, sbFrame_unheard h]
  case portIdle => exact congrArg Host.Outcome.next (if_pos h)
  · exact congrArg Host.Outcome.next (if_pos h)
  · exact congrArg Host.Outcome.next (if_pos h)
  · exact congrArg Host.Outcome.next (if_neg (Nat.not_le.2 h))
  · exact congrArg Host.Outcome.next (if_neg (Nat.not_le.2 h))

end Sys2Proof.Machine
end

section
/-!
What the end of commands, the loss of units and what goes on after a hold leave of the die's own fixtures: firmware, sideband,
regulators, repair and power control. For the obligations on retirement, resets, boot and repair.
-/
namespace Sys2Proof.Machine

/-! The relation. -/

/-- The state but for the memories, the commands and what they occupy, the peers' traffic, the logs, and what a loss writes of the
management registers and of the group. -/
def State.fixtures (s : State) : State :=
  { s with
    freeCtr := 0, out := [], bias := {}, journal := none, lastPart := 0, queues := [], parts := [], crests := [], slices := []
    ports := [], cmds := [], ends := [], store := [], poison := [], flaws := [], pend := [], abuf := [], cache := [], evict := []
    hostMem := [], hostPoison := [], log := [], logNext := 0, trace := [], traceNext := 0, msixPend := [], linkmaps := []
    refused := [], tiles := [], landing := [], ingress := [], stalled := [], holds := [], peerPast := [], closing := [], retries := []
    mg := { s.mg with running := none, cmdStatus := 0, cmdDetail := 0, device := 0, cause := 0, minLost := false, lostKind := 0
                      alertStat := 0, capGen := 0 }
    pwr := { s.pwr with capsSet := none }
    rep := { s.rep with errs := [], retSlice := 0 } }

/-- The management command in hand and its result. -/
def Mgmt.command (m : Mgmt) : Option Nat × Nat × Nat := (m.running, m.cmdStatus, m.cmdDetail)

/-- From `s` to `t` the fixtures stay, with `all` the error times and the retired slices among them; no retired slice comes back, no
alert is taken back, no crest leaves OFF, and no command comes. -/
structure Unspoiled (all : Bool) (s t : State) : Prop where
  fixtures : t.fixtures = s.fixtures
  rep : all = true → t.rep = s.rep
  retired : ∀ n, s.sliceRetired n = true → t.sliceRetired n = true
  alerts : ∀ i, s.mg.alertStat.testBit i = true → t.mg.alertStat.testBit i = true
  off : ∀ p, (s.crest p).pw = .off → (t.crest p).pw = .off
  len : t.cmds.length ≤ s.cmds.length

/-- Besides, of the management commands a PT_RESET alone can end on the way (R319). -/
structure Undisturbed (all : Bool) (s t : State) : Prop extends Unspoiled all s t where
  command : s.mg.running ≠ some 0x13 → t.mg.command = s.mg.command

section
variable {b : Bool} {s t u : State}

theorem Unspoiled.refl (b : Bool) (s : State) : Unspoiled b s s :=
  ⟨rfl, fun _ => rfl, fun _ h => h, fun _ h => h, fun _ h => h, Nat.le_refl _⟩

theorem Unspoiled.trans (h : Unspoiled b s t) (g : Unspoiled b t u) : Unspoiled b s u where
  fixtures := g.fixtures.trans h.fixtures
  rep hb := (g.rep hb).trans (h.rep hb)
  retired n hn := g.retired n (h.retired n hn)
  alerts i hi := g.alerts i (h.alerts i hi)
  off p hp := g.off p (h.off p hp)
  len := g.len.trans h.len

theorem Undisturbed.refl (b : Bool) (s : State) : Undisturbed b s s := ⟨.refl b s, fun _ => rfl⟩

theorem Undisturbed.trans (h : Undisturbed b s t) (g : Undisturbed b t u) : Undisturbed b s u := by
  refine ⟨h.toUnspoiled.trans g.toUnspoiled, fun hr => (g.command ?_).trans (h.command hr)⟩
  rwa [show t.mg.running = s.mg.running from congrArg Prod.fst (h.command hr)]

theorem Undisturbed.pwr (h : Undisturbed b s t) : { t.pwr with capsSet := none } = { s.pwr with capsSet := none } :=
  (congrArg State.pwr h.fixtures :)

theorem Undisturbed.fw (h : Undisturbed b s t) : t.fw = s.fw := (congrArg State.fw h.fixtures :)

/-- What leaves the commands, the crests and the alerts as they are, and of the fixtures nothing else. -/
theorem Undisturbed.of_eq (hf : t.fixtures = s.fixtures) (hr : t.rep = s.rep) (ha : t.mg.alertStat = s.mg.alertStat)
    (hm : t.mg.command = s.mg.command) (hc : t.crests = s.crests) (hl : t.cmds.length ≤ s.cmds.length) : Undisturbed b s t where
  command _ := hm
  fixtures := hf
  rep _ := hr
  retired n hn := by rwa [State.sliceRetired, hr]
  alerts i hi := by rwa [ha]
  off p hp := by rwa [State.crest, hc]
  len := hl

theorem Undisturbed.ite {c : Prop} [Decidable c] (ht : Undisturbed b s t) (hu : Undisturbed b s u) :
    Undisturbed b s (if c then t else u) := by
  split
  · exact ht
  · exact hu

theorem Undisturbed.foldl {β : Type} {f : State → β → State} (hf : ∀ s x, Undisturbed b s (f s x)) (l : List β) (s : State) :
    Undisturbed b s (l.foldl f s) :=
  List.foldlRecOn l f (.refl b s) fun _ h x _ => h.trans (hf _ x)

/-- What a write of memory changes is none of it. -/
theorem Undisturbed.of_unwritten (h : t.unwritten = s.unwritten) : Undisturbed b s t :=
  .of_eq (congrArg State.fixtures h :) (congrArg State.rep h :) (congrArg (fun u => u.mg.alertStat) h :)
    (congrArg (fun u => u.mg.command) h :) (congrArg State.crests h :) (Nat.le_of_eq (congrArg (fun u => u.cmds.length) h :))

theorem undisturbed_modCmd (b : Bool) (s : State) (q t : Nat) (f : Cmd → Cmd) : Undisturbed b s (s.modCmd q t f) :=
  .of_eq rfl rfl rfl rfl rfl (Nat.le_of_eq (List.length_map _))

theorem undisturbed_modCrest (b : Bool) (s : State) (p : Nat) {f : Crest → Crest}
    (hf : (s.crest p).pw = .off → (f (s.crest p)).pw = .off) : Undisturbed b s (s.modCrest p f) := by
  refine { Undisturbed.refl b s with fixtures := rfl, off := fun k hk => ?_ }
  rw [State.crest_modCrest]
  split
  · next h => exact hf (h ▸ hk)
  · exact hk

theorem undisturbed_modPart (b : Bool) (s : State) (p : Nat) (f : Part → Part) : Undisturbed b s (s.modPart p f) :=
  .of_eq rfl rfl rfl rfl rfl (Nat.le_refl _)

theorem undisturbed_modPort (b : Bool) (s : State) (k : Nat) (f : PPort → PPort) : Undisturbed b s (s.modPort k f) :=
  .of_eq rfl rfl rfl rfl rfl (Nat.le_refl _)

theorem undisturbed_modQueue (b : Bool) (s : State) (q : Nat) (f : Queue → Queue) : Undisturbed b s (s.modQueue q f) :=
  .of_eq rfl rfl rfl rfl rfl (Nat.le_refl _)

theorem undisturbed_modSlice (b : Bool) (s : State) (n : Nat) (f : Slice → Slice) : Undisturbed b s (s.modSlice n f) :=
  .of_eq rfl rfl rfl rfl rfl (Nat.le_refl _)

theorem undisturbed_addLog (b : Bool) (s : State) (e : LogEntry) : Undisturbed b s (s.addLog e) :=
  .of_eq rfl rfl rfl rfl rfl (Nat.le_refl _)

theorem undisturbed_addTrace (b : Bool) (s : State) (ev c q part st tag : Nat) : Undisturbed b s (s.addTrace ev c q part st tag) :=
  .of_eq rfl rfl rfl rfl rfl (Nat.le_refl _)

theorem undisturbed_write (b : Bool) (s : State) (o : Obs) (m : List (Nat × Byte)) : Undisturbed b s (s.write o m) :=
  .of_unwritten (unwritten_write s o m)

theorem undisturbed_alert (b : Bool) (s : State) (i : Nat) : Undisturbed b s (s.alert i) :=
  { Undisturbed.refl b s with fixtures := rfl, alerts := fun _ h => testBit_orBit i h }

end

/-! Holds, and a crest's turn to its next tile. -/

theorem length_of_standings {s t : State} (h : t.standings = s.standings) : t.cmds.length ≤ s.cmds.length := by
  have hmap : (t.cmds.map Cmd.standing).length = (s.cmds.map Cmd.standing).length := congrArg (fun x => x.1.length) h
  rw [List.length_map, List.length_map] at hmap
  exact Nat.le_of_eq hmap

section
variable {b : Bool} {s t : State}

theorem Undisturbed.of_turned {p : Nat} (h : Turned p s t) (hl : t.cmds.length ≤ s.cmds.length) : Undisturbed b s t := by
  have hrep : t.rep = s.rep := (congrArg State.rep h.rest :)
  have halerts : t.mg.alertStat = s.mg.alertStat := (congrArg (fun u => u.mg.alertStat) h.rest :)
  refine { Undisturbed.refl b s with
    fixtures := (congrArg State.fixtures h.rest :), rep := fun _ => hrep, len := hl
    command := fun _ => (congrArg (fun u => u.mg.command) h.rest :)
    retired := fun n hn => by rwa [State.sliceRetired, hrep], alerts := fun i hi => by rwa [halerts], off := fun k hk => ?_ }
  by_cases hkp : k = p
  · subst hkp
    exact (congrArg Crest.pw h.crest :).trans hk
  · rwa [h.others k hkp]

variable (b : Bool) (s : State)

theorem undisturbed_chargeHold (h : Hold) : Undisturbed b s (s.chargeHold h) :=
  .of_turned (turned_chargeHold 0 s h) (length_of_standings (standings_chargeHold s h))

theorem undisturbed_setHold (q t p cause : Nat) (on : Bool) : Undisturbed b s (s.setHold q t p cause on) :=
  .of_turned (turned_setHold 0 s q t p cause on) (length_of_standings (standings_setHold ..))

theorem undisturbed_requeue (p : Nat) : Undisturbed b s (s.requeue p) :=
  .of_turned (turned_requeue p s) (length_of_standings (standings_requeue s p))

theorem undisturbed_kick (p : Nat) : Undisturbed b s (s.kick p) :=
  .of_turned (turned_kick p s) (length_of_standings (standings_kick s p))

theorem undisturbed_endHolds (q t : Nat) (sel : Nat → Bool) : Undisturbed b s (s.endHolds q t sel) :=
  (Undisturbed.foldl (undisturbed_chargeHold b) _ s).trans (.of_eq rfl rfl rfl rfl rfl (Nat.le_refl _))

end

/-! The end of a command. -/

section
variable (b : Bool) (s : State)

theorem undisturbed_unspecify (c : Cmd) (sub : Nat) : Undisturbed b s (s.unspecify c sub) := by
  have hfree (x : Crest) (rs : List AccRange) : (rs.foldl (Crest.freeAcc s.freeCtr (c.q, c.t)) x).pw = x.pw :=
    List.foldlRecOn (motive := fun y => Crest.pw y = x.pw) rs _ rfl fun _ h _ _ => h
  have hwritten : Undisturbed b s (if (decide (c.opcode = 11) && c.keepsRows sub) = true then s
      else s.write (.crest c.q c.t dispWriter) (s.freeOutput c)) := .ite (.refl b s) (undisturbed_write ..)
  refine (hwritten.trans (.ite (.refl b _) (.foldl (fun u p => undisturbed_modCrest b u p fun hp => ?_) _ _))).trans
    (.of_eq rfl rfl rfl rfl rfl (Nat.le_refl _))
  rw [hfree]
  split <;> exact hp

theorem unspoiled_resetEnd (p : Nat) : Unspoiled b s (s.resetEnd p) := by
  have hresult (u : State) (st d : Nat) : Unspoiled b u (u.mgResult st d) := { Unspoiled.refl b u with fixtures := rfl }
  unfold State.resetEnd
  dsimp only
  split
  · exact .refl b s
  · refine .trans ?_ (undisturbed_modPart ..).toUnspoiled
    exact .trans (Undisturbed.foldl (fun u c => undisturbed_modCrest b u c id) _ s).toUnspoiled (hresult ..)

theorem undisturbed_resetEnds : Undisturbed b s s.resetEnds := by
  by_cases hrun : s.mg.running = some 0x13
  · have heq : s.resetEnds = (List.range 8).foldl State.resetEnd s := if_pos hrun
    rw [heq]
    exact ⟨List.foldlRecOn (motive := Unspoiled b s) _ _ (.refl b s) fun u hu p _ => hu.trans (unspoiled_resetEnd b u p),
      fun h => absurd hrun h⟩
  · have heq : s.resetEnds = s := if_neg hrun
    rw [heq]
    exact .refl b s

theorem undisturbed_unlend (p : Nat) : Undisturbed b s (s.unlend p) := by
  rw [State.unlend]
  cases (s.crest p).lentTo with
  | none => exact .refl b s
  | some o =>
    refine .ite (.refl b s) ?_
    cases (s.crest p).held with
    | nil => exact .trans (undisturbed_modCrest b s p fun h => h) (undisturbed_resetEnds ..)
    | cons k ks =>
      refine .trans ?_ (undisturbed_resetEnds ..)
      exact .trans (undisturbed_modCrest b s p fun h => h) (.foldl (fun _ _ => undisturbed_modCmd ..) _ _)

theorem undisturbed_dropFrom (p q t : Nat) : Undisturbed b s (s.dropFrom p q t) := by
  refine .trans (.trans (.ite ?_ (.refl b s)) (undisturbed_modCrest b _ p fun h => h)) (undisturbed_unlend ..)
  exact .trans (t := s.passOn q t p) (.of_eq rfl rfl rfl rfl rfl (Nat.le_refl _)) (undisturbed_modCrest b _ p fun h => h)

theorem undisturbed_closePairs (q t : Nat) : Undisturbed b s (s.closePairs q t) := .of_eq rfl rfl rfl rfl rfl (Nat.le_refl _)

theorem undisturbed_endCmd (q t st sub : Nat) : Undisturbed b s (s.endCmd q t st sub) := by
  have hended : Undisturbed b s ((s.endHolds q t fun _ => true).uncharged q t) :=
    (undisturbed_endHolds ..).trans (undisturbed_modCmd ..)
  have hclosed (u : State) (es : List (Nat × Nat)) (ws : List ((Nat × Nat) × WaitFor)) :
      Undisturbed b u ({ u.modCmd q t (fun c => c.finish st sub) with ends := es, stalled := ws } : State) :=
    .of_eq rfl rfl rfl rfl rfl (Nat.le_of_eq (List.length_map _))
  rw [State.endCmd]
  cases s.cmd? q t with
  | none => exact .refl b s
  | some c =>
    refine .ite (.refl b s) (.trans ?_ (.foldl (fun u p => ?_) _ _))
    · refine .trans ?_ (undisturbed_closePairs ..)
      refine .trans ?_ (hclosed ..)
      exact hended.trans (.ite (undisturbed_unspecify ..) (.refl b _))
    · exact .trans (undisturbed_dropFrom b u p q t) (undisturbed_modCrest b _ p fun h => h)

theorem undisturbed_endHeld (p st sub : Nat) : Undisturbed b s (s.endHeld p st sub) :=
  .foldl (fun _ _ => undisturbed_endCmd ..) _ s

theorem undisturbed_abort (q t st sub : Nat) : Undisturbed b s (s.abort q t st sub) :=
  .trans (undisturbed_endCmd ..) (.foldl (undisturbed_kick b) _ _)

end

/-! The loss of a unit. -/

section
variable (b : Bool) (s : State)

theorem undisturbed_liveChange : Undisturbed b s s.liveChange :=
  .ite (.of_eq rfl rfl rfl rfl rfl (Nat.le_refl _)) (.refl b s)

theorem undisturbed_sendMsix (v : Nat) : Undisturbed b s (s.sendMsix v) :=
  .ite (.of_eq rfl rfl rfl rfl rfl (Nat.le_refl _)) (.of_eq rfl rfl rfl rfl rfl (Nat.le_refl _))

theorem undisturbed_leaveGroup : Undisturbed b s s.leaveGroup := by
  have hleft (u : State) : Undisturbed b u (({ u with
      linkmaps := [], refused := [], tiles := [], landing := [], closing := [], retries := [] } : State).modPwr fun w =>
        { w with capsSet := none }) := .of_eq rfl rfl rfl rfl rfl (Nat.le_refl _)
  refine .trans ?_ (undisturbed_liveChange ..)
  refine .trans ?_ (hleft ..)
  exact .trans (.foldl (fun _ _ => undisturbed_modPort ..) _ s) (.foldl (fun _ _ => undisturbed_endCmd ..) _ _)

theorem undisturbed_checkMin (kind : Nat) : Undisturbed b s (s.checkMin kind) := by
  have hmoved (u : State) : Undisturbed b u (u.modMg fun m => { m with device := 1, cause := 3, minLost := true, lostKind := kind }) :=
    .of_eq rfl rfl rfl rfl rfl (Nat.le_refl _)
  refine .ite (.trans ?_ (undisturbed_addLog ..)) (.refl b s)
  exact .trans (undisturbed_leaveGroup b s) (hmoved _)

theorem undisturbed_notice (alerts parts : List Nat) : Undisturbed b s (s.notice alerts parts) := by
  have htold : Undisturbed b s (parts.foldl (fun s p => s.modPart p fun x => { x with unitLost := true })
      (alerts.foldl State.alert s.liveChange)) :=
    .trans (.trans (undisturbed_liveChange b s) (.foldl (undisturbed_alert b) _ _)) (.foldl (fun _ _ => undisturbed_modPart ..) _ _)
  exact htold.trans (.ite (undisturbed_sendMsix ..) (.refl b _))

/-- A notice of a loss writes the management registers, the partitions and the messages that go out. -/
theorem notice_proj {γ : Type} (π : State → γ) (hmg : ∀ (s : State) f, π (s.modMg f) = π s)
    (hpart : ∀ (s : State) p f, π (s.modPart p f) = π s) (hmsix : ∀ (s : State) v, π (s.sendMsix v) = π s) (alerts parts : List Nat) :
    π (s.notice alerts parts) = π s := by
  have htold (u : State) : π (parts.foldl (fun s p => s.modPart p fun x => { x with unitLost := true })
      (alerts.foldl State.alert u)) = π u :=
    (proj_foldl π (f := fun s p => s.modPart p fun x => { x with unitLost := true }) (fun _ _ => hpart ..) ..).trans
      (proj_foldl π (f := State.alert) (fun _ _ => hmg ..) ..)
  exact (proj_ite π (hmsix ..) rfl).trans ((htold _).trans (proj_ite π (hmg ..) rfl))

theorem crests_notice (alerts parts : List Nat) : (s.notice alerts parts).crests = s.crests :=
  notice_proj s State.crests (fun _ _ => rfl) (fun _ _ _ => rfl) (fun _ _ => proj_ite State.crests rfl rfl) ..

theorem store_notice (alerts parts : List Nat) : (s.notice alerts parts).store = s.store :=
  notice_proj s State.store (fun _ _ => rfl) (fun _ _ _ => rfl) (fun _ _ => proj_ite State.store rfl rfl) ..

theorem undisturbed_linkGone : Undisturbed b s s.linkGone := by
  have hempty (u : State) (ws : List ((Nat × Nat) × WaitFor)) : Undisturbed b u { u with stalled := ws, evict := [] } :=
    .of_eq rfl rfl rfl rfl rfl (Nat.le_refl _)
  refine .trans ?_ (undisturbed_checkMin ..)
  exact .trans (.foldl (fun _ _ => undisturbed_endCmd ..) _ s) (hempty ..)

theorem undisturbed_unstall (w : WaitFor) (waited : Nat) : Undisturbed b s (s.unstall w waited) := by
  have hleft (u : State) (ws : List ((Nat × Nat) × WaitFor)) : Undisturbed b u { u with stalled := ws } :=
    .of_eq rfl rfl rfl rfl rfl (Nat.le_refl _)
  exact .trans (.foldl (fun _ _ => undisturbed_modCmd ..) _ s) (hleft ..)

theorem undisturbed_readyOrRun : Undisturbed b s s.readyOrRun := .ite (.of_eq rfl rfl rfl rfl rfl (Nat.le_refl _)) (.refl b s)

theorem undisturbed_stopQueue (q : Nat) : Undisturbed b s (s.stopQueue q) := by
  unfold State.stopQueue
  split
  · exact .trans (undisturbed_modQueue ..) (undisturbed_readyOrRun ..)
  · exact .trans (undisturbed_modQueue ..) (undisturbed_readyOrRun ..)
  · exact .refl b s

end

/-! Store errors. -/

section
variable (s : State)

/-- The state once slice `n` is zeroised and marked as retired. -/
def State.sliceMarked (s : State) (n : Nat) : State := (s.zeroSlice n).modRep fun r => { r with retSlice := orBit r.retSlice n }

/-- What follows the mark of a retirement takes nothing of the fixtures with it (R274). -/
theorem undisturbed_sliceLost {n : Nat} (hn : s.sliceRetired n = false) (cause : Nat) :
    Undisturbed false (s.sliceMarked n) (s.retireSlice n cause) := by
  have hjournal (u : State) : Undisturbed false u (match u.journal with
      | some j => if j.transit.testBit n then
          { u with journal := some { j with marked := orBit j.marked n, transit := clrBit j.transit n } } else u
      | none => u) := by
    split
    · exact .ite (.of_eq rfl rfl rfl rfl rfl (Nat.le_refl _)) (.refl false u)
    · exact .refl false u
  have howner (u : State) : Undisturbed false u (match s.sliceOwner n with
      | some p => if (u.part p).interleave then u else u.modPart p fun x => { x with slices := clrBit x.slices n }
      | none => u) := by
    split
    · exact .ite (.refl false u) (undisturbed_modPart ..)
    · exact .refl false u
  have hlost (u : State) (f : Cmd → Cmd) : Undisturbed false u { u with cmds := u.cmds.map f } :=
    .of_eq rfl rfl rfl rfl rfl (Nat.le_of_eq (List.length_map _))
  have heq : s.retireSlice n cause = _ := if_neg (by rw [hn]; decide)
  rw [heq]
  refine .trans ?_ (undisturbed_checkMin ..)
  refine .trans ?_ (.foldl (undisturbed_stopQueue false) _ _)
  refine .trans ?_ (undisturbed_notice ..)
  refine .trans ?_ (undisturbed_addLog ..)
  refine .trans ?_ (hjournal _)
  refine .trans ?_ (howner _)
  refine .trans ?_ (.foldl (fun _ _ => undisturbed_endCmd ..) _ _)
  refine .trans ?_ (undisturbed_unstall ..)
  exact .trans (hlost ..) (undisturbed_modSlice ..)

theorem undisturbed_retireSlice (n cause : Nat) : Undisturbed false s (s.retireSlice n cause) := by
  have hmarked : Undisturbed false s (s.sliceMarked n) :=
    { Undisturbed.refl false s with fixtures := rfl, rep := nofun, retired := fun _ h => testBit_orBit n h }
  cases h : s.sliceRetired n with
  | true =>
    have heq : s.retireSlice n cause = s := if_pos h
    rw [heq]
    exact .refl false s
  | false => exact hmarked.trans (undisturbed_sliceLost s h cause)

theorem sliceRetired_retireSlice (n cause : Nat) : (s.retireSlice n cause).sliceRetired n = true := by
  cases h : s.sliceRetired n with
  | true => exact (undisturbed_retireSlice s n cause).retired n h
  | false => exact (undisturbed_sliceLost s h cause).retired n (orBit_testBit_self ..)

theorem undisturbed_spareRow (n row : Nat) : Undisturbed false s (s.spareRow n row) :=
  .ite (undisturbed_retireSlice ..) (undisturbed_modSlice ..)

theorem undisturbed_countErr (kind unit : Nat) : Undisturbed false s (s.countErr kind unit) :=
  { Undisturbed.refl false s with fixtures := rfl, rep := nofun }

theorem undisturbed_storeError (e : Ecc) (cmd : Option (Nat × Nat)) : Undisturbed false s (s.storeError e cmd) := by
  have hpoisoned (u : State) (ls : Tbl Bool) : Undisturbed false u { u with poison := ls } := .of_eq rfl rfl rfl rfl rfl (Nat.le_refl _)
  refine .ite (.refl false s) (.ite (undisturbed_addLog ..) ?_)
  cases e.kind with
  | ce => exact .trans (undisturbed_modSlice ..) (undisturbed_addLog ..)
  | hardCe => exact .trans (.trans (undisturbed_modSlice ..) (undisturbed_addLog ..)) (undisturbed_spareRow ..)
  | ue =>
    refine .ite (.refl false s) (.trans ?_ (.ite (undisturbed_retireSlice ..) (undisturbed_spareRow ..)))
    refine .trans ?_ (undisturbed_alert ..)
    refine .trans ?_ (undisturbed_addLog ..)
    refine .trans ?_ (undisturbed_countErr ..)
    exact .trans (undisturbed_modSlice ..) (hpoisoned ..)

theorem undisturbed_storeErrors (es : List Ecc) (q t : Nat) : Undisturbed false s (s.storeErrors es q t) :=
  .foldl (fun u e => .ite (undisturbed_storeError u e _) (.trans (undisturbed_storeError u e _) (undisturbed_modCmd ..))) es s

/-! Accesses that were held go on. -/

theorem undisturbed_reachSlice (n : Nat) : Undisturbed false s (s.reachSlice n) := by
  have hwoken : Undisturbed false s (s.wakeSlice n) := .of_unwritten (unwritten_wakeSlice s n)
  exact .ite (hwoken.trans (.of_eq rfl rfl rfl rfl rfl (Nat.le_of_eq (List.length_map _)))) hwoken

theorem undisturbed_wakes (gs : List Nat) : Undisturbed false s (s.wakes gs) := .foldl undisturbed_reachSlice _ s

theorem undisturbed_chargeMclk (q t cause n : Nat) : Undisturbed false s (s.chargeMclk q t cause n) :=
  .ite (.refl false s) (undisturbed_modCmd ..)

theorem undisturbed_meets (q t : Nat) (gs : List Nat) (es : List Ecc) : Undisturbed false s (s.meets q t gs es) := by
  have hflaws (u : State) (fs : List Ecc) : Undisturbed false u { u with flaws := fs } := .of_eq rfl rfl rfl rfl rfl (Nat.le_refl _)
  refine .trans ?_ (undisturbed_storeErrors ..)
  refine .trans ?_ (hflaws ..)
  exact .trans (undisturbed_chargeMclk ..) (undisturbed_wakes ..)

theorem undisturbed_bump : Undisturbed false s s.bump := .of_eq rfl rfl rfl rfl rfl (Nat.le_refl _)

theorem undisturbed_touchBy (st : Mesi) (req : CacheReq) (gs : List Nat) : Undisturbed false s (s.touchBy st req gs) :=
  .trans (undisturbed_wakes s gs) (.foldl (fun u _ => .ite (.of_unwritten (unwritten_fill ..)) (.refl false u)) _ _)

theorem undisturbed_reads (q t : Nat) (gs : List Nat) : Undisturbed false s (s.reads q t gs) :=
  .trans (.trans (undisturbed_meets ..) (undisturbed_touchBy ..)) (undisturbed_bump _)

theorem undisturbed_hostRead (a : Nat) (ecc : Option EccKind) (w : Nat) : Undisturbed false s (s.hostRead a ecc w) := by
  have hemit (u : State) (o : Out) : Undisturbed false u (u.emit o).bump := .of_eq rfl rfl rfl rfl rfl (Nat.le_refl _)
  refine .ite (.trans (undisturbed_addLog ..) (hemit ..)) (.trans ?_ (hemit ..))
  cases ecc with
  | none => exact undisturbed_reachSlice ..
  | some k => exact .trans (undisturbed_reachSlice ..) (undisturbed_storeError ..)

theorem undisturbed_hostLine (l : Nat) (m : List (Nat × Byte)) (b : Bool) : Undisturbed false s (s.hostLine l m b) := by
  have hgiven (u : State) : Undisturbed false u (u.giveUp l) :=
    .trans (.ite (c := (tget {} u.cache l).st = .M) (.of_unwritten (unwritten_backLine ..)) (.refl false u))
      (.of_eq rfl rfl rfl rfl rfl (Nat.le_refl _))
  refine .trans ?_ (.of_unwritten (unwritten_backLine ..))
  refine .trans ?_ (.of_unwritten (unwritten_pendLine ..))
  exact .trans (.of_unwritten (unwritten_settle s l)) (hgiven _)

theorem undisturbed_hostWrite (a : Nat) (bs : List (Option Byte)) (b : Bool) : Undisturbed false s (s.hostWrite a bs b) :=
  .ite (undisturbed_addLog ..) (.trans (undisturbed_reachSlice ..) (undisturbed_hostLine ..))

theorem undisturbed_serveHeld : Undisturbed false s s.serveHeld := by
  have hheld (u : State) (x : HostAcc) : Undisturbed false u (u.holdHost x) := .of_eq rfl rfl rfl rfl rfl (Nat.le_refl _)
  have htaken : Undisturbed false s { s with bias := { s.bias with heldHost := [] } } := .of_eq rfl rfl rfl rfl rfl (Nat.le_refl _)
  refine htaken.trans (.foldl (fun u x => ?_) _ _)
  cases x with
  | read a ecc w => exact .ite (hheld ..) (undisturbed_hostRead ..)
  | write a bs b => exact .ite (hheld ..) (undisturbed_hostWrite ..)

/-! Commands of the dispatcher that were held go on. -/

theorem undisturbed_stall (q t : Nat) (w : WaitFor) : Undisturbed false s (s.stall q t w) :=
  .ite (.refl false s) (.of_eq rfl rfl rfl rfl rfl (Nat.le_refl _))

theorem undisturbed_abufFlush (sel : ABuf → Bool) : Undisturbed false s (s.abufFlush sel) :=
  .of_unwritten (unwritten_abufFlush s sel)

theorem undisturbed_abufBack (w : ABuf) : Undisturbed false s (s.abufBack w) :=
  .trans (t := { s with abuf := s.abuf.filter (· != w) }) (.of_eq rfl rfl rfl rfl rfl (Nat.le_refl _)) (undisturbed_write ..)

theorem undisturbed_abufRoom : Undisturbed false s s.abufRoom := by
  refine .ite (.refl false s) ?_
  split
  · exact .trans (undisturbed_abufBack ..) (undisturbed_bump _)
  · exact .refl false s

theorem undisturbed_writeAtomic (l : Nat) (m : List (Nat × Byte)) : Undisturbed false s (s.writeAtomic l m) := by
  unfold State.writeAtomic
  dsimp only
  split
  · exact .trans (.of_eq rfl rfl rfl rfl rfl (Nat.le_refl _)) (.of_unwritten (unwritten_writeLine ..))
  · exact undisturbed_write ..

theorem undisturbed_signalWord (scope g w op x y : Nat) : Undisturbed false s (s.signalWord scope g w op x y).1 := by
  unfold State.signalWord
  dsimp only
  split
  · split
    · exact .of_eq rfl rfl rfl rfl rfl (Nat.le_refl _)
    · exact .trans (undisturbed_abufRoom s) (.of_eq rfl rfl rfl rfl rfl (Nat.le_refl _))
  · exact .ite (undisturbed_write ..) (undisturbed_writeAtomic ..)

theorem undisturbed_runFence (c : Cmd) : Undisturbed false s (s.runFence c) := by
  have hperformed (sel : Pend → Bool) : Undisturbed false s (s.perform sel c.scope) := .of_eq rfl rfl rfl rfl rfl (Nat.le_refl _)
  unfold State.runFence
  dsimp only
  split
  · exact undisturbed_stall ..
  · exact .trans (.trans (hperformed _) (.ite (.refl false _) (undisturbed_abufFlush ..))) (undisturbed_endCmd ..)

theorem undisturbed_runSignal (c : Cmd) : Undisturbed false s (s.runSignal c) := by
  have hread (hit : Bool) (g w : Nat) (gs : List Nat) : Undisturbed false s (if hit then s
      else if c.scope = 2 then (((s.abufFlush (clashes 2 g w)).meets c.q c.t gs []).own gs).bump
      else (s.abufFlush (clashes c.scope g w)).reads c.q c.t gs) := by
    refine .ite (.refl false s) (.ite ?_ (.trans (undisturbed_abufFlush ..) (undisturbed_reads ..)))
    exact .trans (.trans (.trans (undisturbed_abufFlush ..) (undisturbed_meets ..)) (undisturbed_touchBy ..)) (undisturbed_bump _)
  unfold State.runSignal
  dsimp only
  split
  · exact undisturbed_stall ..
  split
  · exact .trans (hread ..) (undisturbed_endCmd ..)
  split
  · exact .trans (.trans (hread ..) (undisturbed_signalWord ..)) (undisturbed_endCmd ..)
  split
  · exact .trans (.trans (hread ..) (undisturbed_signalWord ..)) (undisturbed_endCmd ..)
  · exact .trans (.trans (.trans (hread ..) (undisturbed_signalWord ..)) (undisturbed_write ..)) (undisturbed_endCmd ..)

theorem undisturbed_readWait (c : Cmd) : Undisturbed false s (s.readWait c) := by
  have hread (hit : Bool) (g w : Nat) (gs : List Nat) :
      Undisturbed false s (if hit then s else (s.abufFlush (clashes 0 g w)).reads c.q c.t gs) :=
    .ite (.refl false s) (.trans (undisturbed_abufFlush ..) (undisturbed_reads ..))
  unfold State.readWait
  dsimp only
  split
  · exact undisturbed_stall ..
  split
  · exact .trans (hread ..) (undisturbed_endCmd ..)
  · exact .trans (hread ..) (.ite (undisturbed_endCmd ..) (.refl false _))

theorem undisturbed_finalRead (c : Cmd) : Undisturbed false s (s.finalRead c) := by
  unfold State.finalRead
  split
  · exact .trans (undisturbed_modCmd ..) (undisturbed_stall ..)
  · exact .trans (undisturbed_readWait ..) (undisturbed_endCmd ..)

theorem undisturbed_retrySignals : Undisturbed false s s.retrySignals := by
  refine .foldl (fun u c => ?_) _ s
  split
  · exact undisturbed_runFence ..
  · exact undisturbed_runSignal ..
  · exact undisturbed_finalRead ..

end

/-! Flits that were held go on. -/

section
variable (b : Bool) (s : State)

theorem undisturbed_enqueue (f : Flit) (crest : Nat) : Undisturbed b s (s.enqueue f crest) := by
  unfold State.enqueue
  split
  · exact .refl b s
  · exact undisturbed_modPort ..

theorem undisturbed_recvAll : Undisturbed b s s.recvAll := by
  refine .foldl (fun u c => ?_) _ s
  split
  · unfold State.recvWaits
    split
    · exact .refl b u
    · exact undisturbed_setHold ..
  · exact .refl b u

theorem undisturbed_tryComplete (q t : Nat) : Undisturbed b s (s.tryComplete q t) := by
  unfold State.tryComplete
  split
  · exact .refl b s
  · exact .ite (undisturbed_endCmd ..) (.refl b s)

theorem undisturbed_peerWrite (a : Nat) (bs : List Byte) : Undisturbed b s (s.peerWrite a bs) :=
  .trans (.of_unwritten (unwritten_wakeSlice ..)) (undisturbed_write ..)

theorem undisturbed_dataStore (k : Nat) (f : Flit) : Undisturbed b s (s.dataStore k f) := by
  have hrefused (u : State) : Undisturbed b u (u.markRefused f.src f.sid) :=
    .ite (.refl b u) (.of_eq rfl rfl rfl rfl rfl (Nat.le_refl _))
  exact .foldl (fun u i => .ite (undisturbed_peerWrite ..) (.trans (hrefused u) (undisturbed_addLog ..))) _ s

theorem undisturbed_landRows (c : Cmd) (f : Flit) : Undisturbed b s (s.landRows c f) := by
  have hput (u : State) (r a : Nat) (bs : List Byte) : Undisturbed b u (if r < c.rRows then u.writeAt .ingress c.part a bs else u) :=
    .ite (undisturbed_write ..) (.refl b u)
  exact .ite (.trans (hput ..) (hput ..)) (.ite (hput ..) (hput ..))

theorem undisturbed_landFlit (f : Flit) : Undisturbed b s (s.landFlit f) := by
  have hlanded (u : State) (c : Cmd) : Undisturbed b u (u.landed c f) := .of_eq rfl rfl rfl rfl rfl (Nat.le_refl _)
  unfold State.landFlit
  split
  · split
    · exact .trans (.trans (undisturbed_landRows ..) (hlanded ..)) (undisturbed_recvAll ..)
    · exact .refl b s
  · exact .refl b s

theorem undisturbed_flagArrives (src chan : Nat) : Undisturbed b s (s.flagArrives src chan) :=
  .foldl (fun _ _ => .trans (undisturbed_modCmd ..) (undisturbed_tryComplete ..)) _ s

theorem undisturbed_flagFlit (k : Nat) (f : Flit) : Undisturbed b s (s.flagFlit k f) := by
  have hended (u : State) : Undisturbed b u (u.endStream f.src f.sid) := .of_eq rfl rfl rfl rfl rfl (Nat.le_refl _)
  refine .trans ?_ (undisturbed_enqueue ..)
  refine .trans ?_ (.ite (undisturbed_flagArrives ..) (.refl b _))
  refine .trans ?_ (undisturbed_recvAll ..)
  refine .trans ?_ (hended _)
  exact .trans (.ite (undisturbed_addLog ..) (.refl b s)) (.ite (undisturbed_peerWrite ..) (.refl b _))

theorem undisturbed_performFlit (k : Nat) (f : Flit) : Undisturbed b s (s.performFlit k f) := by
  unfold State.performFlit
  split
  · exact undisturbed_dataStore ..
  · exact undisturbed_landFlit ..
  · exact undisturbed_flagFlit ..

theorem undisturbed_ingest (k : Nat) (f : Flit) : Undisturbed b s (s.ingest k f) :=
  .ite (.of_eq rfl rfl rfl rfl rfl (Nat.le_refl _)) (undisturbed_performFlit ..)

theorem undisturbed_serveIngress : Undisturbed b s s.serveIngress := by
  have htaken : Undisturbed b s { s with ingress := [] } := .of_eq rfl rfl rfl rfl rfl (Nat.le_refl _)
  exact htaken.trans (.foldl (fun u e => undisturbed_ingest ..) _ _)

end

/-- What goes on once a hold of the store is over. -/
theorem undisturbed_goOn (s : State) : Undisturbed false s s.goOn :=
  .trans (.trans (undisturbed_serveHeld s) (undisturbed_retrySignals _)) (undisturbed_serveIngress ..)

/-! Links that are lost. -/

section
variable (b : Bool) (s : State)

theorem undisturbed_sendLinkmap : Undisturbed b s s.sendLinkmap := by
  have hgrouped : Undisturbed b s s.regroup.liveChange :=
    .trans (t := s.regroup) (.of_eq rfl rfl rfl rfl rfl (Nat.le_refl _)) (undisturbed_liveChange ..)
  refine hgrouped.trans (.foldl (fun u q => ?_) _ _)
  exact .ite (.trans (undisturbed_enqueue ..) (.of_eq rfl rfl rfl rfl rfl (Nat.le_refl _))) (.refl b u)

theorem undisturbed_routesChanged (st sub : Nat) : Undisturbed b s (s.routesChanged st sub) := by
  have hclosing (u : State) (cs : List (Nat × Nat)) : Undisturbed b u { u with closing := cs } :=
    .of_eq rfl rfl rfl rfl rfl (Nat.le_refl _)
  have hrelayed : Undisturbed b s s.dropRelayed := .foldl (fun u k => .ite (.refl b u) (undisturbed_modPort ..)) _ s
  refine .trans (hrelayed.trans (hclosing ..)) (.foldl (fun u c => ?_) _ _)
  exact .ite (.trans (undisturbed_abort ..) (undisturbed_modCmd ..)) (.ite (undisturbed_abort ..) (.refl b u))

theorem undisturbed_reroute (k : Nat) : Undisturbed b s (s.reroute k) := by
  refine .trans ?_ (.foldl (fun _ _ => undisturbed_enqueue ..) _ _)
  refine .trans ?_ (.foldl (fun _ _ => undisturbed_enqueue ..) _ _)
  refine .trans (undisturbed_modPort ..) (.foldl (fun u f => ?_) _ _)
  split
  · exact undisturbed_modPort ..
  · exact .refl b u

theorem undisturbed_loseLink (k : Nat) : Undisturbed b s (s.loseLink k) := by
  have hrerouted : Undisturbed b s ((s.modPort k fun x => { x with qRelay := [], resend := 0, resends := 0 }).reroute k) :=
    .trans (undisturbed_modPort ..) (undisturbed_reroute ..)
  unfold State.loseLink
  dsimp only
  split
  · exact hrerouted.trans (.trans (undisturbed_modPort ..) (undisturbed_modPort ..))
  · exact hrerouted.trans (undisturbed_modPort ..)

theorem undisturbed_linkLost (k st sub : Nat) : Undisturbed b s (s.linkLost k st sub) :=
  .trans (.trans (undisturbed_loseLink b s k) (undisturbed_sendLinkmap ..)) (undisturbed_routesChanged ..)

theorem undisturbed_peersFollow (old : State) : Undisturbed b s (s.peersFollow old) := by
  have hlost (gone : List Nat) : Undisturbed b s (gone.foldl State.loseLink s) := .foldl (undisturbed_loseLink b) gone s
  have hfollowed (c : Bool) (u : State) : Undisturbed b u (if c then u.sendLinkmap else u) :=
    .ite (undisturbed_sendLinkmap ..) (.refl b u)
  exact .ite ((hlost _).trans (hfollowed ..)) (((hlost _).trans (hfollowed ..)).trans (undisturbed_routesChanged ..))

end

/-! Waiting commands find a crest. -/

theorem rouse_off {x : Crest} (h : x.pw = .off) : x.rouse.pw = .off := by
  rw [Crest.rouse, h]

section
variable (b : Bool) (s : State)

theorem undisturbed_chargeEarly (q t : Nat) : Undisturbed b s (s.chargeEarly q t) := by
  unfold State.chargeEarly
  split
  · exact .refl b s
  · exact .trans (undisturbed_modCmd ..) (.foldl (fun u _ => .ite (.refl b u) (undisturbed_modCmd ..)) _ _)

theorem undisturbed_place (q t p : Nat) : Undisturbed b s (s.place q t p) := by
  have hheld (u : State) (c : Prop) [Decidable c] (cause : Nat) : Undisturbed b u (if c then u.setHold q t p cause true else u) :=
    .ite (undisturbed_setHold ..) (.refl b u)
  unfold State.place
  split
  · exact .refl b s
  · refine .ite (.refl b s) ?_
    extract_lets owner borrowed dirty charged taken unqueued received halted blocked
    have hcharged : Undisturbed b s charged := .ite (undisturbed_modCmd ..) (.refl b s)
    have htaken : Undisturbed b charged taken := undisturbed_modCrest b _ p fun hoff => by
      have hclean : (if dirty = true then (charged.crest p).zeroise else charged.crest p).pw = .off := by
        split <;> exact hoff
      dsimp only
      split
      · exact hclean
      · exact rouse_off hclean
    have hreceived : Undisturbed b charged received := htaken.trans ((undisturbed_setHold ..).trans (hheld ..))
    have hblocked : Undisturbed b halted blocked :=
      .ite (.trans (undisturbed_modCrest b _ p fun h => h) (undisturbed_setHold ..)) (.refl b _)
    exact hcharged.trans (hreceived.trans ((hheld ..).trans (hblocked.trans (undisturbed_requeue ..))))

theorem undisturbed_adopt (q t : Nat) : Undisturbed b s (s.adopt q t) := by
  unfold State.adopt
  split
  · exact .refl b s
  · refine .ite (.refl b s) ?_
    have hchosen (c : Bool) (f : Cmd → Cmd) : Undisturbed b s (if c then (s.modCmd q t f).chargeEarly q t else s) :=
      .ite (.trans (undisturbed_modCmd ..) (undisturbed_chargeEarly ..)) (.refl b s)
    dsimp only
    split
    · exact hchosen ..
    · exact .trans (hchosen ..) (.foldl (fun u _ => undisturbed_place b u ..) _ _)

theorem undisturbed_adoptAll : Undisturbed b s s.adoptAll := .foldl (fun u _ => undisturbed_adopt b u ..) _ s

end

end Sys2Proof.Machine
end

section
/-!
Heat, droop and the critical path (O45): what the sensors do, what a trip leaves, and what a member sends.
-/
namespace Sys2Proof.Machine
open Sys2Proof.Claim

/-! Sensors (R255, R284, R340). -/

/-- The state with sensor `i` last read as `v`. -/
def State.sensed (s : State) (i : Nat) (v : Int) : State := s.modPwr fun w => { w with temps := tset 0 w.temps i v }

/-- The log entry of a reading of sensor `i` that is out of range. -/
def sensorEntry (i : Nat) : LogEntry := { code := 0x20, cls := 2, kind := kSensor, unit := i }

/-- The state with sensor `i` excluded. -/
def State.exclude (s : State) (i : Nat) : State :=
  s.modPwr fun w => { w with excluded := tset false w.excluded i true, hotOnce := tset false w.hotOnce i false }

/-- The state with a reading of 115 °C or more of sensor `i` noted, or its absence, and its region's cooling begun anew where that
region is too warm to cool. -/
def State.warmed (s : State) (i : Nat) (v : Int) : State :=
  let s := s.modPwr fun w => { w with hotOnce := tset false w.hotOnce i (decide (v ≥ 460)) }
  match s.regionTemp (regionOf i) with
  | some t => if t ≥ 388 then s.modPwr fun w => { w with coolSince := tset none w.coolSince (regionOf i) none } else s
  | none => s

section
variable {s : State} {i : Nat} {v : Int}

theorem exec_sensorRead (hr : s.mg.released = true) (hi : i ≤ 63) : exec (.sensorRead i v) s =
    if tget false s.pwr.excluded i then .next (if decide (v < -160 ∨ v > 600) then (s.sensed i v).addLog (sensorEntry i) else s.sensed i v)
    else if decide (v < -160 ∨ v > 600) then
      .next (((((s.sensed i v).exclude i).alert aSensorFault).addLog (sensorEntry i)).notice [aUnitRetired] [])
    else if (decide (v ≥ 460) && tget false s.pwr.hotOnce i) && !((s.sensed i v).warmed i v).pwr.tripped then
      .next (((s.sensed i v).warmed i v).trip i) else .next ((s.sensed i v).warmed i v) :=
  if_neg (by simp [hr, hi])

/-- A sensor that is excluded alerts, and its retirement leaves the crests as they are. -/
theorem exclude_frame (s : State) (i : Nat) :
    let t := (((s.exclude i).alert aSensorFault).addLog (sensorEntry i)).notice [aUnitRetired] []
    tget false t.pwr.excluded i = true ∧ t.mg.alertStat.testBit 16 = true ∧ t.crests = s.crests ∧ t.pwr.temps = s.pwr.temps := by
  intro t
  have hfix := (undisturbed_notice true (((s.exclude i).alert aSensorFault).addLog (sensorEntry i)) [aUnitRetired] []).fixtures
  have hexcluded : t.pwr.excluded = (s.exclude i).pwr.excluded := (congrArg (fun u => u.pwr.excluded) hfix :)
  have htemps : t.pwr.temps = s.pwr.temps := (congrArg (fun u => u.pwr.temps) hfix :)
  refine ⟨?_, (undisturbed_notice true _ _ _).alerts 16 (orBit_testBit_self _ aSensorFault), crests_notice .., htemps⟩
  rw [hexcluded]
  exact tget_tset_same false s.pwr.excluded i true

theorem warmed_frame (s : State) (i : Nat) (v : Int) : (s.warmed i v).crests = s.crests ∧ (s.warmed i v).pwr.temps = s.pwr.temps ∧
    (s.warmed i v).pwr.tripped = s.pwr.tripped ∧ tget false (s.warmed i v).pwr.hotOnce i = decide (v ≥ 460) := by
  unfold State.warmed
  dsimp only
  split
  · split <;> exact ⟨rfl, rfl, rfl, tget_tset_same ..⟩
  · exact ⟨rfl, rfl, rfl, tget_tset_same ..⟩

end

/-! A trip (R256). -/

theorem Undisturbed.trip {b : Bool} {s t : State} (h : Undisturbed b s t) :
    t.pwr.tripped = s.pwr.tripped ∧ t.pwr.tripBit = s.pwr.tripBit :=
  ⟨(congrArg Pwr.tripped h.pwr :), (congrArg Pwr.tripBit h.pwr :)⟩

/-- Crest `p` loses its power in a trip at time `t`. -/
def State.tripCrest (t : Nat) (s : State) (p : Nat) : State :=
  ((s.endHeld p sFault 0x46).modCrest p fun c =>
    { c.powerLoss with halted := false, lentTo := none, lastPart := none }).modReg p fun r => r.turnOff t 4

theorem tripCrest_frame (t : Nat) (s : State) (p : Nat) : (s.tripCrest t p).pwr.tripped = s.pwr.tripped ∧
    (s.tripCrest t p).pwr.tripBit = s.pwr.tripBit ∧ ((s.tripCrest t p).crest p).pw = .off ∧
    ∀ k, (s.crest k).pw = .off → ((s.tripCrest t p).crest k).pw = .off := by
  have hended := undisturbed_endHeld true s p sFault 0x46
  have hcrest (k : Nat) (f : Crest → Crest) (g : Reg → Reg) : (((s.endHeld p sFault 0x46).modCrest p f).modReg p g).crest k =
      ((s.endHeld p sFault 0x46).modCrest p f).crest k := rfl
  refine ⟨hended.trip.1, hended.trip.2, ?_,
    fun k hk => ?_⟩
  · rw [State.tripCrest, hcrest, State.crest_modCrest, if_pos rfl]
    rfl
  · rw [State.tripCrest, hcrest, State.crest_modCrest]
    split
    · rfl
    · exact hended.off k hk

/-- Crests that lose their power in turn are OFF in the end, and the trip stands. -/
theorem tripCrests_frame (t : Nat) (ps : List Nat) (s : State) : (ps.foldl (State.tripCrest t) s).pwr.tripped = s.pwr.tripped ∧
    (ps.foldl (State.tripCrest t) s).pwr.tripBit = s.pwr.tripBit ∧
    ∀ k, k ∈ ps ∨ (s.crest k).pw = .off → ((ps.foldl (State.tripCrest t) s).crest k).pw = .off := by
  induction ps generalizing s with
  | nil => exact ⟨rfl, rfl, fun k hk => hk.resolve_left List.not_mem_nil⟩
  | cons p ps ih =>
    obtain ⟨htripped, hbit, hself, hothers⟩ := tripCrest_frame t s p
    obtain ⟨ihtripped, ihbit, ihoff⟩ := ih (s.tripCrest t p)
    refine ⟨ihtripped.trans htripped, ihbit.trans hbit, fun k hk => ihoff k ?_⟩
    obtain hmem | hoff := hk
    · obtain rfl | hmem := List.mem_cons.1 hmem
      · exact .inr hself
      · exact .inl hmem
    · exact .inr (hothers k hoff)

/-- The state as a trip begins. -/
def State.tripSet (s : State) : State :=
  (s.modPwr fun w => { w with tripped := true, tripBit := true }).modMg fun m => { m with haltReq := 0, haltStat := 0 }

/-- The state with the owned slices that are on in RETAIN. -/
def State.retainOwned (s : State) : State :=
  (List.range 96).foldl (fun s n => if (s.sliceOwner n).isSome && decide ((s.slice n).pw = .on) then s.toRetain n else s) s

theorem trip_eq (s : State) (i : Nat) : s.trip i = (((((List.range 17).foldl (State.tripCrest s.time) s.tripSet).retainOwned).alert
    aThermalTrip).addLog { code := 0x21, cls := 3, kind := kSensor, unit := i, detail := i }).adoptAll := rfl

theorem undisturbed_retainOwned (s : State) : Undisturbed true s s.retainOwned :=
  .foldl (fun v _ => .ite (undisturbed_modSlice ..) (.refl true v)) _ s

theorem trip_frame (s : State) (i : Nat) : (s.trip i).pwr.tripped = true ∧ (s.trip i).pwr.tripBit = true ∧
    (∀ p, p < 17 → ((s.trip i).crest p).pw = .off) ∧ (s.trip i).mg.alertStat.testBit 11 = true := by
  obtain ⟨htripped, hbit, hoff⟩ := tripCrests_frame s.time (List.range 17) s.tripSet
  have hpowered (p : Nat) (hp : p < 17) := hoff p (.inl (List.mem_range.2 hp))
  rw [trip_eq]
  generalize (List.range 17).foldl (State.tripCrest s.time) s.tripSet = u at *
  have hafter (v : State) (e : LogEntry) : Undisturbed true v (v.addLog e).adoptAll := .trans (undisturbed_addLog ..) (undisturbed_adoptAll ..)
  have hall := ((undisturbed_retainOwned u).trans (undisturbed_alert true _ aThermalTrip)).trans
    (hafter _ { code := 0x21, cls := 3, kind := kSensor, unit := i, detail := i })
  exact ⟨hall.trip.1.trans htripped, hall.trip.2.trans hbit,
    fun p hp => hall.off p (hpowered p hp), (hafter ..).alerts 11 (orBit_testBit_self _ aThermalTrip)⟩

/-! The regions' ceilings (R255). -/

theorem applyCeilings_frame (s : State) : s.applyCeilings.pwr.thermal = s.pwr.thermal ∧
    s.applyCeilings.pwr.tripped = s.pwr.tripped ∧ s.applyCeilings.store = s.store ∧ s.applyCeilings.parts = s.parts := by
  have h : s.applyCeilings.unlevelled = s.unlevelled := unlevelled_slowTo ..
  generalize s.applyCeilings = t at h
  exact ⟨(congrArg (fun u => u.pwr.thermal) h :), (congrArg (fun u => u.pwr.tripped) h :), (congrArg State.store h :),
    (congrArg State.parts h :)⟩

/-- The state without what the steps of the regions move. -/
def State.unheated (s : State) : State := { s with pwr := { s.pwr with thermal := [], coolSince := [] } }

section
variable (s : State) (f : Nat)

theorem unheated_regionStep : (s.regionStep f).unheated = s.unheated := by
  unfold State.regionStep
  dsimp only
  split
  · rfl
  · refine proj_ite State.unheated rfl (proj_ite State.unheated rfl ?_)
    split
    · rfl
    · exact proj_ite State.unheated rfl rfl

theorem regionTemp_of_unheated {s t : State} (h : t.unheated = s.unheated) (f : Nat) : t.regionTemp f = s.regionTemp f :=
  (congrArg (fun u => u.regionTemp f) h :)

theorem thermal_regionStep_other {g : Nat} (hg : g ≠ f) : tget 0 (s.regionStep f).pwr.thermal g = tget 0 s.pwr.thermal g := by
  have hset (c : Nat) : tget 0 (tset 0 s.pwr.thermal f c) g = tget 0 s.pwr.thermal g := tget_tset_other _ _ _ _ hg
  unfold State.regionStep
  dsimp only
  split
  · exact hset 6
  · refine proj_ite (fun u : State => tget 0 u.pwr.thermal g) (hset _) (proj_ite (fun u : State => tget 0 u.pwr.thermal g) rfl ?_)
    split
    · rfl
    · exact proj_ite (fun u : State => tget 0 u.pwr.thermal g) (hset _) rfl

theorem thermal_regionStep_hot {x : Int} (hx : s.regionTemp f = some x) (hot : 400 ≤ x) :
    tget 0 (s.regionStep f).pwr.thermal f = min 15 (tget 0 s.pwr.thermal f + 1) := by
  rw [State.regionStep]
  simp only [hx, ge_iff_le, hot, if_true]
  exact tget_tset_same 0 s.pwr.thermal f _

theorem thermal_regionStep_none (hx : s.regionTemp f = none) : tget 0 (s.regionStep f).pwr.thermal f = 6 := by
  rw [State.regionStep]
  simp only [hx]
  exact tget_tset_same 0 s.pwr.thermal f 6

end

theorem unheated_regionSteps (fs : List Nat) (s : State) : (fs.foldl State.regionStep s).unheated = s.unheated :=
  proj_foldl State.unheated unheated_regionStep fs s

theorem store_regionSteps (fs : List Nat) (s : State) : (fs.foldl State.regionStep s).store = s.store := by
  have h := unheated_regionSteps fs s
  generalize fs.foldl State.regionStep s = t at h
  exact (congrArg State.store h :)

theorem thermal_regionSteps_other {f : Nat} {fs : List Nat} (hf : f ∉ fs) (s : State) :
    tget 0 (fs.foldl State.regionStep s).pwr.thermal f = tget 0 s.pwr.thermal f :=
  List.foldlRecOn (motive := fun u => tget 0 u.pwr.thermal f = tget 0 s.pwr.thermal f) fs _ rfl fun u hu g hg =>
    (thermal_regionStep_other u g fun h => hf (by rwa [h])).trans hu

/-- In a walk over the regions each takes its own step, from the ceiling and the readings before the walk. -/
theorem thermal_regionSteps (s : State) {f : Nat} (hf : f ∈ regionList) :
    let t := regionList.foldl State.regionStep s
    (∀ x, s.regionTemp f = some x → 400 ≤ x → tget 0 t.pwr.thermal f = min 15 (tget 0 s.pwr.thermal f + 1)) ∧
      (s.regionTemp f = none → tget 0 t.pwr.thermal f = 6) := by
  have hnodup : regionList.Nodup := by decide
  obtain ⟨before, behind, heq⟩ := List.append_of_mem hf
  rw [heq] at hnodup ⊢
  obtain ⟨-, hbehind, hdisj⟩ := List.nodup_append.1 hnodup
  have hlater : f ∉ behind := (List.nodup_cons.1 hbehind).1
  have hearlier : f ∉ before := fun h => hdisj f h f (List.mem_cons_self ..) rfl
  have hthermal := thermal_regionSteps_other hearlier s
  have htemp := regionTemp_of_unheated (unheated_regionSteps before s) f
  rw [List.foldl_append, List.foldl_cons]
  refine ⟨fun x hx hot => ?_, fun hx => ?_⟩
  · rw [thermal_regionSteps_other hlater, thermal_regionStep_hot _ _ (htemp.trans hx) hot, hthermal]
  · rw [thermal_regionSteps_other hlater, thermal_regionStep_none _ _ (htemp.trans hx)]

theorem exec_thermalStep {s : State} (hr : s.mg.released = true) (hseq : s.pwr.seqPresent = true) :
    exec .thermalStep s = .next (regionList.foldl State.regionStep s).applyCeilings := if_neg (by simp [hr, hseq])

/-! The recovery of a trip (R256). -/

/-- The state with every region's ceiling at P15, the trip over. -/
def State.recovered (s : State) : State := s.modPwr fun w => { w with
  tripped := false, coolSince := [], thermal := regionList.foldl (fun t f => tset 0 t f 15) w.thermal }

theorem tget_setAll {f : Nat} {fs : List Nat} (hf : f ∈ fs) (v : Nat) (t : Tbl Nat) :
    tget 0 (fs.foldl (fun t f => tset 0 t f v) t) f = v := by
  obtain ⟨before, behind, rfl⟩ := List.append_of_mem hf
  rw [List.foldl_append, List.foldl_cons]
  refine List.foldlRecOn (motive := fun t => tget 0 t f = v) behind _ (tget_tset_same ..) fun t ht g _ => ?_
  rw [tget_tset]
  split
  · rfl
  · exact ht

theorem thermal_recovered (s : State) {f : Nat} (hf : f ∈ regionList) : tget 0 s.recovered.pwr.thermal f = 15 := by
  have hall := tget_setAll hf 15 s.pwr.thermal
  unfold State.recovered
  generalize regionList = fs at hall ⊢
  exact hall

/-- Crest `p` soft-starts once a trip of `waited` CCLK is over. -/
def State.recoverCrest (waited : Nat) (s : State) (p : Nat) : State :=
  let s := ((s.crest p).held ++ s.loadsOn p).foldl (fun s k => s.modCmd k.1 k.2 fun c => c.charge wPower waited) s
  if s.crestRetired p || ((s.logicalOf p).bind s.crestOwner).isNone then s
  else s.modCrest p fun x => { x with waking := true }

theorem recoverCrest_frame (waited : Nat) (s : State) (p : Nat) :
    (s.recoverCrest waited p).pwr = s.pwr ∧ (s.recoverCrest waited p).parts = s.parts := by
  have hcharged (ks : List (Nat × Nat)) := charged_eq ks wPower waited s
  unfold State.recoverCrest
  obtain ⟨cs, hcs⟩ := hcharged ((s.crest p).held ++ s.loadsOn p)
  rw [hcs]
  dsimp only
  split <;> exact ⟨rfl, rfl⟩

theorem recoverCrests_frame (waited : Nat) (s : State) :
    ((List.range 17).foldl (State.recoverCrest waited) s).pwr = s.pwr ∧
      ((List.range 17).foldl (State.recoverCrest waited) s).parts = s.parts :=
  ⟨proj_foldl State.pwr (fun u p => (recoverCrest_frame waited u p).1) _ s,
    proj_foldl State.parts (fun u p => (recoverCrest_frame waited u p).2) _ s⟩

theorem exec_tripRecover {s : State} (ht : s.pwr.tripped = true) (hseq : s.pwr.seqPresent = true)
    (hcool : ∀ i, i < 64 → tget false s.pwr.excluded i = true ∨ tget 0 s.pwr.temps i < 380) (waited : Nat) :
    exec (.tripRecover waited) s = .next ((List.range 17).foldl (State.recoverCrest waited) s.recovered).applyCeilings := by
  have hall : ((List.range 64).all fun i => tget false s.pwr.excluded i || decide (tget 0 s.pwr.temps i < 380)) = true :=
    List.all_eq_true.2 fun i hi => by simpa using hcool i (List.mem_range.1 hi)
  exact if_neg (by rw [ht, hseq, hall]; decide)

/-! Droop (R254). -/

theorem exec_droop {s : State} {p : Nat} (hp : p ≤ 16) (hpw : (s.crest p).pw ≠ .off) : exec (.droop p) s =
    .next ((s.modCrest p fun c => { c with droop := true }).modPwr fun w => { w with droopCnt := (w.droopCnt + 1) % 65536 }) :=
  if_neg (by simp [hp, hpw])

/-! The critical path (R263). -/

theorem ofBytes_toBytes (v n : Nat) : ofBytes (toBytes v n) = v % 256 ^ n := by
  induction n generalizing v with
  | zero => exact (Nat.mod_one v).symm
  | succ n ih =>
    have hbyte : (BitVec.ofNat 8 v).toNat = v % 256 := rfl
    rw [toBytes, ofBytes, ih, hbyte, Nat.pow_succ', Nat.mod_mul]

/-- What a die sends to its leader as its SLACK (Table PEER-4). -/
def State.slackFields (s : State) (fine : Int) : List Byte :=
  toBytes s.pwr.slackIdx 4 ++ toBytes (wrap 32 (s.slack fine)) 4 ++ toBytes ((s.pwr.bins10.take 10).sum * 16 / 100000000 % 65536) 2
    ++ toBytes s.pwr.capSust 2

/-- The state with the waits for peers forgotten that no later SLACK counts, and its report numbered. -/
def State.reported (s : State) : State :=
  { s with peerPast := s.peerPast.filter (fun e => decide (s.time ≤ e.2 + 100)) }.modPwr fun w =>
    { w with slackIdx := (w.slackIdx + 1) % 2 ^ 32 }

/-- What a leader keeps as its own SLACK. -/
def State.slackOwn (s : State) (fine : Int) : Int × Nat × Nat × Nat :=
  (s.slack fine, (s.pwr.bins10.take 10).sum * 16 / 100000000 % 65536, s.pwr.capSust, s.time)

theorem exec_slackReport_leader {s : State} (hc : s.critical = true) (hl : s.leader = s.position) (x : Int) :
    exec (.slackReport x) s =
      .next (s.reported.modPwr fun w => { w with slackOf := tset none w.slackOf s.position (some (s.slackOwn x)) }) :=
  (if_neg (by simp [hc])).trans (if_pos hl)

theorem exec_slackReport_member {s : State} (hc : s.critical = true) (hl : s.leader ≠ s.position) (x : Int) :
    exec (.slackReport x) s = .next (s.reported.sendMgmt s.leader 6 (s.slackFields x)) :=
  (if_neg (by simp [hc])).trans (if_neg hl)

theorem exec_groupCapRedistribute {s : State} (hc : s.critical = true) (hl : s.leader = s.position) :
    ∃ u body, exec .groupCapRedistribute s =
      .next (((maskList s.members 4).filter (· ≠ s.position)).foldl (fun s d => s.sendMgmt d 7 body) u) ∧
      u.pwr.capsSet = some s.members ∧ u.pwr.epochSent = (s.pwr.epochSent + 1) % 2 ^ 32 ∧
      u.pwr.effCap = some ((tget 0 u.pwr.caps s.position).floor.toNat % 65536) ∧ u.pwr.capSust = s.pwr.capSust :=
  ⟨_, _, if_neg (by simp [hc, hl]), rfl, rfl, rfl, rfl⟩

theorem pwr_sendMgmt (s : State) (dst msg : Nat) (fields : List Byte) : (s.sendMgmt dst msg fields).pwr = s.pwr := by
  unfold State.sendMgmt State.enqueue
  split <;> rfl

/-- A management message goes last into the queue of the port on its way. -/
theorem qMgmt_sendMgmt {s : State} {dst k : Nat} (hk : s.wayIn dst = some k) (msg : Nat) (fields : List Byte) :
    ((s.sendMgmt dst msg fields).port k).qMgmt = (s.port k).qMgmt ++ [s.newFlit 5 dst (BitVec.ofNat 8 msg :: fields)] := by
  have hway : s.wayIn (s.newFlit 5 dst (BitVec.ofNat 8 msg :: fields)).dst = some k := hk
  rw [State.sendMgmt, State.enqueue, hway]
  exact (congrArg PPort.qMgmt (State.port_modPort_same s k fun x => { x with
    qMgmt := x.qMgmt ++ [s.newFlit 5 dst (BitVec.ofNat 8 msg :: fields)] }) :)

/-- The fields of a SLACK message read back. -/
theorem slackBody_fields (s : State) (x : Int) (dst : Nat) :
    let b := (s.reported.newFlit 5 dst (BitVec.ofNat 8 6 :: s.slackFields x)).body
    fld b 0 1 = 6 ∧ fld b 1 4 = s.pwr.slackIdx % 2 ^ 32 ∧ fld b 5 4 = wrap 32 (s.slack x) ∧ fld b 11 2 = s.pwr.capSust % 65536 := by
  refine ⟨rfl, ofBytes_toBytes _ 4, (ofBytes_toBytes _ 4).trans ?_, ofBytes_toBytes _ 2⟩
  unfold wrap
  omega

theorem slackReport_member {s : State} (hc : s.critical = true) (hl : s.leader ≠ s.position) (x : Int) :
    ∃ t, exec (.slackReport x) s = .next t ∧ t.pwr.slackOf = s.pwr.slackOf ∧ t.pwr.slackIdx = (s.pwr.slackIdx + 1) % 2 ^ 32 ∧
      ∀ k, s.wayIn s.leader = some k → ∃ f, (t.port k).qMgmt = (s.port k).qMgmt ++ [f] ∧ f.dst = s.leader ∧ fld f.body 0 1 = 6 ∧
        fld f.body 1 4 = s.pwr.slackIdx % 2 ^ 32 ∧ fld f.body 5 4 = wrap 32 (s.slack x) ∧ fld f.body 11 2 = s.pwr.capSust % 65536 := by
  have hpwr := pwr_sendMgmt s.reported s.leader 6 (s.slackFields x)
  refine ⟨_, exec_slackReport_member hc hl x, (congrArg Pwr.slackOf hpwr :), (congrArg Pwr.slackIdx hpwr :), fun k hk => ?_⟩
  have hway : s.reported.wayIn s.leader = some k := hk
  exact ⟨_, qMgmt_sendMgmt hway .., rfl, slackBody_fields s x _⟩

/-- Settles O45: what each sensor row does to its own unit, and that the losses it may lead to leave the rest undisturbed. -/
theorem heatDroopAndTheCriticalPath : Obligations.HeatDroopAndTheCriticalPath := by
  refine ⟨fun s i p waited v hr => ⟨fun hi hx hv => ?_, fun hi hx hv => ?_, fun hi hx hlo hhi => ?_, fun hi hx hlo hhi hot htr => ?_,
    fun hi hx hlo hhi => ?_, fun hseq => ?_, fun ht hseq hcool => ?_, fun hp hpw => ?_, rfl⟩,
    fun s x hc => ⟨fun hl => ?_, fun hl => slackReport_member hc hl x, fun hl => ?_⟩⟩
  · have hbad : decide (v < -160 ∨ v > 600) = true := decide_eq_true hv
    obtain ⟨hexcluded, halert, hcrests, htemps⟩ := exclude_frame (s.sensed i v) i
    refine ⟨_, by rw [exec_sensorRead hr hi, if_neg (by simp [hx]), if_pos hbad], hexcluded, halert, hcrests, ?_⟩
    rw [htemps]
    exact tget_tset_same ..
  · have hbad : decide (v < -160 ∨ v > 600) = true := decide_eq_true hv
    exact ⟨_, by rw [exec_sensorRead hr hi, if_pos hx, if_pos hbad], rfl, rfl⟩
  · have hgood : ¬decide (v < -160 ∨ v > 600) = true := by simp; omega
    rw [exec_sensorRead hr hi, if_pos hx, if_neg hgood]
    rfl
  · have hgood : ¬decide (v < -160 ∨ v > 600) = true := by simp; omega
    obtain ⟨-, -, htripped, -⟩ := warmed_frame (s.sensed i v) i v
    have htwice : (decide (v ≥ 460) && tget false s.pwr.hotOnce i && !((s.sensed i v).warmed i v).pwr.tripped) = true := by
      rw [htripped, decide_eq_true hlo, hot, show (s.sensed i v).pwr.tripped = false from htr]
      rfl
    exact ⟨_, by rw [exec_sensorRead hr hi, if_neg (by simp [hx]), if_neg hgood, if_pos htwice], trip_frame ..⟩
  · have hgood : ¬decide (v < -160 ∨ v > 600) = true := by simp; omega
    obtain ⟨hcrests, htemps, -, honce⟩ := warmed_frame (s.sensed i v) i v
    refine ⟨_, by rw [exec_sensorRead hr hi, if_neg (by simp [hx]), if_neg hgood, if_neg (by simp [hhi])], ?_, ?_, hcrests⟩
    · rw [htemps]
      exact tget_tset_same ..
    · exact honce.trans (decide_eq_false (by omega))
  · obtain ⟨hthermal, -, hstore, -⟩ := applyCeilings_frame (regionList.foldl State.regionStep s)
    refine ⟨_, exec_thermalStep hr hseq, fun f hf => ?_, hstore.trans (store_regionSteps regionList s)⟩
    rw [hthermal]
    exact thermal_regionSteps s hf
  · obtain ⟨hthermal, htripped, -, hparts⟩ := applyCeilings_frame ((List.range 17).foldl (State.recoverCrest waited) s.recovered)
    have hframe := recoverCrests_frame waited s.recovered
    refine ⟨_, exec_tripRecover ht hseq hcool waited, htripped.trans (congrArg Pwr.tripped hframe.1), fun f hf => ?_,
      hparts.trans hframe.2⟩
    rw [hthermal, hframe.1]
    exact thermal_recovered s hf
  · have hself := State.crest_modCrest_same s p fun c => { c with droop := true }
    have hothers (k : Nat) (hk : k ≠ p) := State.crest_modCrest_other s p (fun c => { c with droop := true }) k hk
    exact ⟨_, exec_droop hp hpw, (congrArg Crest.droop hself :), (congrArg Crest.level hself :), rfl, hothers⟩
  · exact ⟨_, exec_slackReport_leader hc hl x, tget_tset_same none s.pwr.slackOf s.position (some (s.slackOwn x)), rfl, rfl⟩
  · obtain ⟨u, body, hexec, hset, hepoch, heff, hsust⟩ := exec_groupCapRedistribute hc hl
    have hpwr := proj_foldl State.pwr (fun s d => pwr_sendMgmt s d 7 body) ((maskList s.members 4).filter (· ≠ s.position)) u
    refine ⟨_, hexec, ?_⟩
    rw [hpwr]
    exact ⟨hset, hepoch, heff, hsust⟩

end Sys2Proof.Machine
end

section
/-!
Retirement by command and firmware over the register port (O30): a unit that RP_RETIRE names is retired whatever its loss takes
with it.
-/
namespace Sys2Proof.Machine
open Sys2Proof.Claim

/-! A heard command. -/

/-- A heard command other than FW_SB_ACTIVATE starts in the step of its write, acknowledged on its path. -/
theorem written_mgCmd {s : State} {path : Path} {v : Nat} (h : Heard s path (v % 256)) (hv : v % 256 ≠ 0x31)
    (hr : (s.mgStart path v).mg.released = s.mg.released) :
    s.written path (fun s => s.mgCmd path v) = acked path (s.mgStart path v) := by
  have hcmd := mgCmd_of_heard h hv
  rw [written_eq_acked (pathReady_of_heard h) (by rw [hcmd, hr]), hcmd]

/-! Which crests, cols, modules and ports are retired. -/

/-- The retired crests, cols, modules and ports. -/
def State.retirements (s : State) : Nat × Nat × Nat × Nat := (s.rep.retCrest, s.rep.retCol, s.rep.retMod, s.rep.retPort)

section
variable {b : Bool} {s t : State}

theorem Undisturbed.retirements (h : Undisturbed b s t) : t.retirements = s.retirements := (congrArg State.retirements h.fixtures :)

variable (s)

theorem retirements_makeAbsent (l : Nat) (hit : List Nat) : (s.makeAbsent l hit).retirements = s.retirements := by
  have hbefore (u : State) : (u.modRep fun r => { r with crestMap := tset 32 r.crestMap l 31 }).retirements = u.retirements := rfl
  exact ((undisturbed_addLog true _ _).trans (undisturbed_notice ..)).retirements.trans (hbefore s)

theorem retirements_retireDone : s.retireDone.retirements = s.retirements := proj_ite State.retirements rfl rfl

theorem retirements_resetFails : s.resetFails.retirements = s.retirements := proj_ite State.retirements rfl rfl

theorem retirements_bindFails : s.bindFails.retirements = s.retirements := by
  unfold State.bindFails
  split
  · rfl
  · refine (undisturbed_checkMin true _ _).retirements.trans ((retirements_resetFails _).trans ((retirements_retireDone _).trans
      ((retirements_makeAbsent ..).trans ?_)))
    exact (undisturbed_endHeld true s ..).retirements

/-- The state once crest `p` is retired and OFF, its commands ended (R275). -/
theorem retireCrest_marked {p : Nat} (hp : s.crestRetired p = false) (cause : Nat) :
    (s.retireCrest p cause).retirements = (orBit s.rep.retCrest p, s.rep.retCol, s.rep.retMod, s.rep.retPort) := by
  have heq : s.retireCrest p cause = _ := if_neg (by rw [hp]; decide)
  rw [heq]
  extract_lets l n can wakes hit ended unhalted marked lost off logged told mapped bound
  clear_value l
  have hended : ended.retirements = s.retirements :=
    proj_ite State.retirements rfl (undisturbed_endHeld true s ..).retirements
  have hunhalted : unhalted.retirements = ended.retirements := by
    cases l <;> rfl
  have htold : told.retirements = off.retirements := ((undisturbed_addLog true off _).trans (undisturbed_notice ..)).retirements
  have hmapped : mapped.retirements = told.retirements := by
    refine proj_ite State.retirements rfl ?_
    cases l with
    | none => rfl
    | some l => exact retirements_makeAbsent ..
  have hbound : bound.retirements = mapped.retirements := proj_ite State.retirements (retirements_bindFails _) rfl
  have hoff : off.retirements = (orBit unhalted.rep.retCrest p, unhalted.rep.retCol, unhalted.rep.retMod, unhalted.rep.retPort) := rfl
  have hkept : unhalted.retirements = s.retirements := hunhalted.trans hended
  obtain ⟨hcrest, hcol, hmod, hport⟩ : unhalted.rep.retCrest = s.rep.retCrest ∧ unhalted.rep.retCol = s.rep.retCol ∧
      unhalted.rep.retMod = s.rep.retMod ∧ unhalted.rep.retPort = s.rep.retPort := by
    simpa only [State.retirements, Prod.mk.injEq] using hkept
  rw [(undisturbed_checkMin true bound _).retirements, hbound, hmapped, htold, hoff, hcrest, hcol, hmod, hport]

theorem crestRetired_retireCrest (p cause : Nat) : (s.retireCrest p cause).crestRetired p = true := by
  cases hp : s.crestRetired p with
  | true => rwa [State.retireCrest, if_pos hp]
  | false =>
    have hcrest : (s.retireCrest p cause).rep.retCrest = orBit s.rep.retCrest p :=
      (congrArg Prod.fst (retireCrest_marked s hp cause) :)
    rw [State.crestRetired, hcrest]
    exact orBit_testBit_self ..

theorem retCol_retireCrest (p cause : Nat) : (s.retireCrest p cause).rep.retCol = s.rep.retCol := by
  cases hp : s.crestRetired p with
  | true => rw [State.retireCrest, if_pos hp]
  | false => exact (congrArg (fun r => r.2.1) (retireCrest_marked s hp cause) :)

theorem retCol_retireSlice (n cause : Nat) : (s.retireSlice n cause).rep.retCol = s.rep.retCol :=
  (congrArg (fun r => r.2.1) (undisturbed_retireSlice s n cause).retirements :)

theorem retCol_retirePort (k cause : Nat) : (s.retirePort k cause).rep.retCol = s.rep.retCol := by
  refine proj_ite (fun u : State => u.rep.retCol) rfl ?_
  exact (congrArg (fun r => r.2.1) ((undisturbed_addLog true _ _).trans (undisturbed_notice ..)).retirements :)

theorem colRetired_retireCol (c cause : Nat) : (s.retireCol c cause).colRetired c = true := by
  cases hc : s.colRetired c with
  | true => rwa [State.retireCol, if_pos hc]
  | false =>
    have heq : s.retireCol c cause = _ := if_neg (by rw [hc]; decide)
    rw [heq]
    extract_lets n marked logged told spare crests bound slices
    have htold : told.rep.retCol = marked.rep.retCol :=
      (congrArg (fun r => r.2.1) (((undisturbed_addLog true marked _).trans (undisturbed_notice ..)).trans
        (undisturbed_checkMin ..)).retirements :)
    have hcrests : crests.rep.retCol = told.rep.retCol :=
      proj_foldl (fun u : State => u.rep.retCol) (fun u p => proj_ite (fun u : State => u.rep.retCol) (retCol_retireCrest ..) rfl) _ _
    have hbound : bound.rep.retCol = crests.rep.retCol :=
      proj_ite (fun u : State => u.rep.retCol) (congrArg (fun r => r.2.1) (retirements_bindFails crests) :) rfl
    have hslices : slices.rep.retCol = bound.rep.retCol :=
      proj_foldl (fun u : State => u.rep.retCol) (fun u p => proj_ite (fun u : State => u.rep.retCol) (retCol_retireSlice ..) rfl) _ _
    have hall : (if c = 0 then slices else slices.retirePort (c - 1) 4).rep.retCol = marked.rep.retCol :=
      (proj_ite (fun u : State => u.rep.retCol) rfl (retCol_retirePort ..)).trans (hslices.trans (hbound.trans (hcrests.trans htold)))
    rw [State.colRetired, hall]
    exact orBit_testBit_self ..

/-- The link's configuration changes its modules' state and not which of them are retired (R168, R172). -/
theorem retirements_hostReconfig : s.hostReconfig.retirements = s.retirements := by
  refine proj_ite State.retirements rfl ?_
  extract_lets c trained live
  have htrained : trained.retirements = s.retirements :=
    List.foldlRecOn (motive := fun u : State => u.retirements = s.retirements) _ _ rfl fun u hu m _ => by split <;> exact hu
  have hlive : live.retirements = trained.retirements := (undisturbed_liveChange true _).retirements
  exact (proj_ite State.retirements (undisturbed_linkGone true live).retirements rfl).trans (hlive.trans htrained)

theorem modRetired_retireModule (m cause : Nat) : (s.retireModule m cause).rep.retMod.testBit m = true := by
  cases hm : s.rep.retMod.testBit m with
  | true => rwa [State.retireModule, if_pos hm]
  | false =>
    have heq : s.retireModule m cause = _ := if_neg (by rw [hm]; decide)
    rw [heq]
    extract_lets n marked off logged
    have hall : (logged.notice [aUnitRetired] []).hostReconfig.retirements = off.retirements :=
      (retirements_hostReconfig _).trans ((undisturbed_addLog true off _).trans (undisturbed_notice ..)).retirements
    have hmod : (logged.notice [aUnitRetired] []).hostReconfig.rep.retMod = marked.rep.retMod := (congrArg (fun r => r.2.2.1) hall :)
    rw [hmod]
    exact orBit_testBit_self ..

theorem portRetired_retirePort (k cause : Nat) : (s.retirePort k cause).rep.retPort.testBit k = true := by
  cases hk : s.rep.retPort.testBit k with
  | true => rwa [State.retirePort, if_pos hk]
  | false =>
    have heq : s.retirePort k cause = _ := if_neg (by rw [hk]; decide)
    rw [heq]
    extract_lets n marked off logged
    have hport : (logged.notice [aUnitRetired] []).rep.retPort = marked.rep.retPort :=
      (congrArg (fun r => r.2.2.2) ((undisturbed_addLog true off _).trans (undisturbed_notice ..)).retirements :)
    rw [hport]
    exact orBit_testBit_self ..

/-! RP_RETIRE (R279). -/

theorem kindCount_cases {kind unit : Nat} (h : unit < kindCount kind) : kind = 1 ∨ kind = 2 ∨ kind = 3 ∨ kind = 4 ∨ kind = 5 := by
  unfold kindCount at h
  split at h <;> omega

theorem unitRetired_retireUnit {kind unit : Nat} (h : unit < kindCount kind) :
    (s.retireUnit kind unit).unitRetired kind unit = true := by
  have hfollow (u : State) := undisturbed_peersFollow true u s
  obtain rfl | rfl | rfl | rfl | rfl := kindCount_cases h
  · exact crestRetired_retireCrest s unit 6
  · exact (undisturbed_goOn _).retired unit (sliceRetired_retireSlice s unit 6)
  · have hcol : ((s.retireCol unit 6).peersFollow s).rep.retCol = (s.retireCol unit 6).rep.retCol :=
      congrArg Repair.retCol ((hfollow _).rep rfl)
    have hdone := colRetired_retireCol s unit 6
    rwa [State.colRetired, ← hcol] at hdone
  · exact modRetired_retireModule s unit 6
  · have hport : ((s.retirePort unit 6).peersFollow s).rep.retPort = (s.retirePort unit 6).rep.retPort :=
      congrArg Repair.retPort ((hfollow _).rep rfl)
    have hdone := portRetired_retirePort s unit 6
    rwa [← hport] at hdone

end

section
variable {s : State} {path : Path} {kind unit : Nat}

/-- The word of an RP_RETIRE (Table REG-5). -/
def retireWord (kind unit : Nat) : Nat := 0x20 + 2 ^ 8 * (kind % 16) + 2 ^ 16 * (unit % 256)

theorem retireWord_fields (hk : kind < 16) (hu : unit < 256) : retireWord kind unit % 256 = 0x20 ∧
    bits (retireWord kind unit) 11 8 = kind ∧ bits (retireWord kind unit) 23 16 = unit := by
  unfold retireWord bits
  omega

theorem exec_rpRetire (h : Heard s path 0x20) (hk : kind < 16) (hu : unit < 256) :
    exec (.rpRetire path kind unit) s = .next (acked path (s.doRetire kind unit)) := by
  obtain ⟨hop, hkind, hunit⟩ := retireWord_fields hk hu
  have hstart : s.mgStart path (retireWord kind unit) = s.doRetire kind unit := by
    rw [State.mgStart, hop, hkind, hunit]
    rfl
  have hr := ((doRetire_kept kind unit (.refl false true s)).guarded rfl).2.2.1
  have hwritten := written_mgCmd (v := retireWord kind unit) (by rwa [hop]) (by omega) (by rw [hstart, hr])
  rw [hstart] at hwritten
  exact congrArg Host.Outcome.next hwritten

/-- A unit that is there and serves is retired, and the command ends, or runs until the spare is bound (R279). -/
theorem doRetire_retires (hu : unit < kindCount kind) (hr : s.unitRetired kind unit = false) :
    (s.doRetire kind unit).unitRetired kind unit = true ∧
    ((s.doRetire kind unit).rep.bindDue = none → (s.doRetire kind unit).mg.running = none ∧
      (s.doRetire kind unit).mg.cmdStatus = 0 ∧ (s.doRetire kind unit).mg.cmdDetail = 0) ∧
    ((s.doRetire kind unit).rep.bindDue ≠ none → (s.doRetire kind unit).mg.running = some 0x20 ∧
      (s.doRetire kind unit).mg.cmdStatus = 1) := by
  have heq : s.doRetire kind unit = if (s.retireUnit kind unit).rep.bindDue.isSome then (s.retireUnit kind unit).mgRuns 0x20
      else (s.retireUnit kind unit).mgResult csOk 0 :=
    (if_neg (Nat.not_le.2 hu)).trans (if_neg (by rw [hr]; decide))
  have hretired := unitRetired_retireUnit s hu
  rw [heq]
  cases hdue : (s.retireUnit kind unit).rep.bindDue with
  | none => exact ⟨hretired, fun _ => ⟨rfl, rfl, rfl⟩, fun h => absurd hdue h⟩
  | some l => exact ⟨hretired, fun h => absurd (hdue.symm.trans h) nofun, fun _ => ⟨rfl, rfl⟩⟩

/-! Firmware over the register port (R312). -/

theorem exec_fwSbOpen (h : Heard s path 0x30) : exec (.fwSbOpen path) s = .next (acked path s.doSbOpen) :=
  congrArg Host.Outcome.next (written_mgCmd (v := 0x30) h (by decide) rfl)

/-- FW_SB_ACTIVATE starts where no verification is under way (R312). -/
theorem exec_fwSbActivate (h : Heard s path 0x31) (hv : s.fw.verifying = none) :
    exec (.fwSbActivate path) s = .next (acked path s.doSbActivate) := by
  obtain ⟨hready, hbar0, hbusy⟩ := h
  have hport : path = .port := by
    cases path with
    | port => rfl
    | bar0 => exact absurd (hbar0 rfl).2 (by decide)
  subst hport
  have hgate : (!s.pathLive .port || (decide (Path.port = .bar0) && !(s.allows .port polPt && opBar0 (0x31 % 256)))) = false := by
    simp [pathLive_of_pathReady hready]
  have hcmd : s.mgCmd .port 0x31 = s.doSbActivate := by
    rw [State.mgCmd, hgate]
    simp only [hbusy, hv]
    rfl
  have hr := ((doSbActivate_kept (.refl false true s)).guarded rfl).2.2.1
  have hwritten := written_eq_acked (f := fun s => s.mgCmd .port 0x31) hready (by rw [hcmd, hr])
  rw [hcmd] at hwritten
  exact congrArg Host.Outcome.next hwritten

end

/-- Settles O30: every kind of unit leaves service by a retirement that marks it, whatever else follows from the loss. -/
theorem retireAndRegisterPortFirmware : Obligations.RetireAndRegisterPortFirmware := by
  refine fun s path kind unit hk hu => ⟨fun h hno => ?_, fun h hcount hret => ?_, fun h hcount hret => ?_, fun h => exec_fwSbOpen h,
    fun h hv hopen => ?_, fun h hv hclosed => ?_⟩
  · have hdone : s.doRetire kind unit = s.mgResult csArg 0 := if_pos hno
    rw [exec_rpRetire h hk hu, hdone]
    rfl
  · have hdone : s.doRetire kind unit = s.mgResult csState dRetired := (if_neg (Nat.not_le.2 hcount)).trans (if_pos hret)
    rw [exec_rpRetire h hk hu, hdone]
    rfl
  · have hrep : (acked path (s.doRetire kind unit)).rep = (s.doRetire kind unit).rep := by cases path <;> rfl
    have hmg : (acked path (s.doRetire kind unit)).mg = (s.doRetire kind unit).mg := by cases path <;> rfl
    refine ⟨_, exec_rpRetire h hk hu, ?_⟩
    obtain ⟨hretired, hended, hruns⟩ := doRetire_retires hcount hret
    rw [hrep, hmg]
    refine ⟨?_, hended, hruns⟩
    unfold State.unitRetired State.crestRetired State.sliceRetired State.colRetired at hretired ⊢
    rwa [hrep]
  · have hdone : s.doSbActivate = _ := if_neg (by rw [hopen]; decide)
    rw [exec_fwSbActivate h hv, hdone]
    rfl
  · have hdone : s.doSbActivate = s.mgResult csArg dNotOpen := if_pos (by rw [hclosed]; rfl)
    rw [exec_fwSbActivate h hv, hdone]
    rfl

end Sys2Proof.Machine
end

section
/-!
The start of an image (O43): the slices that a WARM reset left in transit are zeroised first.
-/
namespace Sys2Proof.Machine
open Sys2Proof.Claim

/-! What the start of an image leaves. -/

/-- Training leaves all but the modules as it is. -/
theorem trainHost_proj {γ : Type} (π : State → γ) (hm : ∀ (s : State) m f, π (s.modHmod m f) = π s) (s : State) :
    π s.trainHost = π s :=
  proj_ite π (proj_foldl π (fun _ _ => proj_ite π rfl (hm ..)) _ s) rfl

/-- The state as the image in RUN starts, its slices not freed yet (R313). -/
def State.started (s : State) : State :=
  (s.modFw fun f => { f with handover := false, version := ofBytes (tgetFrom 0#8 f.run 0x10 4) }).modMg fun m =>
    { m with stage := 8, fwRunning := true, cause := if s.mg.minLost then 3 else 1 }

theorem store_fwStart (s : State) : s.fwStart.store = s.started.freeTransit.store :=
  trainHost_proj State.store (fun _ _ _ => rfl) _

/-- A slice in transit is zeroised as an image starts (R214, R318). -/
theorem fwStart_zeroes {s : State} (hj : s.journal = none) {a : Nat} (ha : a / 2 ^ 24 < 96)
    (ht : (s.slice (a / 2 ^ 24)).transit = true) : tget 0#8 s.fwStart.store a = 0#8 := by
  have hnone : s.started.journal = none := hj
  rw [store_fwStart, freeTransit_eq _ hnone]
  exact foldl_zeroTransit_zeroes _ (List.mem_range.2 ha) ht

/-! An image that is accepted. -/

/-- The state with an image accepted over the register port as the RUN bank, before it starts (R313). -/
def State.imageTaken (s : State) (len : Nat) (img : List Byte) (slot : Option Nat) (unsigned : Bool) : State :=
  ((s.acceptImage img slot unsigned).modFw fun f =>
    { f with verifying := none, run := f.stage, stage := f.run, runLen := len, stageOpen := false }).mgResult csOk 0

theorem imageAccepted_starts {s : State} (hrun : s.mg.fwRunning = false) (hstage : 6 ≤ s.mg.stage) (len : Nat) (img : List Byte)
    (slot : Option Nat) (unsigned : Bool) :
    s.imageAccepted 1 len img slot unsigned = (s.imageTaken len img slot unsigned).fwStart := by
  have hwaits : ¬((s.imageTaken len img slot unsigned).mg.fwRunning ||
      decide ((s.imageTaken len img slot unsigned).mg.stage < 6)) = true := by
    have hsame : (s.imageTaken len img slot unsigned).mg.fwRunning = s.mg.fwRunning ∧
      (s.imageTaken len img slot unsigned).mg.stage = s.mg.stage := ⟨rfl, rfl⟩
    rw [hsame.1, hsame.2, hrun]
    simpa using hstage
  exact if_neg hwaits

/-- With the debug strap every image whose header passes is accepted (R311). -/
theorem exec_fwVerifyDone_debug {s : State} {len : Nat} (hv : s.fw.verifying = some (len, 1))
    (hh : headerOk (tgetFrom 0#8 s.fw.stage 0 0x200) len = true) (hd : s.debugStrap = true) :
    let img := tgetFrom 0#8 s.fw.stage 0 len
    let slot := keySlotOf img
    exec .fwVerifyDone s = .next (s.imageAccepted 1 len img slot (!(slot.isSome && decide (fld img 0xC 4 ≥ s.blown)))) := by
  change execFwVerifyDone s = _
  rw [execFwVerifyDone, hv]
  exact (if_neg (by rw [if_neg (by decide), hh]; decide)).trans (if_pos (by rw [hd, Bool.or_true]))

/-! An image that is accepted in FW_WAIT after a WARM reset. -/

/-- The first bytes of an image of 4096 bytes with security version 0: its magic, version, length and header length. -/
def shortImage : Tbl Byte :=
  [(0, 0x4B#8), (1, 0x57#8), (2, 0x46#8), (3, 0x4F#8), (4, 1#8), (9, 0x10#8), (0x15, 2#8)]

/-- A die with the debug strap, in FW_WAIT after a WARM reset that left slice 0 in transit with a byte of its contents, as the
verification of FW_SB_ACTIVATE ends. -/
def transitInFwWait : State :=
  { mg := { stage := 6, running := some 0x31 }, fw := { stage := shortImage, verifying := some (4096, 1) }
    sb := { straps := 2 ^ 6 }, slices := [(0, { transit := true })], store := [(0, 1#8)] }

theorem headerOk_shortImage : headerOk (tgetFrom 0#8 shortImage 0 0x200) 4096 = true := by decide +kernel

/-- Refutes O43: its second clause has the store unchanged by an image that is accepted. In FW_WAIT such an image starts in the
same step, and it zeroises the slices that a WARM reset left in transit before it trains the link (R214, R318, log 72); slice 0
is one and holds a byte that is not 0. -/
theorem not_firmwareVerification : ¬ Obligations.FirmwareVerification := by
  intro h
  obtain ⟨-, haccept, -⟩ := h transitInFwWait 4096 1 rfl
  obtain ⟨t, hexec, -, -, -, -, -, -, -, hstore⟩ := haccept headerOk_shortImage (by decide) (.inr (by decide))
  rw [exec_fwVerifyDone_debug (s := transitInFwWait) rfl headerOk_shortImage (by decide), imageAccepted_starts rfl (by decide)] at hexec
  have hstarts (img : List Byte) (slot : Option Nat) (unsigned : Bool) :
      (transitInFwWait.imageTaken 4096 img slot unsigned).fwStart ≠ t := by
    intro heq
    have hzero : tget 0#8 (transitInFwWait.imageTaken 4096 img slot unsigned).fwStart.store 0 = 0#8 :=
      fwStart_zeroes rfl (by decide) rfl
    rw [heq, hstore] at hzero
    exact absurd hzero (by decide)
  exact hstarts _ _ _ (Host.Outcome.next.inj hexec)

end Sys2Proof.Machine
end

section
/-!
The boot tests and the way to READY (O42).
-/
namespace Sys2Proof.Machine
open Sys2Proof.Claim

/-! Writes of every one of a list of units. -/

/-- A walk over the units leaves each one that it passes as `P` says, where `P` once there stays. -/
theorem foldl_reaches {β : Type} {f : State → β → State} {P : β → State → Prop} (hself : ∀ s p, P p (f s p))
    (hkept : ∀ s p k, P k s → P k (f s p)) {ps : List β} {p : β} (hp : p ∈ ps) (s : State) : P p (ps.foldl f s) := by
  obtain ⟨before, behind, rfl⟩ := List.append_of_mem hp
  rw [List.foldl_append, List.foldl_cons]
  exact List.foldlRecOn (motive := P p) behind _ (hself ..) fun u hu k _ => hkept u k p hu

/-! STORE_BIST (R308). -/

/-- The state with every slice OFF and the store zero, at the end of STORE_BIST. -/
def State.storeTested (s : State) : State :=
  (List.range 96).foldl (fun s n => s.modSlice n fun x => { x with pw := .off }) { s with store := [], poison := [] }

theorem storeTested_proj {γ : Type} (π : State → γ) (h : ∀ (s : State) n f, π (s.modSlice n f) = π s) (s : State) :
    π s.storeTested = π { s with store := [], poison := [] } :=
  proj_foldl π (f := fun s n => s.modSlice n fun x => { x with pw := .off }) (fun _ _ => h ..) _ _

theorem storeTested_off (s : State) {n : Nat} (hn : n < 96) : (s.storeTested.slice n).pw = .off := by
  refine foldl_reaches (P := fun n (u : State) => (u.slice n).pw = .off) (fun u n => ?_) (fun u n k hk => ?_) (List.mem_range.2 hn) _
  · rw [State.slice_modSlice_same]
  · rw [State.slice_modSlice]
    split
    · rfl
    · exact hk

theorem bistDone_of_rep {s t : State} (h : t.rep = s.rep) : t.bistDone = s.bistDone := by
  funext p
  unfold State.bistDone State.crestRetired
  rw [h]

theorem storeTested_frame (s : State) : s.storeTested.store = [] ∧ s.storeTested.poison = [] ∧ s.storeTested.mg = s.mg ∧
    s.storeTested.rep = s.rep :=
  ⟨storeTested_proj State.store (fun _ _ _ => rfl) s, storeTested_proj State.poison (fun _ _ _ => rfl) s,
    storeTested_proj State.mg (fun _ _ _ => rfl) s, storeTested_proj State.rep (fun _ _ _ => rfl) s⟩

/-- CREST_BIST goes on where it has not ended (Table BOOT-1). -/
def State.stageAfterStore (s : State) : State :=
  if (List.range 17).all s.bistDone then s else s.modMg fun m => { m with stage := 4 }

theorem stageAfterStore_frame (s : State) : s.stageAfterStore.store = s.store ∧ s.stageAfterStore.poison = s.poison ∧
    s.stageAfterStore.slice = s.slice ∧
    s.stageAfterStore.mg.stage = if (List.range 17).all s.bistDone then s.mg.stage else 4 := by
  unfold State.stageAfterStore
  split <;> exact ⟨rfl, rfl, rfl, rfl⟩

theorem exec_storeBistDone {s : State} (h : s.mg.stage = 5) (rows : List (Nat × Nat)) :
    exec (.storeBistDone rows) s = .next (rows.foldl (fun s e => s.bistRow e.1 e.2) s).storeTested.stageAfterStore :=
  if_neg (not_not_intro h)

theorem storeBist_leaves {s : State} (h : s.mg.stage = 5) (rows : List (Nat × Nat)) :
    ∃ t, exec (.storeBistDone rows) s = .next t ∧ t.store = [] ∧ t.poison = [] ∧ (∀ n, n < 96 → (t.slice n).pw = .off) ∧
      (rows = [] → t.mg.stage = if (List.range 17).all s.bistDone then 5 else 4) := by
  obtain ⟨hstore, hpoison, -⟩ := storeTested_frame (rows.foldl (fun s e => s.bistRow e.1 e.2) s)
  obtain ⟨hstore', hpoison', hslice, -⟩ := stageAfterStore_frame (rows.foldl (fun s e => s.bistRow e.1 e.2) s).storeTested
  refine ⟨_, exec_storeBistDone h rows, hstore'.trans hstore, hpoison'.trans hpoison, fun n hn => ?_, ?_⟩
  · rw [hslice]
    exact storeTested_off _ hn
  · rintro rfl
    obtain ⟨-, -, hmg, hrep⟩ := storeTested_frame s
    obtain ⟨-, -, -, hstage⟩ := stageAfterStore_frame s.storeTested
    rw [bistDone_of_rep hrep, hmg, h] at hstage
    exact hstage

/-! CREST_BIST (R309). -/

/-- The outcome of crest `p`'s test is recorded. -/
def State.crestTested (failed : List Nat) (s : State) (p : Nat) : State :=
  if s.crestRetired p then s
  else if failed.contains p then s.bistRetire p
  else s.modRep fun r => { r with bistPassed := orBit r.bistPassed p }

/-- The regulator of a crest that is tested goes OFF again at time `t`. -/
def State.regTested (t : Nat) (s : State) (p : Nat) : State :=
  s.modReg p fun r => if r.permanent then r else { r.softStarted t with st := 2 }.turnOff t 4

/-- The state once the crests `ps` are tested, those of `failed` with an error, and OFF with their regulators. -/
def State.groupTested (s : State) (ps failed : List Nat) : State :=
  let s := ps.foldl (State.crestTested failed) s
  let s := ps.foldl (State.regTested s.time) s
  ps.foldl (fun s p => s.modCrest p fun c => { c with pw := .off }) s

theorem exec_crestBistGroupDone {s : State} {g : Nat} (hg : g ≤ 4) (h23 : (s.reg 23).st = 2) (hlo : 2 ≤ s.mg.stage)
    (hhi : s.mg.stage ≤ 5) (hbefore : ∀ h, h < g → ∀ p ∈ bistGroup h, s.bistDone p = true)
    (hnot : ∀ p ∈ bistGroup g, s.rep.bistPassed.testBit p = false)
    (hup : ∀ p ∈ bistGroup g, s.crestRetired p = true ∨ ((s.reg p).st ≠ 1 ∧ (s.reg p).st ≠ 4)) (failed : List Nat) :
    exec (.crestBistGroupDone g failed) s =
      let t := s.groupTested (bistGroup g) failed
      .next (if g = 4 then t.bistSettle else t) := by
  have hall : (List.range g).all (fun g => (bistGroup g).all s.bistDone) = true :=
    List.all_eq_true.2 fun h hh => List.all_eq_true.2 (hbefore h (List.mem_range.1 hh))
  have hpassed : (bistGroup g).any (fun p => s.rep.bistPassed.testBit p) = false :=
    List.any_eq_false.2 fun p hp => by rw [hnot p hp]; decide
  have hcoming : (bistGroup g).any (fun p => !s.crestRetired p && decide ((s.reg p).st = 1 ∨ (s.reg p).st = 4)) = false :=
    List.any_eq_false.2 fun p hp => by
      obtain hret | hst := hup p hp
      · simp [hret]
      · simp [hst]
  have hgate : ¬(g > 4 || decide ((s.reg 23).st ≠ 2) || !(decide (2 ≤ s.mg.stage ∧ s.mg.stage ≤ 5)) ||
      !(List.range g).all (fun g => (bistGroup g).all s.bistDone) || (bistGroup g).any (fun p => s.rep.bistPassed.testBit p) ||
      (bistGroup g).any (fun p => !s.crestRetired p && decide ((s.reg p).st = 1 ∨ (s.reg p).st = 4))) = true := by
    rw [hall, hpassed, hcoming]
    simp [hg, h23, hlo, hhi]
  exact if_neg hgate

/-- The retired crests and those that passed their test. -/
def State.tests (s : State) : Nat × Nat := (s.rep.retCrest, s.rep.bistPassed)

/-- Crest `p` has ended its test, retired where it failed. -/
def Tested (failed : List Nat) (p : Nat) (x : Nat × Nat) : Prop :=
  (x.2.testBit p || x.1.testBit p) = true ∧ (p ∈ failed → x.1.testBit p = true)

theorem Tested.mono {failed : List Nat} {p : Nat} {x y : Nat × Nat} (h : Tested failed p x)
    (hret : x.1.testBit p = true → y.1.testBit p = true) (hpassed : x.2.testBit p = true → y.2.testBit p = true) :
    Tested failed p y := by
  refine ⟨?_, fun hp => hret (h.2 hp)⟩
  obtain hp | hr := Bool.or_eq_true_iff.1 h.1
  · rw [hpassed hp, Bool.true_or]
  · rw [hret hr, Bool.or_true]

/-- A notice leaves the store, the regulators, the crests and the outcomes of the tests alone. -/
theorem logged_frame (s : State) (e : LogEntry) (alerts parts : List Nat) :
    let t := (s.addLog e).notice alerts parts
    t.store = s.store ∧ t.regs = s.regs ∧ t.crests = s.crests ∧ t.tests = s.tests := by
  have h : Undisturbed true s ((s.addLog e).notice alerts parts) := (undisturbed_addLog ..).trans (undisturbed_notice ..)
  refine ⟨store_notice .., ?_, crests_notice .., ?_⟩
  · exact (congrArg State.regs h.fixtures :)
  · exact congrArg (fun r : Repair => (r.retCrest, r.bistPassed)) (h.rep rfl)

theorem bistRetire_frame {s : State} {p : Nat} (h : s.crestRetired p = false) : (s.bistRetire p).store = s.store ∧
    (s.bistRetire p).regs = s.regs ∧ (s.bistRetire p).crests = s.crests ∧
    (s.bistRetire p).tests = (orBit s.rep.retCrest p, s.rep.bistPassed) := by
  have heq : s.bistRetire p = _ := if_neg (by rw [h]; decide)
  rw [heq]
  exact logged_frame ..

theorem crestTested_frame (failed : List Nat) (s : State) (p : Nat) : (s.crestTested failed p).store = s.store ∧
    (s.crestTested failed p).regs = s.regs ∧ (s.crestTested failed p).tests =
      if s.crestRetired p then s.tests else if failed.contains p then (orBit s.rep.retCrest p, s.rep.bistPassed)
      else (s.rep.retCrest, orBit s.rep.bistPassed p) := by
  unfold State.crestTested
  split
  · exact ⟨rfl, rfl, rfl⟩
  next hret =>
    split
    · obtain ⟨hstore, hregs, -, htests⟩ := bistRetire_frame (Bool.eq_false_of_not_eq_true hret)
      exact ⟨hstore, hregs, htests⟩
    · exact ⟨rfl, rfl, rfl⟩

theorem tested_crestTested (failed : List Nat) (s : State) (p : Nat) : Tested failed p (s.crestTested failed p).tests := by
  rw [(crestTested_frame failed s p).2.2]
  split
  next hret => exact ⟨by rw [show s.tests.1.testBit p = true from hret, Bool.or_true], fun _ => hret⟩
  next =>
    split
    · exact ⟨by rw [orBit_testBit_self, Bool.or_true], fun _ => orBit_testBit_self ..⟩
    next hnot => exact ⟨by rw [orBit_testBit_self, Bool.true_or], fun hp => absurd (List.contains_iff_mem.2 hp) hnot⟩

theorem tested_crestTested_of (failed : List Nat) (s : State) (p k : Nat) (h : Tested failed k s.tests) :
    Tested failed k (s.crestTested failed p).tests := by
  rw [(crestTested_frame failed s p).2.2]
  split
  · exact h
  · split
    · exact h.mono (testBit_orBit p) id
    · exact h.mono id (testBit_orBit p)

/-- The group's tests are recorded, and leave the store and the regulators alone. -/
theorem crestsTested_frame (ps failed : List Nat) (s : State) : (ps.foldl (State.crestTested failed) s).store = s.store ∧
    (ps.foldl (State.crestTested failed) s).regs = s.regs ∧
    ∀ p ∈ ps, Tested failed p (ps.foldl (State.crestTested failed) s).tests :=
  ⟨proj_foldl State.store (fun u p => (crestTested_frame failed u p).1) ps s,
    proj_foldl State.regs (fun u p => (crestTested_frame failed u p).2.1) ps s,
    fun _ hp => foldl_reaches (P := fun p u => Tested failed p u.tests) (tested_crestTested failed) (tested_crestTested_of failed) hp s⟩

theorem permanent_softStarted (r : Reg) (t : Nat) : (r.softStarted t).permanent = r.permanent := by
  have hverified : (r.verified t 4).permanent = r.permanent := by
    unfold Reg.verified
    split
    · rfl
    · refine List.foldlRecOn (motive := fun x : Reg => x.permanent = r.permanent) _ _ rfl fun x hx k _ => ?_
      split
      · exact hx
      · exact hx
  unfold Reg.softStarted
  split
  · exact hverified
  · rfl

theorem turnOff_frame {r : Reg} (h : r.permanent = false) (t n : Nat) : (r.turnOff t n).permanent = false ∧
    (r.turnOff t n).st = 0 ∧ (r.turnOff t n).setpoint = 0 := by
  have heq : r.turnOff t n = _ := if_neg (by rw [h]; decide)
  rw [heq]
  exact ⟨h, rfl, rfl⟩

theorem regTested_same (t : Nat) (s : State) (p : Nat) : ((s.regTested t p).reg p).permanent = (s.reg p).permanent ∧
    ((s.reg p).permanent = false → ((s.regTested t p).reg p).st = 0 ∧ ((s.regTested t p).reg p).setpoint = 0) := by
  have heq : (s.regTested t p).reg p = _ := State.reg_modReg_same ..
  rw [heq]
  cases hperm : (s.reg p).permanent with
  | true => exact ⟨by rw [if_pos rfl]; exact hperm, nofun⟩
  | false =>
    rw [if_neg Bool.false_ne_true]
    obtain ⟨hkept, hst, hset⟩ := turnOff_frame (r := { (s.reg p).softStarted t with st := 2 })
      ((permanent_softStarted _ t).trans hperm) t 4
    exact ⟨hkept, fun _ => ⟨hst, hset⟩⟩

theorem permanent_regTested (t : Nat) (s : State) (p k : Nat) : ((s.regTested t p).reg k).permanent = (s.reg k).permanent := by
  by_cases hk : k = p
  · subst hk
    exact (regTested_same t s k).1
  · exact congrArg Reg.permanent (State.reg_modReg_other _ _ _ _ hk)

/-- The regulators of the group are OFF, but for those that are permanently faulted. -/
theorem regsTested_off (t : Nat) {ps : List Nat} {p : Nat} (hp : p ∈ ps) (s : State) (hperm : (s.reg p).permanent = false) :
    ((ps.foldl (State.regTested t) s).reg p).st = 0 ∧ ((ps.foldl (State.regTested t) s).reg p).setpoint = 0 := by
  have hoff := foldl_reaches (f := State.regTested t)
    (P := fun p u => (u.reg p).permanent = false → (u.reg p).st = 0 ∧ (u.reg p).setpoint = 0)
    (fun u k h => (regTested_same t u k).2 ((regTested_same t u k).1.symm.trans h)) (fun u q k hk h => ?_) hp s
  · exact hoff ((proj_foldl (fun u : State => (u.reg p).permanent) (fun u q => permanent_regTested t u q p) ps s).trans hperm)
  · by_cases hkq : k = q
    · subst hkq
      exact (regTested_same t u k).2 ((regTested_same t u k).1.symm.trans h)
    · have hsame : (u.regTested t q).reg k = u.reg k := State.reg_modReg_other _ _ _ _ hkq
      rw [hsame] at h ⊢
      exact hk h

/-- Crests that go OFF in turn. -/
def State.crestsOff (s : State) (ps : List Nat) : State := ps.foldl (fun s p => s.modCrest p fun c => { c with pw := .off }) s

theorem crestsOff_frame (s : State) (ps : List Nat) : (s.crestsOff ps).store = s.store ∧ (s.crestsOff ps).regs = s.regs ∧
    (s.crestsOff ps).tests = s.tests ∧ ∀ p ∈ ps, ((s.crestsOff ps).crest p).pw = .off := by
  refine ⟨proj_foldl State.store (f := fun s p => s.modCrest p fun c => { c with pw := .off }) (fun _ _ => rfl) ps s,
    proj_foldl State.regs (f := fun s p => s.modCrest p fun c => { c with pw := .off }) (fun _ _ => rfl) ps s,
    proj_foldl State.tests (f := fun s p => s.modCrest p fun c => { c with pw := .off }) (fun _ _ => rfl) ps s, fun p hp =>
    foldl_reaches (P := fun p (u : State) => (u.crest p).pw = .off) (fun u p => ?_) (fun u p k hk => ?_) hp s⟩
  · rw [State.crest_modCrest_same]
  · rw [State.crest_modCrest]
    split
    · rfl
    · exact hk

theorem groupTested_eq (s : State) (ps failed : List Nat) : s.groupTested ps failed =
    (ps.foldl (State.regTested (ps.foldl (State.crestTested failed) s).time) (ps.foldl (State.crestTested failed) s)).crestsOff ps := rfl

theorem groupTested_frame (s : State) (ps failed : List Nat) : (s.groupTested ps failed).store = s.store ∧
    ∀ p ∈ ps, Tested failed p (s.groupTested ps failed).tests ∧ ((s.groupTested ps failed).crest p).pw = .off ∧
      ((s.reg p).permanent = false → ((s.groupTested ps failed).reg p).st = 0 ∧ ((s.groupTested ps failed).reg p).setpoint = 0) := by
  obtain ⟨hstore, hregs, htests⟩ := crestsTested_frame ps failed s
  rw [groupTested_eq]
  generalize ps.foldl (State.crestTested failed) s = u at *
  obtain ⟨hstore', hregs', htests', hoff⟩ := crestsOff_frame (ps.foldl (State.regTested u.time) u) ps
  have hregStore := proj_foldl State.store (f := State.regTested u.time) (fun _ _ => rfl) ps u
  have hregTests := proj_foldl State.tests (f := State.regTested u.time) (fun _ _ => rfl) ps u
  refine ⟨hstore'.trans (hregStore.trans hstore), fun p hp => ⟨?_, hoff p hp, fun hperm => ?_⟩⟩
  · rw [htests', hregTests]
    exact htests p hp
  · have hreg : u.reg p = s.reg p := by rw [State.reg, hregs, ← State.reg]
    have hlast : ((ps.foldl (State.regTested u.time) u).crestsOff ps).reg p = (ps.foldl (State.regTested u.time) u).reg p := by
      rw [State.reg, hregs', ← State.reg]
    rw [hlast]
    exact regsTested_off u.time hp u (by rw [hreg, hperm])

/-- What the last group's settlement of the spare leaves alone. -/
theorem bistSettle_frame (s : State) : s.bistSettle.store = s.store ∧ s.bistSettle.regs = s.regs ∧
    s.bistSettle.crests = s.crests ∧ s.bistSettle.tests = s.tests := by
  refine List.foldlRecOn (motive := fun u : State => u.store = s.store ∧ u.regs = s.regs ∧ u.crests = s.crests ∧ u.tests = s.tests)
    _ _ ⟨rfl, rfl, rfl, rfl⟩ fun u hu l _ => ?_
  obtain ⟨hstore, hregs, hcrests, htests⟩ := hu
  have hfrom {v : State} (hv : v.store = u.store ∧ v.regs = u.regs ∧ v.crests = u.crests ∧ v.tests = u.tests) :
      v.store = s.store ∧ v.regs = s.regs ∧ v.crests = s.crests ∧ v.tests = s.tests :=
    ⟨hv.1.trans hstore, hv.2.1.trans hregs, hv.2.2.1.trans hcrests, hv.2.2.2.trans htests⟩
  dsimp only
  split
  · exact ⟨hstore, hregs, hcrests, htests⟩
  · split
    · exact hfrom (logged_frame ..)
    · exact hfrom (logged_frame ..)

/-- What a group's test leaves of its crests, which ended with `failed` (R309). -/
def GroupLeft (s : State) (g : Nat) (failed : List Nat) (t : State) : Prop :=
  (∀ p ∈ bistGroup g, t.bistDone p = true ∧ (t.crest p).pw = .off ∧ (p ∈ failed → t.crestRetired p = true) ∧
    ((s.reg p).permanent = false → (t.reg p).st = 0 ∧ (t.reg p).setpoint = 0)) ∧ t.store = s.store

theorem groupLeft_of_same {s t : State} {g : Nat} {failed : List Nat}
    (hstore : t.store = (s.groupTested (bistGroup g) failed).store) (hregs : t.regs = (s.groupTested (bistGroup g) failed).regs)
    (hcrests : t.crests = (s.groupTested (bistGroup g) failed).crests)
    (htests : t.tests = (s.groupTested (bistGroup g) failed).tests) : GroupLeft s g failed t := by
  obtain ⟨hkept, hgroup⟩ := groupTested_frame s (bistGroup g) failed
  refine ⟨fun p hp => ?_, hstore.trans hkept⟩
  obtain ⟨⟨hdone, hretired⟩, hoff, hreg⟩ := hgroup p hp
  have hcrest : t.crest p = (s.groupTested (bistGroup g) failed).crest p := by rw [State.crest, hcrests, ← State.crest]
  have hregp : t.reg p = (s.groupTested (bistGroup g) failed).reg p := by rw [State.reg, hregs, ← State.reg]
  rw [← htests] at hdone hretired
  rw [hcrest, hregp]
  exact ⟨hdone, hoff, hretired, hreg⟩

theorem groupLeft_end (s : State) (g : Nat) (failed : List Nat) : GroupLeft s g failed
    (if g = 4 then (s.groupTested (bistGroup g) failed).bistSettle else s.groupTested (bistGroup g) failed) := by
  by_cases hg : g = 4
  · rw [if_pos hg]
    obtain ⟨hstore, hregs, hcrests, htests⟩ := bistSettle_frame (s.groupTested (bistGroup g) failed)
    exact groupLeft_of_same hstore hregs hcrests htests
  · rw [if_neg hg]
    exact groupLeft_of_same rfl rfl rfl rfl

/-! FW_WAIT (R307, R310). -/

/-- The state in FW_WAIT, its minimum service set checked (R310). -/
def State.minChecked (s : State) : State :=
  let s := s.modMg fun m => { m with stage := 6, cause := 2 }
  match s.minMissing with
  | some k => (s.modMg fun m => { m with cause := 3, minLost := true, lostKind := k }).addLog
      { code := 0x30, cls := 2, kind := kDie, detail := k }
  | none => s.modMg fun m => { m with minLost := false }

theorem fwWait_eq (s : State) : s.fwWait = if s.minChecked.fw.handover then s.minChecked.fwStart else s.minChecked := rfl

theorem minChecked_frame (s : State) : s.minChecked.fw = s.fw ∧ s.minChecked.mg.stage = 6 ∧
    s.minChecked.mg.fwRunning = s.mg.fwRunning ∧ s.minChecked.journal = s.journal ∧
    ((s.modMg fun m => { m with stage := 6, cause := 2 }).minMissing ≠ none → s.minChecked.mg.minLost = true) := by
  unfold State.minChecked
  dsimp only
  split
  · exact ⟨rfl, rfl, rfl, rfl, fun _ => rfl⟩
  next h => exact ⟨rfl, rfl, rfl, rfl, fun hn => absurd h hn⟩

theorem mg_fwStart (s : State) : s.fwStart.mg = s.started.mg :=
  (trainHost_proj State.mg (fun _ _ _ => rfl) _).trans (freeTransit_proj _ State.mg fun _ _ _ => rfl)

theorem transit_fwStart {s : State} (hj : s.journal = none) {n : Nat} (hn : n < 96) : (s.fwStart.slice n).transit = false := by
  have htrained : s.fwStart.slices = s.started.freeTransit.slices := trainHost_proj State.slices (fun _ _ _ => rfl) _
  rw [State.slice, htrained, ← State.slice, freeTransit_eq _ (show s.started.journal = none from hj), transit_foldl_zeroTransit,
    List.contains_iff_mem.2 (List.mem_range.2 hn), Bool.not_true, Bool.and_false]

/-- The missing units of the set do not depend on which of the boot's later stages the die is in. -/
theorem minMissing_fwWait {s : State} (h : 2 < s.mg.stage ∨ (s.reg 23).permanent = true) (hm : s.minMissing ≠ none) :
    (s.modMg fun m => { m with stage := 6, cause := 2 }).minMissing ≠ none := by
  obtain hstage | hperm := h
  · have hlate : decide ((s.reg 23).st ≠ 2 ∧ s.mg.stage > 2) = decide ((s.reg 23).st ≠ 2 ∧ 6 > 2) := by simp [hstage]
    have hsame : (s.modMg fun m => { m with stage := 6, cause := 2 }).minMissing = s.minMissing := by
      rw [State.minMissing, State.unitMissing, State.minMissing, State.unitMissing, hlate]
      rfl
    rwa [hsame]
  · have hreg : (s.modMg fun m => { m with stage := 6, cause := 2 }).minMissing = some kReg :=
      if_pos (by rw [show ((s.modMg fun m => { m with stage := 6, cause := 2 }).reg 23).permanent = true from hperm, Bool.true_or])
    rw [hreg]
    exact nofun

theorem fwWait_leaves {s : State} (h : 2 < s.mg.stage ∨ (s.reg 23).permanent = true) :
    s.fwWait.mg.stage = (if s.fw.handover then 8 else 6) ∧
    s.fwWait.mg.fwRunning = (if s.fw.handover then true else s.mg.fwRunning) ∧ (s.minMissing ≠ none → s.fwWait.mg.minLost = true) ∧
    (s.fw.handover = true → s.journal = none → ∀ n, n < 96 → (s.fwWait.slice n).transit = false) := by
  obtain ⟨hfw, hstage, hrunning, hjournal, hlost⟩ := minChecked_frame s
  have hminLost (hm : s.minMissing ≠ none) := hlost (minMissing_fwWait h hm)
  rw [fwWait_eq, hfw]
  by_cases hhand : s.fw.handover = true
  · rw [if_pos hhand, if_pos hhand, if_pos hhand, mg_fwStart]
    exact ⟨rfl, rfl, hminLost, fun _ hj n hn => transit_fwStart (hjournal.trans hj) hn⟩
  · rw [if_neg hhand, if_neg hhand, if_neg hhand]
    exact ⟨hstage, hrunning, hminLost, fun hpos => absurd hpos hhand⟩

theorem exec_fwWait {s : State} (h : ((s.mg.stage = 4 ∨ s.mg.stage = 5) ∧ (∀ n, n < 96 → (s.slice n).pw ≠ .on) ∧
      (∀ p, p < 17 → s.bistDone p = true)) ∨ ((s.reg 23).permanent = true ∧ 2 ≤ s.mg.stage ∧ s.mg.stage ≤ 5)) :
    exec .fwWait s = .next s.fwWait := by
  refine if_pos ?_
  obtain ⟨hstage, hslices, hcrests⟩ | ⟨hperm, hlo, hhi⟩ := h
  · have hoff : ((List.range 96).all fun n => decide ((s.slice n).pw ≠ .on)) = true :=
      List.all_eq_true.2 fun n hn => decide_eq_true (hslices n (List.mem_range.1 hn))
    have hdone : ((List.range 17).all s.bistDone) = true := List.all_eq_true.2 fun p hp => hcrests p (List.mem_range.1 hp)
    rw [hoff, hdone, decide_eq_true hstage]
    rfl
  · have hfault : ((s.reg 23).permanent && decide (2 ≤ s.mg.stage ∧ s.mg.stage ≤ 5)) = true := by simp [hperm, hlo, hhi]
    rw [hfault]
    exact Bool.or_true _

/-! READY (R310, R188). -/

theorem trainPorts_proj {γ : Type} (π : State → γ) (hm : ∀ (s : State) k f, π (s.modPort k f) = π s) (s : State) :
    π s.trainPorts = π s :=
  proj_ite π (proj_foldl π (fun _ _ => proj_ite π (hm ..) rfl) _ s) rfl

theorem exec_fwRunReady {s : State} (hrun : s.mg.fwRunning = true) (hstage : s.mg.stage = 8) (hbuilt : s.mg.capBuilt = false)
    (hidle : ∀ m, m < 4 → (s.hmod m).st ≠ 1 ∧ (s.hmod m).st ≠ 4) : exec .fwRunReady s =
      let t := s.modMg fun m => { m with capBuilt := true }
      if t.mg.minLost then .next (t.modMg fun m => { m with cause := 3 })
      else match t.minMissing with
      | some k => .next ((t.modMg fun m => { m with cause := 3, minLost := true, lostKind := k }).addLog
          { code := 0x30, cls := 2, kind := kDie, detail := k })
      | none => .next (t.modMg fun m => { m with device := 2, cause := 0 }).trainPorts := by
  have htraining : ((List.range 4).any fun m => decide ((s.hmod m).st = 1 ∨ (s.hmod m).st = 4)) = false :=
    List.any_eq_false.2 fun m hm => by simp [hidle m (List.mem_range.1 hm)]
  exact if_neg (by rw [htraining]; simp [hrun, hstage, hbuilt])

/-- Settles O42: each boot row by what it leaves, and READY by what the start of firmware checks. -/
theorem bootTestsLeadToReady : Obligations.BootTestsLeadToReady := by
  have hthere {s : State} (h : s.mg.minLost = false) : ¬(s.modMg fun m => { m with capBuilt := true }).mg.minLost = true :=
    fun hpos => absurd (h.symm.trans hpos) nofun
  refine fun s => ⟨fun rows h => storeBist_leaves h rows, fun g failed hg h23 hlo hhi hbefore hnot hup =>
    ⟨_, exec_crestBistGroupDone hg h23 hlo hhi hbefore hnot hup failed, groupLeft_end s g failed⟩, fun h => ⟨_, exec_fwWait h, ?_⟩,
    fun hrun hstage hbuilt hidle => ⟨fun hlost => ?_, fun hlost hnone => ?_, fun hlost k hk => ?_⟩⟩
  · refine fwWait_leaves ?_
    obtain ⟨hstage, -⟩ | ⟨hperm, -⟩ := h
    · exact .inl (by omega)
    · exact .inr hperm
  · exact ⟨_, (exec_fwRunReady hrun hstage hbuilt hidle).trans (if_pos hlost), rfl, rfl, hlost, rfl, rfl⟩
  · have hexec := (exec_fwRunReady hrun hstage hbuilt hidle).trans (if_neg (hthere hlost))
    rw [show (s.modMg fun m => { m with capBuilt := true }).minMissing = none from hnone] at hexec
    have hmg := trainPorts_proj State.mg (fun _ _ _ => rfl)
      ((s.modMg fun m => { m with capBuilt := true }).modMg fun m => { m with device := 2, cause := 0 })
    exact ⟨_, hexec, congrArg Mgmt.device hmg, congrArg Mgmt.cause hmg, congrArg Mgmt.capBuilt hmg⟩
  · have hexec := (exec_fwRunReady hrun hstage hbuilt hidle).trans (if_neg (hthere hlost))
    rw [show (s.modMg fun m => { m with capBuilt := true }).minMissing = some k from hk] at hexec
    exact ⟨_, hexec, rfl, rfl, rfl, rfl⟩

end Sys2Proof.Machine
end

section
/-!
The WARM resets (O32): what Table BOOT-4 keeps.
-/
namespace Sys2Proof.Machine
open Sys2Proof.Claim

/-- What a WARM reset keeps of the management registers, the firmware, the sideband, the repair and power control
(Table BOOT-4). -/
def State.lasting (s : State) : Nat × Nat × Fw × Sb × Nat × Nat :=
  (s.mg.taint, s.mg.rollback, s.fw, s.sb, s.rep.retSlice, s.pwr.energy)

theorem Undisturbed.lasting {s t : State} (h : Undisturbed true s t) : t.lasting = s.lasting := by
  have hmg : t.mg.taint = s.mg.taint ∧ t.mg.rollback = s.mg.rollback ∧ t.sb = s.sb :=
    ⟨(congrArg (fun u => u.mg.taint) h.fixtures :), (congrArg (fun u => u.mg.rollback) h.fixtures :), (congrArg State.sb h.fixtures :)⟩
  have hpwr : t.pwr.energy = s.pwr.energy := (congrArg Pwr.energy h.pwr :)
  obtain ⟨htaint, hrollback, hsb⟩ := hmg
  rw [State.lasting, State.lasting, htaint, hrollback, h.fw, hsb, h.rep rfl, hpwr]

/-! The end of every command (R318). -/

section
variable (b : Bool) (s : State)

theorem undisturbed_signalQueue (q : Nat) : Undisturbed b s (s.signalQueue q) :=
  (undisturbed_modQueue b s q fun k => { k with unsig := 0 }).trans (undisturbed_sendMsix ..)

theorem undisturbed_putRecord (q : Nat) (ws : List Nat) (status tag : Nat) (irq : Bool) :
    Undisturbed b s (s.putRecord q ws status tag irq) := by
  have hwritten (lost : Bool) (e : LogEntry) (o : Obs) (m : List (Nat × Byte)) (f : Queue → Queue) :
      Undisturbed b s ((if lost then s.addLog e else s.write o m).modQueue q f) :=
    (Undisturbed.ite (undisturbed_addLog ..) (undisturbed_write ..)).trans (undisturbed_modQueue ..)
  exact (hwritten ..).trans (.ite (undisturbed_signalQueue ..) (.refl b _))

theorem undisturbed_abortStreams (c : Cmd) : Undisturbed b s (s.abortStreams c) :=
  .foldl (fun u _ => (undisturbed_modCmd b u ..).trans (undisturbed_enqueue ..)) _ s

theorem undisturbed_leaveQueue (c : Cmd) (st : Nat) : Undisturbed b s (s.leaveQueue c st) := by
  have hleft (es cs : List (Nat × Nat)) : Undisturbed b s
      { s with cmds := s.cmds.filter (fun k => !(k.q = c.q && k.t = c.t)), ends := es, closing := cs } :=
    .of_eq rfl rfl rfl rfl rfl (List.length_filter_le _ _)
  exact ((hleft ..).trans (undisturbed_modQueue ..)).trans (undisturbed_readyOrRun ..)

theorem undisturbed_record (c : Cmd) (st sub waited : Nat) : Undisturbed b s (s.record c st sub waited) := by
  have hreleased (u : State) (q t scope : Nat) : Undisturbed b u (u.release q t scope) := .of_eq rfl rfl rfl rfl rfl (Nat.le_refl _)
  refine .trans ?_ (undisturbed_leaveQueue ..)
  refine .trans ?_ (undisturbed_addTrace ..)
  refine .trans ?_ (.ite (.refl b _) (undisturbed_modQueue ..))
  refine .trans ?_ (undisturbed_putRecord ..)
  exact .trans (undisturbed_abortStreams ..) (hreleased ..)

theorem undisturbed_overflow (q : Nat) (o : Ovf) : Undisturbed b s (s.overflow q o) :=
  .trans (undisturbed_putRecord ..) (undisturbed_modQueue ..)

theorem undisturbed_warmEnds : Undisturbed b s s.warmEnds := by
  have hcleared (u : State) : Undisturbed b u { u with cmds := [], ends := [], stalled := [], holds := [] } :=
    .of_eq rfl rfl rfl rfl rfl (Nat.zero_le _)
  refine .trans ?_ (hcleared _)
  refine .trans ?_ (.foldl (fun v q => ?overflow) _ _)
  refine .trans (.foldl (fun u c => undisturbed_endCmd b u ..) _ s) (.foldl (fun v k => ?record) _ _)
  case overflow =>
    split
    · exact .ite (undisturbed_overflow ..) (.refl b v)
    · exact .refl b v
  case record =>
    split
    · exact .ite (undisturbed_record ..) (.refl b v)
    · exact .refl b v

end

/-! A die without commands. -/

/-- The die holds no command, and what lasts is `x`. -/
def State.Cleared (s : State) (x : Nat × Nat × Fw × Sb × Nat × Nat) : Prop := s.cmds = [] ∧ s.ends = [] ∧ s.lasting = x

section
variable {s t : State} {x : Nat × Nat × Fw × Sb × Nat × Nat}

theorem State.Cleared.of_eq (h : s.Cleared x) (hc : t.cmds = s.cmds) (he : t.ends = s.ends) (hl : t.lasting = s.lasting) :
    t.Cleared x := ⟨hc.trans h.1, he.trans h.2.1, hl.trans h.2.2⟩

theorem State.Cleared.mgResult (h : s.Cleared x) (st d : Nat) : (s.mgResult st d).Cleared x := h.of_eq rfl rfl rfl

theorem State.Cleared.modCrest (h : s.Cleared x) (p : Nat) (f : Crest → Crest) : (s.modCrest p f).Cleared x := h.of_eq rfl rfl rfl

theorem State.Cleared.addLog (h : s.Cleared x) (e : LogEntry) : (s.addLog e).Cleared x := h.of_eq rfl rfl rfl

theorem State.Cleared.modReg (h : s.Cleared x) (r : Nat) (f : Reg → Reg) : (s.modReg r f).Cleared x := h.of_eq rfl rfl rfl

theorem State.Cleared.modSlice (h : s.Cleared x) (n : Nat) (f : Slice → Slice) : (s.modSlice n f).Cleared x := h.of_eq rfl rfl rfl

theorem State.Cleared.emit (h : s.Cleared x) (o : Out) : (s.emit o).Cleared x := h.of_eq rfl rfl rfl

theorem State.Cleared.foldl {β : Type} {f : State → β → State} (hf : ∀ s y, s.Cleared x → (f s y).Cleared x) (l : List β)
    (h : s.Cleared x) : (l.foldl f s).Cleared x :=
  List.foldlRecOn (motive := fun u => u.Cleared x) l f h fun u hu y _ => hf u y hu

theorem State.Cleared.ite {c : Prop} [Decidable c] (ht : s.Cleared x) (hu : t.Cleared x) : (if c then s else t).Cleared x := by
  split
  · exact ht
  · exact hu

theorem State.Cleared.notice (h : s.Cleared x) (alerts parts : List Nat) : (s.notice alerts parts).Cleared x :=
  h.of_eq (notice_proj s State.cmds (fun _ _ => rfl) (fun _ _ _ => rfl) (fun _ _ => proj_ite State.cmds rfl rfl) ..)
    (notice_proj s State.ends (fun _ _ => rfl) (fun _ _ _ => rfl) (fun _ _ => proj_ite State.ends rfl rfl) ..)
    (undisturbed_notice true s alerts parts).lasting

/-- With no command there is none to find a crest, and none to end. -/
theorem adoptAll_eq_self (h : s.cmds = []) : s.adoptAll = s := by
  rw [State.adoptAll, h]
  rfl

theorem endAll_eq_self (hc : s.cmds = []) (he : s.ends = []) (sel : Cmd → Bool) (st sub : Nat) : s.endAll sel st sub = s := by
  unfold State.endAll
  rw [hc]
  exact congrArg (fun es : List (Nat × Nat) => es.foldl _ s) he

theorem State.Cleared.crestReset (h : s.Cleared x) (l : Nat) : (s.crestReset l).Cleared x := by
  unfold State.crestReset
  dsimp only
  rw [endAll_eq_self h.1 h.2.1]
  have hwoken (u : State) (p : Nat) (hu : u.Cleared x) : (u.wakeIdle p).Cleared x := .ite (hu.of_eq rfl rfl rfl) hu
  have hreset := hwoken _ (s.physOf l) (h.of_eq (t := (s.unhalt l).modCrest (s.physOf l) fun c => { c.zeroise with
    w0 := {}, w1 := {}, rowBuf := [], feed := [], pc := 0, steps := 0, redWait := [], inv := none, work := []
    waking := c.waking && decide (((s.unhalt l).crest (s.physOf l)).pw = .off ∧ ((s.unhalt l).reg (s.physOf l)).st ≠ 0)
    lentTo := none, lastPart := none, pw := if c.pw = .off ∨ c.pw = .nap then c.pw else .idle }) rfl rfl rfl)
  rw [adoptAll_eq_self hreset.1]
  exact hreset

theorem State.Cleared.resetBound (h : s.Cleared x) : s.resetBound.Cleared x := by
  unfold State.resetBound
  split
  · exact h
  next l _ =>
    have hdue : (s.modMg fun m => { m with resetDue := none }).Cleared x := h.of_eq rfl rfl rfl
    have hreset := hdue.crestReset l
    exact hreset.mgResult ..

/-- The spare that was to be bound is bound before its crest goes OFF (Table BOOT-5). -/
theorem State.Cleared.bindSpare (h : s.Cleared x) (l p : Nat) : (s.bindSpare l p).Cleared x := by
  unfold State.bindSpare
  extract_lets c o mapped spare moved held logged
  have hmapped : mapped.Cleared x := h.of_eq rfl rfl rfl
  have hmoved : moved.Cleared x := (hmapped.modCrest ..).modCrest ..
  have hheld : held.Cleared x := hmoved.of_eq rfl rfl rfl
  have hlogged : logged.Cleared x := hheld.addLog _
  have htold := hlogged.notice [aUnitRetired, aSpareUsed] o.toList
  generalize logged.notice [aUnitRetired, aSpareUsed] o.toList = told at htold ⊢
  have hdone : told.retireDone.Cleared x := .ite (htold.of_eq rfl rfl rfl) htold
  rw [adoptAll_eq_self hdone.resetBound.1]
  exact hdone.resetBound

theorem State.Cleared.warmUnits (h : s.Cleared x) : s.warmUnits.Cleared x := by
  have hmodule (u : State) (hu : u.Cleared x) (m : Nat) (f : HMod → HMod) : (u.modHmod m f).Cleared x := hu.of_eq rfl rfl rfl
  have hport (u : State) (hu : u.Cleared x) (k : Nat) (f : PPort → PPort) : (u.modPort k f).Cleared x := hu.of_eq rfl rfl rfl
  unfold State.warmUnits
  dsimp only
  refine .foldl (fun u k hu => hport u hu ..) _ ?_
  refine .foldl (fun u m hu => hmodule u hu ..) _ ?_
  refine .foldl (fun u n hu => ?slice) _
    (.foldl (fun u p hu => (hu.modCrest ..).modReg ..) _ (.foldl (fun u r hu => hu.modReg ..) _ ?bound))
  case slice =>
    split
    · exact .ite (hu.modSlice ..) ((hu.modSlice ..).addLog _)
    · exact hu.modSlice ..
  case bound =>
    split
    · exact h.bindSpare ..
    · exact h

theorem State.Cleared.writeBack (h : s.Cleared x) : s.writeBack.Cleared x := by
  have hline (u : State) (l : Nat) (d : List Byte) (b : Bool) (hu : u.Cleared x) : (u.backLine l d b).Cleared x :=
    .ite (hu.of_eq rfl rfl rfl) (hu.of_eq rfl rfl rfl)
  have hcached (u : State) (es : List Evict) (hu : u.Cleared x) : ({ u with evict := es } : State).Cleared x := hu.of_eq rfl rfl rfl
  have hemptied (u : State) (hu : u.Cleared x) : ({ u with cache := [] } : State).Cleared x := hu.of_eq rfl rfl rfl
  unfold State.writeBack
  refine (hemptied _ (.foldl (fun u l hu => ?_) _ (hcached _ [] (.foldl (fun u e hu => ?_) _ h)))).emit _
  · exact .ite ((hline _ _ _ _ hu).emit _) hu
  · exact .ite (hline _ _ _ _ hu) hu

end

/-! The reset (R318). -/

/-- The die as a WARM reset begins to build it anew: its commands ended, what stood in caches written back, its units reset. -/
def State.warmBegun (s : State) : State :=
  (List.range 8).foldl State.releaseEnergy ((s.warmEnds.abufFlush fun _ => true).writeBack).warmUnits

theorem cleared_warmBegun (s : State) : s.warmBegun.Cleared s.lasting := by
  have hended : s.warmEnds.Cleared s.lasting := ⟨rfl, rfl, (undisturbed_warmEnds true s).lasting⟩
  have hun := unwritten_abufFlush s.warmEnds fun _ => true
  have hflushed : (s.warmEnds.abufFlush fun _ => true).Cleared s.lasting :=
    hended.of_eq (congrArg State.cmds hun :) (congrArg State.ends hun :) (congrArg State.lasting hun :)
  have hreleased (u : State) (p : Nat) (hu : u.Cleared s.lasting) : (u.releaseEnergy p).Cleared s.lasting := hu.of_eq rfl rfl rfl
  refine .foldl hreleased _ hflushed.writeBack.warmUnits

/-- The die `u` after a WARM reset with LAST_RESET `cause`, its state but for what Table BOOT-4 keeps at reset. -/
def State.warmBuilt (u : State) (cause : Nat) : State := { u with
  store := [], poison := [], pend := [], abuf := [], cache := [], evict := [], journal := none, parts := [], queues := []
  hostConfig := 0, bias := {}, stPort := {}, stBar0 := {}, lastPart := 7, linkmaps := [], refused := [], tiles := []
  landing := [], ingress := [], peerPast := [], closing := [], retries := [], msixMask := [], msixPend := []
  hostPoison := tclear u.hostPoison (2 ^ 47) (2 ^ 48)
  pwr := u.pwr.warm
  sb := u.sb.warm
  fw := { run := u.fw.run, runLen := u.fw.runLen, verifying := if u.fw.runLen ≠ 0 then some (u.fw.runLen, 2) else none }
  mg := { lastReset := cause, rollback := u.mg.rollback, taint := u.mg.taint, stage := 7
          fatalSupply := decide ((u.reg 23).st ≠ 2) } }

/-- The minimum service set is looked at, the link taken to be there where a module serves (R318). -/
def State.warmChecked (s : State) : State :=
  match s.unitMissing ((List.range 4).any fun m => !s.rep.retMod.testBit m) with
  | some k => s.modMg fun m => { m with minLost := true, lostKind := k }
  | none => s

/-- The die `u` built anew: the image that ran is verified again, or, where there is none, FW_WAIT begins (R318). -/
def State.warmAnew (u : State) (cause : Nat) : State :=
  (if u.fw.runLen ≠ 0 then (u.warmBuilt cause).warmChecked else (u.warmBuilt cause).warmChecked.fwWait).applyHw

theorem warm_eq (s : State) (cause : Nat) : s.warm cause = s.warmBegun.warmAnew cause := by
  unfold State.warm State.warmBegun
  dsimp only
  generalize (List.range 8).foldl State.releaseEnergy ((s.warmEnds.abufFlush fun _ => true).writeBack).warmUnits = u
  rfl

theorem cmds_applyHw {s : State} (h : s.cmds = []) : s.applyHw.cmds = [] := by
  have hlevel (u : State) (hu : u.cmds = []) (p l : Nat) : (u.toLevel p l).cmds = [] := by
    have hcharged (v : State) (hv : v.cmds = []) (ks : List (Nat × Nat)) :
        (ks.foldl (fun s k => s.modCmd k.1 k.2 fun c => c.charge wPower 8) v).cmds = [] :=
      List.foldlRecOn (motive := fun u : State => u.cmds = []) ks _ hv fun w hw k _ => by rw [State.modCmd, hw]; rfl
    have hreg (c : Prop) [Decidable c] (v : State) (f : Reg → Reg) : (if c then v.modReg p f else v).cmds = v.cmds :=
      proj_ite State.cmds rfl rfl
    unfold State.toLevel
    dsimp only
    split
    · exact hu
    · rw [hreg]
      split
      · exact hu
      · exact hcharged (u.modCrest p _) hu _
  have hfixed (u : State) : u.fixedCheck.cmds = u.cmds := proj_ite State.cmds rfl rfl
  have hslow (c : Nat → Nat) : ((List.range 17).foldl (State.slowOne c) s).cmds = [] :=
    List.foldlRecOn (motive := fun u : State => u.cmds = []) _ _ h fun u hu p _ => by
      unfold State.slowOne
      split
      · exact hlevel u hu ..
      · exact hu
  rw [State.applyHw, slowTo_eq, hfixed]
  exact hslow _

/-- What Table BOOT-4 lets a WARM reset leave, of a die whose lasting state was `x`, but for its commands. -/
structure WarmShape (x : Nat × Nat × Fw × Sb × Nat × Nat) (cause : Nat) (t : State) : Prop where
  emptied : t.store = [] ∧ t.poison = [] ∧ t.queues = [] ∧ t.parts = [] ∧ t.ends = [] ∧ t.journal = none ∧ t.cache = []
  mg : t.mg.lastReset = cause ∧ t.mg.taint = x.1 ∧ t.mg.rollback = x.2.1
  released : t.mg.released = true
  fw : t.fw.run = x.2.2.1.run ∧ t.fw.handover = false
  kept : t.sb.straps = x.2.2.2.1.straps ∧ t.rep.retSlice = x.2.2.2.2.1 ∧ t.pwr.energy = x.2.2.2.2.2

section
variable {s t : State} {x : Nat × Nat × Fw × Sb × Nat × Nat} {cause : Nat}

theorem State.Cleared.warmBuilt (h : s.Cleared x) (cause : Nat) :
    WarmShape x cause (s.warmBuilt cause) ∧ (s.warmBuilt cause).cmds = [] := by
  obtain ⟨hcmds, hends, rfl⟩ := h
  exact ⟨⟨⟨rfl, rfl, rfl, rfl, hends, rfl, rfl⟩, ⟨rfl, rfl, rfl⟩, rfl, ⟨rfl, rfl⟩, ⟨rfl, rfl, rfl⟩⟩, hcmds⟩

theorem WarmShape.warmChecked (h : WarmShape x cause s) : WarmShape x cause s.warmChecked ∧ s.warmChecked.cmds = s.cmds := by
  unfold State.warmChecked
  split
  · exact ⟨⟨h.emptied, h.mg, h.released, h.fw, h.kept⟩, rfl⟩
  · exact ⟨h, rfl⟩

/-- No image was accepted before FW_WAIT, so that none starts (R310, R318). -/
theorem WarmShape.fwWait (h : WarmShape x cause s) : WarmShape x cause s.fwWait ∧ s.fwWait.cmds = s.cmds := by
  have hwaits (u : State) (hu : WarmShape x cause u ∧ u.cmds = s.cmds) :
      WarmShape x cause (if u.fw.handover then u.fwStart else u) ∧ (if u.fw.handover then u.fwStart else u).cmds = s.cmds := by
    rw [hu.1.fw.2, if_neg Bool.false_ne_true]
    exact hu
  refine hwaits _ ?_
  split
  · exact ⟨⟨h.emptied, h.mg, h.released, h.fw, h.kept⟩, rfl⟩
  · exact ⟨⟨h.emptied, h.mg, h.released, h.fw, h.kept⟩, rfl⟩

/-- Levels are nothing of it. -/
theorem warmShape_unlevelled : WarmShape x cause s.unlevelled ↔ WarmShape x cause s :=
  ⟨fun h => ⟨h.emptied, h.mg, h.released, h.fw, h.kept⟩, fun h => ⟨h.emptied, h.mg, h.released, h.fw, h.kept⟩⟩

theorem WarmShape.applyHw (h : WarmShape x cause s) : WarmShape x cause s.applyHw := by
  rw [← warmShape_unlevelled, unlevelled_applyHw, warmShape_unlevelled]
  exact h

theorem State.Cleared.warmAnew (h : s.Cleared x) (cause : Nat) :
    WarmShape x cause (s.warmAnew cause) ∧ (s.warmAnew cause).cmds = [] := by
  obtain ⟨hbuilt, hcmds⟩ := h.warmBuilt cause
  obtain ⟨hchecked, hcmds'⟩ := hbuilt.warmChecked
  obtain ⟨hwaits, hcmds''⟩ := hchecked.fwWait
  unfold State.warmAnew
  split
  · exact ⟨hchecked.applyHw, cmds_applyHw (hcmds'.trans hcmds)⟩
  · exact ⟨hwaits.applyHw, cmds_applyHw (hcmds''.trans (hcmds'.trans hcmds))⟩

end

theorem warmLeft_of_shape {s t : State} {cause : Nat} (h : WarmShape s.lasting cause t) (hcmds : t.cmds = []) :
    WarmLeft s t cause := by
  obtain ⟨⟨hstore, hpoison, hqueues, hparts, hends, hjournal, hcache⟩, ⟨hlast, htaint, hrollback⟩, -, ⟨hrun, -⟩,
    ⟨hstraps, hslices, henergy⟩⟩ := h
  exact ⟨hstore, hpoison, hqueues, hparts, hcmds, hends, hjournal, hcache, hlast, htaint, hrollback, hrun, hstraps, hslices, henergy⟩

theorem warm_leaves (s : State) (cause : Nat) : WarmLeft s (s.warm cause) cause ∧ (s.warm cause).mg.released = true := by
  obtain ⟨hshape, hcmds⟩ := (cleared_warmBegun s).warmAnew cause
  rw [← warm_eq] at hshape hcmds
  exact ⟨warmLeft_of_shape hshape hcmds, hshape.released⟩

/-- The answer to the write of a reset is nothing that Table BOOT-4 speaks of. -/
theorem warmLeft_acked {s t : State} {cause : Nat} (h : WarmLeft s t cause) (path : Path) : WarmLeft s (acked path t) cause := by
  cases path <;> exact h

/-- A heard RESET_WARM is acknowledged by the die that it has reset. -/
theorem exec_resetWarm {s : State} {path : Path} (h : Heard s path 0x41) :
    exec (.resetWarm path) s = .next (acked path (s.warm 3)) := by
  have hcmd : s.mgCmd path 0x41 = s.warm 3 := mgCmd_of_heard (v := 0x41) h (by decide)
  have hready := pathReady_of_heard h
  have hwritten : s.written path (fun s => s.mgCmd path 0x41) = acked path (s.warm 3) := by
    cases path with
    | bar0 => simp [State.written, State.access, hready, acked, hcmd]
    | port =>
      have hr : (s.mgCmd .port 0x41).mg.released = s.mg.released := by
        rw [hcmd, (warm_leaves s 3).2, released_of_pathReady_port hready]
      rw [written_eq_acked hready hr, hcmd]
  exact congrArg Host.Outcome.next hwritten

/-- Settles O32: what a WARM reset clears stands in one state, and nothing that follows it brings any of it back. -/
theorem warmResetsKeepWhatTableBoot4Keeps : Obligations.WarmResetsKeepWhatTableBoot4Keeps := fun s path =>
  ⟨fun h => ⟨_, exec_resetWarm h, warmLeft_acked (warm_leaves s 3).1 path⟩, fun hrun => ⟨_, if_pos hrun, (warm_leaves s 4).1⟩⟩

end Sys2Proof.Machine
end

section
/-!
CREST and LINK resets (O33).
-/
namespace Sys2Proof.Machine
open Sys2Proof.Claim

/-! A crest that is emptied (R320). -/

/-- The crest's vector unit is empty and runs nothing. -/
def Crest.Blank (x : Crest) : Prop := x.V = [] ∧ x.S = [] ∧ x.M = [] ∧ x.inv = none

theorem Turned.blank {p k : Nat} {s t : State} (h : Turned k s t) (hx : (s.crest p).Blank) : (t.crest p).Blank := by
  by_cases hp : p = k
  · subst hp
    obtain ⟨hV, hS, hM, hinv⟩ := hx
    exact ⟨(congrArg Crest.V h.crest :).trans hV, (congrArg Crest.S h.crest :).trans hS, (congrArg Crest.M h.crest :).trans hM,
      (congrArg Crest.inv h.crest :).trans hinv⟩
  · rwa [h.others p hp]

section
variable {s : State} {p : Nat}

theorem blank_modCrest (h : (s.crest p).Blank) (k : Nat) {f : Crest → Crest} (hf : ∀ x : Crest, x.Blank → (f x).Blank) :
    ((s.modCrest k f).crest p).Blank := by
  rw [State.crest_modCrest]
  split
  · next hk => exact hf _ (hk ▸ h)
  · exact h

theorem blank_ite {c : Prop} [Decidable c] {t u : State} (ht : (t.crest p).Blank) (hu : (u.crest p).Blank) :
    ((if c then t else u).crest p).Blank := by
  split
  · exact ht
  · exact hu

theorem rouse_blank {x : Crest} (h : x.Blank) : x.rouse.Blank := by
  unfold Crest.rouse
  split
  · exact h
  · exact h
  · exact h

/-- A command that comes to a crest brings nothing to its vector unit (R218). -/
theorem blank_place (h : (s.crest p).Blank) (q t k : Nat) : ((s.place q t k).crest p).Blank := by
  have hheld (u : State) (c : Prop) [Decidable c] (cause : Nat) (hu : (u.crest p).Blank) :
      ((if c then u.setHold q t k cause true else u).crest p).Blank := blank_ite ((turned_setHold 0 u ..).blank hu) hu
  unfold State.place
  split
  · exact h
  · refine blank_ite h ?_
    extract_lets owner borrowed dirty charged taken unqueued received halted blocked
    have hcharged : (charged.crest p).Blank := blank_ite h h
    have htaken : (taken.crest p).Blank := blank_modCrest hcharged k fun x hx => by
      have hclean : (if dirty = true then x.zeroise else x).Blank := by
        split
        · exact ⟨rfl, rfl, rfl, hx.2.2.2⟩
        · exact hx
      dsimp only
      split
      · exact hclean
      · exact rouse_blank hclean
    have hhalted : (halted.crest p).Blank := hheld _ _ _ (hheld _ _ _ ((turned_setHold 0 taken ..).blank htaken))
    have hblocked : (blocked.crest p).Blank :=
      blank_ite ((turned_setHold 0 _ ..).blank (blank_modCrest hhalted k fun x hx => hx)) hhalted
    exact (turned_requeue k blocked).blank hblocked

theorem blank_adoptAll (h : (s.crest p).Blank) : (s.adoptAll.crest p).Blank := by
  have hadopt (u : State) (hu : (u.crest p).Blank) (q t : Nat) : ((u.adopt q t).crest p).Blank := by
    have hearly (v : State) (hv : (v.crest p).Blank) : ((v.chargeEarly q t).crest p).Blank := by
      have hcrests : (v.chargeEarly q t).crests = v.crests := by
        unfold State.chargeEarly
        split
        · rfl
        · exact proj_foldl State.crests (f := fun u k => u.chargeMclk q t k _) (fun _ _ => proj_ite State.crests rfl rfl) _ _
      rwa [State.crest, hcrests]
    have hchosen (c : Bool) (f : Cmd → Cmd) : ((if c then (u.modCmd q t f).chargeEarly q t else u).crest p).Blank :=
      blank_ite (hearly _ hu) hu
    unfold State.adopt
    split
    · exact hu
    · refine blank_ite hu ?_
      dsimp only
      split
      · exact hchosen ..
      · exact List.foldlRecOn (motive := fun v : State => (v.crest p).Blank) _ _ (hchosen ..) fun v hv k _ => blank_place hv ..
  exact List.foldlRecOn (motive := fun v : State => (v.crest p).Blank) _ _ h fun v hv k _ => hadopt v hv ..

end

theorem testBit_clrBit_self (m i : Nat) : (clrBit m i).testBit i = false := by
  unfold clrBit
  split
  next h =>
    have hodd : m / 2 ^ i % 2 = 1 := by simpa [Nat.testBit_eq_decide_div_mod_eq] using h
    have hsub : m / 2 ^ i = (m - 2 ^ i) / 2 ^ i + 1 := Nat.div_eq_sub_div (Nat.two_pow_pos i) (Nat.ge_two_pow_of_testBit h)
    rw [Nat.testBit_eq_decide_div_mod_eq, decide_eq_false_iff_not]
    omega
  next h => simpa using h

/-- The state with crest `p` empty, once its commands have ended and its halt is released (R320). -/
def State.crestEmptied (s : State) (p : Nat) : State :=
  s.modCrest p fun c => { c.zeroise with
    w0 := {}, w1 := {}, rowBuf := [], feed := [], pc := 0, steps := 0, redWait := [], inv := none, work := []
    waking := c.waking && decide ((s.crest p).pw = .off ∧ (s.reg p).st ≠ 0)
    lentTo := none, lastPart := none, pw := if c.pw = .off ∨ c.pw = .nap then c.pw else .idle }

/-- The state with the commands on crest `p` ended by its reset (R320). -/
def State.crestEnded (s : State) (p : Nat) : State :=
  s.endAll (fun c => (s.crest p).held.contains (c.q, c.t)) sReset 0x73

theorem crestReset_eq (s : State) (l : Nat) : s.crestReset l =
    (((((s.crestEnded (s.physOf l)).unhalt l).crestEmptied (s.physOf l)).wakeIdle (s.physOf l)).adoptAll) := by
  unfold State.crestReset State.crestEmptied State.crestEnded
  rfl

theorem blank_wakeIdle {s : State} {p : Nat} (h : (s.crest p).Blank) : ((s.wakeIdle p).crest p).Blank := by
  have hidle (l : Nat) : ((s.modCrest p fun c => { c with pw := .idle, level := l }).crest p).Blank :=
    blank_modCrest h p fun _ hx => hx
  unfold State.wakeIdle
  split
  · exact hidle _
  · exact h

theorem crestEmptied_settles (u : State) (l p : Nat) :
    (((((u.unhalt l).crestEmptied p).wakeIdle p).adoptAll).crest p).Blank ∧
      ((((u.unhalt l).crestEmptied p).wakeIdle p).adoptAll).mg.haltReq.testBit l = false := by
  have hempty : (((u.unhalt l).crestEmptied p).crest p).Blank := by
    rw [State.crestEmptied, State.crest_modCrest_same]
    exact ⟨rfl, rfl, rfl, rfl⟩
  refine ⟨blank_adoptAll (blank_wakeIdle hempty), ?_⟩
  have hmg : (((u.unhalt l).crestEmptied p).wakeIdle p).mg = (u.unhalt l).mg := proj_ite State.mg rfl rfl
  rw [(adoptAll_frame _).2.1, hmg]
  exact testBit_clrBit_self u.mg.haltReq l

theorem crestReset_empties (s : State) (l : Nat) : ((s.crestReset l).crest (s.physOf l)).Blank ∧
    (s.crestReset l).mg.haltReq.testBit l = false := by
  rw [crestReset_eq]
  exact crestEmptied_settles (s.crestEnded (s.physOf l)) l (s.physOf l)

/-! RESET_CREST (R315, R322). -/

section
variable {s : State} {path : Path} {l k : Nat}

/-- The word of a reset of a target (Table REG-5). -/
def resetWord (op x : Nat) : Nat := op + 2 ^ 16 * x

theorem resetWord_fields (h : k < 16) : resetWord 0x42 k % 256 = 0x42 ∧ bits (resetWord 0x42 k) 19 16 = k := by
  unfold resetWord bits
  omega

theorem resetWord_fields_link (h : k < 4) : resetWord 0x43 k % 256 = 0x43 ∧ bits (resetWord 0x43 k) 17 16 = k := by
  unfold resetWord bits
  omega

theorem exec_resetCrest (h : Heard s path 0x42) (hl : l < 16) :
    exec (.resetCrest path l) s = .next (acked path (s.doResetCrest l)) := by
  obtain ⟨hop, hfield⟩ := resetWord_fields hl
  have hstart : s.mgStart path (resetWord 0x42 l) = s.doResetCrest l := by
    rw [State.mgStart, hop, hfield]
    rfl
  have hr := ((doResetCrest_kept l (.refl false true s)).guarded rfl).2.2.1
  have hwritten := written_mgCmd (v := resetWord 0x42 l) (by rwa [hop]) (by omega) (by rw [hstart, hr])
  rw [hstart] at hwritten
  have hexec : exec (.resetCrest path l) s = .next (s.written path fun s => s.mgCmd path (resetWord 0x42 (l % 16))) := rfl
  rw [hexec, Nat.mod_eq_of_lt hl, hwritten]

theorem exec_resetLink (h : Heard s path 0x43) (hk : k < 4) :
    exec (.resetLink path k) s = .next (acked path (s.doResetLink k)) := by
  obtain ⟨hop, hfield⟩ := resetWord_fields_link hk
  have hstart : s.mgStart path (resetWord 0x43 k) = s.doResetLink k := by
    rw [State.mgStart, hop, hfield]
    rfl
  have hr := ((doResetLink_kept k (.refl false true s)).guarded rfl).2.2.1
  have hwritten := written_mgCmd (v := resetWord 0x43 k) (by rwa [hop]) (by omega) (by rw [hstart, hr])
  rw [hstart] at hwritten
  have hexec : exec (.resetLink path k) s = .next (s.written path fun s => s.mgCmd path (resetWord 0x43 (k % 4))) := rfl
  rw [hexec, Nat.mod_eq_of_lt hk, hwritten]

theorem doResetCrest_served (hp : s.crestPresent l = true) (hr : s.crestRetired (s.physOf l) = false)
    (hb : s.rep.bindDue ≠ some l) : s.doResetCrest l = (s.crestReset l).mgResult csOk 0 :=
  (if_neg (by simp [hb])).trans (if_neg (by simp [hp, hr]))

theorem doResetCrest_empties (hp : s.crestPresent l = true) (hr : s.crestRetired (s.physOf l) = false)
    (hb : s.rep.bindDue ≠ some l) : ((s.doResetCrest l).crest (s.physOf l)).Blank ∧
      (s.doResetCrest l).mg.haltReq.testBit l = false ∧ (s.doResetCrest l).mg.running = none ∧
      (s.doResetCrest l).mg.cmdStatus = 0 := by
  obtain ⟨hblank, hhalt⟩ := crestReset_empties s l
  rw [doResetCrest_served hp hr hb]
  generalize s.crestReset l = u at *
  exact ⟨hblank, hhalt, rfl, rfl⟩

theorem doResetCrest_waits (hp : s.crestPresent l = true) (hb : s.rep.bindDue = some l) :
    s.doResetCrest l = (s.mgRuns 0x42).modMg fun m => { m with resetDue := some l } := if_pos (by simp [hp, hb])

theorem doResetCrest_refused (h : s.crestPresent l = false ∨ (s.rep.bindDue ≠ some l ∧ s.crestRetired (s.physOf l) = true)) :
    s.doResetCrest l = s.mgResult csState dRetired := by
  obtain hp | ⟨hb, hr⟩ := h
  · exact (if_neg (by simp [hp])).trans (if_pos (by simp [hp]))
  · exact (if_neg (by simp [hb])).trans (if_pos (by simp [hr]))

end

/-! What a reset of the host link passes through (R321, R322). -/

/-- What a start of firmware and the end of a mailbox command leave of the die: its partitions, crests, commands, repair, time
and thresholds, and the management command in hand. -/
def State.beside (s : State) : Tbl Part × Tbl Crest × List Cmd × Repair × Nat × (Nat × Nat) × (Option Nat × Nat) :=
  (s.parts, s.crests, s.cmds, s.rep, s.time, (s.mg.threshCount, s.mg.threshWindow), (s.mg.running, s.mg.linkTarget))

/-- The retrains that the modules count. -/
def State.retrainCounts (s : State) : Nat → Nat := fun m => (s.hmod m).retrains

section
variable (s : State)

theorem retrainCounts_trainHost : s.trainHost.retrainCounts = s.retrainCounts := by
  have hone (u : State) (m : Nat) : (u.modHmod m fun h => if h.st = 0 then { h with st := 1, attempt := 0 } else h).retrainCounts =
      u.retrainCounts := by
    funext k
    rw [State.retrainCounts, State.hmod_modHmod]
    split
    next h =>
      split <;> rw [h] <;> rfl
    · rfl
  exact proj_ite State.retrainCounts (proj_foldl State.retrainCounts
    (f := fun s m => if s.rep.retMod.testBit m then s else s.modHmod m fun h => if h.st = 0 then { h with st := 1, attempt := 0 } else h)
    (fun _ _ => proj_ite State.retrainCounts rfl (hone ..)) _ s) rfl

theorem beside_fwWait : s.fwWait.beside = s.beside ∧ s.fwWait.retrainCounts = s.retrainCounts := by
  have hchecked : s.minChecked.beside = s.beside ∧ s.minChecked.retrainCounts = s.retrainCounts := by
    unfold State.minChecked
    dsimp only
    split <;> exact ⟨rfl, rfl⟩
  have hstarted (u : State) : u.fwStart.beside = u.beside ∧ u.fwStart.retrainCounts = u.retrainCounts :=
    ⟨(trainHost_proj State.beside (fun _ _ _ => rfl) _).trans (freeTransit_proj u.started State.beside fun _ _ _ => rfl),
      (retrainCounts_trainHost _).trans (freeTransit_proj u.started State.retrainCounts fun _ _ _ => rfl)⟩
  rw [fwWait_eq]
  split
  · exact ⟨(hstarted _).1.trans hchecked.1, (hstarted _).2.trans hchecked.2⟩
  · exact hchecked

theorem beside_mailboxCut : s.mailboxCut.beside = s.beside ∧ s.mailboxCut.retrainCounts = s.retrainCounts := by
  have hend (u : State) (r n : Nat) : (u.bump.mbEnd r n).beside = u.beside ∧ (u.bump.mbEnd r n).retrainCounts = u.retrainCounts := by
    have hsent (v : State) (i : Nat) : (v.sendMsix i).beside = v.beside ∧ (v.sendMsix i).retrainCounts = v.retrainCounts :=
      ⟨proj_ite State.beside rfl rfl, proj_ite State.retrainCounts rfl rfl⟩
    exact ⟨proj_ite State.beside (hsent ..).1 rfl, proj_ite State.retrainCounts (hsent ..).2 rfl⟩
  unfold State.mailboxCut
  split
  · exact ⟨rfl, rfl⟩
  · extract_lets r mine u v
    have hu : u.beside = s.beside ∧ u.retrainCounts = s.retrainCounts :=
      ⟨proj_ite State.beside rfl rfl, proj_ite State.retrainCounts rfl rfl⟩
    have hv : v.beside = u.beside ∧ v.retrainCounts = u.retrainCounts :=
      ⟨proj_ite State.beside (beside_fwWait u).1 rfl, proj_ite State.retrainCounts (beside_fwWait u).2 rfl⟩
    exact ⟨(hend v r 0).1.trans (hv.1.trans hu.1), (hend v r 0).2.trans (hv.2.trans hu.2)⟩

/-- Lines that go back to memory are nothing of the rest of the die. -/
theorem writeBack_proj {γ : Type} (π : State → γ) (hline : ∀ (s : State) l d b, π (s.backLine l d b) = π s)
    (hemit : ∀ (s : State) o, π (s.emit o) = π s) (hevict : ∀ (s : State) es, π { s with evict := es } = π s)
    (hcache : ∀ (s : State) c, π { s with cache := c } = π s) : π s.writeBack = π s := by
  unfold State.writeBack
  refine (hemit ..).trans ((hcache ..).trans ((proj_foldl π (fun u l => ?_) _ _).trans ((hevict ..).trans
    (proj_foldl π (fun u e => ?_) _ _))))
  · exact proj_ite π ((hemit ..).trans (hline ..)) rfl
  · exact proj_ite π (hline ..) rfl

theorem beside_writeBack : s.writeBack.beside = s.beside ∧ s.writeBack.retrainCounts = s.retrainCounts :=
  ⟨writeBack_proj s State.beside (fun _ _ _ _ => proj_ite State.beside rfl rfl) (fun _ _ => rfl) (fun _ _ => rfl) fun _ _ => rfl,
    writeBack_proj s State.retrainCounts (fun _ _ _ _ => proj_ite State.retrainCounts rfl rfl) (fun _ _ => rfl) (fun _ _ => rfl)
      fun _ _ => rfl⟩

end

/-! Errors that stay below RP_THRESH (R267). -/

section
variable (s : State) (kind unit : Nat)

theorem errsIn_countErr_le : (s.countErr kind unit).errsIn kind unit ≤ s.errsIn kind unit + 1 := by
  have herrs : tget [] (s.countErr kind unit).rep.errs (unitKey kind unit) =
      (s.time :: tget [] s.rep.errs (unitKey kind unit)).take 15 :=
    tget_tmod_same [] s.rep.errs (unitKey kind unit) fun ts => (s.time :: ts).take 15
  rw [State.errsIn, herrs]
  refine ((List.take_sublist 15 _).filter _).length_le.trans ?_
  rw [List.filter_cons]
  split
  · exact Nat.le_refl _
  · exact Nat.le_succ _

theorem errsIn_countErr_other {k : Nat} (h : k ≠ unit) : (s.countErr kind unit).errsIn kind k = s.errsIn kind k := by
  have hkey : unitKey kind k ≠ unitKey kind unit := fun heq => h (Nat.add_left_cancel heq)
  have herrs : tget [] (s.countErr kind unit).rep.errs (unitKey kind k) = tget [] s.rep.errs (unitKey kind k) :=
    tget_tmod_other [] s.rep.errs (unitKey kind unit) (fun ts => (s.time :: ts).take 15) hkey
  rw [State.errsIn, herrs]
  rfl

variable {s kind unit}

/-- A unit that has had few errors takes one more. -/
theorem atThresh_countErr (h : s.errsIn kind unit + 1 < s.mg.threshCount) : (s.countErr kind unit).atThresh kind unit = false :=
  decide_eq_false (Nat.not_le.2 (Nat.lt_of_le_of_lt (errsIn_countErr_le s kind unit) h))

end

/-! A reset of the host link. -/

/-- The event of a module's retrain counts an error of it and no more, while its errors are few. -/
theorem hostEvent_few {s : State} {m : Nat} (h : s.errsIn kHost m + 1 < s.mg.threshCount) (d : Nat) :
    s.hostEvent m d = (s.countErr kHost m).addLog
      { code := 0x10, cls := 1, kind := kHost, unit := m, count := (s.countErr kHost m).errsIn kHost m, detail := d } :=
  if_neg (Bool.eq_false_iff.1 (atThresh_countErr h))

/-- The die but for the errors counted and the log. -/
def State.uncounted (s : State) : State := { s with rep := { s.rep with errs := [] }, log := [], logNext := 0 }

/-- Events of modules with few errors change nothing but the errors counted and the log. -/
theorem uncounted_hostEvents (ms : List Nat) (s : State) (hnd : ms.Nodup)
    (hfew : ∀ m ∈ ms, s.errsIn kHost m + 1 < s.mg.threshCount) (d : Nat) :
    (ms.foldl (fun s m => s.hostEvent m d) s).uncounted = s.uncounted := by
  induction ms generalizing s with
  | nil => rfl
  | cons m ms ih =>
    obtain ⟨hm, hnd⟩ := List.nodup_cons.1 hnd
    rw [List.foldl_cons, hostEvent_few (hfew m (List.mem_cons_self ..)) d]
    refine (ih _ hnd fun k hk => ?_).trans rfl
    have hsame : (s.countErr kHost m).errsIn kHost k = s.errsIn kHost k :=
      errsIn_countErr_other s kHost m fun h => hm (h ▸ hk)
    exact (congrArg (· + 1 < s.mg.threshCount) hsame).mpr (hfew k (List.mem_cons_of_mem _ hk))

/-- Module `m` retrains (R171, R321). -/
def HMod.retrain (h : HMod) : HMod := { h with st := 4, attempt := 0, retrains := min 255 (h.retrains + 1) }

/-- The modules in service. -/
def State.servingModules (s : State) : List Nat := (List.range 4).filter fun m => decide ((s.hmod m).st ≠ 5)

theorem nodup_servingModules (s : State) : s.servingModules.Nodup := List.nodup_range.filter _

theorem mem_servingModules {s : State} {m : Nat} : m ∈ s.servingModules ↔ m < 4 ∧ (s.hmod m).st ≠ 5 := by
  simp [State.servingModules]

/-- The state as the modules `ms` retrain, from `t` on (R321). -/
def State.linkRetrain (s : State) (ms : List Nat) (t : Nat) : State :=
  ((ms.foldl (fun s m => s.modHmod m HMod.retrain) s).modMg fun m => { m with linkSince := some t }).liveChange

theorem hostLinkReset_eq (s : State) : s.hostLinkReset =
    s.servingModules.foldl (fun s m => s.hostEvent m 1) (s.mailboxCut.writeBack.linkRetrain s.servingModules s.time) := rfl

theorem linkRetrain_frame (s : State) (ms : List Nat) (t : Nat) (hnd : ms.Nodup) : (s.linkRetrain ms t).beside = s.beside ∧
    (s.linkRetrain ms t).mg.linkSince = some t ∧ ∀ m ∈ ms, (s.linkRetrain ms t).hmod m = (s.hmod m).retrain := by
  have hlive (u : State) : u.liveChange.beside = u.beside ∧ u.liveChange.mg.linkSince = u.mg.linkSince ∧ u.liveChange.mods = u.mods := by
    unfold State.liveChange
    split <;> exact ⟨rfl, rfl, rfl⟩
  have hfold : (ms.foldl (fun s m => s.modHmod m HMod.retrain) s).beside = s.beside :=
    proj_foldl State.beside (f := fun s m => s.modHmod m HMod.retrain) (fun _ _ => rfl) ms s
  obtain ⟨hbeside, hsince, hmods⟩ := hlive ((ms.foldl (fun s m => s.modHmod m HMod.retrain) s).modMg fun m => { m with linkSince := some t })
  refine ⟨hbeside.trans hfold, hsince, fun m hm => ?_⟩
  have hmod : (ms.foldl (fun s m => s.modHmod m HMod.retrain) s).hmod m = (s.hmod m).retrain :=
    (hmod_foldl (step := fun s m => s.modHmod m HMod.retrain) (f := fun _ _ h => h.retrain) (fun _ _ => rfl)
      (fun u k j => State.hmod_modHmod ..) hnd s m).trans (if_pos hm)
  rw [← hmod]
  exact congrArg (fun t => tget ({} : HMod) t m) hmods

theorem errsIn_of_beside {s t : State} (h : t.beside = s.beside) : t.errsIn = s.errsIn ∧ t.mg.threshCount = s.mg.threshCount := by
  simp only [State.beside, Prod.mk.injEq] at h
  obtain ⟨-, -, -, hrep, htime, ⟨hcount, hwindow⟩, -⟩ := h
  refine ⟨?_, hcount⟩
  funext kind unit
  rw [State.errsIn, hrep, htime, hwindow]
  rfl

/-- What a reset of the host link leaves: every module in service retrains and counts it (R171, R321). -/
theorem hostLinkReset_frame (s : State) (hfew : ∀ m, m < 4 → s.errsIn kHost m + 1 < s.mg.threshCount) :
    (∀ m, m < 4 → (s.hmod m).st ≠ 5 → (s.hostLinkReset.hmod m).st = 4 ∧
      (s.hostLinkReset.hmod m).retrains = min 255 ((s.hmod m).retrains + 1)) ∧
    s.hostLinkReset.parts = s.parts ∧ s.hostLinkReset.crests = s.crests ∧ s.hostLinkReset.cmds = s.cmds ∧
    s.hostLinkReset.mg.running = s.mg.running ∧ s.hostLinkReset.mg.linkTarget = s.mg.linkTarget ∧
    s.hostLinkReset.mg.linkSince = some s.time := by
  have hcounts : s.mailboxCut.writeBack.retrainCounts = s.retrainCounts := (beside_writeBack _).2.trans (beside_mailboxCut s).2
  obtain ⟨hbeside, hsince, hmods⟩ := linkRetrain_frame s.mailboxCut.writeBack s.servingModules s.time (nodup_servingModules s)
  replace hbeside := hbeside.trans ((beside_writeBack _).1.trans (beside_mailboxCut s).1)
  generalize hu : s.mailboxCut.writeBack.linkRetrain s.servingModules s.time = u at *
  obtain ⟨herrs, hthresh⟩ := errsIn_of_beside hbeside
  have hevents := uncounted_hostEvents s.servingModules u (nodup_servingModules s) (fun m hm => by
    rw [herrs, hthresh]
    exact hfew m (mem_servingModules.1 hm).1) 1
  rw [hostLinkReset_eq, hu]
  generalize s.servingModules.foldl (fun s m => s.hostEvent m 1) u = t at *
  simp only [State.beside, Prod.mk.injEq] at hbeside
  obtain ⟨hparts, hcrests, hcmds, -, -, -, hrunning, htarget⟩ := hbeside
  have hmg : t.mg = u.mg := (congrArg State.mg hevents :)
  refine ⟨fun m hm hst => ?_, (congrArg State.parts hevents :).trans hparts, (congrArg State.crests hevents :).trans hcrests,
    (congrArg State.cmds hevents :).trans hcmds, by rw [hmg, hrunning], by rw [hmg, htarget], by rw [hmg, hsince]⟩
  have hmod : t.hmod m = u.hmod m := (congrArg (fun v : State => v.hmod m) hevents :)
  rw [hmod, hmods m (mem_servingModules.2 ⟨hm, hst⟩)]
  refine ⟨rfl, ?_⟩
  have hcount : (s.mailboxCut.writeBack.hmod m).retrains = (s.hmod m).retrains := congrFun hcounts m
  rw [← hcount]
  rfl

/-! A reset of a port. -/

theorem peerEvent_few {s : State} {k : Nat} (hr : s.rep.retPort.testBit k = false) (h : s.errsIn kPort k + 1 < s.mg.threshCount)
    (d : Nat) : s.peerEvent k d = (s.countErr kPort k).addLog
      { code := 0x12, cls := 1, kind := kPort, unit := k, detail := d, count := (s.countErr kPort k).errsIn kPort k } :=
  (if_neg (Bool.eq_false_iff.1 hr)).trans (if_neg (Bool.eq_false_iff.1 (atThresh_countErr h)))

/-- A port trains anew (R321). -/
def PPort.anew (x : PPort) : PPort :=
  { x with st := 1, attempt := 0, disCause := 0, helloSeen := false, retrains := min 255 (x.retrains + 1) }

/-- The state with port `k` training anew and its link given up, where it had one. -/
def State.portAnew (s : State) (k : Nat) : State :=
  if decide ((s.port k).st = 2 ∨ (s.port k).st = 3) then (s.modPort k PPort.anew).linkLost k sReset 0x74
  else (s.modPort k PPort.anew).sendLinkmap

theorem portReset_serving {s : State} (h : s.serving = true) (k : Nat) : s.portReset k = (s.portAnew k).peerEvent k 1 := if_pos h

theorem portAnew_frame (s : State) (k : Nat) : ((s.portAnew k).port k).unqueued = (s.port k).anew.unqueued ∧
    Undisturbed true s (s.portAnew k) := by
  have hport (u : State) (hu : u.peerLinks = (s.modPort k PPort.anew).peerLinks) : (u.port k).unqueued = (s.port k).anew.unqueued := by
    rw [unqueued_of_peerLinks hu k, State.port_modPort_same]
  have hmod := undisturbed_modPort true s k PPort.anew
  unfold State.portAnew
  split
  · exact ⟨hport _ (peerLinks_linkLost ..), hmod.trans (undisturbed_linkLost ..)⟩
  · exact ⟨hport _ (peerLinks_sendLinkmap _), hmod.trans (undisturbed_sendLinkmap ..)⟩

/-- What a reset of a port leaves: the port trains and counts it (R194, R321). -/
theorem portReset_frame {s : State} {k : Nat} (hs : s.serving = true) (hr : s.rep.retPort.testBit k = false)
    (hfew : s.errsIn kPort k + 1 < s.mg.threshCount) (hrun : s.mg.running ≠ some 0x13) :
    ((s.portReset k).port k).st = 1 ∧ ((s.portReset k).port k).disCause = 0 ∧
    ((s.portReset k).port k).retrains = min 255 ((s.port k).retrains + 1) ∧
    (tget [] (s.portReset k).rep.errs (unitKey kPort k)).head? = some s.time ∧
    (s.portReset k).mg.command = s.mg.command ∧ (s.portReset k).mg.linkTarget = s.mg.linkTarget := by
  obtain ⟨hport, hun⟩ := portAnew_frame s k
  rw [portReset_serving hs]
  generalize s.portAnew k = u at *
  have hrep := hun.rep rfl
  have htime : u.time = s.time := (congrArg State.time hun.fixtures :)
  have hthresh : u.mg.threshCount = s.mg.threshCount := (congrArg (fun v => v.mg.threshCount) hun.fixtures :)
  have hwindow : u.mg.threshWindow = s.mg.threshWindow := (congrArg (fun v => v.mg.threshWindow) hun.fixtures :)
  have htarget : u.mg.linkTarget = s.mg.linkTarget := (congrArg (fun v => v.mg.linkTarget) hun.fixtures :)
  have herrs : u.errsIn kPort k = s.errsIn kPort k := by
    rw [State.errsIn, hrep, htime, hwindow]
    rfl
  rw [peerEvent_few (by rw [hrep, hr]) (by rw [herrs, hthresh]; exact hfew)]
  have hcounted : tget [] (u.countErr kPort k).rep.errs (unitKey kPort k) =
      (u.time :: tget [] u.rep.errs (unitKey kPort k)).take 15 :=
    tget_tmod_same [] u.rep.errs (unitKey kPort k) fun ts => (u.time :: ts).take 15
  obtain ⟨hst, hcause⟩ := status_of_unqueued hport
  refine ⟨hst, hcause, (congrArg PPort.retrains hport :), ?_, hun.command hrun, htarget⟩
  rw [← htime]
  exact (congrArg List.head? hcounted :)

/-- A reset that is under way runs on. -/
theorem linkDone_busy_host {s : State} (ht : s.mg.linkTarget = 0) {m : Nat} (hm : m < 4) (hst : (s.hmod m).st = 4) :
    s.linkDone = s := by
  have hbusy : (List.range 4).any (fun m => decide ((s.hmod m).st = 1 ∨ (s.hmod m).st = 4)) = true :=
    List.any_eq_true.2 ⟨m, List.mem_range.2 hm, decide_eq_true (.inr hst)⟩
  unfold State.linkDone
  rw [if_pos ht, hbusy]
  exact if_neg fun h => absurd h.2 nofun

theorem linkDone_busy_port {s : State} {k : Nat} (ht : s.mg.linkTarget = k + 1) (hst : (s.port k).st = 1) : s.linkDone = s := by
  have hbusy : decide ((s.port (k + 1 - 1)).st = 1 ∨ (s.port (k + 1 - 1)).st = 3) = true := decide_eq_true (.inl hst)
  unfold State.linkDone
  rw [ht, if_neg (Nat.succ_ne_zero k), hbusy]
  exact if_neg fun h => absurd h.2 nofun

/-! RESET_LINK (R315). -/

section
variable {s : State} {k : Nat}

/-- The state as a RESET_LINK of a target runs. -/
def State.linkRuns (s : State) (target : Nat) : State := (s.mgRuns 0x43).modMg fun m => { m with linkTarget := target }

theorem doResetLink_zero : s.doResetLink 0 = if (List.range 4).all (fun m => decide ((s.hmod m).st = 5)) then
    s.mgResult csState dRetired else (s.linkRuns 0).hostLinkReset.linkDone := by
  unfold State.doResetLink
  rw [if_pos rfl]
  rfl

theorem doResetLink_succ : s.doResetLink (k + 1) = if (s.port k).st = 5 then s.mgResult csState dRetired
    else if (s.port k).st = 0 ∧ ¬s.peerOf k < Config.groupDies then s.mgResult csState dRetired
    else ((s.linkRuns (k + 1)).portReset k).linkDone := by
  unfold State.doResetLink
  rw [if_neg (Nat.succ_ne_zero k)]
  rfl

theorem doResetLink_host (h : ∃ m, m < 4 ∧ (s.hmod m).st ≠ 5) : s.doResetLink 0 = (s.linkRuns 0).hostLinkReset.linkDone := by
  obtain ⟨m, hm, hst⟩ := h
  rw [doResetLink_zero, if_neg fun hall => hst (of_decide_eq_true (List.all_eq_true.1 hall m (List.mem_range.2 hm)))]

theorem doResetLink_host_refused (h : ∀ m, m < 4 → (s.hmod m).st = 5) : s.doResetLink 0 = s.mgResult csState dRetired := by
  rw [doResetLink_zero, if_pos (List.all_eq_true.2 fun m hm => decide_eq_true (h m (List.mem_range.1 hm)))]

theorem doResetLink_port (hst : (s.port k).st ≠ 5) (hpeer : (s.port k).st = 0 → s.peerOf k < Config.groupDies) :
    s.doResetLink (k + 1) = ((s.linkRuns (k + 1)).portReset k).linkDone := by
  rw [doResetLink_succ, if_neg hst, if_neg fun h => h.2 (hpeer h.1)]

theorem doResetLink_port_refused (h : (s.port k).st = 5 ∨ ((s.port k).st = 0 ∧ ¬s.peerOf k < Config.groupDies)) :
    s.doResetLink (k + 1) = s.mgResult csState dRetired := by
  rw [doResetLink_succ]
  split
  · rfl
  next hst => rw [if_pos (h.resolve_left hst)]

theorem acked_frame_reset (path : Path) (t : State) : (acked path t).crest = t.crest ∧ (acked path t).mg = t.mg ∧
    (acked path t).hmod = t.hmod ∧ (acked path t).port = t.port ∧ (acked path t).rep = t.rep ∧ (acked path t).parts = t.parts ∧
    (acked path t).crests = t.crests := by
  cases path <;> exact ⟨rfl, rfl, rfl, rfl, rfl, rfl, rfl⟩

end

/-- Settles O33: each reset by what it does to its target, and the errors that it counts by what they leave of the others. -/
theorem crestAndLinkResets : Obligations.CrestAndLinkResets := by
  refine fun s path l k hl hk => ⟨fun h hp hr hb => ?_, fun h hp hb => ?_, fun h hno => ?_, fun h hsome hfew => ?_, fun h hall => ?_,
    fun h hst hpeer hs hr hfew => ?_, fun h hno => ?_, fun hc hfew => ?_⟩
  · obtain ⟨⟨hV, hS, hM, hinv⟩, hhalt, hrunning, hstatus⟩ := doResetCrest_empties hp hr hb
    obtain ⟨hcrest, hmg, -⟩ := acked_frame_reset path (s.doResetCrest l)
    refine ⟨_, exec_resetCrest h hl, ?_⟩
    rw [hcrest, hmg]
    exact ⟨hV, hS, hM, hinv, hhalt, hrunning, hstatus⟩
  · rw [exec_resetCrest h hl, doResetCrest_waits hp hb]
    rfl
  · rw [exec_resetCrest h hl, doResetCrest_refused hno]
    rfl
  · obtain ⟨m, hm, hst⟩ := hsome
    obtain ⟨hmods, hparts, hcrests, -, hrunning, htarget, hsince⟩ := hostLinkReset_frame (s.linkRuns 0) hfew
    obtain ⟨-, hmg, hhmod, -, -, haparts, hacrests⟩ := acked_frame_reset path (s.linkRuns 0).hostLinkReset
    refine ⟨_, exec_resetLink h (by decide), ?_⟩
    rw [doResetLink_host ⟨m, hm, hst⟩, linkDone_busy_host htarget hm (hmods m hm hst).1, hmg, haparts, hacrests]
    exact ⟨fun k hk hne => by rw [hhmod]; exact hmods k hk hne, hrunning, hsince, hparts, hcrests⟩
  · rw [exec_resetLink h (by decide), doResetLink_host_refused hall]
    rfl
  · obtain ⟨htrains, hcause, hcount, herrs, hcommand, htarget⟩ :=
      portReset_frame (s := s.linkRuns (k + 1)) hs hr hfew (by exact nofun)
    obtain ⟨-, hmg, -, hport, hrep, -⟩ := acked_frame_reset path ((s.linkRuns (k + 1)).portReset k)
    refine ⟨_, exec_resetLink h (by omega), ?_⟩
    rw [doResetLink_port hst hpeer, linkDone_busy_port htarget htrains, hmg, hport, hrep]
    exact ⟨htrains, hcause, hcount, herrs, congrArg Prod.fst hcommand, congrArg (fun c => c.2.1) hcommand⟩
  · rw [exec_resetLink h (by omega), doResetLink_port_refused hno]
    rfl
  · have hexec : exec .hostLinkReset s = .next s.hostLinkReset := if_neg hc
    obtain ⟨hmods, hparts, -, hcmds, -⟩ := hostLinkReset_frame s hfew
    exact ⟨_, hexec, hmods, hparts, hcmds⟩

end Sys2Proof.Machine
end

section
/-!
Indirect and debug accesses (O34).
-/
namespace Sys2Proof.Machine
open Sys2Proof.Claim

/-! Indirect accesses that are reached (R332, R296). -/

section
variable {s : State} {path : Path}

theorem bankWrite_frame (s : State) (p : Path) (b w v : Nat) : (s.bankWrite p b w v).mg = s.mg ∧
    (s.bankWrite p b w v).store = s.store := by
  unfold State.bankWrite
  split <;> exact ⟨rfl, rfl⟩

theorem released_setIndAddr (s : State) (p : Path) (v : Nat) : (s.setIndAddr p v).mg.released = s.mg.released := by cases p <;> rfl

theorem released_stepped (s : State) (p : Path) (v : Nat) (inc : Bool) :
    (if inc then s.setIndAddr p v else s).mg.released = s.mg.released := by
  split
  · exact released_setIndAddr ..
  · rfl

theorem indRow_read (h : s.pathReady path = true) (inc : Bool) : s.indRow path none inc true =
    delivered path (if inc then s.setIndAddr path (s.indAddr path + 1) else s)
      (s.bankRead path (s.indBank path) (s.indAddr path)) := by
  unfold State.indRow
  cases path with
  | port => exact access_port h (released_stepped ..)
  | bar0 => exact access_bar0_read h

theorem indRow_write (h : s.pathReady path = true) (v : Word) (inc : Bool) : s.indRow path (some v) inc true =
    acked path (if inc then (s.bankWrite path (s.indBank path) (s.indAddr path) v.toNat).setIndAddr path (s.indAddr path + 1)
      else s.bankWrite path (s.indBank path) (s.indAddr path) v.toNat) := by
  unfold State.indRow
  cases path with
  | port => exact access_port h ((released_stepped ..).trans (congrArg Mgmt.released (bankWrite_frame s ..).1))
  | bar0 => exact access_bar0_write h

theorem indAddr_setIndAddr_other {path other : Path} (h : other ≠ path) (s : State) (v : Nat) :
    (s.setIndAddr path v).indAddr other = s.indAddr other := by
  cases path <;> cases other
  · exact absurd rfl h
  · rfl
  · rfl
  · exact absurd rfl h

/-- What an answer to an access leaves of the state that the access has made. -/
theorem delivered_frame (path p : Path) (t : State) (v : Nat) : (delivered path t v).indAddr p = t.indAddr p ∧
    (delivered path t v).out = answerOf path v :: t.out ∧ (delivered path t v).store = t.store ∧
    (delivered path t v).fw = t.fw := by
  cases path <;> cases p <;> exact ⟨rfl, rfl, rfl, rfl⟩

theorem acked_frame_access (path p : Path) (t : State) : (acked path t).indAddr p = t.indAddr p ∧
    (acked path t).store = t.store ∧ (acked path t).fw = t.fw := by
  cases path <;> cases p <;> exact ⟨rfl, rfl, rfl⟩

theorem acked_crests (path : Path) (t : State) : (acked path t).crest = t.crest ∧ (acked path t).cmds = t.cmds ∧
    (acked path t).mg = t.mg := by
  cases path <;> exact ⟨rfl, rfl, rfl⟩

theorem setIndAddr_frame (s : State) (p : Path) (v : Nat) : (s.setIndAddr p v).out = s.out ∧ (s.setIndAddr p v).store = s.store ∧
    (s.setIndAddr p v).fw = s.fw := by
  cases p <;> exact ⟨rfl, rfl, rfl⟩

theorem indAddr_bankWrite (s : State) (p other : Path) (b w v : Nat) : (s.bankWrite p b w v).indAddr other = s.indAddr other := by
  cases other with
  | port => exact congrArg Mgmt.iaPort (bankWrite_frame s p b w v).1
  | bar0 => exact congrArg Mgmt.iaBar0 (bankWrite_frame s p b w v).1

end

/-! Debug accesses (R223, R337, R338). -/

section
variable {s : State}

theorem exec_dbgData_port (h : s.pathReady .port = true) (w : Option Word) : exec (.dbgData .port w) s =
    .next (answered (s.dbgPort w false).1 (s.dbgPort w false).2.1 (s.dbgPort w false).2.2) :=
  congrArg Host.Outcome.next (access_port h ((dbgPort_kept w false (.refl false true s)).guarded rfl).2.2.1)

theorem exec_dbgDataInc_port (h : s.pathReady .port = true) (w : Option Word) : exec (.dbgDataInc .port w) s =
    .next (answered (s.dbgPort w true).1 (s.dbgPort w true).2.1 (s.dbgPort w true).2.2) :=
  congrArg Host.Outcome.next (access_port h ((dbgPort_kept w true (.refl false true s)).guarded rfl).2.2.1)

theorem dbgPort_denied {w : Option Word} (h : s.mg.debugLevel = 0 ∨ (w.isSome = true ∧ s.mg.debugLevel ≠ 2)) (inc : Bool) :
    s.dbgPort w inc = (s, 2, 0) := if_pos h

theorem dbgPort_partition (h : s.mg.debugLevel = 1) (inc : Bool) : s.dbgPort none inc = (s, 0, 0) :=
  (if_neg (by simp [h])).trans (if_pos h)

theorem dbgPort_full (h : s.mg.debugLevel = 2) (w : Option Word) (inc : Bool) : s.dbgPort w inc =
    if !(s.dbgAccess w).2.1 then ((s.dbgAccess w).1, 3, 0)
    else (if inc then (s.dbgAccess w).1.modMg fun m => { m with dbgAddr := (m.dbgAddr + 1) % 2 ^ 32 } else (s.dbgAccess w).1, 0,
      (s.dbgAccess w).2.2) :=
  (if_neg (by simp [h])).trans (if_neg (by simp [h]))

/-- An access that is served delivers its word, and one to DBG_DATA_INC goes on to the next. -/
theorem dbgPort_served (h : s.mg.debugLevel = 2) {w : Option Word} {t : State} {v : Nat}
    (ha : s.dbgAccess w = (t, true, v)) (inc : Bool) : s.dbgPort w inc = (if inc then t.modMg fun m => { m with dbgAddr := (m.dbgAddr + 1) % 2 ^ 32 } else t, 0, v) := by
  rw [dbgPort_full h, ha]
  rfl

theorem dbgPort_busy (h : s.mg.debugLevel = 2) {w : Option Word} {t : State} {v : Nat}
    (ha : s.dbgAccess w = (t, false, v)) (inc : Bool) : s.dbgPort w inc = (t, 3, 0) := by
  rw [dbgPort_full h, ha]
  rfl

/-- The rows of DBG_DATA at FULL, by what the access gives. -/
theorem exec_dbgData_served (h : s.pathReady .port = true) (hl : s.mg.debugLevel = 2) {w : Option Word} {t : State} {v : Nat}
    (ha : s.dbgAccess w = (t, true, v)) : exec (.dbgData .port w) s = .next (answered t 0 v) := by
  rw [exec_dbgData_port h, dbgPort_served hl ha]
  rfl

/-- An access that cannot be reached in time is answered BUSY, at either row (R297). -/
theorem exec_dbgData_busy (h : s.pathReady .port = true) (hl : s.mg.debugLevel = 2) {w : Option Word} {t : State} {v : Nat}
    (ha : s.dbgAccess w = (t, false, v)) : exec (.dbgData .port w) s = .next (answered t 3 0) := by
  rw [exec_dbgData_port h, dbgPort_busy hl ha]

theorem exec_dbgDataInc_busy (h : s.pathReady .port = true) (hl : s.mg.debugLevel = 2) {w : Option Word} {t : State} {v : Nat}
    (ha : s.dbgAccess w = (t, false, v)) : exec (.dbgDataInc .port w) s = .next (answered t 3 0) := by
  rw [exec_dbgDataInc_port h, dbgPort_busy hl ha]

/-! The spaces of a crest. -/

section
variable {sp p o : Nat} (hsp : s.mg.dbgSpace = sp) (h3 : sp ≠ 3)
include hsp h3

theorem dbgAccess_absent (hc : s.dbgCrest sp s.mg.dbgAddr = none) (w : Option Word) : s.dbgAccess w = (s, true, 0) := by
  unfold State.dbgAccess
  rw [hsp, if_neg h3, hc]

end

theorem wakeIdle_awake {p : Nat} (h : (s.crest p).pw ≠ .nap) : s.wakeIdle p = s := if_neg h

theorem wakeIdle_nap {p : Nat} (h : (s.crest p).pw = .nap) : ∃ l,
    (s.wakeIdle p).crest p = { s.crest p with pw := .idle, level := l } ∧
    (s.wakeIdle p).out = s.out ∧ ∀ k, k ≠ p → (s.wakeIdle p).crest k = s.crest k := by
  have hsame (l : Nat) := State.crest_modCrest_same s p fun c => { c with pw := .idle, level := l }
  have hothers (l k : Nat) (hk : k ≠ p) := State.crest_modCrest_other s p (fun c => { c with pw := .idle, level := l }) k hk
  have heq : s.wakeIdle p = _ := if_pos h
  rw [heq]
  generalize (if s.pwr.modeNow = 1 then s.startLevel p else (s.crest p).level) = l
  exact ⟨l, hsame l, rfl, hothers l⟩

/-- The command `k` has its results unspecified by a debug write. -/
def DbgMarked (k : Nat × Nat) (s : State) : Prop := ∀ c ∈ s.cmds, (c.q, c.t) = k → c.dbg = true

/-- The commands of a crest that a debug write reaches are marked in turn (R338). -/
def State.markDbg (s : State) (k : Nat × Nat) : State := s.modCmd k.1 k.2 fun c => { c with dbg := true }

theorem dbgMarked_markDbg (s : State) (k : Nat × Nat) : DbgMarked k (s.markDbg k) := by
  intro c hc hk
  obtain ⟨d, -, rfl⟩ := List.mem_map.1 hc
  dsimp only at hk ⊢
  split at hk
  next hd => rw [if_pos hd]
  next hd =>
    have heq : d.q = k.1 ∧ d.t = k.2 := Prod.ext_iff.1 hk
    exact absurd (by simp [heq]) hd

theorem DbgMarked.markDbg {j : Nat × Nat} {s : State} (h : DbgMarked j s) (k : Nat × Nat) : DbgMarked j (s.markDbg k) := by
  intro c hc hj
  obtain ⟨d, hd, rfl⟩ := List.mem_map.1 hc
  dsimp only at hj ⊢
  split at hj
  next hp => rw [if_pos hp]
  next hp =>
    rw [if_neg hp]
    exact h d hd hj

/-- A write leaves the results of the commands of its crest unspecified, and nothing else changes with them (R338). -/
theorem markDbgs_frame (ks : List (Nat × Nat)) (s : State) : (ks.foldl State.markDbg s).crests = s.crests ∧
    (ks.foldl State.markDbg s).store = s.store ∧ ∀ k ∈ ks, DbgMarked k (ks.foldl State.markDbg s) :=
  ⟨proj_foldl State.crests (f := State.markDbg) (fun _ _ => rfl) ks s,
    proj_foldl State.store (f := State.markDbg) (fun _ _ => rfl) ks s,
    fun _ hk => foldl_reaches dbgMarked_markDbg (fun _ k _ h => h.markDbg k) hk s⟩

/-- The state as a debug write of `v` leaves crest `p`, which is awake. -/
def State.dbgWritten (s : State) (p sp o v : Nat) : State :=
  (s.crest p).held.foldl State.markDbg (s.modCrest p fun c => c.dbgWrite sp o v)

theorem dbgWritten_frame (s : State) (p sp o v : Nat) : (s.dbgWritten p sp o v).crest p = (s.crest p).dbgWrite sp o v ∧
    (∀ k, k ≠ p → (s.dbgWritten p sp o v).crest k = s.crest k) ∧ (s.dbgWritten p sp o v).store = s.store ∧
    ∀ c, (c.q, c.t) ∈ (s.crest p).held → c ∈ (s.dbgWritten p sp o v).cmds → c.dbg = true := by
  obtain ⟨hcrests, hstore, hmarked⟩ := markDbgs_frame (s.crest p).held (s.modCrest p fun c => c.dbgWrite sp o v)
  have hcrest (k : Nat) : (s.dbgWritten p sp o v).crest k = (s.modCrest p fun c => c.dbgWrite sp o v).crest k :=
    congrArg (fun t => tget ({} : Crest) t k) hcrests
  refine ⟨(hcrest p).trans (State.crest_modCrest_same ..), fun k hk => (hcrest k).trans (State.crest_modCrest_other _ _ _ _ hk),
    hstore, fun c hk hc => hmarked _ hk c hc rfl⟩

section
variable {sp p o : Nat} (hsp : s.mg.dbgSpace = sp) (h3 : sp ≠ 3) (hc : s.dbgCrest sp s.mg.dbgAddr = some (p, o))
include hsp h3 hc

/-- A crest in OFF reads 0 and takes nothing (R338). -/
theorem dbgAccess_off (hpw : (s.crest p).pw = .off) (w : Option Word) : s.dbgAccess w = (s, true, 0) := by
  unfold State.dbgAccess
  rw [hsp, if_neg h3, hc]
  exact if_pos (.inl hpw)

theorem dbgAccess_read (hpw : (s.crest p).pw ≠ .off) :
    s.dbgAccess none = (s.wakeIdle p, true, ((s.wakeIdle p).crest p).dbgRead sp o) := by
  unfold State.dbgAccess
  rw [hsp, if_neg h3, hc]
  exact if_neg (by simp [hpw])

/-- The learned ratios are read-only; any other word of a crest that is awake is written (R338). -/
theorem dbgAccess_write (hpw : (s.crest p).pw ≠ .off) (hnap : (s.crest p).pw ≠ .nap) (v : Word) :
    s.dbgAccess (some v) = (if sp = 4 then s else s.dbgWritten p sp o v.toNat, true, 0) := by
  unfold State.dbgAccess
  rw [hsp, if_neg h3, hc]
  by_cases h4 : sp = 4
  · rw [if_pos h4]
    exact if_pos (.inr ⟨h4, rfl⟩)
  · rw [if_neg h4]
    refine (if_neg (by simp [hpw, h4])).trans ?_
    dsimp only
    rw [wakeIdle_awake hnap]
    rfl

end

/-- What a crest's memories hold does not depend on its power. -/
theorem dbgRead_power (c : Crest) (pw : CrestPw) (l sp o : Nat) :
    Crest.dbgRead { c with pw := pw, level := l } sp o = c.dbgRead sp o := rfl

/-- The learned ratios as well are what a write to them would leave. -/
theorem dbgWritten_space (s : State) (sp p o v : Nat) {t : State} (ht : t = if sp = 4 then s else s.dbgWritten p sp o v) :
    t.crest p = (s.crest p).dbgWrite sp o v ∧ (∀ k, k ≠ p → t.crest k = s.crest k) ∧ t.store = s.store := by
  subst ht
  by_cases h4 : sp = 4
  · rw [if_pos h4, h4]
    exact ⟨rfl, fun _ _ => rfl, rfl⟩
  · rw [if_neg h4]
    obtain ⟨hcrest, hothers, hstore, -⟩ := dbgWritten_frame s p sp o v
    exact ⟨hcrest, hothers, hstore⟩

/-! The space of the store. -/

section
variable {g n : Nat} (h3 : s.mg.dbgSpace = 3) (hg : g = 4 * s.mg.dbgAddr) (hn : n = g / 2 ^ 24)
include h3 hg hn

theorem dbgAccess_retired (h : 96 ≤ n ∨ s.sliceRetired n = true) (w : Option Word) : s.dbgAccess w = (s, true, 0) := by
  subst hn hg
  exact (if_pos h3).trans (if_pos h)

theorem dbgAccess_sliceOff (hlt : n < 96) (hr : s.sliceRetired n = false) (hpw : (s.slice n).pw = .off) (w : Option Word) :
    s.dbgAccess w = (s.modSlice n fun x => { x with waking := true }, false, 0) := by
  have hthere : ¬(n ≥ 96 ∨ s.sliceRetired n = true) := by simp [hlt, hr]
  subst hn hg
  exact (if_pos h3).trans ((if_neg hthere).trans (if_pos hpw))

theorem dbgAccess_sliceOn (hlt : n < 96) (hr : s.sliceRetired n = false) (hpw : (s.slice n).pw = .on)
    (hu : (s.slice n).unavailable = false) (hsp : (s.slice n).sparing = none) (v : Word) :
    s.dbgAccess none = (s, true, ofBytes (tgetFrom 0#8 s.store g 4)) ∧
    s.dbgAccess (some v) = ({ s with store := tsetFrom 0#8 s.store g (toBytes v.toNat 4) }, true, 0) := by
  have hthere : ¬(n ≥ 96 ∨ s.sliceRetired n = true) := by simp [hlt, hr]
  have hon : ¬(s.slice n).pw = .off := by simp [hpw]
  have hreached : ¬(decide ((s.slice n).pw = .retain) && !s.tierOn n || (s.slice n).unavailable
      || (s.slice n).sparing.any (fun r => !r.2 && decide (r.1 = g % 2 ^ 24 / 4096))) = true := by simp [hpw, hu, hsp]
  have hawake : s.wakeSlice n = s := if_neg (by simp [hpw])
  subst hn hg
  constructor
  all_goals
    refine (if_pos h3).trans ((if_neg hthere).trans ((if_neg hon).trans ((if_neg hreached).trans ?_)))
    dsimp only
    rw [hawake]

end

end

/-! LEARN_CLEAR and PW_ENERGY_LO. -/

theorem crest_clearLearned (s : State) (p : Nat) :
    s.clearLearned.crest p = if p < 17 then { s.crest p with learn := [] } else s.crest p := by
  have hcleared (ps : List Nat) (u : State) : (ps.foldl (fun s p => s.modCrest p fun c => { c with learn := [] }) u).crest p =
      if p ∈ ps then { u.crest p with learn := [] } else u.crest p := by
    induction ps generalizing u with
    | nil => rfl
    | cons q ps ih =>
      rw [List.foldl_cons, ih, State.crest_modCrest]
      by_cases hq : p = q
      · subst hq
        simp
      · simp [hq]
  rw [State.clearLearned, hcleared]
  simp only [List.mem_range]

theorem exec_learnClear {s : State} {path : Path} (h : s.pathReady path = true) (ha : s.allows path 2 = true) :
    exec (.learnClear path) s = .next (acked path s.clearLearned) := by
  have heff : (if s.allows path polPw then s.clearLearned else s) = s.clearLearned := if_pos ha
  have hr := ((clearLearned_kept (.refl false true s)).guarded rfl).2.2.1
  exact congrArg Host.Outcome.next ((written_eq_acked h (by rw [heff, hr])).trans (congrArg (acked path) heff))

theorem clearLearned_frame (s : State) : s.clearLearned.cmds = s.cmds ∧ s.clearLearned.mg = s.mg :=
  ⟨proj_foldl State.cmds (f := fun s p => s.modCrest p fun c => { c with learn := [] }) (fun _ _ => rfl) _ s,
    proj_foldl State.mg (f := fun s p => s.modCrest p fun c => { c with learn := [] }) (fun _ _ => rfl) _ s⟩

theorem exec_pwEnergyLoRead {s : State} {path : Path} (h : s.pathReady path = true) : exec (.pwEnergyLoRead path) s =
    .next (delivered path { s with pwr := { s.pwr with hiLatch := s.pwr.energy / 2 ^ 32 } } (s.pwr.energy % 2 ^ 32)) := by
  refine congrArg Host.Outcome.next ?_
  cases path with
  | port => exact access_port h rfl
  | bar0 => exact access_bar0_read h

/-! Indirect accesses and the debug rows. -/

theorem indirect_rows {s : State} {path other : Path} (v : Word) (h : s.pathReady path = true) (hother : other ≠ path) :
    let ia := s.indAddr path
    let w := s.bankWrite path (s.indBank path) ia v.toNat
    (exec (.mgIndData path none true) s = .next (delivered path s (s.bankRead path (s.indBank path) ia))) ∧
    (∃ t, exec (.mgIndDataInc path none true) s = .next t ∧ t.indAddr path = (ia + 1) % 2 ^ 24 ∧
      t.indAddr other = s.indAddr other ∧
      t.out = answerOf path (s.bankRead path (s.indBank path) ia) :: s.out ∧ t.store = s.store ∧ t.fw = s.fw) ∧
    (exec (.mgIndData path (some v) true) s = .next (acked path w)) ∧
    (∃ t, exec (.mgIndDataInc path (some v) true) s = .next t ∧ t.indAddr path = (ia + 1) % 2 ^ 24 ∧
      t.indAddr other = s.indAddr other ∧ t.fw = w.fw ∧ t.store = s.store) := by
  intro ia w
  obtain ⟨hout, hstore, hfw⟩ := setIndAddr_frame s path (ia + 1)
  obtain ⟨-, hwstore, hwfw⟩ := setIndAddr_frame w path (ia + 1)
  have hread := delivered_frame path path (s.setIndAddr path (ia + 1)) (s.bankRead path (s.indBank path) ia)
  have hreadOther := (delivered_frame path other (s.setIndAddr path (ia + 1)) (s.bankRead path (s.indBank path) ia)).1
  have hwrite := acked_frame_access path path (w.setIndAddr path (ia + 1))
  have hwriteOther := (acked_frame_access path other (w.setIndAddr path (ia + 1))).1
  refine ⟨congrArg Host.Outcome.next (indRow_read h false),
    ⟨_, congrArg Host.Outcome.next (indRow_read h true), ?_, ?_, ?_, ?_, ?_⟩,
    congrArg Host.Outcome.next (indRow_write h v false), ⟨_, congrArg Host.Outcome.next (indRow_write h v true), ?_, ?_, ?_, ?_⟩⟩
  · exact hread.1.trans (indAddr_setIndAddr ..)
  · exact hreadOther.trans (indAddr_setIndAddr_other hother ..)
  · exact hread.2.1.trans (congrArg _ hout)
  · exact hread.2.2.1.trans hstore
  · exact hread.2.2.2.trans hfw
  · exact hwrite.1.trans (indAddr_setIndAddr ..)
  · exact hwriteOther.trans ((indAddr_setIndAddr_other hother ..).trans (indAddr_bankWrite ..))
  · exact hwrite.2.2.trans hwfw
  · exact hwrite.2.1.trans (hwstore.trans (bankWrite_frame s path _ _ _).2)

section
variable {s : State} (h : s.pathReady .port = true) (hl : s.mg.debugLevel = 2)
include h hl

/-- A word that is not there reads 0 and takes nothing. -/
theorem dbgData_none (ha : ∀ w, s.dbgAccess w = (s, true, 0)) (v : Word) :
    exec (.dbgData .port none) s = .next (answered s 0 0) ∧ exec (.dbgData .port (some v)) s = .next (answered s 0 0) :=
  ⟨exec_dbgData_served h hl (ha none), exec_dbgData_served h hl (ha (some v))⟩

/-- A word of a crest that is awake is read, and written but for the learned ratios. -/
theorem dbgData_awake {sp p o : Nat} (hsp : s.mg.dbgSpace = sp) (h3 : sp ≠ 3) (hc : s.dbgCrest sp s.mg.dbgAddr = some (p, o))
    (hoff : (s.crest p).pw ≠ .off) (hnap : (s.crest p).pw ≠ .nap) (v : Word) :
    exec (.dbgData .port none) s = .next (answered s 0 ((s.crest p).dbgRead sp o)) ∧
    exec (.dbgData .port (some v)) s = .next (answered (if sp = 4 then s else s.dbgWritten p sp o v.toNat) 0 0) := by
  have hread := dbgAccess_read hsp h3 hc hoff
  rw [wakeIdle_awake hnap] at hread
  exact ⟨exec_dbgData_served h hl hread, exec_dbgData_served h hl (dbgAccess_write hsp h3 hc hoff hnap v)⟩

/-- A read at DBG_DATA_INC goes on to the next word. -/
theorem dbgDataInc_awake {sp p o : Nat} (hsp : s.mg.dbgSpace = sp) (h3 : sp ≠ 3) (hc : s.dbgCrest sp s.mg.dbgAddr = some (p, o))
    (hoff : (s.crest p).pw ≠ .off) (hnap : (s.crest p).pw ≠ .nap) : ∃ t, exec (.dbgDataInc .port none) s = .next t ∧
      t.mg.dbgAddr = (s.mg.dbgAddr + 1) % 2 ^ 32 ∧ t.crests = s.crests := by
  have hread := dbgAccess_read hsp h3 hc hoff
  rw [wakeIdle_awake hnap] at hread
  refine ⟨_, exec_dbgDataInc_port h none, ?_, ?_⟩
  all_goals rw [dbgPort_served hl hread]; rfl

/-- A crest in NAP wakes to IDLE to be read, and no other does. -/
theorem dbgData_nap {sp p o : Nat} (hsp : s.mg.dbgSpace = sp) (h3 : sp ≠ 3) (hc : s.dbgCrest sp s.mg.dbgAddr = some (p, o))
    (hnap : (s.crest p).pw = .nap) : ∃ t, exec (.dbgData .port none) s = .next t ∧ (t.crest p).pw = .idle ∧
      t.out = answerOf .port ((s.crest p).dbgRead sp o) :: s.out ∧ ∀ k, k ≠ p → t.crest k = s.crest k := by
  obtain ⟨l, hcrest, hout, hothers⟩ := wakeIdle_nap hnap
  have hread : ((s.wakeIdle p).crest p).dbgRead sp o = (s.crest p).dbgRead sp o :=
    (congrArg (fun c => Crest.dbgRead c sp o) hcrest).trans (dbgRead_power (s.crest p) .idle l sp o)
  have haccess := dbgAccess_read hsp h3 hc (by simp [hnap])
  rw [hread] at haccess
  exact ⟨_, exec_dbgData_served h hl haccess, congrArg Crest.pw hcrest, congrArg (_ :: ·) hout, hothers⟩

end

/-- Settles O34: the rows by the access that they make, the debug rows by the space and the power of what they name. -/
theorem indirectAndDebugAccess : Obligations.IndirectAndDebugAccess := by
  refine ⟨fun s path other v h hother => indirect_rows v h hother, fun s path v => ⟨fun h hl p o hsp hc hpw => ?run,
    fun h hl sp hsp hsp' => ⟨fun hc => ?absent, fun p o hc => ⟨fun hoff => ?off, fun hnap => ?nap, fun hoff hnap => ?awake⟩⟩,
    fun h hl h3 g n hg hn => ⟨fun hret => ?retired, fun hlt hret hoff => ?sliceOff, fun hlt hret hon hun hsp => ?sliceOn⟩,
    fun h hl => ?partition, fun h hl => ?none, fun h hl => ?denied, fun h => ?bar0, fun h => exec_pwEnergyLoRead h, fun h ha => ?clear⟩⟩
  case run =>
    have hawake : (s.crest p).pw ≠ .off ∧ (s.crest p).pw ≠ .nap := by simp [hpw]
    obtain ⟨hread, hwrite⟩ := dbgData_awake h hl hsp (by decide) hc hawake.1 hawake.2 v
    obtain ⟨hcrest, hothers, -, hmarked⟩ := dbgWritten_frame s p 0 o v.toNat
    have hacc : ((s.dbgWritten p 0 o v.toNat).crest p).acc = tset 0#32 (s.crest p).acc o v :=
      (congrArg Crest.acc hcrest).trans (congrArg (tset 0#32 (s.crest p).acc o) (BitVec.eq_of_toNat_eq (by simp)))
    refine ⟨hread, ⟨_, hwrite, ?_, fun k hk => ?_, hothers, hmarked⟩,
      dbgDataInc_awake h hl hsp (by decide) hc hawake.1 hawake.2⟩
    · exact (congrArg (fun a => tget 0#32 a o) hacc).trans (tget_tset_same ..)
    · exact (congrArg (fun a => tget 0#32 a k) hacc).trans (tget_tset_other _ _ _ _ hk)
  case absent => exact dbgData_none h hl (dbgAccess_absent hsp.symm (by omega) hc) v
  case off => exact dbgData_none h hl (dbgAccess_off hsp.symm (by omega) hc hoff) v
  case nap => exact dbgData_nap h hl hsp.symm (by omega) hc hnap
  case awake =>
    obtain ⟨hread, hwrite⟩ := dbgData_awake h hl hsp.symm (by omega) hc hoff hnap v
    have hwritten := dbgWritten_space s sp p o v.toNat rfl
    exact ⟨hread, _, hwrite, hwritten⟩
  case retired => exact dbgData_none h hl (dbgAccess_retired h3 hg hn hret) v
  case sliceOff =>
    have hbusy := dbgAccess_sliceOff h3 hg hn hlt hret hoff none
    exact ⟨exec_dbgData_busy h hl hbusy, exec_dbgDataInc_busy h hl hbusy⟩
  case sliceOn =>
    obtain ⟨hread, hwrite⟩ := dbgAccess_sliceOn h3 hg hn hlt hret hon hun hsp v
    exact ⟨exec_dbgData_served h hl hread, exec_dbgData_served h hl hwrite⟩
  case partition =>
    refine ⟨?_, ?_⟩
    · rw [exec_dbgData_port h, dbgPort_partition hl]
    · rw [exec_dbgDataInc_port h, dbgPort_partition hl]
  case none =>
    refine ⟨?_, ?_⟩
    · rw [exec_dbgData_port h, dbgPort_denied (.inl hl)]
    · rw [exec_dbgDataInc_port h, dbgPort_denied (.inl hl)]
  case denied =>
    refine ⟨?_, ?_⟩
    · rw [exec_dbgData_port h, dbgPort_denied (.inr ⟨rfl, hl⟩)]
    · rw [exec_dbgDataInc_port h, dbgPort_denied (.inr ⟨rfl, hl⟩)]
  case bar0 =>
    exact ⟨congrArg Host.Outcome.next (access_bar0_read h), congrArg Host.Outcome.next (access_bar0_read h),
      congrArg Host.Outcome.next (access_bar0_write h)⟩
  case clear =>
    obtain ⟨hcmds, hmg⟩ := clearLearned_frame s
    obtain ⟨hcrest, hcmds', hmg'⟩ := acked_crests path s.clearLearned
    exact ⟨_, exec_learnClear h ha, fun p => (congrFun hcrest p).trans (crest_clearLearned s p),
      hcmds'.trans hcmds, hmg'.trans hmg⟩

end Sys2Proof.Machine
end

section
/-!
A row's copy ends while the final read of a WAIT is held by it (O47).
-/
namespace Sys2Proof.Machine
open Sys2Proof.Claim

/-- A WAIT for the word of four bytes at 0x5000 to differ from 0. -/
def waitEntry : List Byte :=
  ((((List.replicate 0x2A 0#8).set 0 8#8).set 0x11 0x50#8).set 0x28 1#8).set 0x29 4#8

/-- The WAIT once its timer has reached terminal count: its final read is held (R164). -/
def expiredWait : Cmd := { q := 0, t := 0, e := waitEntry, started := true, expired := true }

/-- Row 5 of slice 0 is being copied to a spare; the final read of the WAIT, of a word in that row, waits for the copy. -/
def waitInCopiedRow : State :=
  { slices := [(0, { pw := .on, sparing := some (5, false) })], cmds := [expiredWait], stalled := [((0, 0), .sparing 0)] }

/-- It is the copy of the row that holds the read. -/
theorem copiedRow_holds_wait : waitInCopiedRow.waitHeld expiredWait = some (.sparing 0) := by decide +kernel

theorem noneHeld_waitInCopiedRow : NoneHeld waitInCopiedRow := ⟨rfl, by decide⟩

theorem exec_rowCopyEnd {s : State} {n r : Nat} (h : (s.slice n).sparing = some (r, false)) (w : Nat) :
    exec (.rowCopyEnd ⟨n, w⟩) s = .next
      ((s.modSlice n fun x => { x with sparing := some (r, true) }).resumeHeld (.sparing n) w).serveIngress := by
  change execRowCopyEnd ⟨n, w⟩ s = _
  rw [execRowCopyEnd, h]

/-- The state as the end of the copy, 7 cycles later, leaves it. -/
def waitResumed : State :=
  ((waitInCopiedRow.modSlice 0 fun x => { x with sparing := some (5, true) }).resumeHeld (.sparing 0) 7).serveIngress

/-- The read is made in the step that ends the copy, and the WAIT ends WAIT_TIMEOUT with it. -/
theorem fin_waitResumed : (waitResumed.cmd? 0 0).map (·.fin) = some (some (sTimeout, 0x80)) := by decide +kernel

/-- Refutes O47: its clause on ROW_COPY_END has a command whose access was held come out as it was, but for the wait charged to it.
A WAIT whose final read was held by the copy (`copiedRow_holds_wait`) makes that read in the same step, and ends with it (R164,
R272, log 127). The clause's premises keep a held SIGNAL out, but no held WAIT. -/
theorem not_repairInService : ¬ Obligations.RepairInService := by
  intro h
  obtain ⟨-, -, -, -, hcopy, -⟩ := h waitInCopiedRow 0 5
  obtain ⟨t, hexec, -, -, -, hcharged⟩ := hcopy 7 rfl noneHeld_waitInCopiedRow rfl (by decide)
  rw [exec_rowCopyEnd rfl] at hexec
  have ht : waitResumed = t := Host.Outcome.next.inj hexec
  have hfin := fin_waitResumed
  rw [ht, hcharged 0 0 expiredWait (by decide) (by decide)] at hfin
  exact absurd hfin (by decide)

end Sys2Proof.Machine
end
